-- ==== Sys2Proof/Word.lean ====
section
/-!
DEFINITION. The word types of the Ixter 9: a register is 32 bits wide (R8), a _LO/_HI pair 64, a byte of memory 8.
-/

namespace Sys2Proof

/-- A register word (R8). -/
abbrev Word := BitVec 32

/-- A 64-bit value: a _LO/_HI pair, a memory word of 8 bytes, an integer register of a hart. -/
abbrev DWord := BitVec 64

/-- One byte of memory. -/
abbrev Byte := BitVec 8

end Sys2Proof
end

