-- ==== Sys2Proof/Syntax.lean ====
section
/-!
DEFINITION. The commands of the block: one constructor for each row of spec/opcode_table.json, in its order. A row gives
no operand fields; the operands here name the unit a step concerns, the value a register write carries, and what the
step observes of the outside (a sensor, a peer's message, a self-test), which the manual leaves to the environment
(notes/assumptions/8.md).
-/

namespace Sys2Proof

/-- Who makes a register access or asks for an operation (R495). -/
inductive Source where
  /-- A host port, 0 or 1. -/
  | host (port : Nat)
  /-- A hart, 0-95. -/
  | hart (h : Nat)
  /-- The board management controller over I3C. -/
  | i3c
  /-- The guest die through the levee. -/
  | guest
  deriving DecidableEq, Repr

/-- What boot stage 2 finds of the store (R426, R422, R433, R461). -/
structure StoreObs where
  /-- Bank A, bank B cannot be read. -/
  lostA : Bool
  lostB : Bool
  /-- No INDEX value is valid: the banks are read in full. -/
  noIndex : Bool
  /-- Measured hold-up time in microseconds. -/
  holdup : Nat
  /-- Journal blocks with an invalid header or an incomplete erase, and blocks that cannot be erased: 512 × bank + block. -/
  broken : List Nat
  stuck : List Nat
  /-- Journal blocks whose reading needed more than one on-die correction in a unit (R431). -/
  weak : List Nat
  /-- Highest VERSION of a type that the firmware knows, for types above 1 (R434). -/
  known : List (Nat × Nat)
  deriving DecidableEq, Repr

/-- What a rail failure leaves of the record that is being committed (R422, R423). -/
inductive HoldObs where
  /-- The hold-up capacitors carry the store. -/
  | held
  /-- They do not, and the record is cut short in this bank: 0 for A, 1 for B. -/
  | cut (bank : Nat)
  deriving DecidableEq, Repr

/-- What a rail failure finds (R422, R508): whether the hub's rails still stand, and what is left of the running commit. -/
structure RailObs where
  hubUp : Bool
  hold : HoldObs
  deriving DecidableEq, Repr

/-- What self-test finds (R476, R478): cells and dies that fail it. -/
structure TestFinds where
  cells : List Nat
  dies : List Nat
  deriving DecidableEq, Repr

/-- A request's line, as its home finds it (R249): whether the check code of its directory entry is bad. -/
structure LineAt where
  line : Nat
  badEntry : Bool
  deriving DecidableEq, Repr

/-- The same, with the context that it is made for (R231). -/
structure LineFor where
  line : Nat
  badEntry : Bool
  ctx : Option Nat
  deriving DecidableEq, Repr

/-- Data that the host's memory returns, and the state it grants of a line: 1 E, 2 S (R252). -/
structure HostData where
  bytes : List Byte
  grant : Option Nat
  deriving DecidableEq, Repr

/-- A register to be read; `lost`: the completion of the read is lost in transit (R275). -/
structure RegRead where
  addr : Nat
  lost : Bool
  deriving DecidableEq, Repr

/-- The wires of an interface that its two ends find failing as it trains (R20, step 3; R22): 66 × group + wire, of which
wires 64 and 65 are the group's spares. -/
structure IfaceObs where
  iface : Nat
  near : List Nat
  far : List Nat
  deriving DecidableEq, Repr

/-- A packet at its receiver (R184). -/
inductive Arrival where
  /-- A packet of a stream engine of this device, by its number. -/
  | here (packet : Nat)
  /-- A stream-data message: sending device and handle there, handle here, sink offset, data, poisoned words; it is the
  first packet of a transfer; it is the last. -/
  | remote (dev sender handle dst : Nat) (data : List Byte) (poison : List Nat) (first last : Bool)
  deriving DecidableEq, Repr

/-- What reaches a re-shard (R198). -/
inductive PieceEvent where
  /-- Part of a piece: sending device, kind of place, logical cell, address, data with the positions of its poisoned 32-byte
  words, the piece is complete. -/
  | piece (dev kind cell addr : Nat) (data : List Byte) (poison : List Nat) (last : Bool)
  /-- A device acknowledged a piece. -/
  | ack (dev : Nat)
  deriving DecidableEq, Repr

/-- Who makes a request to device memory (R213). -/
inductive MemWho where
  /-- Spill and restore. -/
  | spill
  /-- Patrol scrub, corrective writes, remap copies, traffic generators. -/
  | maint
  /-- A cell, a stream, re-shard or translation engine, for a context. -/
  | ctx (c : Nat)
  /-- A hart (R307), or its cluster's prefetch. -/
  | hart (h : Nat)
  /-- A host port (R321). -/
  | port (p : Nat)
  | guest
  /-- The mirror: read-back and copy writes (R379). -/
  | mirror
  deriving DecidableEq, Repr

/-- A request waiting at a floor's controllers (R213). -/
structure MemReq where
  who : MemWho
  /-- Address of the 256-byte unit: device-physical, or that of a reserved offset (R204). -/
  addr : Nat
  write : Bool
  /-- A write of fewer than 32 aligned bytes: its code word is read first (R207). -/
  merge : Bool
  deriving DecidableEq, Repr

/-- What a check of a code word, or of a floor-cache word on a hit, finds (R208, R234). -/
inductive Finding where
  | clean
  /-- One symbol in error, 0-35. -/
  | corrected (symbol : Nat)
  | uncorrectable
  /-- The poison syndrome alone. -/
  | poisoned
  /-- Corrected in the floor cache: set group and way. -/
  | cacheCorrected (group way : Nat)
  /-- Uncorrectable in the floor cache, without the poison syndrome. -/
  | cacheBad (group way : Nat)
  /-- Not decoded yet: the symbols of the stored word that come in error, each with what is added to it (R207). -/
  | raw (errs : List (Nat × Nat))
  deriving DecidableEq, Repr

/-- How a channel trains at stage 4 (R222). -/
structure ChanObs where
  chan : Nat
  /-- It passes over its test area with its stored values. -/
  pass : Bool
  /-- Values and repaired pins of its full training, where it takes one. -/
  values : Nat
  lanes : List Nat
  deriving DecidableEq, Repr

/-- What a traffic-generator run found (R224). -/
structure TgenObs where
  /-- Passes completed before an abort, and granules done of the pass it ended. -/
  passes : Nat
  granules : Nat
  /-- Code errors: channel offset of the word, and what its check found. -/
  found : List (Nat × Finding)
  deriving DecidableEq, Repr

/-- A hart's access by physical address (R257, R305). -/
inductive HartAcc where
  /-- `lost`: the completion of a register's read is lost in transit (R275). `nc`: the page's PBMT is NC or IO, which makes main memory
  uncached and says nothing of an I/O region (R304). -/
  | load (addr size rd : Nat) (nc lost : Bool)
  | store (addr : Nat) (data : List Byte) (nc : Bool)
  | fetch (addr : Nat)
  deriving DecidableEq, Repr

/-- The operation of an AMO (R270). -/
inductive AmoOp where
  | swap
  | add
  | xor
  | and
  | or
  | min
  | max
  | minu
  | maxu
  deriving DecidableEq, Repr

/-- What a TRANSLATION_WALK_DONE row is about (R284-R286): a walk in flight, by its number, or the fill of a descriptor read cache with
the 64-byte line at a virtual address, for a cell and a track of it, with the SEQ that a fault record of it would show. -/
inductive WalkObs where
  | walk (number : Nat)
  | fill (cell : Nat) (track : Nat) (va : Nat) (seq : Nat)
  deriving DecidableEq, Repr

/-- How a port comes up (R331, R340). -/
structure PortObs where
  speed : Nat
  width : Nat
  cacheEn : Bool
  memEn : Bool
  biEn : Bool
  msixEn : Bool
  funcMask : Bool
  deriving DecidableEq, Repr

/-- A host access to BAR2 (R320, R324). -/
inductive HostAcc where
  | read (bytes : Nat)
  /-- A posted write; `relaxed` is its Relaxed Ordering attribute (R266). -/
  | write (data : List Byte) (stash : Option Nat) (relaxed : Bool)
  /-- A coherent CXL.mem read of a line, for ownership or not. -/
  | readLine (own : Bool)
  /-- A write-back of a line the host holds in M. -/
  | writeBack (data : List Byte)
  deriving DecidableEq, Repr

/-- A flit on a link (R344). -/
structure FlitObs where
  crcOk : Bool
  type : Nat
  vl : Nat
  last : Bool
  seq : Nat
  ackSeq : Nat
  nak : Bool
  crVl : Nat
  crFlits : Nat
  /-- FEC code words corrected, and not correctable, since the flit before it. -/
  fecCorr : Nat
  fecUncorr : Nat
  deriving DecidableEq, Repr

/-- FEC code words not correctable and symbols corrected over one attempt of BER_CHECK (R349). -/
structure FecObs where
  uncorr : Nat
  corr : Nat
  deriving DecidableEq, Repr

/-- What a training step finds of the lanes (R349, R351): the lane that fails, and the error counts. -/
structure LaneObs where
  bad : Nat
  fec : FecObs
  deriving DecidableEq, Repr

/-- What IDENTITY learns of a peer (R352). -/
structure PeerObs where
  dev : Nat
  port : Nat
  mpart : Nat
  epoch : Nat
  switch : Bool
  /-- Lanes that the peer's end has reached, 1 or 2 (R351). -/
  lanes : Nat
  deriving DecidableEq, Repr

/-- The header of a message (R345), with the lane it came on. -/
structure MsgHead where
  kind : Nat
  units : Nat
  dst : Nat
  src : Nat
  order : Nat
  mpart : Nat
  epoch : Nat
  handle : Nat
  offset : Nat
  route : Nat
  poison : List Nat
  lane : Nat
  /-- A machine partition management message (R362). -/
  mgmt : Bool
  /-- KIND-specific words of the header (R345). -/
  extra : List Nat
  deriving DecidableEq, Repr

/-- An answer of a child in a job start (R366). -/
inductive JobAnswer where
  | seen
  | progress
  | ok
  /-- Status, reason, device, devices in the subtree. -/
  | failed (status reason dev size : Nat)
  deriving DecidableEq, Repr

/-- What every member of a collective must agree on (R371). -/
structure CollSig where
  op : Nat
  dtype : Nat
  count : Nat
  members : Nat
  deriving DecidableEq, Repr

/-- What reaches a collective (R369, R370). -/
inductive CollSeg where
  /-- A part of a ring reduction, after `hops` devices: byte offset, data, poisoned 32-byte words of the data. -/
  | reduce (from_ hops offset : Nat) (data : List Byte) (poison : List Nat)
  /-- Final data for DST: origin, byte offset in DST, data, poisoned words. -/
  | gather (from_ offset : Nat) (data : List Byte) (poison : List Nat)
  /-- Barrier arrival or completion message with the member's LAG. -/
  | arrive (from_ lag : Nat)
  deriving DecidableEq, Repr

/-- What reaches a collective, with what its sender holds of it (R371). -/
structure CollMsg where
  sig : CollSig
  seg : CollSeg
  deriving DecidableEq, Repr

/-- The partner's configuration at FORM (R377). -/
structure MirAnswer where
  primary : Bool
  async : Bool
  regions : List (Nat × Nat)
  ctxs : Nat
  /-- Cells that the primary's mirrored contexts own (R378). -/
  cells : Nat
  /-- The primary's key-map entries of the mirrored regions: granule and slot (R455). -/
  keyMap : List (Nat × Nat)
  /-- The partner answers that the configuration conflicts with its own (R377). -/
  conflict : Bool
  deriving DecidableEq, Repr

/-- A mirrored stream (R382): its endpoints are the two 24-byte fields of its descriptor. -/
structure MirStreamObs where
  handle : Nat
  st : Nat
  srcKind : Nat
  snkKind : Nat
  src : List Byte
  snk : List Byte
  delivered : Nat
  seq : Nat
  status : Nat
  deriving DecidableEq, Repr

/-- A mirror-state message's content (R382). -/
structure MirState where
  desc : List Byte
  phase : Nat
  producer : Nat
  completed : Nat
  fqProduced : Nat
  fqConsumed : Nat
  key : Nat
  streams : List MirStreamObs
  deriving DecidableEq, Repr

/-- A mirror copy's number, which its acknowledgement names, and its granule (R379, R380). -/
structure MirCopyId where
  copy : Nat
  granule : Nat
  deriving DecidableEq, Repr

/-- A mirror-state message: its number, and its content, none of a context that is not live (R382). -/
structure MirStateMsg where
  copy : Nat
  state : Option MirState
  deriving DecidableEq, Repr

/-- A heartbeat (R383), with the dirty bitmap that a rejoining secondary sends (R389). -/
structure HeartObs where
  epoch : Nat
  primary : Bool
  st : Nat
  lag : Nat
  dirty : Option (List Nat)
  /-- Key-map entries that the primary sends at a rejoin (R455). -/
  keyMap : List (Nat × Nat)
  /-- The message announces a warm device reset of the sender (R391). -/
  warm : Bool
  deriving DecidableEq, Repr

/-- A telemetry sample (R394, R409): hottest sensor of each die in 1/16 °C; each die's power in mW; the leakage in a cell die's
power, in mW; and what a die's dynamic energy is shared out by: die, payer, count. The payer is a cell with its weighted activity
(cell dies), a partition with the units served to it, 64 for maintenance (floor dies, stacks), a context with its flits (link dies),
a partition with its hart cycles (the core die). -/
structure PowerObs where
  temps : List (Nat × Nat)
  watts : List (Nat × Nat)
  leak : List (Nat × Nat)
  shares : List (Nat × Nat × Nat)
  deriving DecidableEq, Repr

/-- What the estimator works from in a cap period (R402): activity of each cell die in thousandths of the reference, core power for
each 100 MHz in mW. -/
structure CapObs where
  activity : List (Nat × Nat)
  coreStep : Nat
  deriving DecidableEq, Repr

/-- An SPDM request (R448, R449). -/
inductive SpdmMsg where
  /-- FINISH: a session is up. -/
  | finish
  /-- A signed GET_MEASUREMENTS over every index, in a session. -/
  | measurementsAll (session : Nat)
  /-- The ML-DSA-65 transcript signature, in a session. -/
  | mlSignature (session : Nat)
  /-- The ML-DSA-65 chain, in a session. -/
  | mlChain (session : Nat)
  /-- END_SESSION. -/
  | endSession (session : Nat)
  /-- Any other supported request. -/
  | other (code : Nat)
  deriving DecidableEq, Repr

/-- A guest request at the levee (R29). -/
structure GuestReq where
  addr : Nat
  bytes : Nat
  write : Bool
  data : List Byte
  deriving DecidableEq, Repr

/-- An ATS completion (R282). -/
inductive AtsObs where
  | granted (pa : Nat) (write : Bool)
  | denied
  deriving DecidableEq, Repr

/-- The commands. -/
inductive Instr where
  /-- PKG_RST_N (R471): Assertion of the package reset input starts a cold reset that keeps only the Polder store and fuses. -/
  | pkgRstN
  /-- ROM_STAGE (R444): Boot stage 1: the ROM arms the Dike, fetches and verifies the hub bundle over I3C, derives identity and starts the hub firmware. -/
  | romStage (bundles : List (List Byte)) (rail : Option Nat)
  /-- HUB_FIRMWARE_STAGE (R468): Boot stage 2 reads the Polder store, commits the boot number, reads feature words and sets the package feature level. -/
  | hubFirmwareStage (o : StoreObs)
  /-- DIE_TO_DIE_STAGE (R20): Boot stage 3 trains every Hewelyn parallel interface from its record, loads the Cicada replicas and tests the floor arrays. -/
  | dieToDieStage (trained : List IfaceObs) (floorBad : List Nat)
  /-- HBM_STAGE (R222): Boot stage 4 trains every HBM channel, zeroes the pool and reserves the spill regions. -/
  | hbmStage (dead : List Nat) (obs : List ChanObs)
  /-- CELL_DIE_STAGE (R476): Boot stage 5 runs cell-die self-test, takes the ageing readings and starts the estimator for each die. -/
  | cellDieStage (badCells : List Nat) (badDies : List Nat) (margins : List (Nat × Nat))
  /-- CORE_DIE_STAGE (R315): Boot stage 6 runs the cluster self-test, takes failing clusters offline and parks every hart. -/
  | coreDieStage (bad : Nat)
  /-- HOST_LINK_STAGE (R468): Boot stage 7 enables both host functions in one-way coherence. -/
  | hostLinkStage
  /-- READY_STAGE (R468): Boot stage 8 sets RST_STAGE to 8, signals ready over I3C and begins link training. -/
  | readyStage
  /-- RAIL_FAILURE (R508): A rail more than 12% low for longer than 2 µs holds the dies in reset, finishes the Polder commit on hold-up and latches the rail. -/
  | railFailure (rail : Nat) (o : RailObs)
  /-- PD_REQ_N (R510): Assertion of PD_REQ_N drains the stores, commits the records, waits for any key erase and then asserts PD_DONE. -/
  | pdReqN
  /-- THERMAL_EMERGENCY (R404): A sensor at 105 °C or an asserted THROTTLE_N forces every cell die to OP 0 at duty 1/8 and every cluster to 0.8 GHz. -/
  | thermalEmergency (throttle : Bool) (die : Nat)
  /-- THERMAL_EMERGENCY_END (R404): When every sensor has read 100 °C or below for 10 ms with the throttle input deasserted, control returns to the loops. -/
  | thermalEmergencyEnd
  /-- THERMAL_TRIP (R404): A sensor at 110 °C for 100 µs stops every clock except the hub's, raises a fatal record and asserts THERMTRIP_N. -/
  | thermalTrip (die : Nat)
  /-- CLOCK_STOP (R37): A clock monitor that sees a stop the power manager did not request raises CLOCK_STOP as fatal or contained. -/
  | clockStop (die : Nat) (domain : Nat) (unit : Nat)
  /-- CICADA_TICK (R157): The hub count source advances by one on each rising edge of the 125 MHz package reference. -/
  | cicadaTick
  /-- CICADA_CHECK_MARKER (R160): At each multiple of 65,536 ticks, every replica compares itself with the marker and jumps or holds when it is out of bounds. -/
  | cicadaCheckMarker (diffs : List (Nat × Int))
  /-- TIMER_FIRE (R170): An armed hub timer whose compare value the count has reached sets FIRED and either re-arms or disarms. -/
  | timerFire (timer : Nat)
  /-- TIMER_COMPARE_WRITE (R170): A write of CIC_TMR_CMP_HI applies the new compare value, firing at once if it has already passed. -/
  | timerCompareWrite (src : Source) (value : Nat)
  /-- WATCHDOG_EXPIRY (R171): Expiry of the watchdog period raises WATCHDOG and, at a second expiry with ACTION 1, starts a warm device reset. -/
  | watchdogExpiry
  /-- WDT_KICK (R171): Any write to CIC_WDT_KICK restarts the watchdog period and clears STAGE. -/
  | wdtKick (src : Source) (value : Nat)
  /-- WDT_ENABLE (R171): Writing EN in CIC_WDT_CTL enables the watchdog until the next warm device reset or cold reset. -/
  | wdtEnable (src : Source) (value : Nat)
  /-- POWER_MIN_COMMIT (R167): After every 60 minutes of a boot, power-on minutes and lifetime energy are committed to the Polder store. -/
  | powerMinCommit
  /-- CREATE (R43): CTXM operation CREATE checks the descriptor and resources and makes the context live, with a fresh key and re-attach token. -/
  | create (src : Source) (id : Nat)
  /-- DESTROY (R44): CTXM operation DESTROY stops the context's cells, destroys its streams, clears its cells and key slot and frees its id. -/
  | destroy (src : Source) (id : Nat)
  /-- RESET (R44): CTXM operation RESET stops and clears the context as DESTROY does but keeps it live, restarting its queues and returning it to phase 0. -/
  | reset (src : Source) (id : Nat)
  /-- PAUSE (R44): CTXM operation PAUSE stops arming in all the context's cells while fired operations complete. -/
  | pause (src : Source) (id : Nat)
  /-- RESUME (R44): CTXM operation RESUME restarts arming in the context's cells. -/
  | resume (src : Source) (id : Nat)
  /-- CQ_DOORBELL (R46): A write of a producer count to the doorbell is accepted or ignored under the window rule. -/
  | cqDoorbell (src : Source) (ctx : Nat) (value : Nat)
  /-- COMMAND_FETCH (R45): The command processor fetches the next command in ring order and writes the consumer count. -/
  | commandFetch (ctx : Nat)
  /-- CQ_RESUME (R50): A write to CQ_RESUME restarts a halted queue, either skipping or retrying the failed command. -/
  | cqResume (src : Source) (ctx : Nat) (value : Nat)
  /-- COMMAND_COMPLETE (R48): On completion of a command, its done flag is written and its interrupt raised after its own effects are performed. -/
  | commandComplete (ctx : Nat) (index : Nat)
  /-- NOP (R47): Command NOP completes when it is issued. -/
  | nop (ctx : Nat)
  /-- CELL_LOAD (R47): Command CELL_LOAD copies an image into the program memory of the named cells. -/
  | cellLoad (ctx : Nat)
  /-- CELL_START (R47): Command CELL_START writes the start header and argument block and starts the tracks of each named cell. -/
  | cellStart (ctx : Nat)
  /-- CELL_STOP (R47): Command CELL_STOP stops arming in the named cells and, when aborting, stops their engines and discards their work. -/
  | cellStop (ctx : Nat)
  /-- PHASE_TABLE (R65): Command PHASE_TABLE copies a new phase table, which takes effect at the next PHASE. -/
  | phaseTable (ctx : Nat)
  /-- WAIT (R47): Command WAIT completes once its comparison against a memory value holds. -/
  | wait (ctx : Nat)
  /-- WAIT_EVALUATE (R47): A pending WAIT is re-evaluated whenever its line is written through a floor die, and at least every 10 µs. -/
  | waitEvaluate (ctx : Nat) (index : Nat)
  /-- INVALIDATE (R294): Command INVALIDATE withdraws a range of a context's translations from every unit. -/
  | invalidate (ctx : Nat)
  /-- STREAM_CREATE (R179): Command STREAM_CREATE reads a stream descriptor and writes a handle and status. -/
  | streamCreate (ctx : Nat)
  /-- STREAM_DESTROY (R180): Command STREAM_DESTROY stops new packets, ends pending transfers, waits for in-flight packets and then frees the index. -/
  | streamDestroy (ctx : Nat)
  /-- XFER (R187): Command XFER issues a transfer of LENGTH × 64 bytes on a stream whose source is MEMORY or HOST. -/
  | xfer (ctx : Nat)
  /-- RESHARD (R198): Command RESHARD runs this device's part of a re-shard between two layout descriptors. -/
  | reshard (ctx : Nat)
  /-- STREAM_QUERY (R179): Command STREAM_QUERY writes a 32-byte status record for a handle. -/
  | streamQuery (ctx : Nat)
  /-- CB_TABLE_LOAD (R85): Command CB_TABLE_LOAD writes code-book table images into slots of the named cells. -/
  | cbTableLoad (ctx : Nat)
  /-- CB_TABLE_STORE (R85): Command CB_TABLE_STORE writes the images of the named slots and the slot trailer to memory. -/
  | cbTableStore (ctx : Nat)
  /-- COLL (R368): Command COLL issues a collective from its descriptor on the link-die collective engines. -/
  | coll (ctx : Nat)
  /-- DESCRIPTOR_ARM (R53): A track arms its current descriptor, and a predicated descriptor whose predicate is false is retired without firing. -/
  | descriptorArm (cell : Nat) (track : Nat)
  /-- FIRE (R55): A ready armed descriptor fires: its tokens and credits are taken and it is issued to its engine. -/
  | fire (cell : Nat) (track : Nat)
  /-- OPERATION_COMPLETE (R54): An operation completes, producing tokens and releasing slots in ring order through its counters. -/
  | operationComplete (cell : Nat) (op : Nat)
  /-- CELL_NOP (R62): Operation NOP completes on the control engine with no effect. -/
  | cellNop (cell : Nat) (op : Nat)
  /-- HALT (R62): Operation HALT stops arming on every track and completes when the fired operations have completed. -/
  | halt (cell : Nat) (op : Nat)
  /-- BRANCH (R138): Operation BRANCH continues its track at TARGET, conditionally when PEN is set. -/
  | branch (cell : Nat) (op : Nat)
  /-- PSET (R136): Operation PSET compares an SRAM word and writes a predicate at the end of its cycle. -/
  | pset (cell : Nat) (op : Nat)
  /-- BIND (R63): Operation BIND waits for no unreleased slots, then binds a counter to a buffer and peer and resets its slot pointer. -/
  | bind (cell : Nat) (op : Nat)
  /-- PHASE (R66): Operation PHASE enters the context's phase barrier for its target phase. -/
  | phase (cell : Nat) (op : Nat)
  /-- PHASE_BARRIER_COMPLETE (R66): When every started cell has fired PHASE, the device re-shards if needed, applies the sluice share and operating point, and completes PHASE on every cell. -/
  | phaseBarrierComplete (ctx : Nat)
  /-- SIGNAL (R62): Operation SIGNAL stores or atomically adds a value at a virtual address after its track's earlier operations have completed. -/
  | signal (cell : Nat) (op : Nat)
  /-- LFENCE (R262): Cell fence LFENCE completes once earlier reads of the cell are acknowledged. -/
  | lfence (cell : Nat) (op : Nat)
  /-- SFENCE (R262): Cell fence SFENCE completes once earlier writes of the cell are acknowledged. -/
  | sfence (cell : Nat) (op : Nat)
  /-- FENCE (R262): Cell FENCE completes once earlier accesses in its PRED set are acknowledged. -/
  | fence (cell : Nat) (op : Nat)
  /-- CELL_DRAIN (R262): Cell DRAIN completes once every earlier access of the cell is performed. -/
  | cellDrain (cell : Nat) (op : Nat)
  /-- MOVE (R96): Operation MOVE copies or converts IN0's slots into OUT0's slots. -/
  | move (cell : Nat) (op : Nat)
  /-- SEND (R195): Operation SEND hands the slots of a token counter to a stream and completes once the sink has acknowledged every unit. -/
  | send (cell : Nat) (op : Nat)
  /-- CELL_XFER (R195): Cell operation XFER issues a transfer on a stream and completes when the transfer ends. -/
  | cellXfer (cell : Nat) (op : Nat)
  /-- XFER_LIST (R188): Operation XFER_LIST checks its transfer records and issues a transfer for each record. -/
  | xferList (cell : Nat) (op : Nat)
  /-- MM (R104): Operation MM computes D = A × B or C + A × B over BATCH entries on the matrix engine. -/
  | mm (cell : Nat) (op : Nat)
  /-- ELEM (R119): Operation ELEM runs an element program over ROWS rows of COUNT elements on the vector engine. -/
  | elem (cell : Nat) (op : Nat)
  /-- CRV_SET (R132): Operation CRV_SET writes curve images into curve tables between vector operations. -/
  | crvSet (cell : Nat) (op : Nat)
  /-- CRV_GET (R118): Operation CRV_GET writes curve images to OUT0. -/
  | crvGet (cell : Nat) (op : Nat)
  /-- CB_ENCODE (R91): Operation CB_ENCODE encodes wide values into a scaled format and optionally writes an encode report. -/
  | cbEncode (cell : Nat) (op : Nat)
  /-- CB_SET (R86): Operation CB_SET writes table images into code-book slots between engine operations. -/
  | cbSet (cell : Nat) (op : Nat)
  /-- CB_GET (R86): Operation CB_GET writes slot images and the slot trailer to OUT0. -/
  | cbGet (cell : Nat) (op : Nat)
  /-- TOPK (R148): Match request TOPK writes the best K entries of its input as a match list. -/
  | topk (cell : Nat) (op : Nat)
  /-- MERGE (R150): Match request MERGE combines every key of a list set into one ascending match list. -/
  | merge (cell : Nat) (op : Nat)
  /-- INTERSECT (R150): Match request INTERSECT writes only the keys present in every list of a list set. -/
  | intersect (cell : Nat) (op : Nat)
  /-- DISPATCH (R152): Match request DISPATCH places tokens into per-expert lists under capacity and the context's overflow policy. -/
  | dispatch (cell : Nat) (op : Nat)
  /-- MATCH_REQUEST_BEGIN (R140): The match unit grants a waiting request and begins it, checking its bindings and fields. -/
  | matchRequestBegin (die : Nat)
  /-- SPILL_COMPLETE (R70): With the spill written and the cell cleared, the cell passes to the latency context and its tracks start. -/
  | spillComplete (cell : Nat)
  /-- BORROW_RETURN (R72): BORROW_HOLD_US after its latency program halts, a borrowed cell is cleared and returned to its owner. -/
  | borrowReturn (cell : Nat)
  /-- RESTORE_COMPLETE (R72): The owner's state is restored from the spill record and its sequencer resumes where it stopped. -/
  | restoreComplete (cell : Nat)
  /-- HOLD_BUFFER_PLACE (R71): Once the spill image is written, held inbound writes move into it and stalled packets are placed. -/
  | holdBufferPlace (cell : Nat)
  /-- CSEQ_STEP (R74): Writing STEP while DBG_HOLD is set fires one ready descriptor. -/
  | cseqStep (src : Source) (cell : Nat)
  /-- CSEQ_HALT_REQ (R74): Writing HALT_REQ stops arming on the cell, as a non-aborting CELL_STOP does. -/
  | cseqHaltReq (src : Source) (cell : Nat)
  /-- CSEQ_DBG_HOLD (R74): A write of DBG_HOLD holds or releases arming for debug while debug is unlocked. -/
  | cseqDbgHold (src : Source) (cell : Nat) (hold : Bool)
  /-- STREAM_PACKET_SEND (R185): A stream engine sends a ready packet once the stream holds credits for all of it, serving streams in rotating order. -/
  | streamPacketSend (floor : Nat)
  /-- PACKET_RECEIVE (R184): A packet arriving at its sink is placed in ring order or at its offset, and a slot completes, or the packet is NACKed as stale. -/
  | packetReceive (p : Arrival)
  /-- PACKET_ACK_RECEIVE (R182): An acknowledgement returns sink credits to the sender, returns slots to a window source and can end a transfer. -/
  | packetAckReceive (packet : Nat)
  /-- STALE_NACK_RECEIVE (R194): A sender receiving a STALE NACK ends its transfer STALE and the stream becomes dead. -/
  | staleNackReceive (packet : Nat)
  /-- TRANSFER_END (R190): A transfer ends with a status; only OK writes its done flag and raises its vector. -/
  | transferEnd (index : Nat)
  /-- FLUSH_READBACK_DONE (R191): Completion of every flush-before-flag read-back lets the transfer write its done flag. -/
  | flushReadbackDone (index : Nat)
  /-- CORE_RING_POLL (R182): The stream engine reads a CORE endpoint's count when it lacks credits or data, and at least every 10 µs. -/
  | coreRingPoll (index : Nat)
  /-- TRANSFER_UNREACHABLE (R190): A packet to a remote device not acknowledged within 10 ms ends its transfer UNREACHABLE. -/
  | transferUnreachable (index : Nat)
  /-- RESHARD_READY_RECEIVE (R198): A ready message from a device lets this device send its pieces to that device's places. -/
  | reshardReadyReceive (ctx : Nat) (dev : Nat)
  /-- RESHARD_PIECE_RECEIVE (R198): A re-shard piece is written into its new place, and the re-shard ends when all pieces have arrived and been acknowledged. -/
  | reshardPieceReceive (ctx : Nat) (e : PieceEvent)
  /-- RESHARD_TIMEOUT (R199): A re-shard still running TIMEOUT_US after it began ends with status TIMEOUT. -/
  | reshardTimeout (ctx : Nat)
  /-- MEMORY_UNIT_SERVE (R215): The controller serves one unit to the first tier with a request, updating the sluice levels. -/
  | memoryUnitServe (floor : Nat) (reqs : List MemReq) (found : Finding)
  /-- SLUICE_REFILL (R215): Every refill interval each sluice replica refills its level, tier-a allowance and ceiling. -/
  | sluiceRefill (floor : Nat) (part : Nat)
  /-- PATROL_SCRUB (R210): The patrol scrub reads one granule and writes back words that it corrected or found uncorrectable. -/
  | patrolScrub (chan : Nat) (found : List (Nat × Finding))
  /-- LANE_REPAIR (R211): A quiet step repairs a lane attributed to a failing pin. -/
  | laneRepair (chan : Nat) (ok : Bool)
  /-- WRITE_DATA_RECAL (R220): A quiet step recalibrates write-data timing every 10 s and after a 5 °C change. -/
  | writeDataRecal (chan : Nat)
  /-- VREF_RECAL (R220): A quiet step recalibrates the reference voltage every 60 s. -/
  | vrefRecal (chan : Nat)
  /-- READ_TIMING_TRIM (R220): Every 100 ms, read timing is trimmed from the test area without holding the channel. -/
  | readTimingTrim (chan : Nat)
  /-- CAL_OVERDUE (R221): A quiet step deferred for more than 60 s raises CAL_OVERDUE and widens the read preamble. -/
  | calOverdue (chan : Nat)
  /-- SLU_SHARE_CTL_WRITE (R217): A write to SLU_SHARE_CTL is applied, or rejected with CFG_REJECT if it breaks the bandwidth bound. -/
  | sluShareCtlWrite (src : Source) (value : Nat)
  /-- SLU_MAINT_WRITE (R217): A write to SLU_MAINT is reduced to the largest value that fits the bound. -/
  | sluMaintWrite (src : Source) (value : Nat)
  /-- TGEN_GO (R219): Writing GO starts a traffic-generator run, or refuses it, or holds it until its stamp. -/
  | tgenGo (src : Source) (stack : Nat) (value : Nat)
  /-- TGEN_ABORT (R224): Writing ABORT ends a traffic-generator run at the next granule. -/
  | tgenAbort (src : Source) (stack : Nat)
  /-- TGEN_RUN_END (R224): A traffic-generator run ends, reporting its mismatches and code errors. -/
  | tgenRunEnd (stack : Nat) (chan : Nat) (o : TgenObs)
  /-- FLC_INVALIDATE (R230): Writing FLC_CTL.INVALIDATE invalidates every floor-cache block and pocket line within 40 µs. -/
  | flcInvalidate (src : Source) (floor : Nat)
  /-- PREFETCH_FILL (R232): A prefetched line arrives in the pocket, or is discarded if its line was written meanwhile. -/
  | prefetchFill (floor : Nat) (line : Nat)
  /-- RDS (R242): A caching agent's read request RdS is handled at the home under the directory table. -/
  | rds (agent : Nat) (line : Nat) (badEntry : Bool) (ctx : Option Nat)
  /-- RDSN (R242): A read request RdSN, which is never granted E, is handled at the home. -/
  | rdsn (agent : Nat) (q : LineFor)
  /-- RDO (R242): A read-for-ownership request RdO is handled at the home. -/
  | rdo (agent : Nat) (q : LineFor)
  /-- UPG (R242): An upgrade request Upg from an S or F holder asks for M without data. -/
  | upg (agent : Nat) (l : LineAt)
  /-- WB (R245): A write-back WB of an M line is written through, or discarded as stale when it comes from a non-owner. -/
  | wb (agent : Nat) (l : LineAt)
  /-- RDC (R242): An uncached agent's request RdC reads the current value without changing directory state. -/
  | rdc (agent : Nat) (l : LineAt)
  /-- WRL (R247): An uncached full-line write WrL invalidates other copies, writes through and may offer a stash. -/
  | wrl (agent : Nat) (l : LineAt) (data : List Byte) (stash : Option Nat)
  /-- WRP (R242): An uncached partial write WrP invalidates other copies and is written through as a read-merge-write. -/
  | wrp (agent : Nat) (l : LineAt) (mask : Nat) (data : List Byte)
  /-- SNPF (R241): An agent receiving SnpF sends the line to the requester and keeps S. -/
  | snpf (agent : Nat) (line : Nat)
  /-- SNPIF (R241): An agent receiving SnpIF sends the line to the requester and becomes I. -/
  | snpif (agent : Nat) (line : Nat)
  /-- SNPI (R241): An agent receiving SnpI becomes I, sending M data to the home. -/
  | snpi (agent : Nat) (line : Nat)
  /-- SNPC (R241): An agent receiving SnpC sends the line to the home, an M holder becoming E. -/
  | snpc (agent : Nat) (line : Nat)
  /-- OFFER (R247): A stash target receiving Offer accepts the line in E or declines it. -/
  | offer (agent : Nat) (line : Nat) (evictsM : Bool)
  /-- SNOOP_RESPONSE (R244): A snoop answer reaches the home, which drops stale pointers and ends the transaction once every snoop is answered. -/
  | snoopResponse (agent : Nat) (line : Nat)
  /-- STASH_ANSWER (R247): An Acc or Dec from a stash target sets the entry to DX{target} or allocates the line in the floor cache. -/
  | stashAnswer (agent : Nat) (line : Nat)
  /-- SNOOP_TIMEOUT (R250): An agent that misses its snoop bound is taken offline or disabled, its DX lines poisoned and the rest answered RspNP. -/
  | snoopTimeout (agent : Nat) (line : Nat)
  /-- COH_PROBE (R255): Writing COH_PROBE.GO reads a line's directory entry into COH_PROBE_RESULT. -/
  | cohProbe (src : Source) (floor : Nat)
  /-- HART_ACCESS (R257): A hart load or store is performed under RVWMO against the region attributes of its address. -/
  | hartAccess (hart : Nat) (a : HartAcc)
  /-- HART_FENCE (R258): A hart FENCE completes once every earlier access in its predecessor set is acknowledged. -/
  | hartFence (hart : Nat) (pred : Nat) (succ : Nat)
  /-- DRAIN (R259): The hart instruction DRAIN completes once every earlier access of the hart is performed. -/
  | drain (hart : Nat)
  /-- CCNT (R310): The hart instruction CCNT writes the cluster's Cicada replica to rd. -/
  | ccnt (hart : Nat) (rd : Nat)
  /-- CDB (R311): The hart instruction CDB rings a command queue or stream, after an implied FENCE w,o, and returns a status. -/
  | cdb (hart : Nat) (rd : Nat) (rs1 : Nat) (rs2 : Nat)
  /-- CBO_CLEAN (R303): CBO.CLEAN writes back a line held in M and keeps it in E. -/
  | cboClean (hart : Nat) (addr : Nat)
  /-- CBO_FLUSH (R303): CBO.FLUSH or CBO.INVAL writes back an M line and then drops it. -/
  | cboFlush (hart : Nat) (addr : Nat)
  /-- CBO_ZERO (R303): CBO.ZERO obtains the line in M and zeroes it. -/
  | cboZero (hart : Nat) (addr : Nat)
  /-- PREFETCH_R_W (R303): PREFETCH.R or PREFETCH.W fills the L2 on a floor-cache hit, or is forwarded as a pocket prefetch on a miss. -/
  | prefetchRW (hart : Nat) (addr : Nat) (write : Bool)
  /-- LR (R268): An LR obtains its line and the granule's other lines and sets a reservation, deferring snoops for up to 128 cycles. -/
  | lr (hart : Nat) (rd : Nat) (addr : Nat) (size : Nat)
  /-- SC (R268): An SC succeeds only while its reservation on the granule holds, and ends the reservation. -/
  | sc (hart : Nat) (rd : Nat) (addr : Nat) (size : Nat) (value : Nat)
  /-- AMO (R270): A core AMO is performed in the cluster's L2 with the line held in M. -/
  | amo (hart : Nat) (rd : Nat) (addr : Nat) (size : Nat) (f : AmoOp) (value : Nat)
  /-- WRS_NTO (R312): WRS.NTO stalls the hart until its reservation is lost or an interrupt is pending. -/
  | wrsNto (hart : Nat)
  /-- WRS_STO (R312): WRS.STO stalls as WRS.NTO does, ending after 1,000 ticks at the latest. -/
  | wrsSto (hart : Nat)
  /-- WRS_WAKE (R312): Loss of the reservation, a pending interrupt or the WRS.STO time limit ends a hart's wait. -/
  | wrsWake (hart : Nat)
  /-- SFENCE_VMA (R306): SFENCE.VMA or HFENCE drops entries from the issuing hart's TLBs and the shared walk cache. -/
  | sfenceVma (hart : Nat) (va : Option Nat)
  /-- CORE_RUN_GO (R316): Writing CORE_RUN_CTL.GO protects and verifies the core image and starts every online hart at its base. -/
  | coreRunGo (src : Source)
  /-- TRANSLATION_WALK_DONE (R286): A page-table walk completes, and its tile proceeds or faults with a record written to the fault queue. -/
  | translationWalkDone (w : WalkObs)
  /-- FQ_RESP (R288): A write of FQ_RESP answers a fault tag with SUCCESS, replaying the tile, or FAILURE, ending the access. -/
  | fqResp (src : Source) (ctx : Nat) (value : Nat)
  /-- FQ_CONSUMED (R297): A write of FQ_CONSUMED advances the consumer count, letting held records be written. -/
  | fqConsumed (src : Source) (ctx : Nat) (value : Nat)
  /-- OVERFLOW_RETRY (R290): A requester stalled without recording walks again when a share entry frees, and at least every 10 µs. -/
  | overflowRetry (ctx : Nat)
  /-- PAGE_REQUEST_RESPONSE (R283): A PRI response arrives: Success repeats the ATS request, and a failure fails the access. -/
  | pageRequestResponse (unit : Nat) (ctx : Nat) (addr : Nat) (ok : Bool)
  /-- ATS_INVALIDATE_REQUEST (R296): An ATS Invalidate Request from the host drops host translations in every floor unit before the Completion is sent. -/
  | atsInvalidateRequest (port : Nat) (addr : Nat) (bytes : Nat)
  /-- XLC_INV_GO (R294): Writing XLC_INV_CTL.GO starts a range invalidation for a live context. -/
  | xlcInvGo (src : Source) (value : Nat)
  /-- INVALIDATION_ACK (R293): A translation unit acknowledges an invalidation, and the invalidation completes when every unit has acknowledged. -/
  | invalidationAck (unit : Nat) (number : Nat)
  /-- INVALIDATION_TIMEOUT (R295): A unit that has not acknowledged within 1 ms is fenced, its contexts are failed and the invalidation completes FAILED. -/
  | invalidationTimeout (number : Nat)
  /-- HOST_LINK_RESET (R332): A host-link reset of a port stops it issuing, ends its transfers HOST_DETACHED and may detach the device from the host. -/
  | hostLinkReset (port : Nat) (cause : Nat)
  /-- PORT_IN_SERVICE (R332): A port returning to service resumes, and the device leaves the detached state. -/
  | portInService (port : Nat) (cfg : PortObs)
  /-- HOST_MEM_ACCESS (R320): A CXL.mem or CXL.io access through BAR2 reaches the pool, or is poisoned or discarded when it lies beyond the pool. -/
  | hostMemAccess (port : Nat) (offset : Nat) (a : HostAcc)
  /-- HOST_READ_COMPLETION (R329): A device read of host memory completes, and a UR, CA or 50 ms timeout supplies poisoned data. -/
  | hostReadCompletion (port : Nat) (ok : Bool) (d : HostData)
  /-- FULL_REQ (R325): Writing ATT_COH.FULL_REQ enters full coherence, or is REFUSED. -/
  | fullReq (src : Source)
  /-- ONEWAY_REQ (R326): Writing ATT_COH.ONEWAY_REQ ends full coherence, starting the home sweep. -/
  | onewayReq (src : Source)
  /-- HOME_SWEEP_DONE (R326): The sweep of host-held entries finishes and COH_HOST_MODE.FULL reads 0. -/
  | homeSweepDone
  /-- VECTOR_DELIVER (R323): A vector is sent through the interrupt port, or held pending until it is unmasked and a port qualifies. -/
  | vectorDeliver
  /-- RECLAIM (R337): ATT_CMD operation RECLAIM compares a token and, on a match, claims the context and issues a new token. -/
  | reclaim (src : Source)
  /-- ATT_TOKEN_READ (R335): A read of ATT_TOKEN3 clears TOKEN_READY, after which the token words read as zero. -/
  | attTokenRead (src : Source)
  /-- SCRUB_ON_ABANDON (R338): Expiry of an unclaimed context's abandon timer destroys the context, zeroises its key and zeros its spill records. -/
  | scrubOnAbandon (ctx : Nat)
  /-- FLIT_RECEIVE (R347): A received flit is accepted in sequence, or discarded with a NAK, and carries acknowledgements and credits. -/
  | flitReceive (link : Nat) (f : FlitObs)
  /-- FLIT_NAK (R347): A NAK makes the sender resend every flit from ACK_SEQ + 1. -/
  | flitNak (link : Nat) (ackSeq : Nat)
  /-- LINK_RETRAIN (R351): A link retrains from entry 0 after eight resends, loss of FEC lock, a request or the peer's retraining. -/
  | linkRetrain (link : Nat) (cause : Nat)
  /-- TRAINING_STEP (R349): One entry of the training sequence table runs, moving to NEXT_OK or NEXT_FAIL. -/
  | trainingStep (link : Nat) (ok : Bool) (lanes : LaneObs) (peer : PeerObs)
  /-- LK_RETRAIN (R372): Writing LK_CTL.RETRAIN retrains the link from entry 0. -/
  | lkRetrain (src : Source) (link : Nat)
  /-- LK_DISABLE (R372): A write of LK_CTL.DISABLE holds the link down or releases it. -/
  | lkDisable (src : Source) (link : Nat) (disable : Bool)
  /-- LX_TRN_DEFAULT (R373): Writing LX_TRN_CTL.DEFAULT restores the default training table unless the page is locked. -/
  | lxTrnDefault (src : Source) (die : Nat)
  /-- MCH_DEV_ID_WRITE (R352): A change of MCH_DEV_ID retrains every link. -/
  | mchDevIdWrite (src : Source) (value : Nat)
  /-- BURST_GRANT (R359): The egress port grants the next burst by priority grant or rotation, applying back-off to losers. -/
  | burstGrant (link : Nat)
  /-- IMMEDIATE_ABORT (R360): An immediate-class message takes the port, aborting a bulk burst with an abort marker. -/
  | immediateAbort (link : Nat) (receiving : Bool)
  /-- MESSAGE_RECEIVE (R362): A received message passes or fails the partition fence and is routed onward or delivered. -/
  | messageReceive (link : Nat) (h : MsgHead) (data : List Byte)
  /-- TEARDOWN (R363): MCH_PART_CMD operation TEARDOWN stops remote sends, increments the epoch and drains the queues. -/
  | teardown (src : Source)
  /-- TEARDOWN_DRAINED (R363): When every flit on the links is acknowledged and the replay buffers are empty, STATE reads drained. -/
  | teardownDrained
  /-- SET (R363): MCH_PART_CMD operation SET applies new partition values while drained and makes the device active. -/
  | setPart (src : Source)
  /-- JOB_PREPARE (R365): MCH_JOB_CTL operation PREPARE makes the root read the job record and send PREPARE down the tree. -/
  | jobPrepare (src : Source)
  /-- EXPECT (R365): MCH_JOB_CTL operation EXPECT arms a device for a JOB_ID. -/
  | expect (src : Source)
  /-- JOB_CANCEL (R374): MCH_JOB_CTL operation CANCEL withdraws the expectation. -/
  | jobCancel (src : Source)
  /-- PREPARE_RECEIVE (R366): A device receiving PREPARE checks it, sends SEEN, pauses CTX and forwards PREPARE. -/
  | prepareReceive (job : Nat) (ctx : Nat) (fanout : Nat) (mpart : Nat) (epoch : Nat)
  /-- JOB_ANSWER_RECEIVE (R366): A child's answer reaches its parent, which reports upward once every child has answered. -/
  | jobAnswerReceive (child : Nat) (a : JobAnswer)
  /-- COMMIT_RECEIVE (R366): A device receiving COMMIT records its count, resumes CTX and forwards COMMIT. -/
  | commitReceive (job : Nat)
  /-- ABORT_RECEIVE (R367): A device receiving ABORT discards the prepare, leaves CTX paused and sets ABORTED. -/
  | abortReceive (job : Nat)
  /-- JOB_PROGRESS (R366): A device that has sent SEEN and not answered sends its parent a progress message every 0.5 ms. -/
  | jobProgress
  /-- CHILD_LOST (R367): A parent hearing nothing from a child for 2 ms gives it up for lost and reports the failure. -/
  | childLost (child : Nat)
  /-- ORPHANED (R367): A device hearing neither COMMIT nor ABORT for 10 ms after its answer sets ORPHANED. -/
  | orphaned
  /-- COLLECTIVE_SEGMENT_RECEIVE (R369): A collective segment arrives and is reduced or forwarded around the ring or tree. -/
  | collectiveSegmentReceive (group : Nat) (m : CollMsg)
  /-- COLLECTIVE_END (R371): A collective or barrier ends, writing its result and LAG and sending the release record for a token barrier. -/
  | collectiveEnd (group : Nat) (status : Nat)
  /-- COLLECTIVE_TIMEOUT (R371): A collective exceeding TIMEOUT_US, or a member silent for 10 ms, ends with TIMEOUT or UNREACHABLE. -/
  | collectiveTimeout (group : Nat)
  /-- FORM (R377): MIR_CMD operation FORM exchanges and checks configurations and forms the pair. -/
  | form (src : Source) (answer : Option MirAnswer)
  /-- FORM_TIMEOUT (R377): A FORM with no partner answer within 10 s ends NO_PARTNER. -/
  | formTimeout
  /-- DISSOLVE (R387): MIR_CMD operation DISSOLVE ends the pair. -/
  | dissolve (src : Source)
  /-- RESYNC (R389): MIR_CMD operation RESYNC starts resynchronisation of the dirty blocks. -/
  | resync (src : Source)
  /-- MIRROR_COPY_RECEIVE (R379): The secondary applies a mirror copy to its HBM and acknowledges it. -/
  | mirrorCopyReceive (k : MirCopyId) (data : List Byte) (poison : List Nat) (key : Nat)
  /-- MIRROR_STATE_RECEIVE (R382): The secondary applies a mirror-state message for a mirrored context and acknowledges it. -/
  | mirrorStateReceive (ctx : Nat) (m : MirStateMsg)
  /-- MIRROR_ACK_RECEIVE (R380): A copy acknowledgement completes synchronous writes, lowers the lag and clears dirty bits. -/
  | mirrorAckReceive (copy : Nat)
  /-- HEARTBEAT_SEND (R383): Every 100 µs each device sends a heartbeat on every twin link that is up. -/
  | heartbeatSend
  /-- HEARTBEAT_RECEIVE (R389): A heartbeat arrives, and on rejoin the epochs are compared to settle the roles. -/
  | heartbeatReceive (h : HeartObs)
  /-- MISSED_HEARTBEAT (R383): A 100 µs interval with no heartbeat counts as missed, and five in a row enter state suspect. -/
  | missedHeartbeat
  /-- GRANT (R385): MIR_WITNESS answer GRANT promotes a suspect secondary, or puts a suspect primary in solo. -/
  | grant (src : Source) (epoch : Nat)
  /-- YIELD (R386): MIR_WITNESS answer YIELD makes a suspect primary destroy its mirrored contexts and become yielded. -/
  | yieldAnswer (src : Source) (epoch : Nat)
  /-- TELEMETRY_SAMPLE (R394): Every 50 µs the power manager collects the sensors and rail telemetry and divides the measured energy among the accounts. -/
  | telemetrySample (o : PowerObs)
  /-- TELEMETRY_LOST (R395): A regulator silent for 200 µs leaves its dies measured by their on-die sensors alone. -/
  | telemetryLost (dies : List Nat) (sensorsFailed : List Nat)
  /-- FAST_LOOP (R401): Every 10 µs, a rail over PWR_EDC has its die lowered one point. -/
  | fastLoop (amps : List (Nat × Nat))
  /-- DROOP_TRIP (R401): A supply droop of 30 mV halves the cell clock in hardware for up to 1 µs. -/
  | droopTrip (die : Nat)
  /-- CAP_LOOP (R402): Every 1 ms the cap loop forecasts power and lowers or raises cores, cell points and duty against the effective cap. -/
  | capLoop (o : CapObs)
  /-- OP_CHANGE_DONE (R397): A cell die's operating-point change completes once voltage and clock have moved in their set order. -/
  | opChangeDone (die : Nat)
  /-- ESTIMATOR_SUSPECT (R407): Estimate and measurement differing by more than 15% for 100 ms sets ESTIMATOR_SUSPECT and holds a 5% margin. -/
  | estimatorSuspect
  /-- RECALIBRATION (R406): Every 60 s of power-on time the estimator coefficients are refitted, and committed at most once per 24 hours. -/
  | recalibration (fits : List (Nat × Nat)) (agreed : Bool)
  /-- PWR_RECAL (R413): Writing PWR_CTL.RECAL starts a recalibration. -/
  | pwrRecal (src : Source)
  /-- AGEING_READING (R408): Every 24 power-on hours the slack monitors are read and the margin M may rise, removing operating points. -/
  | ageingReading (needs : List (Nat × Nat))
  /-- GUEST_POWER (R411): A guest die over its 120 W allowance for 10 ms is isolated. -/
  | guestPower
  /-- COMMIT_START (R421): The next queued Polder commit is taken in priority order and written to bank A. -/
  | commitStart
  /-- COMMIT_COMPLETE (R420): A commit finishes with both banks programmed, verified and committed, or a failed copy is rewritten or its block retired. -/
  | commitComplete (ok : Bool) (banks : List Nat)
  /-- BLOCK_ERASE_END (R427): A journal block erase completes and the block becomes available for opening. -/
  | blockEraseEnd (bank : Nat) (block : Nat) (ok : Bool)
  /-- LOG_FLUSH (R429): Held log events are committed every 60 power-on minutes, or when a record fills. -/
  | logFlush
  /-- READ (R437): Mailbox command READ returns the payload of a record. -/
  | pldRead (src : Source)
  /-- LIST (R437): Mailbox command LIST returns the entries of the current values of a type. -/
  | pldList (src : Source)
  /-- LOG_READ (R437): Mailbox command LOG_READ returns the next SEC_LOG record after a SEQ. -/
  | logRead (src : Source)
  /-- REQ_SWEEP (R437): Mailbox command REQ_SWEEP commits an ACTION requesting a full interface sweep. -/
  | reqSweep (src : Source)
  /-- REQ_HBM_TRAIN (R437): Mailbox command REQ_HBM_TRAIN commits an ACTION requesting full HBM training. -/
  | reqHbmTrain (src : Source)
  /-- REQ_WAY_CLEAR (R437): Mailbox command REQ_WAY_CLEAR commits an ACTION clearing way retirements. -/
  | reqWayClear (src : Source)
  /-- CANCEL (R437): Mailbox command CANCEL tombstones an ACTION record. -/
  | pldCancel (src : Source)
  /-- NOTE_WRITE (R437): Mailbox command NOTE_WRITE commits an OWNER_NOTE. -/
  | noteWrite (src : Source)
  /-- SYNC (R437): Mailbox command SYNC commits held log events and POWER_MIN and waits for every queued commit. -/
  | pldSync (src : Source)
  /-- STAGE (R465): Security command STAGE writes the buffer into the staging area. -/
  | stage (src : Source)
  /-- POLICY_LOAD (R457): Security command POLICY_LOAD verifies an owner policy and applies it. -/
  | policyLoad (src : Source)
  /-- KEY_MAP (R452): Security command KEY_MAP sets key-map entries over a range and invalidates it in the floor caches. -/
  | keyMap (src : Source)
  /-- KEY_WRAP (R453): Security command KEY_WRAP wraps a slot's key and commits it as KEY_BLOB. -/
  | keyWrap (src : Source)
  /-- KEY_LOAD (R453): Security command KEY_LOAD replaces a slot's key with one unwrapped from a KEY_BLOB. -/
  | keyLoad (src : Source)
  /-- DEBUG_CHALLENGE (R464): Security command DEBUG_CHALLENGE returns a fresh 64-byte nonce. -/
  | debugChallenge (src : Source)
  /-- DEBUG_UNLOCK (R464): Security command DEBUG_UNLOCK verifies a signed response and unlocks owner or vendor debug. -/
  | debugUnlock (src : Source)
  /-- OWNER_ENROLL (R445): Security command OWNER_ENROLL blows an owner slot from staged keys. -/
  | ownerEnroll (src : Source)
  /-- OWNER_REVOKE (R445): Security command OWNER_REVOKE revokes an owner slot under a signature from another slot. -/
  | ownerRevoke (src : Source)
  /-- CERT_INSTALL (R465): Security command CERT_INSTALL verifies a certificate image and commits IDENT_CERT. -/
  | certInstall (src : Source)
  /-- SVN_FUSE (R443): Security command SVN_FUSE raises a fuse count to min(SVN, ROLLBACK). -/
  | svnFuse (src : Source)
  /-- DIKE_FLOOR (R465): Security command DIKE_FLOOR blows higher Dike floors from an owner-signed image. -/
  | dikeFloor (src : Source)
  /-- DIKE_TEST (R465): Security command DIKE_TEST raises a sensor's event at level 0. -/
  | dikeTest (src : Source)
  /-- SPDM_REQUEST (R448): The hub answers an SPDM 1.3 request over MCTP, setting ATTESTED when a session meets the conditions. -/
  | spdmRequest (port : Option Nat) (m : SpdmMsg)
  /-- DIKE_TRIP (R459): A Dike sensor trip takes effect at its effective level, from a logged event up to retirement. -/
  | dikeTrip (sensor : Nat)
  /-- ENTROPY_FAIL (R450): A failed health test makes the random source refuse further requests until a warm device reset. -/
  | entropyFail
  /-- GUEST_REQUEST (R29): The levee passes a guest request that lies wholly inside a permitted window, or blocks it. -/
  | guestRequest (g : GuestReq)
  /-- RST_CMD_WARM (R473): RST_CMD with KIND warm starts a warm device reset. -/
  | rstCmdWarm (src : Source)
  /-- WARM_RESET_DONE (R473): After retraining and self-test, WARM_BUSY clears and the links retrain. -/
  | warmResetDone (tests : TestFinds) (badClusters : Nat) (trained : List IfaceObs)
  /-- RST_CMD_BLOCK (R475): RST_CMD with KIND block resets one cell die, link die or core cluster. -/
  | rstCmdBlock (src : Source) (tests : TestFinds) (clusterOk : Bool) (trained : List IfaceObs)
  /-- RST_CMD_COLD (R471): RST_CMD with KIND cold, over I3C only, starts a cold reset. -/
  | rstCmdCold (src : Source)
  /-- IDLE_CELL_TEST (R478): Every PERIOD_H power-on hours each unowned, unborrowed cell reruns its self-test. -/
  | idleCellTest (cell : Nat) (ok : Bool)
  /-- CORRECTED_COALESCE_END (R483): At the end of a 1 s window, coalesced corrected events are delivered in one record. -/
  | correctedCoalesceEnd (type : Nat) (die : Nat) (inst : Nat)
  /-- AUTO_WARM_ESCALATION (R490): 10 ms after a fatal record with warm recovery and AUTO_WARM set, a warm device reset starts. -/
  | autoWarmEscalation
  /-- ERR_RING_CONS (R484): A write of ERR_RING_CONS advances the error ring's consumer count. -/
  | errRingCons (src : Source) (value : Nat)
  /-- PG_INT_RAW_WRITE (R505): A W1C write to PG_INT_RAW clears bits and resends the page's vector if PG_INT_PEND stays non-zero. -/
  | pgIntRawWrite (src : Source) (page : Nat) (value : Nat)
  /-- PG_INT_EN_WRITE (R505): A write of PG_INT_EN that leaves PG_INT_PEND non-zero sends the page's vector. -/
  | pgIntEnWrite (src : Source) (page : Nat) (value : Nat)
  /-- PG_INT_SET (R497): A write to PG_INT_SET sets bits of PG_INT_RAW. -/
  | pgIntSet (src : Source) (page : Nat) (value : Nat)
  /-- PG_LOCK (R497): Setting PG_LOCK.LOCK makes every RWL field of the page read-only until cold reset. -/
  | pgLock (src : Source) (page : Nat)
  /-- CNT_CLEAR (R116): Writing a page's CNT_CLEAR zeroes every counter on that page. -/
  | cntClear (src : Source) (page : Nat)
  /-- RC_REGISTER_READ (R6): A read of an RC register returns its value and clears it. -/
  | rcRegisterRead (src : Source) (r : RegRead)
  /-- LO_READ_LATCH (R500): A read of a _LO register latches the _HI word for that source. -/
  | loReadLatch (src : Source) (r : RegRead)
  /-- HI_WRITE (R500): A write of _HI applies the pair together with the source's held _LO write. -/
  | hiWrite (src : Source) (addr : Nat) (value : Nat)
  /-- REGISTER_WRITE (R499): A write to a register with no row of its own is applied under the access type and access rules. -/
  | registerWrite (src : Source) (addr : Nat) (value : Nat)
  /-- DEADLINE_WINDOW_CLOSE (R221): A latency context's deadline window closes when BORROW_HOLD_US has passed after all its cells have halted, freeing its pinned channels for deferred quiet steps. -/
  | deadlineWindowClose (ctx : Nat)
  /-- SELF_REFRESH_ENTRY (R334): While host-detached, a stack with no request for 1 ms enters self-refresh, leaving it within 2 µs of its next request. -/
  | selfRefreshEntry (stack : Nat)
  /-- SNOOP_DEFERRAL_END (R269): 128 core cycles after an LR with no SC, the cluster ends its snoop deferral and the waiting requests for the granule proceed. -/
  | snoopDeferralEnd (hart : Nat)
  /-- ATS_TRANSLATION_COMPLETION (R282): A host ATS translation completion arrives and the floor or core unit stores the host translation, or sends a Page Request when it gives no translation or too little permission. -/
  | atsTranslationCompletion (unit : Nat) (ctx : Nat) (addr : Nat) (result : AtsObs)
  /-- HOST_SNOOP (R252): A CXL.cache snoop from the host for a host line cached by device agents is carried to its home and handled as an uncached WrL without data or an RdC. -/
  | hostSnoop (line : Nat) (invalidate : Bool)
  /-- MSI_X_FUNCTION_MASK_WRITE (R323): A host configuration write to a function's MSI-X Enable or Function Mask changes which port is the interrupt port and delivers held vectors that are no longer masked. -/
  | msiXFunctionMaskWrite (port : Nat) (enable : Bool) (mask : Bool)
  /-- FABRIC_FATAL (R488): A floor die's mesh or directory loses a request it cannot recover, raising a fatal FABRIC_FATAL record and entering the fatal state. -/
  | fabricFatal (floor : Nat)
  /-- HUB_FIRMWARE_CHECK_FAIL (R488): The hub firmware fails its own consistency checks and raises a fatal HUB_FIRMWARE record, entering the fatal state. -/
  | hubFirmwareCheckFail
  /-- D2D_REPLAY (R19): A flit on a Hewelyn parallel interface fails its CRC and is resent from the sender's 64-flit replay buffer, incrementing D2D_REPLAY_CNT. -/
  | d2dReplay (iface : Nat)
  deriving DecidableEq, Repr

end Sys2Proof
end

