-- ==== Sys2Proof/Decode.lean ====
section
/-!
DEFINITION. The command that a word spells by the bits of spec/opcode_table.json. The table gives no row any bits (every
row's "fields" is empty): no word spells a command (notes/assumptions/1.md).
-/

namespace Sys2Proof

/-- The command a table word spells: none, as the table gives no bits. -/
def decodeTableWord (_ _ : Nat) : Option Instr := none

end Sys2Proof
end

