-- ==== Sys2Proof/Config.lean ====
section
/-!
DEFINITION. What an implementation fixes and the manual leaves open: constants without a body, so that no proof can see
a value of them. A statement about one of them holds whatever it is.
-/

namespace Sys2Proof

/-- A free value: what the model takes where the manual says that a value results and does not say which. It is applied
to a use (`State.free`, a counter the step reads and advances, so that each use is a fresh one) and to a position in
that use (notes/assumptions/2.md). -/
opaque Config.freeValue : Nat → Nat → Nat

/-- A free byte: the low eight bits of a free value. -/
def Config.freeByte (use pos : Nat) : Byte := BitVec.ofNat 8 (Config.freeValue use pos)

/-- A byte of a code word that is read under another key than the one it was written under (R452): tag written, tag read,
address of the byte, the word's bytes as they were written. -/
opaque Config.wrongKey : Nat → Nat → Nat → List Byte → Byte

/-- Byte of a traffic generator's pattern whose layout the manual does not give (R219: PRBS-31, walking ones, address as data): the
pattern's code, the offset at which the run's range begins, the position in the range. -/
opaque Config.tgenByte : Nat → Nat → Nat → Byte

/-- Directory set of a line (R239: 16 ways; the manual gives no set function). -/
opaque Config.dirSet : Nat → Nat

/-- Floor die whose re-shard engine handles a place in device memory (R198: the four floors share the work; the manual gives
no rule). -/
opaque Config.pieceFloor : Nat → Nat

/-- Link die whose engine runs a collective group (R368: every link die has an engine; the manual does not say which runs a
collective). -/
opaque Config.collDie : Nat → Nat

/-- Bits 23:0 of the guest die's feature word (R24, R25: the vendor's). -/
opaque Config.guestWord : Nat → Nat

/-- PG_CAPS of a guest page, below its reserved bits (R28, R504: the guest die's own). -/
opaque Config.guestCaps : Nat → Nat

/-- Highest frequency of the core clusters, in units of 100 MHz, under a margin above the factory's: steps of 2.5 mV
(R408; the manual gives no voltages by frequency for VDD_CORE). -/
opaque Config.coreTop : Nat → Nat

/-- The temperature, in 1/16 °C, that the standard of an HBM4 stack sets as its limit (R404): the manual leaves it to that
standard (notes/assumptions/29.md). -/
opaque Config.stackLimit : Nat

/-- Segment that a linear curve table takes for an index that is NaN, and in bit 8 whether the element counts as clamped
(R131 gives no index where `(argument − BASE) × INV_WIDTH` is NaN): BASE, INV_WIDTH, the argument as FP64. -/
opaque Config.curveIndex : Nat → Nat → Nat → Nat

/-- The cryptographic checks, whose algorithms are those of their standards (R439, R442, R464): SHA-512 of bytes, an
Ed25519 and an ML-DSA-65 verification of public key, signature, message. -/
opaque Config.sha512 : List Byte → Nat
opaque Config.edVerify : List Byte → List Byte → List Byte → Bool
opaque Config.mlVerify : List Byte → List Byte → List Byte → Bool

/-- An identity certificate chain as the factory stores it (R424, R448): KEY 0 Ed25519, 1 ML-DSA-65. -/
opaque Config.factoryChain : Nat → List Byte

/-- SHA-512 of the ROM (R447), and the separately measured components of a hub bundle's body: hub, power-manager, HBM4 base-die
and link-die firmware (R441), whose places in the body the manual does not give. -/
opaque Config.romDigest : Nat
opaque Config.component : List Byte → Nat → List Byte

/-- Word of a re-attach token, of a nonce, of a wrapped key: what the random source drew (R335, R450, R453). -/
opaque Config.randomWord : Nat → Nat → Nat

end Sys2Proof
end

