-- ==== Sys2Proof/Machine/Formats.lean ====
section
/-!
DEFINITION. The number formats of 03_codebook_formats.md and their arithmetic: every value is held exactly (a NaN, an
infinity, or a sign and a dyadic magnitude), every operation is computed exactly and rounded once.
-/

namespace Sys2Proof.Machine

/-- An exact value: NaN, a signed infinity, or `±m × 2^e` with a signed zero. -/
inductive Num where
  | nan
  | inf (neg : Bool)
  | fin (neg : Bool) (m : Nat) (e : Int)
  deriving DecidableEq, Repr

/-- The shape of a floating-point format (R76): exponent bits, mantissa bits, bias, and the largest finite magnitude
as `maxM × 2^maxE`. -/
structure FloatFmt where
  ebits : Nat
  mbits : Nat
  bias : Nat
  maxM : Nat
  maxE : Int
  deriving DecidableEq, Repr

def fmtE4M3 : FloatFmt := ⟨4, 3, 7, 14, 5⟩
def fmtE5M2 : FloatFmt := ⟨5, 2, 15, 7, 13⟩
def fmtBF16 : FloatFmt := ⟨8, 7, 127, 255, 120⟩
def fmtFP16 : FloatFmt := ⟨5, 10, 15, 2047, 5⟩
def fmtFP32 : FloatFmt := ⟨8, 23, 127, 2 ^ 24 - 1, 104⟩
def fmtFP64 : FloatFmt := ⟨11, 52, 1023, 2 ^ 53 - 1, 971⟩

/-- The format codes of R75. -/
abbrev Fmt.none : Nat := 0x0
abbrev Fmt.cb4 : Nat := 0x1
abbrev Fmt.cb6 : Nat := 0x2
abbrev Fmt.fp4 : Nat := 0x3
abbrev Fmt.int4 : Nat := 0x4
abbrev Fmt.e4m3 : Nat := 0x5
abbrev Fmt.e5m2 : Nat := 0x6
abbrev Fmt.int8 : Nat := 0x7
abbrev Fmt.bf16 : Nat := 0x8
abbrev Fmt.fp16 : Nat := 0x9
abbrev Fmt.fp32 : Nat := 0xA
abbrev Fmt.fp64 : Nat := 0xB

/-- Element bits of a format (R75). -/
def fmtBits (f : Nat) : Nat :=
  if f = 1 ∨ f = 3 ∨ f = 4 then 4 else if f = 2 then 6 else if f = 5 ∨ f = 6 ∨ f = 7 then 8
  else if f = 8 ∨ f = 9 then 16 else if f = 10 then 32 else if f = 11 then 64 else 0

/-- A format that is always carried in groups (R75). -/
def fmtGrouped (f : Nat) : Bool := decide (1 ≤ f ∧ f ≤ 4)

/-- The floating-point shape of a format code, FP32 for the codes that are not floating-point. -/
def floatOf (f : Nat) : FloatFmt :=
  if f = 5 then fmtE4M3 else if f = 6 then fmtE5M2 else if f = 8 then fmtBF16 else if f = 9 then fmtFP16
  else if f = 11 then fmtFP64 else fmtFP32

/-! ## Exact arithmetic -/

def Num.zero : Num := .fin false 0 0

def Num.isNan : Num → Bool
  | .nan => true
  | _ => false

def Num.isZero : Num → Bool
  | .fin _ m _ => m == 0
  | _ => false

def Num.sign : Num → Bool
  | .nan => false
  | .inf n => n
  | .fin n _ _ => n

def Num.neg : Num → Num
  | .nan => .nan
  | .inf n => .inf (!n)
  | .fin n m e => .fin (!n) m e

def Num.abs : Num → Num
  | .nan => .nan
  | .inf _ => .inf false
  | .fin _ m e => .fin false m e

/-- The magnitude of a finite value as an integer multiple of `2^q`, for `q ≤ e`. -/
def scaleTo (m : Nat) (e q : Int) : Nat := m * 2 ^ (e - q).toNat

/-- The signed integer that a finite value is, in units of `2^q`. -/
def signedAt (n : Bool) (m : Nat) (e q : Int) : Int := if n then -(scaleTo m e q : Int) else (scaleTo m e q : Int)

/-- The exact product; zero times infinity is NaN. -/
def Num.mul : Num → Num → Num
  | .nan, _ => .nan
  | _, .nan => .nan
  | .inf a, .inf b => .inf (a != b)
  | .inf a, .fin b m _ => if m = 0 then .nan else .inf (a != b)
  | .fin a m _, .inf b => if m = 0 then .nan else .inf (a != b)
  | .fin a m e, .fin b m' e' => .fin (a != b) (m * m') (e + e')

/-- The exact sum; an exact zero of opposite signs is +0, infinity minus infinity is NaN. -/
def Num.add : Num → Num → Num
  | .nan, _ => .nan
  | _, .nan => .nan
  | .inf a, .inf b => if a = b then .inf a else .nan
  | .inf a, .fin _ _ _ => .inf a
  | .fin _ _ _, .inf b => .inf b
  | .fin a m e, .fin b m' e' =>
    let q := min e e'
    let v := signedAt a m e q + signedAt b m' e' q
    if v = 0 then .fin (a && b) 0 q else .fin (decide (v < 0)) v.natAbs q

def Num.sub (x y : Num) : Num := x.add y.neg

/-- Multiplication by a power of two, exact. -/
def Num.shl : Num → Int → Num
  | .fin n m e, k => .fin n m (e + k)
  | x, _ => x

/-- Ordering of two values that are not NaN: -1, 0 or 1; zeros are equal. -/
def Num.cmp : Num → Num → Int
  | .inf a, .inf b => if a = b then 0 else if a then -1 else 1
  | .inf a, _ => if a then -1 else 1
  | _, .inf b => if b then 1 else -1
  | .fin a m e, .fin b m' e' =>
    let q := min e e'
    let v := signedAt a m e q - signedAt b m' e' q
    if v < 0 then -1 else if v = 0 then 0 else 1
  | _, _ => 0

def Num.lt (x y : Num) : Bool := !x.isNan && !y.isNan && decide (x.cmp y < 0)
def Num.le (x y : Num) : Bool := !x.isNan && !y.isNan && decide (x.cmp y ≤ 0)
def Num.eq (x y : Num) : Bool := !x.isNan && !y.isNan && decide (x.cmp y = 0)

/-- The larger of two under R125: NaN if either is NaN, -0 below +0. -/
def Num.max (x y : Num) : Num :=
  if x.isNan || y.isNan then .nan
  else if x.isZero && y.isZero then (if x.sign then y else x)
  else if x.cmp y < 0 then y else x

/-- The smaller of two under R125. -/
def Num.min (x y : Num) : Num :=
  if x.isNan || y.isNan then .nan
  else if x.isZero && y.isZero then (if x.sign then x else y)
  else if x.cmp y < 0 then x else y

/-- Position of the highest set bit plus one. -/
def bitLen (n : Nat) : Nat := if n = 0 then 0 else Nat.log2 n + 1

/-- `⌊log2⌋` of a positive finite magnitude. -/
def floorLog2 (m : Nat) (e : Int) : Int := (Nat.log2 m : Int) + e

/-- The largest integer not above a finite value. -/
def floorInt (n : Bool) (m : Nat) (e : Int) : Int :=
  if 0 ≤ e then signedAt n m e 0
  else
    let d := 2 ^ (-e).toNat
    if n then -((m + d - 1) / d : Nat) else ((m / d : Nat) : Int)

/-- The value of an integer. -/
def Num.ofInt (i : Int) : Num := .fin (decide (i < 0)) i.natAbs 0

/-! ## Rounding -/

/-- `m × 2^e` rounded to a multiple of `2^q`: nearest with ties to even, or toward zero. -/
def roundMag (tz : Bool) (m : Nat) (e q : Int) : Nat :=
  if q ≤ e then scaleTo m e q
  else
    let d := 2 ^ (q - e).toNat
    let t := m / d
    let r := m % d
    if tz then t else if 2 * r > d ∨ (2 * r = d ∧ t % 2 = 1) then t + 1 else t

/-- The quantum exponent of a value in a format: its mantissa's last place, or the subnormals'. -/
def quantum (f : FloatFmt) (m : Nat) (e : Int) : Int :=
  max (floorLog2 m e - f.mbits) (1 - (f.bias : Int) - f.mbits)

/-- A value rounded to a format's precision with an unbounded exponent (R97). -/
def roundNum (f : FloatFmt) (tz : Bool) : Num → Num
  | .fin n m e => if m = 0 then .fin n 0 0 else let q := quantum f m e; .fin n (roundMag tz m e q) q
  | x => x

/-- A finite magnitude exceeds the format's largest finite magnitude. -/
def aboveFinite (f : FloatFmt) : Num → Bool
  | .fin _ m e => decide ((Num.fin false f.maxM f.maxE).cmp (.fin false m e) < 0)
  | _ => false

/-- A value rounded into a format under IEEE 754: overflow to infinity under nearest, to the largest finite value
toward zero. -/
def roundIEEE (f : FloatFmt) (tz : Bool) (x : Num) : Num :=
  let r := roundNum f tz x
  if aboveFinite f r then (if tz then .fin r.sign f.maxM f.maxE else .inf r.sign) else r

/-- A value rounded once to FP32, nearest with ties to even (R90). -/
def round32 (x : Num) : Num := roundIEEE fmtFP32 false x

/-! ## Encodings -/

/-- The fields of a finite value already representable in a format. -/
def encodeFin (f : FloatFmt) (n : Bool) (m : Nat) (e : Int) : Nat :=
  let s := b2n n * 2 ^ (f.ebits + f.mbits)
  if m = 0 then s
  else
    let q := quantum f m e
    let k := roundMag true m e q
    if k < 2 ^ f.mbits then s + k else s + (q + f.mbits + f.bias).toNat * 2 ^ f.mbits + (k - 2 ^ f.mbits)

/-- The positive canonical NaN of a format (R77). -/
def canonNan (f : Nat) : Nat :=
  if f = 5 then 0x7F else if f = 6 then 0x7E else if f = 8 then 0x7FC0 else if f = 9 then 0x7E00
  else if f = 10 then 0x7FC00000 else if f = 11 then 0x7FF8000000000000 else 0

/-- A conversion's result: the bits written, whether the element counts as saturated, whether it was written as NaN
(R97). -/
structure Conv where
  code : Nat
  sat : Bool
  nan : Bool
  deriving DecidableEq, Repr

/-- Rounds an exact finite value to an integer: nearest with ties to even, or toward zero. -/
def roundInt (tz : Bool) (n : Bool) (m : Nat) (e : Int) : Int :=
  let k := if 0 ≤ e then scaleTo m e 0 else roundMag tz m e 0
  if n then -(k : Int) else (k : Int)

/-- Conversion of a value into a destination format (R97). -/
def convertTo (f : Nat) (tz : Bool) (x : Num) : Conv :=
  let ff := floatOf f
  if f = 7 then
    match x with
    | .nan => ⟨0, false, false⟩
    | .inf n => ⟨if n then 0x80 else 0x7F, true, false⟩
    | .fin n m e =>
      let i := roundInt tz n m e
      if 127 < i then ⟨0x7F, true, false⟩ else if i < -128 then ⟨0x80, true, false⟩ else ⟨ofSigned 8 i, false, false⟩
  else
    match x with
    | .nan => ⟨canonNan f, false, true⟩
    | .inf n =>
      if f = 5 then ⟨canonNan f, false, true⟩
      else ⟨b2n n * 2 ^ (ff.ebits + ff.mbits) + (2 ^ ff.ebits - 1) * 2 ^ ff.mbits, false, false⟩
    | .fin _ _ _ =>
      match roundNum ff tz x with
      | .fin n m e =>
        if aboveFinite ff (.fin n m e) then
          if f = 5 ∨ f = 6 ∨ tz then ⟨encodeFin ff n ff.maxM ff.maxE, true, false⟩
          else ⟨b2n n * 2 ^ (ff.ebits + ff.mbits) + (2 ^ ff.ebits - 1) * 2 ^ ff.mbits, true, false⟩
        else ⟨encodeFin ff n m e, false, false⟩
      | _ => ⟨canonNan f, false, true⟩

/-- The value of a floating-point pattern (R76, R77). -/
def decodeFloat (f : FloatFmt) (e4m3 : Bool) (c : Nat) : Num :=
  let n := bit c (f.ebits + f.mbits)
  let ex := bits c (f.ebits + f.mbits - 1) f.mbits
  let m := c % 2 ^ f.mbits
  if ex = 2 ^ f.ebits - 1 ∧ ¬ e4m3 then (if m = 0 then .inf n else .nan)
  else if e4m3 ∧ ex = 2 ^ f.ebits - 1 ∧ m = 2 ^ f.mbits - 1 then .nan
  else if ex = 0 then .fin n m (1 - (f.bias : Int) - f.mbits)
  else .fin n (m + 2 ^ f.mbits) ((ex : Int) - f.bias - f.mbits)

/-- The value of an FP8 E4M3 byte. -/
def decodeE4M3 (c : Nat) : Num := decodeFloat fmtE4M3 true c

/-- The fixed tables of R84: 0x40 for FP4 E2M1, 0x41 for INT4. -/
def fixedFP4 : List Nat :=
  [0x00, 0x30, 0x38, 0x3C, 0x40, 0x44, 0x48, 0x4C, 0x80, 0xB0, 0xB8, 0xBC, 0xC0, 0xC4, 0xC8, 0xCC]
def fixedINT4 : List Nat :=
  [0x00, 0x38, 0x40, 0x44, 0x48, 0x4A, 0x4C, 0x4E, 0xD0, 0xCE, 0xCC, 0xCA, 0xC8, 0xC4, 0xC0, 0xB8]

/-- The value of an element code of a format that carries no table (FP8, INT8 and wider). -/
def decodeElem (f c : Nat) : Num :=
  if f = 7 then Num.ofInt (toSigned 8 c)
  else if f = 5 then decodeE4M3 c
  else decodeFloat (floatOf f) false c

/-- An E8M0 block scale (R78): none for 0xFF, which is NaN. -/
def scaleExp (b : Nat) : Option Int := if b = 0xFF then none else some ((b : Int) - 127)

/-- A value under its block scale (R89). -/
def scaled (x : Num) (scale : Nat) : Num :=
  match scaleExp scale with
  | none => .nan
  | some s => x.shl s

/-! ## Correctly rounded functions -/

/-- The integer square root, bit by bit from bit `k - 1` down. -/
def isqrtGo (n : Nat) : Nat → Nat → Nat
  | 0, r => r
  | k + 1, r => let t := r + 2 ^ k; isqrtGo n k (if t * t ≤ n then t else r)

/-- The largest integer whose square is not above `n`. -/
def isqrt (n : Nat) : Nat := isqrtGo n (bitLen n / 2 + 1) 0

/-- An exact magnitude with a sticky bit: `k × 2^e` when `exact`, otherwise a value strictly between `k × 2^e` and
`(k + 1) × 2^e`. -/
def stickyNum (neg : Bool) (k : Nat) (e : Int) (exact : Bool) : Num :=
  .fin neg (2 * k + b2n (!exact)) (e - 1)

/-- Quotient, correctly rounded when the result is rounded to at most 60 bits. -/
def Num.div : Num → Num → Num
  | .nan, _ => .nan
  | _, .nan => .nan
  | .inf _, .inf _ => .nan
  | .inf a, .fin b _ _ => .inf (a != b)
  | .fin a _ _, .inf b => .fin (a != b) 0 0
  | .fin a m e, .fin b m' e' =>
    if m' = 0 then (if m = 0 then .nan else .inf (a != b))
    else if m = 0 then .fin (a != b) 0 0
    else
      let k := 70 + bitLen m'
      let n := m * 2 ^ k
      stickyNum (a != b) (n / m') (e - e' - k) (n % m' == 0)

/-- Square root; NaN for a negative source, -0 for -0. -/
def Num.sqrt : Num → Num
  | .nan => .nan
  | .inf n => if n then .nan else .inf false
  | .fin n m e =>
    if m = 0 then .fin n 0 0
    else if n then .nan
    else
      let odd := e % 2 = 1
      let m1 := if odd then 2 * m else m
      let e1 := if odd then e - 1 else e
      let k := m1 * 2 ^ 140
      let r := isqrt k
      stickyNum false r (e1 / 2 - 70) (r * r == k)

/-- Reciprocal square root (R125): +∞ for +0, -∞ for -0, +0 for +∞, NaN for a negative source. -/
def Num.rsqrt : Num → Num
  | .nan => .nan
  | .inf n => if n then .nan else .fin false 0 0
  | .fin n m e =>
    if m = 0 then .inf n
    else if n then .nan
    else
      let odd := e % 2 = 1
      let m1 := if odd then 2 * m else m
      let e1 := if odd then e - 1 else e
      let h := 2 * (70 + bitLen m1)
      let r := isqrt (2 ^ h / m1)
      stickyNum false r (-(e1 / 2) - (h / 2 : Nat)) (r * r * m1 == 2 ^ h)

/-! ## The stochastic generator (R93) -/

/-- One draw: the advanced state and the 16-bit draw. -/
def draw (state : Nat) : Nat × Nat :=
  let s := if state % 2 = 1 then (state / 2) ^^^ 0x80200003 else state / 2
  (s, s / 65536)

end Sys2Proof.Machine
end

