-- ==== Sys2Proof/Machine/Map.lean ====
section
/-!
DEFINITION. Sparse data by number, as plain lists in one canonical form: keys strictly rising, and no entry equal to
what an unlisted key reads as. Memory, registers and every sparse table of State are held so, and equal contents are
equal data. `d` is what an unlisted key reads as.
-/

namespace Sys2Proof.Machine

/-- Sparse data by number. -/
abbrev Table (α : Type) := List (Nat × α)

/-- The value at key `k`. -/
def tget {α : Type} (d : Nat → α) : Table α → Nat → α
  | [], k => d k
  | (j, v) :: t, k => if j = k then v else tget d t k

/-- An entry put before the first entry of a greater key. -/
def tins {α : Type} : Table α → Nat → α → Table α
  | [], key, x => [(key, x)]
  | entry :: rest, key, x => if entry.1 ≤ key then entry :: tins rest key x else (key, x) :: entry :: rest

/-- The table without key `k`. -/
def tdel {α : Type} (m : Table α) (k : Nat) : Table α := m.filter fun p => p.1 != k

/-- The table with `v` at key `k`: what stood at `k` is removed, and `v` is put in its place unless it is what an
unlisted key reads as. -/
def tset {α : Type} [DecidableEq α] (d : Nat → α) (m : Table α) (k : Nat) (v : α) : Table α :=
  if v = d k then tdel m k else tins (tdel m k) k v

/-- Every key of the table is above `n`. -/
def tabove {α : Type} (n : Nat) : Table α → Bool
  | [] => true
  | (j, _) :: t => decide (n < j) && tabove n t

/-- The canonical form: keys strictly rising, no entry equal to the default. -/
def twf {α : Type} [DecidableEq α] (d : Nat → α) : Table α → Bool
  | [] => true
  | (j, v) :: t => decide (v ≠ d j) && tabove j t && twf d t

/-- Several keys set in turn, left to right. -/
def tsetAll {α : Type} [DecidableEq α] (d : Nat → α) (m : Table α) (l : List (Nat × α)) : Table α :=
  l.foldl (fun m p => tset d m p.1 p.2) m

/-- The keys that carry an entry. -/
def tkeys {α : Type} (m : Table α) : List Nat := m.map Prod.fst

/-! Byte memories: a table of bytes with one default for every address. -/

/-- What an address that nothing has written reads as: 0x00 (R222 zeroes the pool at boot stage 4; before that and for
the cell memories DESIGN CHOICE, notes/assumptions/6.md). -/
def memDefault (_ : Nat) : Byte := 0

/-- The byte at address `a`. -/
def memByte (m : List Host.Cell) (a : Nat) : Byte := tget memDefault m a

/-- The memory with byte `b` at address `a`. -/
def memSet (m : List Host.Cell) (a : Nat) (b : Byte) : List Host.Cell := tset memDefault m a b

/-- `n` bytes from address `a` upwards. -/
def memBytes (m : List Host.Cell) (a : Nat) : Nat → List Byte
  | 0 => []
  | n + 1 => memByte m a :: memBytes m (a + 1) n

/-- The memory with the bytes stored from address `a` upwards. -/
def memStore (m : List Host.Cell) (a : Nat) : List Byte → List Host.Cell
  | [] => m
  | b :: bs => memStore (memSet m a b) (a + 1) bs

/-- The little-endian value of `n` bytes at address `a`. -/
def memLE (m : List Host.Cell) (a n : Nat) : Nat := leNat (memBytes m a n)

/-- The memory with the `n` little-endian bytes of `v` at address `a`. -/
def memPut (m : List Host.Cell) (a n v : Nat) : List Host.Cell := memStore m a (leBytes n v)

/-- The memory without its entries in `[a, a + n)`: those bytes read as unwritten, which is zero. -/
def memClear (m : List Host.Cell) (a n : Nat) : List Host.Cell := m.filter fun c => !(a ≤ c.1 && c.1 < a + n)

/-- The canonical form of a byte memory. -/
def Memory.wf (m : List Host.Cell) : Bool := twf memDefault m

end Sys2Proof.Machine
end

