-- ==== Sys2Proof/Machine/Operands.lean ====
section
/-!
DEFINITION. Operand layouts: a run of slots in a cell's SRAM (R102), elements packed in it (R80), groups with their
metadata (R79, R81), the code-book tables they select (R82, R83), compressed segments and block bitmaps (R111, R113).
-/

namespace Sys2Proof.Machine

/-- A run of bytes through the slots of a buffer in ring order (R102): byte `i` lies at
`base + (first + i) mod ring`. -/
structure Run where
  /-- BASE of the buffer. -/
  base : Nat
  /-- Bytes in the buffer: SLOTS × SLOT_SIZE × 256. -/
  ring : Nat
  /-- Byte offset in the buffer of the first slot taken. -/
  first : Nat
  /-- Bytes of the slots taken. -/
  len : Nat
  deriving DecidableEq, Repr

/-- SRAM address of byte `i` of a run. -/
def Run.addr (r : Run) (i : Nat) : Nat := r.base + (if r.ring = 0 then 0 else (r.first + i) % r.ring)

/-- Byte `i` of a run. -/
def Run.byte (sram : List Host.Cell) (r : Run) (i : Nat) : Nat := (memByte sram (r.addr i)).toNat

/-- The little-endian value of `n` bytes of a run from byte `i`. -/
def Run.le (sram : List Host.Cell) (r : Run) (i : Nat) : Nat → Nat
  | 0 => 0
  | n + 1 => r.byte sram i + 256 * Run.le sram r (i + 1) n

/-- The SRAM after bytes are written to a run from byte `i`. -/
def Run.put (sram : List Host.Cell) (r : Run) (i : Nat) : List Byte → List Host.Cell
  | [] => sram
  | b :: bs => Run.put (memSet sram (r.addr i) b) r (i + 1) bs

/-- `n` bytes of a run. -/
def Run.bytes (sram : List Host.Cell) (r : Run) (n : Nat) : List Byte :=
  (List.range n).map fun i => memByte sram (r.addr i)

/-- A number rounded up to a multiple of 256. -/
def up256 (n : Nat) : Nat := ceilDiv n 256 * 256

/-- Bytes that `n` elements of a format occupy (R80). -/
def elemBytes (f n : Nat) : Nat := ceilDiv (n * fmtBits f) 8

/-- The code of element `i` of a plane that starts at byte `start` of a run (R80). -/
def elemCode (sram : List Host.Cell) (r : Run) (start f i : Nat) : Nat :=
  if fmtBits f = 4 then bits (r.byte sram (start + i / 2)) (4 * (i % 2) + 3) (4 * (i % 2))
  else if f = 2 then bits (r.le sram (start + 3 * (i / 4)) 3) (6 * (i % 4) + 5) (6 * (i % 4))
  else r.le sram (start + i * (fmtBits f / 8)) (fmtBits f / 8)

/-- The bytes of a plane that starts at byte `start` in which element `i` lies: the first, and how many (R80). -/
def elemSpan (start f i : Nat) : Nat × Nat :=
  if fmtBits f = 4 then (start + i / 2, 1)
  else if f = 2 then (start + 3 * (i / 4), 3)
  else (start + i * (fmtBits f / 8), fmtBits f / 8)

/-- Some byte of a piece of a run lies in a poisoned 32-byte word (R209). -/
def Run.piecePoisoned (poison : Table Bool) (r : Run) (p : Nat × Nat) : Bool :=
  (List.range p.2).any fun k => tget (fun _ => false) poison (r.addr (p.1 + k) / 32)

/-! ## Code-book tables -/

/-- The resident table slots of a cell (R82): entry `i` of slot `s` at key `64 s + i`, and the VALID and KIND bitmaps
(KIND 1 means CB6). -/
structure Books where
  entries : Table Nat
  valid : Nat
  kind : Nat
  deriving DecidableEq, Repr

/-- An entry of a slot; entries read 0 until they are loaded (R88). -/
def Books.entry (b : Books) (slot i : Nat) : Nat := tget (fun _ => 0) b.entries (64 * slot + i)

/-- The value a table selector and an index stand for (R83, R84); none where the selector is refused with
ENGINE_FAULT. -/
def tableValue (b : Books) (f select i : Nat) : Option Num :=
  if f = 3 then some (decodeE4M3 (nth fixedFP4 i))
  else if f = 4 then some (decodeE4M3 (nth fixedINT4 i))
  else if select < 64 then
    if !bit b.valid select then none
    else if f = 2 ∧ bit b.kind select = false then none
    else some (decodeE4M3 (b.entry select i))
  else if select = 0x40 ∧ f = 1 then some (decodeE4M3 (nth fixedFP4 i))
  else if select = 0x41 ∧ f = 1 then some (decodeE4M3 (nth fixedINT4 i))
  else none

/-- The value of a grouped element (R89): its code, the group's metadata at byte `meta` of the run, and its block. -/
def groupValue (sram : List Host.Cell) (bk : Books) (r : Run) (metaAt f code block : Nat) : Option Num :=
  let scale := r.byte sram (metaAt + block)
  let x := if f ≤ 4 then tableValue bk f (r.byte sram (metaAt + 8)) code else some (decodeElem f code)
  x.map fun v => scaled v scale

/-- Bytes of one group's index or element plane (R80). -/
def planeBytes (f : Nat) : Nat := 256 * fmtBits f / 8

/-- Bytes of an operand of `n` groups (R81): planes, padding, 16 bytes of metadata for each. -/
def groupedBytes (f n : Nat) : Nat := up256 (n * planeBytes f) + 16 * n

/-- The pieces of an operand of `n` groups that starts at byte `start`: its planes and its metadata, without the padding between
them (R81). -/
def groupedPieces (f n start : Nat) : List (Nat × Nat) :=
  [(start, n * planeBytes f), (start + up256 (n * planeBytes f), 16 * n)]

/-- The bytes that element `i` of group `g` is decoded from: its code and its group's metadata. -/
def groupElemSpans (start f n g i : Nat) : List (Nat × Nat) :=
  [elemSpan (start + g * planeBytes f) f i, (start + up256 (n * planeBytes f) + 16 * g, 16)]

/-- Element `i` of group `g` of an operand of `n` groups that starts at byte `start` of a run (R81, R89). -/
def groupElem (sram : List Host.Cell) (bk : Books) (r : Run) (start f n g i : Nat) : Option Num :=
  groupValue sram bk r (start + up256 (n * planeBytes f) + 16 * g) f
    (elemCode sram r (start + g * planeBytes f) f i) (i / 32)

/-! ## Compressed segments and block bitmaps -/

/-- The shape of a matrix operand B (R100, R102, R110-R113). -/
structure BShape where
  fmt : Nat
  /-- Carried in groups with metadata. -/
  grouped : Bool
  trans : Bool
  /-- N of an N:8 form; 0 for a dense one. -/
  n8 : Nat
  bitmap : Bool
  k : Nat
  n : Nat
  deriving DecidableEq, Repr

/-- Bitmap blocks along K. -/
def BShape.kb (b : BShape) : Nat := ceilDiv b.k 128

/-- Bitmap blocks along N. -/
def BShape.nb (b : BShape) : Nat := ceilDiv b.n 128

/-- Bytes of the bitmap, padded (R113). -/
def BShape.mapBytes (b : BShape) : Nat := if b.bitmap then up256 (ceilDiv (b.kb * b.nb) 8) else 0

/-- Block `(i, j)` is present in the bitmap at byte `start` of a run. -/
def BShape.present (b : BShape) (sram : List Host.Cell) (r : Run) (start i j : Nat) : Bool :=
  if b.bitmap then
    let t := j * b.kb + i
    bit (r.byte sram (start + t / 8)) (t % 8)
  else true

/-- Columns of a bitmap block. -/
def BShape.cols (b : BShape) (j : Nat) : Nat := min 128 (b.n - 128 * j)

/-- Segments in the present blocks whose number `j × KB + i` is below `t`. -/
def BShape.segsBefore (b : BShape) (sram : List Host.Cell) (r : Run) (start : Nat) : Nat → Nat
  | 0 => 0
  | t + 1 =>
    b.segsBefore sram r start t
      + (if b.present sram r start (t % b.kb) (t / b.kb) then b.cols (t / b.kb) else 0)

/-- K positions of a segment (R111). -/
def BShape.segLen (b : BShape) : Nat := if b.bitmap then 128 else 256

/-- Values a segment stores. -/
def BShape.segVals (b : BShape) : Nat := if b.n8 = 0 then b.segLen else b.segLen * b.n8 / 8

/-- Bytes of a segment's value plane. -/
def BShape.segBytes (b : BShape) : Nat := elemBytes b.fmt b.segVals

/-- Bytes of a segment's position plane. -/
def BShape.posBytes (b : BShape) : Nat := ceilDiv (3 * (b.segLen / 8) * b.n8) 8

/-- B is held as segments: grouped, compressed or bitmapped (R102). -/
def BShape.segmented (b : BShape) : Bool := b.grouped || b.n8 != 0 || b.bitmap

/-- Segments of B. -/
def BShape.segs (b : BShape) (sram : List Host.Cell) (r : Run) (start : Nat) : Nat :=
  if b.bitmap then b.segsBefore sram r start (b.kb * b.nb) else b.n * ceilDiv b.k 256

/-- Bytes of one batch entry of B. -/
def BShape.bytes (b : BShape) (sram : List Host.Cell) (r : Run) (start : Nat) : Nat :=
  if b.segmented then
    let s := b.segs sram r start
    let v := s * b.segBytes
    let p := if b.n8 = 0 then v else up256 v + s * b.posBytes
    b.mapBytes + (if b.grouped then up256 p + 16 * s else p)
  else elemBytes b.fmt (b.k * b.n)

/-- The pieces of one batch entry of B that MM reads: its bitmap, values, positions and metadata, without padding. -/
def BShape.pieces (b : BShape) (sram : List Host.Cell) (r : Run) (start : Nat) : List (Nat × Nat) :=
  if b.segmented then
    let s := b.segs sram r start
    let v0 := start + b.mapBytes
    let p0 := v0 + up256 (s * b.segBytes)
    let m0 := if b.n8 = 0 then p0 else p0 + up256 (s * b.posBytes)
    [(start, if b.bitmap then ceilDiv (b.kb * b.nb) 8 else 0), (v0, s * b.segBytes),
      (p0, if b.n8 = 0 then 0 else s * b.posBytes), (m0, if b.grouped then 16 * s else 0)]
  else [(start, elemBytes b.fmt (b.k * b.n))]

/-- What a reduction position of B holds. -/
inductive BElem where
  /-- Not stored: an N:8 position left out, or an absent block (R105). -/
  | absent
  | value (x : Num)
  /-- A selector refused under R83 or a run that breaks R112: ENGINE_FAULT. -/
  | bad
  deriving DecidableEq, Repr

/-- The stored positions of run `q` of the segment whose position plane starts at byte `at_` (R111). -/
def runPositions (sram : List Host.Cell) (r : Run) (at_ n q : Nat) : List Nat :=
  (List.range n).map fun j =>
    let t := 3 * (q * n + j)
    bits (r.le sram (at_ + t / 8) 2) (t % 8 + 2) (t % 8)

/-- Positions are distinct and strictly ascending (R112). -/
def ascending : List Nat → Bool
  | pos :: next :: rest => ascending (next :: rest) && decide (pos + 1 ≤ next)
  | _ => true

/-- Element at column `j` and position `k` of an entry of B that starts at byte `start` of a run. -/
def BShape.elem (b : BShape) (sram : List Host.Cell) (bk : Books) (r : Run) (start j k : Nat) : BElem :=
  if !b.segmented then
    .value (decodeElem b.fmt (elemCode sram r start b.fmt (if b.trans then k * b.n + j else j * b.k + k)))
  else if !b.present sram r start (k / 128) (j / 128) then .absent
  else
    let seg := if b.bitmap then b.segsBefore sram r start (j / 128 * b.kb + k / 128) + j % 128
      else j * ceilDiv b.k 256 + k / 256
    let o := k % b.segLen
    let s := b.segs sram r start
    let v0 := start + b.mapBytes
    let p0 := v0 + up256 (s * b.segBytes)
    let m0 := if b.n8 = 0 then p0 else p0 + up256 (s * b.posBytes)
    let at_ (i : Nat) : BElem :=
      let code := elemCode sram r (v0 + seg * b.segBytes) b.fmt i
      if b.grouped then
        match groupValue sram bk r (m0 + 16 * seg) b.fmt code (o / 32) with
        | some x => .value x
        | none => .bad
      else .value (decodeElem b.fmt code)
    if b.n8 = 0 then at_ o
    else
      let ps := runPositions sram r (p0 + seg * b.posBytes) b.n8 (o / 8)
      if !ascending ps then .bad
      else if ps.contains (o % 8) then at_ (o / 8 * b.n8 + ps.idxOf (o % 8)) else .absent

end Sys2Proof.Machine
end

