-- ==== Sys2Proof/Machine/RegTable.lean ====
section
/-!
DEFINITION. The register pages of BAR0 and the doorbell pages of BAR4: which registers each page holds, the bits,
the access type and the reset value of every field, as the tables of spec/ give them (R6, R493-R504).
Fields the manual calls reserved are not listed: they read zero and ignore writes (R7).
A field whose reset the tables give in words (from store, at boot, per die) stands here with 0, and the operation that
the words name writes it; notes/assumptions/3.md lists them.
-/

namespace Sys2Proof.Machine

/-- The access types of R6. -/
inductive Access where
  /-- read and write -/
  | rw
  /-- read only; writes are ignored -/
  | ro
  /-- writing 1 clears the bit -/
  | w1c
  /-- writing 1 sets the bit -/
  | w1s
  /-- write only; reads return zero -/
  | wo
  /-- cleared by the read that returns it -/
  | rc
  /-- read and write until the page's lock is set -/
  | rwl
  deriving DecidableEq, Repr

/-- One field of a register: the register's offset in its page, the field's bits `[hi:lo]`, its access type and its
reset value. -/
structure RegField where
  off : Nat
  hi : Nat
  lo : Nat
  acc : Access
  reset : Nat
  deriving DecidableEq, Repr

/-- The kinds of page of R504, and the doorbell page of R46. -/
inductive PageKind where
  /-- die page (R502) -/
  | die
  /-- hub's die page, with the device parameter query (R503) -/
  | prm
  /-- package inventory (R39) -/
  | pkg
  /-- context manager (R44) -/
  | ctxm
  /-- routing policy (R156) -/
  | route
  /-- Cicada (R172) -/
  | cic
  /-- sluice (R223) -/
  | slu
  /-- ordering (R276) -/
  | ord
  /-- translation control (R298) -/
  | xlc
  /-- host port (R340) -/
  | hp
  /-- attach (R341) -/
  | att
  /-- machine (R374) -/
  | mch
  /-- mirror (R392) -/
  | mir
  /-- power manager (R413) -/
  | pwr
  /-- Polder mailbox (R438) -/
  | pld
  /-- Dike (R466) -/
  | dk
  /-- key (R467) -/
  | key
  /-- boot and error (R492) -/
  | rst
  /-- core control (R317) -/
  | core
  /-- translation unit (R299) -/
  | xlt
  /-- stream engine (R201) -/
  | ste
  /-- re-shard engine (R202) -/
  | rse
  /-- floor cache (R254) -/
  | flc
  /-- coherence (R255) -/
  | coh
  /-- match unit (R155) -/
  | mtu
  /-- cell sequencer (R74) -/
  | cseq
  /-- matrix engine (R116) -/
  | mxe
  /-- vector engine (R135) -/
  | vxe
  /-- link die control (R373) -/
  | lx
  /-- link port (R372) -/
  | lk
  /-- traffic generator (R224) -/
  | tgen
  /-- memory health (R225) -/
  | hbmc
  /-- doorbell page in BAR4 (R46, R297) -/
  | db
  deriving DecidableEq, Repr

/-! The offset of each register in its page, under the manual's name. -/

abbrev Reg.PKG_FEATURE : Nat := 0x040
abbrev Reg.PKG_BOOT_REFUSE : Nat := 0x044
abbrev Reg.PKG_DIE_SEL : Nat := 0x048
abbrev Reg.PKG_DIE_WORD : Nat := 0x04C
abbrev Reg.D2D_SEL : Nat := 0x050
abbrev Reg.D2D_STATUS : Nat := 0x054
abbrev Reg.D2D_REPLAY_CNT : Nat := 0x058
abbrev Reg.CTXM_CMD : Nat := 0x040
abbrev Reg.CTXM_DESC_LO : Nat := 0x044
abbrev Reg.CTXM_DESC_HI : Nat := 0x048
abbrev Reg.CTXM_RESULT : Nat := 0x04C
abbrev Reg.CTXM_LIVE_LO : Nat := 0x050
abbrev Reg.CTXM_LIVE_HI : Nat := 0x054
abbrev Reg.CQ_DOORBELL : Nat := 0x000
abbrev Reg.CQ_CONSUMED : Nat := 0x004
abbrev Reg.CQ_STATUS : Nat := 0x008
abbrev Reg.CQ_RESUME : Nat := 0x00C
abbrev Reg.CSEQ_CTL : Nat := 0x040
abbrev Reg.CSEQ_STATUS : Nat := 0x044
abbrev Reg.CSEQ_TRACK_SEL : Nat := 0x048
abbrev Reg.CSEQ_TRACK_STATE : Nat := 0x04C
abbrev Reg.CSEQ_CNT_SEL : Nat := 0x050
abbrev Reg.CSEQ_TOKEN_CNT : Nat := 0x054
abbrev Reg.CSEQ_CNT_BASE : Nat := 0x058
abbrev Reg.CSEQ_CNT_SIZE : Nat := 0x05C
abbrev Reg.CSEQ_PRED : Nat := 0x060
abbrev Reg.CSEQ_PHASE : Nat := 0x064
abbrev Reg.CSEQ_FAULT : Nat := 0x068
abbrev Reg.CSEQ_FIRE_CNT_LO : Nat := 0x06C
abbrev Reg.CSEQ_FIRE_CNT_HI : Nat := 0x070
abbrev Reg.CSEQ_WAIT_TOKEN_CYC : Nat := 0x074
abbrev Reg.CSEQ_WAIT_CREDIT_CYC : Nat := 0x078
abbrev Reg.MXE_CTL : Nat := 0x040
abbrev Reg.MXE_STATUS : Nat := 0x044
abbrev Reg.MXE_OP_CNT_LO : Nat := 0x048
abbrev Reg.MXE_OP_CNT_HI : Nat := 0x04C
abbrev Reg.MXE_BUSY_CYC_LO : Nat := 0x050
abbrev Reg.MXE_BUSY_CYC_HI : Nat := 0x054
abbrev Reg.MXE_MAC_LO : Nat := 0x058
abbrev Reg.MXE_MAC_HI : Nat := 0x05C
abbrev Reg.MXE_CAP_MAC_LO : Nat := 0x060
abbrev Reg.MXE_CAP_MAC_HI : Nat := 0x064
abbrev Reg.MXE_SKIP_ACT : Nat := 0x068
abbrev Reg.MXE_SKIP_BLK : Nat := 0x06C
abbrev Reg.MXE_MIN_TILE : Nat := 0x070
abbrev Reg.MXE_NAN_OUT : Nat := 0x074
abbrev Reg.MXE_SAT_OUT : Nat := 0x078
abbrev Reg.VXE_CTL : Nat := 0x040
abbrev Reg.VXE_STATUS : Nat := 0x044
abbrev Reg.VXE_OP_CNT_LO : Nat := 0x048
abbrev Reg.VXE_OP_CNT_HI : Nat := 0x04C
abbrev Reg.VXE_BUSY_CYC_LO : Nat := 0x050
abbrev Reg.VXE_BUSY_CYC_HI : Nat := 0x054
abbrev Reg.VXE_LANE_OPS_LO : Nat := 0x058
abbrev Reg.VXE_LANE_OPS_HI : Nat := 0x05C
abbrev Reg.VXE_TAIL_LANES : Nat := 0x060
abbrev Reg.VXE_CRV_CLAMP : Nat := 0x064
abbrev Reg.VXE_NAN_OUT : Nat := 0x068
abbrev Reg.VXE_SAT_OUT : Nat := 0x06C
abbrev Reg.MTU_CTL : Nat := 0x040
abbrev Reg.MTU_STATUS : Nat := 0x044
abbrev Reg.MTU_REQ_CNT_LO : Nat := 0x048
abbrev Reg.MTU_REQ_CNT_HI : Nat := 0x04C
abbrev Reg.MTU_BUSY_CYC_LO : Nat := 0x050
abbrev Reg.MTU_BUSY_CYC_HI : Nat := 0x054
abbrev Reg.MTU_WAIT_CYC : Nat := 0x058
abbrev Reg.MTU_LAT_WAIT_MAX : Nat := 0x05C
abbrev Reg.MTU_PLACED : Nat := 0x060
abbrev Reg.MTU_ALTERNATE : Nat := 0x064
abbrev Reg.MTU_DEFERRED : Nat := 0x068
abbrev Reg.MTU_DROPPED : Nat := 0x06C
abbrev Reg.MTU_LOST : Nat := 0x070
abbrev Reg.MTU_NAN : Nat := 0x074
abbrev Reg.ROUTE_POLICY0 : Nat := 0x040
abbrev Reg.ROUTE_POLICY1 : Nat := 0x044
abbrev Reg.ROUTE_POLICY2 : Nat := 0x048
abbrev Reg.ROUTE_POLICY3 : Nat := 0x04C
abbrev Reg.CIC_COUNT_LO : Nat := 0x040
abbrev Reg.CIC_COUNT_HI : Nat := 0x044
abbrev Reg.CIC_BOOT_NUM : Nat := 0x048
abbrev Reg.CIC_POH : Nat := 0x04C
abbrev Reg.CIC_SKEW : Nat := 0x050
abbrev Reg.CIC_UNRELIABLE : Nat := 0x054
abbrev Reg.CIC_LATE_STAMP : Nat := 0x058
abbrev Reg.CIC_TMR_SEL : Nat := 0x05C
abbrev Reg.CIC_TMR_CTL : Nat := 0x060
abbrev Reg.CIC_TMR_CMP_LO : Nat := 0x064
abbrev Reg.CIC_TMR_CMP_HI : Nat := 0x068
abbrev Reg.CIC_TMR_PERIOD : Nat := 0x06C
abbrev Reg.CIC_WDT_CTL : Nat := 0x070
abbrev Reg.CIC_WDT_PERIOD : Nat := 0x074
abbrev Reg.CIC_WDT_KICK : Nat := 0x078
abbrev Reg.STE_CTL : Nat := 0x040
abbrev Reg.STE_SEL : Nat := 0x044
abbrev Reg.STE_STREAM : Nat := 0x048
abbrev Reg.STE_STREAM_CRED : Nat := 0x04C
abbrev Reg.STE_STREAM_BYTES_LO : Nat := 0x050
abbrev Reg.STE_STREAM_BYTES_HI : Nat := 0x054
abbrev Reg.STE_ACTIVE : Nat := 0x058
abbrev Reg.STE_STALE_CNT : Nat := 0x05C
abbrev Reg.STE_STALE_LAST : Nat := 0x060
abbrev Reg.STE_STALE_DEV : Nat := 0x064
abbrev Reg.STE_NACK_RX : Nat := 0x068
abbrev Reg.STE_HOLD : Nat := 0x06C
abbrev Reg.STE_FLUSH_CNT : Nat := 0x070
abbrev Reg.STE_BYTES_LO : Nat := 0x074
abbrev Reg.STE_BYTES_HI : Nat := 0x078
abbrev Reg.RSE_STATUS : Nat := 0x040
abbrev Reg.RSE_MAP_ID : Nat := 0x044
abbrev Reg.RSE_SENT_LO : Nat := 0x048
abbrev Reg.RSE_SENT_HI : Nat := 0x04C
abbrev Reg.RSE_AWAIT_LO : Nat := 0x050
abbrev Reg.RSE_AWAIT_HI : Nat := 0x054
abbrev Reg.RSE_WAIT_DEV : Nat := 0x058
abbrev Reg.SLU_SEL : Nat := 0x040
abbrev Reg.SLU_SHARE_CTL : Nat := 0x044
abbrev Reg.SLU_BURST : Nat := 0x048
abbrev Reg.SLU_INTERVAL : Nat := 0x04C
abbrev Reg.SLU_STATUS : Nat := 0x050
abbrev Reg.SLU_UNITS_LO : Nat := 0x054
abbrev Reg.SLU_UNITS_HI : Nat := 0x058
abbrev Reg.SLU_CEIL_CYC : Nat := 0x05C
abbrev Reg.SLU_GUAR_MISS : Nat := 0x060
abbrev Reg.SLU_PIN_BASE : Nat := 0x064
abbrev Reg.SLU_PIN_SIZE : Nat := 0x068
abbrev Reg.SLU_PIN_CTL : Nat := 0x06C
abbrev Reg.SLU_MAINT : Nat := 0x070
abbrev Reg.SLU_SUM : Nat := 0x074
abbrev Reg.TGEN_CHAN_SEL : Nat := 0x040
abbrev Reg.TGEN_CTL : Nat := 0x044
abbrev Reg.TGEN_OFFSET : Nat := 0x048
abbrev Reg.TGEN_LENGTH : Nat := 0x04C
abbrev Reg.TGEN_STAMP_LO : Nat := 0x050
abbrev Reg.TGEN_STAMP_HI : Nat := 0x054
abbrev Reg.TGEN_USER : Nat := 0x058
abbrev Reg.TGEN_STATUS : Nat := 0x05C
abbrev Reg.TGEN_MISMATCH : Nat := 0x060
abbrev Reg.TGEN_FIRST_ERR : Nat := 0x064
abbrev Reg.TGEN_CODE_ERR : Nat := 0x068
abbrev Reg.HBMC_CHAN_SEL : Nat := 0x040
abbrev Reg.HBMC_SCRUB_CTL : Nat := 0x044
abbrev Reg.HBMC_CE_CNT : Nat := 0x048
abbrev Reg.HBMC_UE_CNT : Nat := 0x04C
abbrev Reg.HBMC_SPARE : Nat := 0x050
abbrev Reg.HBMC_CAL : Nat := 0x054
abbrev Reg.HBMC_LANE : Nat := 0x058
abbrev Reg.FLC_CTL : Nat := 0x040
abbrev Reg.FLC_STATUS : Nat := 0x044
abbrev Reg.FLC_EFF_SIZE : Nat := 0x048
abbrev Reg.FLC_RET_SEL : Nat := 0x04C
abbrev Reg.FLC_RET_MAP : Nat := 0x050
abbrev Reg.FLC_WAY_CE : Nat := 0x054
abbrev Reg.FLC_RD_HIT_LO : Nat := 0x058
abbrev Reg.FLC_RD_HIT_HI : Nat := 0x05C
abbrev Reg.FLC_RD_MISS_LO : Nat := 0x060
abbrev Reg.FLC_RD_MISS_HI : Nat := 0x064
abbrev Reg.FLC_PF_ISSUED : Nat := 0x068
abbrev Reg.FLC_POCKET_HIT : Nat := 0x06C
abbrev Reg.FLC_POCKET_DROP : Nat := 0x070
abbrev Reg.COH_CTL : Nat := 0x040
abbrev Reg.COH_PROBE_ADDR_LO : Nat := 0x044
abbrev Reg.COH_PROBE_ADDR_HI : Nat := 0x048
abbrev Reg.COH_PROBE : Nat := 0x04C
abbrev Reg.COH_PROBE_RESULT : Nat := 0x050
abbrev Reg.COH_BCAST : Nat := 0x054
abbrev Reg.COH_OVERFLOW : Nat := 0x058
abbrev Reg.COH_STALE : Nat := 0x05C
abbrev Reg.COH_DIR_EVICT : Nat := 0x060
abbrev Reg.COH_STASH_ACC : Nat := 0x064
abbrev Reg.COH_STASH_DEC : Nat := 0x068
abbrev Reg.COH_SNP_TIMEOUT : Nat := 0x06C
abbrev Reg.COH_AGENT_EN_LO : Nat := 0x070
abbrev Reg.COH_AGENT_EN_HI : Nat := 0x074
abbrev Reg.COH_HOST_MODE : Nat := 0x078
abbrev Reg.ORD_RAT_SEL : Nat := 0x040
abbrev Reg.ORD_RAT_CTL : Nat := 0x044
abbrev Reg.ORD_RAT_BASE_LO : Nat := 0x048
abbrev Reg.ORD_RAT_BASE_HI : Nat := 0x04C
abbrev Reg.ORD_RAT_SIZE : Nat := 0x050
abbrev Reg.ORD_RAT_DEFAULT : Nat := 0x054
abbrev Reg.ORD_WARM_DISCARD : Nat := 0x058
abbrev Reg.FQ_PRODUCED : Nat := 0x010
abbrev Reg.FQ_CONSUMED : Nat := 0x014
abbrev Reg.FQ_RESP : Nat := 0x018
abbrev Reg.FQ_STATUS : Nat := 0x01C
abbrev Reg.XLC_INV_CTL : Nat := 0x040
abbrev Reg.XLC_INV_BASE_LO : Nat := 0x044
abbrev Reg.XLC_INV_BASE_HI : Nat := 0x048
abbrev Reg.XLC_INV_SIZE_LO : Nat := 0x04C
abbrev Reg.XLC_INV_SIZE_HI : Nat := 0x050
abbrev Reg.XLC_INV_FAILED : Nat := 0x054
abbrev Reg.XLC_SEL : Nat := 0x058
abbrev Reg.XLC_PASID : Nat := 0x05C
abbrev Reg.XLC_PRI_OUT : Nat := 0x060
abbrev Reg.XLT_CTL : Nat := 0x040
abbrev Reg.XLT_STATUS : Nat := 0x044
abbrev Reg.XLT_HIT_LO : Nat := 0x048
abbrev Reg.XLT_HIT_HI : Nat := 0x04C
abbrev Reg.XLT_WALK_LO : Nat := 0x050
abbrev Reg.XLT_WALK_HI : Nat := 0x054
abbrev Reg.XLT_PF_USED : Nat := 0x058
abbrev Reg.XLT_PF_DROP : Nat := 0x05C
abbrev Reg.XLT_FAULT : Nat := 0x060
abbrev Reg.XLT_NOREC : Nat := 0x064
abbrev Reg.XLT_HOST : Nat := 0x068
abbrev Reg.XLT_INV : Nat := 0x06C
abbrev Reg.CORE_HART_SEL : Nat := 0x040
abbrev Reg.CORE_HART_STATUS : Nat := 0x044
abbrev Reg.CORE_HART_PART : Nat := 0x048
abbrev Reg.CORE_DB_MASK_LO : Nat := 0x04C
abbrev Reg.CORE_DB_MASK_HI : Nat := 0x050
abbrev Reg.CORE_IRQ_SEL : Nat := 0x054
abbrev Reg.CORE_IRQ_ROUTE : Nat := 0x058
abbrev Reg.CORE_RUN_CTL : Nat := 0x05C
abbrev Reg.CORE_IMG_BASE_LO : Nat := 0x060
abbrev Reg.CORE_IMG_BASE_HI : Nat := 0x064
abbrev Reg.CORE_IMG_SIZE : Nat := 0x068
abbrev Reg.CORE_CLUSTER_OFFLINE : Nat := 0x06C
abbrev Reg.CORE_HOST_DISCARD : Nat := 0x070
abbrev Reg.HP_LINK : Nat := 0x040
abbrev Reg.HP_CTL : Nat := 0x044
abbrev Reg.HP_MEM_PART : Nat := 0x048
abbrev Reg.HP_RESETS : Nat := 0x04C
abbrev Reg.HP_TX_LO : Nat := 0x050
abbrev Reg.HP_TX_HI : Nat := 0x054
abbrev Reg.HP_RX_LO : Nat := 0x058
abbrev Reg.HP_RX_HI : Nat := 0x05C
abbrev Reg.HP_CPL_ERR : Nat := 0x060
abbrev Reg.HP_OOR : Nat := 0x064
abbrev Reg.HP_WB_LOST : Nat := 0x068
abbrev Reg.HP_BISNP : Nat := 0x06C
abbrev Reg.ATT_STATUS : Nat := 0x040
abbrev Reg.ATT_COH : Nat := 0x044
abbrev Reg.ATT_SEL : Nat := 0x048
abbrev Reg.ATT_CTX : Nat := 0x04C
abbrev Reg.ATT_CMD : Nat := 0x050
abbrev Reg.ATT_TOKEN0 : Nat := 0x054
abbrev Reg.ATT_TOKEN1 : Nat := 0x058
abbrev Reg.ATT_TOKEN2 : Nat := 0x05C
abbrev Reg.ATT_TOKEN3 : Nat := 0x060
abbrev Reg.ATT_DET_CNT_LO : Nat := 0x064
abbrev Reg.ATT_DET_CNT_HI : Nat := 0x068
abbrev Reg.LK_CTL : Nat := 0x040
abbrev Reg.LK_STATUS : Nat := 0x044
abbrev Reg.LK_PEER : Nat := 0x048
abbrev Reg.LK_FEC : Nat := 0x04C
abbrev Reg.LK_RETRY : Nat := 0x050
abbrev Reg.LK_ABORT : Nat := 0x054
abbrev Reg.LK_FENCE_DROP : Nat := 0x058
abbrev Reg.LK_NOROUTE : Nat := 0x05C
abbrev Reg.LK_PRIO : Nat := 0x060
abbrev Reg.LK_TX_LO : Nat := 0x064
abbrev Reg.LK_TX_HI : Nat := 0x068
abbrev Reg.LK_RX_LO : Nat := 0x06C
abbrev Reg.LK_RX_HI : Nat := 0x070
abbrev Reg.LX_TRN_SEL : Nat := 0x040
abbrev Reg.LX_TRN_ENTRY_LO : Nat := 0x044
abbrev Reg.LX_TRN_ENTRY_HI : Nat := 0x048
abbrev Reg.LX_TRN_CTL : Nat := 0x04C
abbrev Reg.MCH_DEV_ID : Nat := 0x040
abbrev Reg.MCH_PART : Nat := 0x044
abbrev Reg.MCH_PART_PODS : Nat := 0x048
abbrev Reg.MCH_PART_CMD : Nat := 0x04C
abbrev Reg.MCH_ROUTE_SEL : Nat := 0x050
abbrev Reg.MCH_ROUTE_UP : Nat := 0x054
abbrev Reg.MCH_ROUTE_TAG : Nat := 0x058
abbrev Reg.MCH_JOB_CTL : Nat := 0x05C
abbrev Reg.MCH_JOB_REC_LO : Nat := 0x060
abbrev Reg.MCH_JOB_REC_HI : Nat := 0x064
abbrev Reg.MCH_JOB_ID : Nat := 0x068
abbrev Reg.MCH_JOB_FAIL : Nat := 0x06C
abbrev Reg.MCH_JOB_FAIL_N : Nat := 0x070
abbrev Reg.MCH_JOB_COMMIT_LO : Nat := 0x074
abbrev Reg.MCH_JOB_COMMIT_HI : Nat := 0x078
abbrev Reg.MIR_CTL : Nat := 0x040
abbrev Reg.MIR_PARTNER : Nat := 0x044
abbrev Reg.MIR_TWIN0 : Nat := 0x048
abbrev Reg.MIR_TWIN1 : Nat := 0x04C
abbrev Reg.MIR_TWIN2 : Nat := 0x050
abbrev Reg.MIR_LAG : Nat := 0x054
abbrev Reg.MIR_REG_SEL : Nat := 0x058
abbrev Reg.MIR_REG_BASE : Nat := 0x05C
abbrev Reg.MIR_REG_SIZE : Nat := 0x060
abbrev Reg.MIR_CTX_LO : Nat := 0x064
abbrev Reg.MIR_CTX_HI : Nat := 0x068
abbrev Reg.MIR_CMD : Nat := 0x06C
abbrev Reg.MIR_STATUS : Nat := 0x070
abbrev Reg.MIR_WITNESS : Nat := 0x074
abbrev Reg.MIR_LAG_NOW : Nat := 0x078
abbrev Reg.MIR_DIRTY : Nat := 0x07C
abbrev Reg.MIR_HB_MISS : Nat := 0x080
abbrev Reg.PWR_CTL : Nat := 0x040
abbrev Reg.PWR_CAP : Nat := 0x044
abbrev Reg.PWR_STATUS : Nat := 0x048
abbrev Reg.PWR_FLOOR : Nat := 0x04C
abbrev Reg.PWR_SHIFT_CTL : Nat := 0x050
abbrev Reg.PWR_SHIFT_RANGE : Nat := 0x054
abbrev Reg.PWR_SHIFT_GROUP : Nat := 0x058
abbrev Reg.PWR_CAP_EFF : Nat := 0x05C
abbrev Reg.PWR_EDC : Nat := 0x060
abbrev Reg.PWR_CORE_MIN : Nat := 0x064
abbrev Reg.PWR_DIE_SEL : Nat := 0x068
abbrev Reg.PWR_DIE_TEMP : Nat := 0x06C
abbrev Reg.PWR_CELL_STATUS : Nat := 0x070
abbrev Reg.PWR_DIE_W : Nat := 0x074
abbrev Reg.PWR_DIE_MARGIN : Nat := 0x078
abbrev Reg.PWR_PKG_MJ_LO : Nat := 0x07C
abbrev Reg.PWR_PKG_MJ_HI : Nat := 0x080
abbrev Reg.PWR_CTX_SEL : Nat := 0x084
abbrev Reg.PWR_CTX_USED_LO : Nat := 0x088
abbrev Reg.PWR_CTX_USED_HI : Nat := 0x08C
abbrev Reg.PWR_CTX_BUDGET_LO : Nat := 0x090
abbrev Reg.PWR_CTX_BUDGET_HI : Nat := 0x094
abbrev Reg.PWR_CTX_STATUS : Nat := 0x098
abbrev Reg.PWR_UNATTR_LO : Nat := 0x09C
abbrev Reg.PWR_UNATTR_HI : Nat := 0x0A0
abbrev Reg.PWR_EST : Nat := 0x0A4
abbrev Reg.PWR_DROOP : Nat := 0x0A8
abbrev Reg.PWR_EMERG_PREEMPT : Nat := 0x0AC
abbrev Reg.PWR_LIFE_KWH : Nat := 0x0B0
abbrev Reg.PLD_MBX_CMD : Nat := 0x040
abbrev Reg.PLD_MBX_ARG : Nat := 0x044
abbrev Reg.PLD_MBX_ARG2 : Nat := 0x048
abbrev Reg.PLD_MBX_INFO : Nat := 0x04C
abbrev Reg.PLD_MBX_SEQ : Nat := 0x050
abbrev Reg.PLD_STATUS : Nat := 0x054
abbrev Reg.PLD_SEQ : Nat := 0x058
abbrev Reg.PLD_LIFE : Nat := 0x05C
abbrev Reg.PLD_WEAR : Nat := 0x060
abbrev Reg.PLD_ERASE_RATE : Nat := 0x064
abbrev Reg.PLD_HOLDUP : Nat := 0x068
abbrev Reg.DK_STATUS : Nat := 0x040
abbrev Reg.DK_LEVELS : Nat := 0x044
abbrev Reg.DK_SENSOR_SEL : Nat := 0x048
abbrev Reg.DK_SENSOR : Nat := 0x04C
abbrev Reg.DK_LAST : Nat := 0x050
abbrev Reg.DK_LAST_CNT_LO : Nat := 0x054
abbrev Reg.DK_LAST_CNT_HI : Nat := 0x058
abbrev Reg.DK_ERASE : Nat := 0x05C
abbrev Reg.KEY_SEL : Nat := 0x040
abbrev Reg.KEY_SLOT : Nat := 0x044
abbrev Reg.KEY_MAP_SEL : Nat := 0x048
abbrev Reg.KEY_MAP_ENT : Nat := 0x04C
abbrev Reg.KEY_NOKEY : Nat := 0x050
abbrev Reg.RST_STAGE : Nat := 0x040
abbrev Reg.RST_CAUSE : Nat := 0x044
abbrev Reg.RST_CMD : Nat := 0x048
abbrev Reg.ST_SEL : Nat := 0x04C
abbrev Reg.ST_FENCED_LO : Nat := 0x050
abbrev Reg.ST_FENCED_HI : Nat := 0x054
abbrev Reg.ST_IDLE_CTL : Nat := 0x058
abbrev Reg.ERR_RING_BASE_LO : Nat := 0x05C
abbrev Reg.ERR_RING_BASE_HI : Nat := 0x060
abbrev Reg.ERR_RING_CTL : Nat := 0x064
abbrev Reg.ERR_RING_PROD : Nat := 0x068
abbrev Reg.ERR_RING_CONS : Nat := 0x06C
abbrev Reg.ERR_CNT_CE : Nat := 0x070
abbrev Reg.ERR_CNT_DEF : Nat := 0x074
abbrev Reg.ERR_CNT_UC : Nat := 0x078
abbrev Reg.ERR_CNT_FATAL : Nat := 0x07C
abbrev Reg.ERR_LOST : Nat := 0x080
abbrev Reg.ERR_FATAL : Nat := 0x084
abbrev Reg.ERR_HELD_SEL : Nat := 0x088
abbrev Reg.PG_ID : Nat := 0x000
abbrev Reg.PG_VER : Nat := 0x004
abbrev Reg.PG_CAPS : Nat := 0x008
abbrev Reg.PG_STATUS : Nat := 0x00C
abbrev Reg.PG_INT_RAW : Nat := 0x010
abbrev Reg.PG_INT_EN : Nat := 0x014
abbrev Reg.PG_INT_SET : Nat := 0x018
abbrev Reg.PG_INT_PEND : Nat := 0x01C
abbrev Reg.PG_ERR_SYND : Nat := 0x020
abbrev Reg.PG_LOCK : Nat := 0x024
abbrev Reg.DIE_PEND0 : Nat := 0x040
abbrev Reg.DIE_PEND1 : Nat := 0x044
abbrev Reg.DIE_PEND2 : Nat := 0x048
abbrev Reg.DIE_PEND3 : Nat := 0x04C
abbrev Reg.DIE_PEND4 : Nat := 0x050
abbrev Reg.DIE_PEND5 : Nat := 0x054
abbrev Reg.DIE_PEND6 : Nat := 0x058
abbrev Reg.DIE_PEND7 : Nat := 0x05C
abbrev Reg.DIE_PEND8 : Nat := 0x060
abbrev Reg.DIE_PEND9 : Nat := 0x064
abbrev Reg.DIE_PEND10 : Nat := 0x068
abbrev Reg.DIE_PEND11 : Nat := 0x06C
abbrev Reg.DIE_PEND12 : Nat := 0x070
abbrev Reg.DIE_PEND13 : Nat := 0x074
abbrev Reg.DIE_PEND14 : Nat := 0x078
abbrev Reg.DIE_PEND15 : Nat := 0x07C
abbrev Reg.PRM_FAMILY : Nat := 0x080
abbrev Reg.PRM_COUNTS : Nat := 0x084
abbrev Reg.PRM_POOL_LO : Nat := 0x088
abbrev Reg.PRM_POOL_HI : Nat := 0x08C
abbrev Reg.PRM_FLC_KIB : Nat := 0x090
abbrev Reg.PRM_OP : Nat := 0x094
abbrev Reg.PRM_CELL_SEL : Nat := 0x098
abbrev Reg.PRM_CELL_MAP : Nat := 0x09C
abbrev Reg.PRM_CELL_MEM : Nat := 0x0A0
abbrev Reg.PRM_CORE_CACHE : Nat := 0x0A4
abbrev Reg.PRM_NEAR_CACHE : Nat := 0x0A8
abbrev Reg.PRM_GRAIN : Nat := 0x0AC
abbrev Reg.PLD_MBX_DATA : Nat := 0x800
abbrev Reg.ERR_HELD_DATA : Nat := 0x100

/-- The common page header (R497). PG_ID, PG_VER and PG_CAPS are computed for each page. -/
def headerFields : List RegField :=
  [ ⟨0x000, 31, 24, .ro, 0⟩, ⟨0x000, 23, 16, .ro, 0⟩, ⟨0x000, 15, 8, .ro, 0⟩, ⟨0x000, 5, 0, .ro, 0⟩,  -- PG_ID
    ⟨0x004, 31, 24, .ro, 1⟩, ⟨0x004, 23, 16, .ro, 0⟩, ⟨0x004, 15, 8, .ro, 0⟩,  -- PG_VER
    ⟨0x008, 25, 16, .ro, 0⟩, ⟨0x008, 8, 8, .ro, 0⟩, ⟨0x008, 5, 0, .ro, 0⟩,  -- PG_CAPS
    ⟨0x00C, 31, 31, .ro, 0⟩, ⟨0x00C, 30, 30, .ro, 0⟩, ⟨0x00C, 29, 29, .ro, 0⟩, ⟨0x00C, 28, 28, .ro, 0⟩,  -- PG_STATUS
    ⟨0x010, 31, 0, .w1c, 0⟩,  -- PG_INT_RAW
    ⟨0x014, 31, 0, .rw, 0⟩,  -- PG_INT_EN
    ⟨0x018, 31, 0, .w1s, 0⟩,  -- PG_INT_SET
    ⟨0x01C, 31, 0, .ro, 0⟩,  -- PG_INT_PEND
    ⟨0x020, 31, 24, .rc, 0⟩, ⟨0x020, 11, 2, .rc, 0⟩, ⟨0x020, 1, 0, .rc, 0⟩,  -- PG_ERR_SYND
    ⟨0x024, 0, 0, .w1s, 0⟩ ]  -- PG_LOCK

/-- The registers of the die page (R502). -/
def dieFields : List RegField :=
  [ ⟨0x040, 31, 0, .ro, 0⟩,  -- DIE_PEND0
    ⟨0x044, 31, 0, .ro, 0⟩,  -- DIE_PEND1
    ⟨0x048, 31, 0, .ro, 0⟩,  -- DIE_PEND2
    ⟨0x04C, 31, 0, .ro, 0⟩,  -- DIE_PEND3
    ⟨0x050, 31, 0, .ro, 0⟩,  -- DIE_PEND4
    ⟨0x054, 31, 0, .ro, 0⟩,  -- DIE_PEND5
    ⟨0x058, 31, 0, .ro, 0⟩,  -- DIE_PEND6
    ⟨0x05C, 31, 0, .ro, 0⟩,  -- DIE_PEND7
    ⟨0x060, 31, 0, .ro, 0⟩,  -- DIE_PEND8
    ⟨0x064, 31, 0, .ro, 0⟩,  -- DIE_PEND9
    ⟨0x068, 31, 0, .ro, 0⟩,  -- DIE_PEND10
    ⟨0x06C, 31, 0, .ro, 0⟩,  -- DIE_PEND11
    ⟨0x070, 31, 0, .ro, 0⟩,  -- DIE_PEND12
    ⟨0x074, 31, 0, .ro, 0⟩,  -- DIE_PEND13
    ⟨0x078, 31, 0, .ro, 0⟩,  -- DIE_PEND14
    ⟨0x07C, 31, 0, .ro, 0⟩ ]  -- DIE_PEND15

/-- The registers of the hub's die page, with the device parameter query (R503). -/
def prmFields : List RegField :=
  [ ⟨0x080, 31, 24, .ro, 3⟩, ⟨0x080, 23, 16, .ro, 9⟩,  -- PRM_FAMILY
    ⟨0x084, 31, 23, .ro, 0⟩, ⟨0x084, 22, 16, .ro, 0⟩, ⟨0x084, 15, 12, .ro, 8⟩, ⟨0x084, 6, 0, .ro, 0⟩,  -- PRM_COUNTS
    ⟨0x088, 31, 0, .ro, 0⟩,  -- PRM_POOL_LO
    ⟨0x08C, 31, 0, .ro, 0⟩,  -- PRM_POOL_HI
    ⟨0x090, 31, 0, .ro, 0⟩,  -- PRM_FLC_KIB
    ⟨0x094, 31, 16, .ro, 0x44C⟩, ⟨0x094, 15, 0, .ro, 0x190⟩,  -- PRM_OP
    ⟨0x098, 3, 0, .rw, 0⟩,  -- PRM_CELL_SEL
    ⟨0x09C, 31, 0, .ro, 0⟩,  -- PRM_CELL_MAP
    ⟨0x0A0, 31, 16, .ro, 0x1000⟩, ⟨0x0A0, 15, 0, .ro, 0x40⟩,  -- PRM_CELL_MEM
    ⟨0x0A4, 31, 24, .ro, 0x40⟩, ⟨0x0A4, 23, 16, .ro, 0x40⟩, ⟨0x0A4, 15, 0, .ro, 0x1000⟩,  -- PRM_CORE_CACHE
    ⟨0x0A8, 31, 16, .ro, 0x40⟩, ⟨0x0A8, 15, 0, .ro, 0x400⟩,  -- PRM_NEAR_CACHE
    ⟨0x0AC, 31, 16, .ro, 0x40⟩, ⟨0x0AC, 15, 0, .ro, 0x100⟩ ]  -- PRM_GRAIN

/-- The registers of the package inventory (R39). -/
def pkgFields : List RegField :=
  [ ⟨0x040, 15, 0, .ro, 0⟩,  -- PKG_FEATURE
    ⟨0x044, 31, 24, .ro, 0⟩, ⟨0x044, 23, 16, .ro, 0⟩, ⟨0x044, 15, 8, .ro, 0⟩, ⟨0x044, 0, 0, .ro, 0⟩,  -- PKG_BOOT_REFUSE
    ⟨0x048, 5, 0, .rw, 0⟩,  -- PKG_DIE_SEL
    ⟨0x04C, 31, 0, .ro, 0⟩,  -- PKG_DIE_WORD
    ⟨0x050, 4, 0, .rw, 0⟩,  -- D2D_SEL
    ⟨0x054, 31, 24, .ro, 0⟩, ⟨0x054, 23, 16, .ro, 0⟩, ⟨0x054, 15, 7, .ro, 0⟩, ⟨0x054, 4, 3, .ro, 0⟩, ⟨0x054, 2, 2, .ro, 0⟩, ⟨0x054, 1, 1, .w1c, 0⟩,  -- D2D_STATUS
    ⟨0x058, 31, 0, .rc, 0⟩ ]  -- D2D_REPLAY_CNT

/-- The registers of the context manager (R44). -/
def ctxmFields : List RegField :=
  [ ⟨0x040, 31, 31, .w1s, 0⟩, ⟨0x040, 13, 8, .rw, 0⟩, ⟨0x040, 3, 0, .rw, 0⟩,  -- CTXM_CMD
    ⟨0x044, 31, 0, .rw, 0⟩,  -- CTXM_DESC_LO
    ⟨0x048, 31, 0, .rw, 0⟩,  -- CTXM_DESC_HI
    ⟨0x04C, 7, 0, .ro, 0⟩,  -- CTXM_RESULT
    ⟨0x050, 31, 0, .ro, 0⟩,  -- CTXM_LIVE_LO
    ⟨0x054, 31, 0, .ro, 0⟩ ]  -- CTXM_LIVE_HI

/-- The registers of the routing policy (R156). -/
def routeFields : List RegField :=
  [ ⟨0x040, 31, 0, .rw, 0⟩,  -- ROUTE_POLICY0
    ⟨0x044, 31, 0, .rw, 0⟩,  -- ROUTE_POLICY1
    ⟨0x048, 31, 0, .rw, 0⟩,  -- ROUTE_POLICY2
    ⟨0x04C, 31, 0, .rw, 0⟩ ]  -- ROUTE_POLICY3

/-- The registers of the Cicada (R172). -/
def cicFields : List RegField :=
  [ ⟨0x040, 31, 0, .ro, 0⟩,  -- CIC_COUNT_LO
    ⟨0x044, 31, 0, .ro, 0⟩,  -- CIC_COUNT_HI
    ⟨0x048, 31, 0, .ro, 0⟩,  -- CIC_BOOT_NUM
    ⟨0x04C, 31, 0, .ro, 0⟩,  -- CIC_POH
    ⟨0x050, 31, 16, .rc, 0⟩, ⟨0x050, 15, 8, .ro, 0⟩, ⟨0x050, 5, 0, .ro, 0⟩,  -- CIC_SKEW
    ⟨0x054, 31, 0, .ro, 0⟩,  -- CIC_UNRELIABLE
    ⟨0x058, 31, 0, .rc, 0⟩,  -- CIC_LATE_STAMP
    ⟨0x05C, 2, 0, .rw, 0⟩,  -- CIC_TMR_SEL
    ⟨0x060, 31, 31, .rw, 0⟩, ⟨0x060, 30, 30, .w1c, 0⟩,  -- CIC_TMR_CTL
    ⟨0x064, 31, 0, .rw, 0⟩,  -- CIC_TMR_CMP_LO
    ⟨0x068, 31, 0, .rw, 0⟩,  -- CIC_TMR_CMP_HI
    ⟨0x06C, 31, 0, .rw, 0⟩,  -- CIC_TMR_PERIOD
    ⟨0x070, 31, 31, .w1s, 0⟩, ⟨0x070, 30, 30, .rwl, 0⟩, ⟨0x070, 29, 28, .ro, 0⟩,  -- CIC_WDT_CTL
    ⟨0x074, 31, 0, .rwl, 0x7735940⟩,  -- CIC_WDT_PERIOD
    ⟨0x078, 31, 0, .wo, 0⟩ ]  -- CIC_WDT_KICK

/-- The registers of the sluice (R223). -/
def sluFields : List RegField :=
  [ ⟨0x040, 9, 8, .rw, 0⟩, ⟨0x040, 5, 0, .rw, 0⟩,  -- SLU_SEL
    ⟨0x044, 25, 16, .rw, 0⟩, ⟨0x044, 9, 0, .rw, 0⟩,  -- SLU_SHARE_CTL
    ⟨0x048, 23, 0, .rw, 0x1000⟩,  -- SLU_BURST
    ⟨0x04C, 15, 0, .rw, 0x7D⟩,  -- SLU_INTERVAL
    ⟨0x050, 31, 31, .ro, 0⟩, ⟨0x050, 30, 30, .w1c, 0⟩, ⟨0x050, 29, 29, .w1c, 0⟩, ⟨0x050, 28, 28, .w1c, 0⟩, ⟨0x050, 27, 27, .ro, 0⟩, ⟨0x050, 25, 16, .ro, 0⟩, ⟨0x050, 9, 0, .ro, 0⟩,  -- SLU_STATUS
    ⟨0x054, 31, 0, .ro, 0⟩,  -- SLU_UNITS_LO
    ⟨0x058, 31, 0, .ro, 0⟩,  -- SLU_UNITS_HI
    ⟨0x05C, 31, 0, .rc, 0⟩,  -- SLU_CEIL_CYC
    ⟨0x060, 31, 0, .rc, 0⟩,  -- SLU_GUAR_MISS
    ⟨0x064, 31, 0, .rw, 0⟩,  -- SLU_PIN_BASE
    ⟨0x068, 23, 0, .rw, 0⟩,  -- SLU_PIN_SIZE
    ⟨0x06C, 0, 0, .rw, 0⟩,  -- SLU_PIN_CTL
    ⟨0x070, 6, 0, .rw, 0x14⟩,  -- SLU_MAINT
    ⟨0x074, 10, 0, .ro, 0⟩ ]  -- SLU_SUM

/-- The registers of the ordering (R276). -/
def ordFields : List RegField :=
  [ ⟨0x040, 9, 8, .rw, 0⟩, ⟨0x040, 5, 0, .rw, 0⟩,  -- ORD_RAT_SEL
    ⟨0x044, 31, 31, .rwl, 0⟩, ⟨0x044, 30, 30, .rwl, 0⟩, ⟨0x044, 29, 28, .rwl, 0⟩,  -- ORD_RAT_CTL
    ⟨0x048, 31, 0, .rwl, 0⟩,  -- ORD_RAT_BASE_LO
    ⟨0x04C, 31, 0, .rwl, 0⟩,  -- ORD_RAT_BASE_HI
    ⟨0x050, 31, 0, .rwl, 0⟩,  -- ORD_RAT_SIZE
    ⟨0x054, 3, 3, .rwl, 0⟩, ⟨0x054, 2, 2, .rwl, 0⟩, ⟨0x054, 1, 1, .rwl, 1⟩, ⟨0x054, 0, 0, .rwl, 1⟩,  -- ORD_RAT_DEFAULT
    ⟨0x058, 31, 0, .rc, 0⟩ ]  -- ORD_WARM_DISCARD

/-- The registers of the translation control (R298). -/
def xlcFields : List RegField :=
  [ ⟨0x040, 31, 31, .w1s, 0⟩, ⟨0x040, 27, 24, .ro, 0⟩, ⟨0x040, 13, 8, .rw, 0⟩,  -- XLC_INV_CTL
    ⟨0x044, 31, 0, .rw, 0⟩,  -- XLC_INV_BASE_LO
    ⟨0x048, 31, 0, .rw, 0⟩,  -- XLC_INV_BASE_HI
    ⟨0x04C, 31, 0, .rw, 0⟩,  -- XLC_INV_SIZE_LO
    ⟨0x050, 31, 0, .rw, 0⟩,  -- XLC_INV_SIZE_HI
    ⟨0x054, 31, 0, .ro, 0⟩,  -- XLC_INV_FAILED
    ⟨0x058, 5, 0, .rw, 0⟩,  -- XLC_SEL
    ⟨0x05C, 31, 31, .rw, 0⟩, ⟨0x05C, 19, 0, .rw, 0⟩,  -- XLC_PASID
    ⟨0x060, 9, 0, .ro, 0⟩ ]  -- XLC_PRI_OUT

/-- The registers of the host port (R340). -/
def hpFields : List RegField :=
  [ ⟨0x040, 31, 31, .ro, 0⟩, ⟨0x040, 30, 30, .ro, 0⟩, ⟨0x040, 29, 29, .ro, 0⟩, ⟨0x040, 28, 28, .ro, 0⟩, ⟨0x040, 27, 27, .ro, 0⟩, ⟨0x040, 26, 26, .ro, 0⟩, ⟨0x040, 25, 25, .ro, 0⟩, ⟨0x040, 19, 16, .ro, 0⟩, ⟨0x040, 4, 0, .ro, 0⟩,  -- HP_LINK
    ⟨0x044, 2, 2, .w1s, 0⟩, ⟨0x044, 1, 1, .rw, 0⟩, ⟨0x044, 0, 0, .rw, 1⟩,  -- HP_CTL
    ⟨0x048, 5, 0, .rw, 0⟩,  -- HP_MEM_PART
    ⟨0x04C, 31, 4, .rc, 0⟩, ⟨0x04C, 3, 0, .ro, 0⟩,  -- HP_RESETS
    ⟨0x050, 31, 0, .ro, 0⟩,  -- HP_TX_LO
    ⟨0x054, 31, 0, .ro, 0⟩,  -- HP_TX_HI
    ⟨0x058, 31, 0, .ro, 0⟩,  -- HP_RX_LO
    ⟨0x05C, 31, 0, .ro, 0⟩,  -- HP_RX_HI
    ⟨0x060, 31, 0, .rc, 0⟩,  -- HP_CPL_ERR
    ⟨0x064, 31, 0, .rc, 0⟩,  -- HP_OOR
    ⟨0x068, 31, 0, .rc, 0⟩,  -- HP_WB_LOST
    ⟨0x06C, 31, 0, .rc, 0⟩ ]  -- HP_BISNP

/-- The registers of the attach (R341). -/
def attFields : List RegField :=
  [ ⟨0x040, 31, 30, .ro, 2⟩, ⟨0x040, 29, 29, .ro, 0⟩, ⟨0x040, 28, 28, .ro, 0⟩, ⟨0x040, 27, 27, .ro, 0⟩, ⟨0x040, 6, 0, .ro, 0⟩,  -- ATT_STATUS
    ⟨0x044, 31, 28, .ro, 0⟩, ⟨0x044, 1, 1, .w1s, 0⟩, ⟨0x044, 0, 0, .w1s, 0⟩,  -- ATT_COH
    ⟨0x048, 5, 0, .rw, 0⟩,  -- ATT_SEL
    ⟨0x04C, 31, 31, .ro, 0⟩, ⟨0x04C, 30, 30, .ro, 0⟩, ⟨0x04C, 29, 29, .ro, 0⟩, ⟨0x04C, 28, 26, .ro, 0⟩, ⟨0x04C, 15, 0, .ro, 0xFFFF⟩,  -- ATT_CTX
    ⟨0x050, 31, 31, .w1s, 0⟩, ⟨0x050, 7, 4, .ro, 0⟩, ⟨0x050, 3, 0, .rw, 0⟩,  -- ATT_CMD
    ⟨0x054, 31, 0, .rw, 0⟩,  -- ATT_TOKEN0
    ⟨0x058, 31, 0, .rw, 0⟩,  -- ATT_TOKEN1
    ⟨0x05C, 31, 0, .rw, 0⟩,  -- ATT_TOKEN2
    ⟨0x060, 31, 0, .rw, 0⟩,  -- ATT_TOKEN3
    ⟨0x064, 31, 0, .ro, 0⟩,  -- ATT_DET_CNT_LO
    ⟨0x068, 31, 0, .ro, 0⟩ ]  -- ATT_DET_CNT_HI

/-- The registers of the machine (R374). -/
def mchFields : List RegField :=
  [ ⟨0x040, 31, 31, .rwl, 0⟩, ⟨0x040, 19, 0, .rwl, 0⟩,  -- MCH_DEV_ID
    ⟨0x044, 31, 16, .rw, 0⟩, ⟨0x044, 15, 0, .ro, 0⟩,  -- MCH_PART
    ⟨0x048, 27, 16, .rw, 0⟩, ⟨0x048, 11, 0, .rw, 1⟩,  -- MCH_PART_PODS
    ⟨0x04C, 31, 31, .w1s, 0⟩, ⟨0x04C, 27, 24, .ro, 2⟩, ⟨0x04C, 3, 0, .rw, 0⟩,  -- MCH_PART_CMD
    ⟨0x050, 11, 0, .rw, 0⟩,  -- MCH_ROUTE_SEL
    ⟨0x054, 23, 0, .rw, 0⟩,  -- MCH_ROUTE_UP
    ⟨0x058, 27, 20, .rw, 0⟩, ⟨0x058, 19, 19, .rw, 0⟩, ⟨0x058, 15, 0, .rw, 0⟩,  -- MCH_ROUTE_TAG
    ⟨0x05C, 31, 31, .w1s, 0⟩, ⟨0x05C, 30, 28, .rw, 0⟩, ⟨0x05C, 27, 24, .ro, 0⟩,  -- MCH_JOB_CTL
    ⟨0x060, 31, 0, .rw, 0⟩,  -- MCH_JOB_REC_LO
    ⟨0x064, 31, 0, .rw, 0⟩,  -- MCH_JOB_REC_HI
    ⟨0x068, 31, 0, .rw, 0⟩,  -- MCH_JOB_ID
    ⟨0x06C, 31, 24, .ro, 0⟩, ⟨0x06C, 19, 0, .ro, 0⟩,  -- MCH_JOB_FAIL
    ⟨0x070, 19, 0, .ro, 0⟩,  -- MCH_JOB_FAIL_N
    ⟨0x074, 31, 0, .ro, 0⟩,  -- MCH_JOB_COMMIT_LO
    ⟨0x078, 31, 0, .ro, 0⟩ ]  -- MCH_JOB_COMMIT_HI

/-- The registers of the mirror (R392). -/
def mirFields : List RegField :=
  [ ⟨0x040, 31, 31, .rw, 0⟩, ⟨0x040, 30, 30, .rw, 0⟩, ⟨0x040, 21, 16, .rw, 0⟩,  -- MIR_CTL
    ⟨0x044, 31, 31, .rw, 0⟩, ⟨0x044, 19, 0, .rw, 0⟩,  -- MIR_PARTNER
    ⟨0x048, 31, 0, .rw, 0⟩,  -- MIR_TWIN0
    ⟨0x04C, 31, 0, .rw, 0⟩,  -- MIR_TWIN1
    ⟨0x050, 31, 0, .rw, 0⟩,  -- MIR_TWIN2
    ⟨0x054, 19, 0, .rw, 0x3E8⟩,  -- MIR_LAG
    ⟨0x058, 3, 0, .rw, 0⟩,  -- MIR_REG_SEL
    ⟨0x05C, 22, 0, .rw, 0⟩,  -- MIR_REG_BASE
    ⟨0x060, 22, 0, .rw, 0⟩,  -- MIR_REG_SIZE
    ⟨0x064, 31, 0, .rw, 0⟩,  -- MIR_CTX_LO
    ⟨0x068, 31, 0, .rw, 0⟩,  -- MIR_CTX_HI
    ⟨0x06C, 31, 31, .w1s, 0⟩, ⟨0x06C, 27, 24, .ro, 0⟩, ⟨0x06C, 3, 0, .rw, 0⟩,  -- MIR_CMD
    ⟨0x070, 31, 28, .ro, 0⟩, ⟨0x070, 27, 27, .ro, 0⟩, ⟨0x070, 26, 26, .ro, 0⟩, ⟨0x070, 20, 16, .ro, 0⟩, ⟨0x070, 15, 0, .ro, 0⟩,  -- MIR_STATUS
    ⟨0x074, 31, 30, .wo, 0⟩, ⟨0x074, 15, 0, .wo, 0⟩,  -- MIR_WITNESS
    ⟨0x078, 31, 0, .ro, 0⟩,  -- MIR_LAG_NOW
    ⟨0x07C, 22, 0, .ro, 0⟩,  -- MIR_DIRTY
    ⟨0x080, 31, 0, .rc, 0⟩ ]  -- MIR_HB_MISS

/-- The registers of the power manager (R413). -/
def pwrFields : List RegField :=
  [ ⟨0x040, 1, 1, .w1s, 0⟩, ⟨0x040, 0, 0, .w1s, 0⟩,  -- PWR_CTL
    ⟨0x044, 15, 0, .rw, 0x9C4⟩,  -- PWR_CAP
    ⟨0x048, 31, 31, .ro, 0⟩, ⟨0x048, 30, 30, .ro, 0⟩, ⟨0x048, 29, 29, .ro, 0⟩, ⟨0x048, 28, 28, .ro, 0⟩, ⟨0x048, 27, 27, .ro, 0⟩, ⟨0x048, 26, 26, .ro, 0⟩, ⟨0x048, 25, 25, .ro, 0⟩, ⟨0x048, 24, 24, .ro, 0⟩, ⟨0x048, 15, 0, .ro, 0⟩,  -- PWR_STATUS
    ⟨0x04C, 15, 0, .ro, 0⟩,  -- PWR_FLOOR
    ⟨0x050, 31, 31, .rw, 0⟩, ⟨0x050, 15, 0, .ro, 0⟩,  -- PWR_SHIFT_CTL
    ⟨0x054, 31, 16, .rw, 0x9C4⟩, ⟨0x054, 15, 0, .rw, 0⟩,  -- PWR_SHIFT_RANGE
    ⟨0x058, 31, 0, .rw, 0⟩,  -- PWR_SHIFT_GROUP
    ⟨0x05C, 15, 0, .ro, 0x9C4⟩,  -- PWR_CAP_EFF
    ⟨0x060, 8, 0, .rw, 0xFA⟩,  -- PWR_EDC
    ⟨0x064, 11, 0, .rw, 0x640⟩,  -- PWR_CORE_MIN
    ⟨0x068, 5, 0, .rw, 8⟩,  -- PWR_DIE_SEL
    ⟨0x06C, 31, 16, .rc, 0⟩, ⟨0x06C, 15, 0, .ro, 0⟩,  -- PWR_DIE_TEMP
    ⟨0x070, 31, 28, .ro, 0⟩, ⟨0x070, 27, 24, .ro, 0⟩, ⟨0x070, 23, 20, .ro, 0xF⟩, ⟨0x070, 19, 17, .ro, 7⟩, ⟨0x070, 16, 13, .ro, 0xF⟩, ⟨0x070, 12, 10, .ro, 0⟩,  -- PWR_CELL_STATUS
    ⟨0x074, 15, 0, .ro, 0⟩,  -- PWR_DIE_W
    ⟨0x078, 7, 0, .ro, 0⟩,  -- PWR_DIE_MARGIN
    ⟨0x07C, 31, 0, .ro, 0⟩,  -- PWR_PKG_MJ_LO
    ⟨0x080, 31, 0, .ro, 0⟩,  -- PWR_PKG_MJ_HI
    ⟨0x084, 5, 0, .rw, 0⟩,  -- PWR_CTX_SEL
    ⟨0x088, 31, 0, .ro, 0⟩,  -- PWR_CTX_USED_LO
    ⟨0x08C, 31, 0, .ro, 0⟩,  -- PWR_CTX_USED_HI
    ⟨0x090, 31, 0, .rw, 0⟩,  -- PWR_CTX_BUDGET_LO
    ⟨0x094, 31, 0, .rw, 0⟩,  -- PWR_CTX_BUDGET_HI
    ⟨0x098, 31, 31, .ro, 0⟩,  -- PWR_CTX_STATUS
    ⟨0x09C, 31, 0, .ro, 0⟩,  -- PWR_UNATTR_LO
    ⟨0x0A0, 31, 0, .ro, 0⟩,  -- PWR_UNATTR_HI
    ⟨0x0A4, 15, 0, .ro, 0⟩,  -- PWR_EST
    ⟨0x0A8, 31, 0, .ro, 0⟩,  -- PWR_DROOP
    ⟨0x0AC, 31, 0, .ro, 0⟩,  -- PWR_EMERG_PREEMPT
    ⟨0x0B0, 31, 0, .ro, 0⟩ ]  -- PWR_LIFE_KWH

/-- The registers of the Polder mailbox (R438). -/
def pldFields : List RegField :=
  [ ⟨0x040, 31, 31, .w1s, 0⟩, ⟨0x040, 30, 30, .w1c, 0⟩, ⟨0x040, 25, 24, .ro, 0⟩, ⟨0x040, 23, 16, .ro, 0⟩, ⟨0x040, 7, 0, .rw, 0⟩,  -- PLD_MBX_CMD
    ⟨0x044, 31, 16, .rw, 0⟩, ⟨0x044, 15, 0, .rw, 0⟩,  -- PLD_MBX_ARG
    ⟨0x048, 31, 0, .rw, 0⟩,  -- PLD_MBX_ARG2
    ⟨0x04C, 31, 24, .ro, 0⟩, ⟨0x04C, 23, 23, .ro, 0⟩, ⟨0x04C, 11, 0, .ro, 0⟩,  -- PLD_MBX_INFO
    ⟨0x050, 31, 0, .ro, 0⟩,  -- PLD_MBX_SEQ
    ⟨0x054, 31, 30, .ro, 0⟩, ⟨0x054, 29, 29, .ro, 0⟩, ⟨0x054, 28, 28, .ro, 0⟩, ⟨0x054, 27, 27, .ro, 0⟩, ⟨0x054, 26, 26, .ro, 0⟩, ⟨0x054, 25, 16, .ro, 0⟩, ⟨0x054, 15, 0, .rc, 0⟩,  -- PLD_STATUS
    ⟨0x058, 31, 0, .ro, 0⟩,  -- PLD_SEQ
    ⟨0x05C, 31, 0, .ro, 0⟩,  -- PLD_LIFE
    ⟨0x060, 31, 24, .ro, 0⟩, ⟨0x060, 23, 16, .ro, 0⟩, ⟨0x060, 15, 0, .ro, 0⟩,  -- PLD_WEAR
    ⟨0x064, 15, 0, .ro, 0⟩,  -- PLD_ERASE_RATE
    ⟨0x068, 15, 0, .ro, 0⟩ ]  -- PLD_HOLDUP

/-- The registers of the Dike (R466). -/
def dkFields : List RegField :=
  [ ⟨0x040, 31, 30, .ro, 0⟩, ⟨0x040, 29, 29, .ro, 0⟩, ⟨0x040, 28, 28, .ro, 0⟩, ⟨0x040, 27, 27, .ro, 0⟩, ⟨0x040, 26, 26, .ro, 0⟩, ⟨0x040, 25, 25, .ro, 0⟩, ⟨0x040, 6, 0, .w1c, 0⟩,  -- DK_STATUS
    ⟨0x044, 29, 16, .ro, 0⟩, ⟨0x044, 13, 0, .ro, 0⟩,  -- DK_LEVELS
    ⟨0x048, 2, 0, .rw, 0⟩,  -- DK_SENSOR_SEL
    ⟨0x04C, 31, 31, .ro, 0⟩, ⟨0x04C, 15, 0, .rc, 0⟩,  -- DK_SENSOR
    ⟨0x050, 31, 29, .ro, 0⟩, ⟨0x050, 28, 27, .ro, 0⟩,  -- DK_LAST
    ⟨0x054, 31, 0, .ro, 0⟩,  -- DK_LAST_CNT_LO
    ⟨0x058, 31, 0, .ro, 0⟩,  -- DK_LAST_CNT_HI
    ⟨0x05C, 31, 28, .ro, 0⟩, ⟨0x05C, 27, 26, .ro, 0⟩, ⟨0x05C, 9, 0, .ro, 0⟩ ]  -- DK_ERASE

/-- The registers of the key (R467). -/
def keyFields : List RegField :=
  [ ⟨0x040, 5, 0, .rw, 0⟩,  -- KEY_SEL
    ⟨0x044, 31, 30, .ro, 0⟩, ⟨0x044, 29, 29, .ro, 0⟩, ⟨0x044, 17, 0, .ro, 0⟩,  -- KEY_SLOT
    ⟨0x048, 17, 0, .rw, 0⟩,  -- KEY_MAP_SEL
    ⟨0x04C, 6, 0, .ro, 0x7F⟩,  -- KEY_MAP_ENT
    ⟨0x050, 31, 0, .rc, 0⟩ ]  -- KEY_NOKEY

/-- The registers of the boot and error (R492). -/
def rstFields : List RegField :=
  [ ⟨0x040, 31, 28, .ro, 1⟩, ⟨0x040, 27, 27, .ro, 0⟩, ⟨0x040, 26, 26, .ro, 0⟩, ⟨0x040, 25, 25, .ro, 0⟩, ⟨0x040, 15, 0, .ro, 0⟩,  -- RST_STAGE
    ⟨0x044, 31, 28, .ro, 1⟩, ⟨0x044, 27, 24, .ro, 0⟩, ⟨0x044, 15, 0, .ro, 0⟩,  -- RST_CAUSE
    ⟨0x048, 31, 31, .w1s, 0⟩, ⟨0x048, 26, 24, .rw, 0⟩, ⟨0x048, 21, 16, .rw, 0⟩, ⟨0x048, 12, 8, .rw, 0⟩, ⟨0x048, 3, 0, .ro, 0⟩,  -- RST_CMD
    ⟨0x04C, 2, 0, .rw, 0⟩,  -- ST_SEL
    ⟨0x050, 31, 0, .ro, 0⟩,  -- ST_FENCED_LO
    ⟨0x054, 31, 0, .ro, 0⟩,  -- ST_FENCED_HI
    ⟨0x058, 31, 31, .rw, 1⟩, ⟨0x058, 7, 0, .rw, 0x18⟩,  -- ST_IDLE_CTL
    ⟨0x05C, 31, 0, .rw, 0⟩,  -- ERR_RING_BASE_LO
    ⟨0x060, 31, 0, .rw, 0⟩,  -- ERR_RING_BASE_HI
    ⟨0x064, 31, 31, .rw, 0⟩, ⟨0x064, 30, 30, .rw, 0⟩, ⟨0x064, 4, 0, .rw, 8⟩,  -- ERR_RING_CTL
    ⟨0x068, 31, 0, .ro, 0⟩,  -- ERR_RING_PROD
    ⟨0x06C, 31, 0, .rw, 0⟩,  -- ERR_RING_CONS
    ⟨0x070, 31, 0, .rc, 0⟩,  -- ERR_CNT_CE
    ⟨0x074, 31, 0, .rc, 0⟩,  -- ERR_CNT_DEF
    ⟨0x078, 31, 0, .rc, 0⟩,  -- ERR_CNT_UC
    ⟨0x07C, 31, 0, .ro, 0⟩,  -- ERR_CNT_FATAL
    ⟨0x080, 31, 0, .rc, 0⟩,  -- ERR_LOST
    ⟨0x084, 31, 31, .ro, 0⟩, ⟨0x084, 30, 29, .ro, 0⟩, ⟨0x084, 28, 28, .rw, 0⟩, ⟨0x084, 15, 0, .ro, 0⟩,  -- ERR_FATAL
    ⟨0x088, 7, 0, .rw, 0⟩ ]  -- ERR_HELD_SEL

/-- The registers of the core control (R317). -/
def coreFields : List RegField :=
  [ ⟨0x040, 6, 0, .rw, 0⟩,  -- CORE_HART_SEL
    ⟨0x044, 31, 28, .ro, 0⟩, ⟨0x044, 1, 0, .ro, 3⟩,  -- CORE_HART_STATUS
    ⟨0x048, 5, 0, .rw, 0⟩,  -- CORE_HART_PART
    ⟨0x04C, 31, 0, .rw, 0⟩,  -- CORE_DB_MASK_LO
    ⟨0x050, 31, 0, .rw, 0⟩,  -- CORE_DB_MASK_HI
    ⟨0x054, 5, 0, .rw, 0⟩,  -- CORE_IRQ_SEL
    ⟨0x058, 31, 31, .rw, 0⟩, ⟨0x058, 30, 28, .rw, 0⟩, ⟨0x058, 22, 16, .rw, 0⟩, ⟨0x058, 7, 0, .rw, 0⟩,  -- CORE_IRQ_ROUTE
    ⟨0x05C, 31, 31, .w1s, 0⟩, ⟨0x05C, 26, 24, .ro, 0⟩,  -- CORE_RUN_CTL
    ⟨0x060, 31, 0, .rw, 0⟩,  -- CORE_IMG_BASE_LO
    ⟨0x064, 31, 0, .rw, 0⟩,  -- CORE_IMG_BASE_HI
    ⟨0x068, 15, 0, .rw, 0⟩,  -- CORE_IMG_SIZE
    ⟨0x06C, 23, 0, .ro, 0⟩,  -- CORE_CLUSTER_OFFLINE
    ⟨0x070, 31, 0, .rc, 0⟩ ]  -- CORE_HOST_DISCARD

/-- The registers of the translation unit (R299). -/
def xltFields : List RegField :=
  [ ⟨0x040, 1, 1, .w1s, 0⟩, ⟨0x040, 0, 0, .rw, 0⟩,  -- XLT_CTL
    ⟨0x044, 31, 31, .ro, 0⟩, ⟨0x044, 23, 16, .ro, 0⟩, ⟨0x044, 6, 0, .ro, 0⟩,  -- XLT_STATUS
    ⟨0x048, 31, 0, .ro, 0⟩,  -- XLT_HIT_LO
    ⟨0x04C, 31, 0, .ro, 0⟩,  -- XLT_HIT_HI
    ⟨0x050, 31, 0, .ro, 0⟩,  -- XLT_WALK_LO
    ⟨0x054, 31, 0, .ro, 0⟩,  -- XLT_WALK_HI
    ⟨0x058, 31, 0, .rc, 0⟩,  -- XLT_PF_USED
    ⟨0x05C, 31, 0, .rc, 0⟩,  -- XLT_PF_DROP
    ⟨0x060, 31, 0, .rc, 0⟩,  -- XLT_FAULT
    ⟨0x064, 31, 0, .rc, 0⟩,  -- XLT_NOREC
    ⟨0x068, 31, 16, .rc, 0⟩, ⟨0x068, 15, 0, .rc, 0⟩,  -- XLT_HOST
    ⟨0x06C, 31, 0, .rc, 0⟩ ]  -- XLT_INV

/-- The registers of the stream engine (R201). -/
def steFields : List RegField :=
  [ ⟨0x040, 1, 1, .w1s, 0⟩, ⟨0x040, 0, 0, .rw, 0⟩,  -- STE_CTL
    ⟨0x044, 17, 0, .rw, 0⟩,  -- STE_SEL
    ⟨0x048, 31, 20, .ro, 1⟩, ⟨0x048, 19, 18, .ro, 0⟩, ⟨0x048, 17, 12, .ro, 0⟩, ⟨0x048, 11, 8, .ro, 0⟩, ⟨0x048, 7, 4, .ro, 0⟩, ⟨0x048, 1, 0, .ro, 0⟩,  -- STE_STREAM
    ⟨0x04C, 31, 27, .ro, 0⟩, ⟨0x04C, 23, 16, .ro, 0⟩, ⟨0x04C, 14, 0, .ro, 0⟩,  -- STE_STREAM_CRED
    ⟨0x050, 31, 0, .ro, 0⟩,  -- STE_STREAM_BYTES_LO
    ⟨0x054, 31, 0, .ro, 0⟩,  -- STE_STREAM_BYTES_HI
    ⟨0x058, 17, 0, .ro, 0⟩,  -- STE_ACTIVE
    ⟨0x05C, 31, 0, .rc, 0⟩,  -- STE_STALE_CNT
    ⟨0x060, 31, 0, .ro, 0⟩,  -- STE_STALE_LAST
    ⟨0x064, 19, 0, .ro, 0⟩,  -- STE_STALE_DEV
    ⟨0x068, 31, 0, .rc, 0⟩,  -- STE_NACK_RX
    ⟨0x06C, 31, 31, .ro, 0⟩, ⟨0x06C, 16, 0, .ro, 0⟩,  -- STE_HOLD
    ⟨0x070, 31, 0, .rc, 0⟩,  -- STE_FLUSH_CNT
    ⟨0x074, 31, 0, .ro, 0⟩,  -- STE_BYTES_LO
    ⟨0x078, 31, 0, .ro, 0⟩ ]  -- STE_BYTES_HI

/-- The registers of the re-shard engine (R202). -/
def rseFields : List RegField :=
  [ ⟨0x040, 31, 28, .ro, 0⟩, ⟨0x040, 27, 22, .ro, 0⟩, ⟨0x040, 7, 0, .ro, 0⟩,  -- RSE_STATUS
    ⟨0x044, 31, 0, .ro, 0⟩,  -- RSE_MAP_ID
    ⟨0x048, 31, 0, .ro, 0⟩,  -- RSE_SENT_LO
    ⟨0x04C, 31, 0, .ro, 0⟩,  -- RSE_SENT_HI
    ⟨0x050, 31, 0, .ro, 0⟩,  -- RSE_AWAIT_LO
    ⟨0x054, 31, 0, .ro, 0⟩,  -- RSE_AWAIT_HI
    ⟨0x058, 19, 0, .ro, 0⟩ ]  -- RSE_WAIT_DEV

/-- The registers of the floor cache (R254). -/
def flcFields : List RegField :=
  [ ⟨0x040, 3, 3, .w1s, 0⟩, ⟨0x040, 2, 2, .rw, 1⟩, ⟨0x040, 1, 1, .w1s, 0⟩, ⟨0x040, 0, 0, .rw, 0⟩,  -- FLC_CTL
    ⟨0x044, 31, 31, .ro, 0⟩, ⟨0x044, 30, 30, .ro, 0⟩, ⟨0x044, 21, 16, .ro, 0⟩, ⟨0x044, 15, 11, .ro, 0⟩, ⟨0x044, 10, 0, .ro, 0⟩,  -- FLC_STATUS
    ⟨0x048, 31, 0, .ro, 0⟩,  -- FLC_EFF_SIZE
    ⟨0x04C, 9, 6, .rw, 0⟩, ⟨0x04C, 5, 0, .rw, 0⟩,  -- FLC_RET_SEL
    ⟨0x050, 15, 0, .ro, 0⟩,  -- FLC_RET_MAP
    ⟨0x054, 3, 0, .ro, 0⟩,  -- FLC_WAY_CE
    ⟨0x058, 31, 0, .ro, 0⟩,  -- FLC_RD_HIT_LO
    ⟨0x05C, 31, 0, .ro, 0⟩,  -- FLC_RD_HIT_HI
    ⟨0x060, 31, 0, .ro, 0⟩,  -- FLC_RD_MISS_LO
    ⟨0x064, 31, 0, .ro, 0⟩,  -- FLC_RD_MISS_HI
    ⟨0x068, 31, 0, .rc, 0⟩,  -- FLC_PF_ISSUED
    ⟨0x06C, 31, 0, .rc, 0⟩,  -- FLC_POCKET_HIT
    ⟨0x070, 31, 0, .rc, 0⟩ ]  -- FLC_POCKET_DROP

/-- The registers of the coherence (R255). -/
def cohFields : List RegField :=
  [ ⟨0x040, 2, 2, .rw, 0⟩, ⟨0x040, 1, 1, .w1s, 0⟩, ⟨0x040, 0, 0, .rw, 0⟩,  -- COH_CTL
    ⟨0x044, 31, 0, .rw, 0⟩,  -- COH_PROBE_ADDR_LO
    ⟨0x048, 31, 0, .rw, 0⟩,  -- COH_PROBE_ADDR_HI
    ⟨0x04C, 31, 31, .w1s, 0⟩, ⟨0x04C, 30, 30, .ro, 0⟩,  -- COH_PROBE
    ⟨0x050, 31, 29, .ro, 0⟩, ⟨0x050, 28, 28, .ro, 0⟩, ⟨0x050, 27, 24, .ro, 0⟩, ⟨0x050, 23, 18, .ro, 0⟩, ⟨0x050, 17, 12, .ro, 0⟩, ⟨0x050, 11, 6, .ro, 0⟩, ⟨0x050, 5, 0, .ro, 0⟩,  -- COH_PROBE_RESULT
    ⟨0x054, 31, 0, .rc, 0⟩,  -- COH_BCAST
    ⟨0x058, 31, 0, .rc, 0⟩,  -- COH_OVERFLOW
    ⟨0x05C, 31, 0, .rc, 0⟩,  -- COH_STALE
    ⟨0x060, 31, 0, .rc, 0⟩,  -- COH_DIR_EVICT
    ⟨0x064, 31, 0, .rc, 0⟩,  -- COH_STASH_ACC
    ⟨0x068, 31, 0, .rc, 0⟩,  -- COH_STASH_DEC
    ⟨0x06C, 31, 16, .rc, 0⟩, ⟨0x06C, 5, 0, .ro, 0⟩,  -- COH_SNP_TIMEOUT
    ⟨0x070, 31, 0, .ro, 0⟩,  -- COH_AGENT_EN_LO
    ⟨0x074, 31, 0, .ro, 0⟩,  -- COH_AGENT_EN_HI
    ⟨0x078, 0, 0, .ro, 0⟩ ]  -- COH_HOST_MODE

/-- The registers of the match unit (R155). -/
def mtuFields : List RegField :=
  [ ⟨0x040, 1, 1, .w1s, 0⟩, ⟨0x040, 0, 0, .rw, 0⟩,  -- MTU_CTL
    ⟨0x044, 31, 28, .ro, 0⟩, ⟨0x044, 27, 24, .ro, 0⟩, ⟨0x044, 23, 23, .ro, 0⟩, ⟨0x044, 22, 17, .ro, 0⟩, ⟨0x044, 16, 11, .ro, 0⟩, ⟨0x044, 10, 5, .ro, 0⟩,  -- MTU_STATUS
    ⟨0x048, 31, 0, .ro, 0⟩,  -- MTU_REQ_CNT_LO
    ⟨0x04C, 31, 0, .ro, 0⟩,  -- MTU_REQ_CNT_HI
    ⟨0x050, 31, 0, .ro, 0⟩,  -- MTU_BUSY_CYC_LO
    ⟨0x054, 31, 0, .ro, 0⟩,  -- MTU_BUSY_CYC_HI
    ⟨0x058, 31, 0, .rc, 0⟩,  -- MTU_WAIT_CYC
    ⟨0x05C, 15, 0, .rc, 0⟩,  -- MTU_LAT_WAIT_MAX
    ⟨0x060, 31, 0, .rc, 0⟩,  -- MTU_PLACED
    ⟨0x064, 31, 0, .rc, 0⟩,  -- MTU_ALTERNATE
    ⟨0x068, 31, 0, .rc, 0⟩,  -- MTU_DEFERRED
    ⟨0x06C, 31, 0, .rc, 0⟩,  -- MTU_DROPPED
    ⟨0x070, 31, 0, .rc, 0⟩,  -- MTU_LOST
    ⟨0x074, 31, 0, .rc, 0⟩ ]  -- MTU_NAN

/-- The registers of the cell sequencer (R74). -/
def cseqFields : List RegField :=
  [ ⟨0x040, 2, 2, .w1s, 0⟩, ⟨0x040, 1, 1, .w1s, 0⟩, ⟨0x040, 0, 0, .rw, 0⟩,  -- CSEQ_CTL
    ⟨0x044, 31, 28, .ro, 0⟩, ⟨0x044, 27, 22, .ro, 0⟩, ⟨0x044, 21, 16, .ro, 0⟩, ⟨0x044, 15, 8, .ro, 0⟩, ⟨0x044, 7, 7, .ro, 0⟩, ⟨0x044, 6, 6, .ro, 0⟩, ⟨0x044, 5, 5, .ro, 0⟩,  -- CSEQ_STATUS
    ⟨0x048, 2, 0, .rw, 0⟩,  -- CSEQ_TRACK_SEL
    ⟨0x04C, 31, 31, .ro, 0⟩, ⟨0x04C, 30, 30, .ro, 0⟩, ⟨0x04C, 29, 29, .ro, 0⟩, ⟨0x04C, 28, 28, .ro, 0⟩, ⟨0x04C, 25, 16, .ro, 0⟩, ⟨0x04C, 15, 0, .ro, 0⟩,  -- CSEQ_TRACK_STATE
    ⟨0x050, 6, 6, .rw, 0⟩, ⟨0x050, 5, 0, .rw, 0⟩,  -- CSEQ_CNT_SEL
    ⟨0x054, 31, 24, .ro, 0⟩, ⟨0x054, 23, 16, .ro, 0⟩, ⟨0x054, 15, 0, .ro, 0⟩,  -- CSEQ_TOKEN_CNT
    ⟨0x058, 31, 30, .ro, 0⟩, ⟨0x058, 21, 0, .ro, 0⟩,  -- CSEQ_CNT_BASE
    ⟨0x05C, 15, 0, .ro, 0⟩,  -- CSEQ_CNT_SIZE
    ⟨0x060, 7, 0, .ro, 0⟩,  -- CSEQ_PRED
    ⟨0x064, 3, 0, .ro, 0⟩,  -- CSEQ_PHASE
    ⟨0x068, 31, 24, .ro, 0⟩, ⟨0x068, 18, 16, .ro, 0⟩, ⟨0x068, 9, 0, .ro, 0⟩,  -- CSEQ_FAULT
    ⟨0x06C, 31, 0, .ro, 0⟩,  -- CSEQ_FIRE_CNT_LO
    ⟨0x070, 31, 0, .ro, 0⟩,  -- CSEQ_FIRE_CNT_HI
    ⟨0x074, 31, 0, .rc, 0⟩,  -- CSEQ_WAIT_TOKEN_CYC
    ⟨0x078, 31, 0, .rc, 0⟩ ]  -- CSEQ_WAIT_CREDIT_CYC

/-- The registers of the matrix engine (R116). -/
def mxeFields : List RegField :=
  [ ⟨0x040, 2, 2, .w1s, 0⟩, ⟨0x040, 1, 1, .rw, 0⟩, ⟨0x040, 0, 0, .rw, 0⟩,  -- MXE_CTL
    ⟨0x044, 31, 28, .ro, 0⟩, ⟨0x044, 27, 24, .ro, 0⟩, ⟨0x044, 23, 20, .ro, 0⟩, ⟨0x044, 19, 19, .ro, 0⟩, ⟨0x044, 18, 17, .ro, 0⟩, ⟨0x044, 9, 0, .ro, 0⟩,  -- MXE_STATUS
    ⟨0x048, 31, 0, .ro, 0⟩,  -- MXE_OP_CNT_LO
    ⟨0x04C, 31, 0, .ro, 0⟩,  -- MXE_OP_CNT_HI
    ⟨0x050, 31, 0, .ro, 0⟩,  -- MXE_BUSY_CYC_LO
    ⟨0x054, 31, 0, .ro, 0⟩,  -- MXE_BUSY_CYC_HI
    ⟨0x058, 31, 0, .ro, 0⟩,  -- MXE_MAC_LO
    ⟨0x05C, 31, 0, .ro, 0⟩,  -- MXE_MAC_HI
    ⟨0x060, 31, 0, .ro, 0⟩,  -- MXE_CAP_MAC_LO
    ⟨0x064, 31, 0, .ro, 0⟩,  -- MXE_CAP_MAC_HI
    ⟨0x068, 31, 0, .rc, 0⟩,  -- MXE_SKIP_ACT
    ⟨0x06C, 31, 0, .rc, 0⟩,  -- MXE_SKIP_BLK
    ⟨0x070, 31, 0, .rc, 0⟩,  -- MXE_MIN_TILE
    ⟨0x074, 31, 0, .rc, 0⟩,  -- MXE_NAN_OUT
    ⟨0x078, 31, 0, .rc, 0⟩ ]  -- MXE_SAT_OUT

/-- The registers of the vector engine (R135). -/
def vxeFields : List RegField :=
  [ ⟨0x040, 2, 2, .w1s, 0⟩, ⟨0x040, 1, 1, .rw, 0⟩,  -- VXE_CTL
    ⟨0x044, 31, 28, .ro, 0⟩, ⟨0x044, 27, 24, .ro, 0⟩, ⟨0x044, 23, 22, .ro, 0⟩, ⟨0x044, 21, 21, .ro, 0⟩, ⟨0x044, 20, 19, .ro, 0⟩, ⟨0x044, 16, 10, .ro, 0⟩, ⟨0x044, 9, 0, .ro, 0⟩,  -- VXE_STATUS
    ⟨0x048, 31, 0, .ro, 0⟩,  -- VXE_OP_CNT_LO
    ⟨0x04C, 31, 0, .ro, 0⟩,  -- VXE_OP_CNT_HI
    ⟨0x050, 31, 0, .ro, 0⟩,  -- VXE_BUSY_CYC_LO
    ⟨0x054, 31, 0, .ro, 0⟩,  -- VXE_BUSY_CYC_HI
    ⟨0x058, 31, 0, .ro, 0⟩,  -- VXE_LANE_OPS_LO
    ⟨0x05C, 31, 0, .ro, 0⟩,  -- VXE_LANE_OPS_HI
    ⟨0x060, 31, 0, .rc, 0⟩,  -- VXE_TAIL_LANES
    ⟨0x064, 31, 0, .rc, 0⟩,  -- VXE_CRV_CLAMP
    ⟨0x068, 31, 0, .rc, 0⟩,  -- VXE_NAN_OUT
    ⟨0x06C, 31, 0, .rc, 0⟩ ]  -- VXE_SAT_OUT

/-- The registers of the link die control (R373). -/
def lxFields : List RegField :=
  [ ⟨0x040, 4, 0, .rw, 0⟩,  -- LX_TRN_SEL
    ⟨0x044, 31, 0, .rwl, 0⟩,  -- LX_TRN_ENTRY_LO
    ⟨0x048, 31, 0, .rwl, 0⟩,  -- LX_TRN_ENTRY_HI
    ⟨0x04C, 0, 0, .w1s, 0⟩ ]  -- LX_TRN_CTL

/-- The registers of the link port (R372). -/
def lkFields : List RegField :=
  [ ⟨0x040, 3, 3, .w1s, 0⟩, ⟨0x040, 2, 2, .rw, 0⟩, ⟨0x040, 1, 1, .w1s, 0⟩, ⟨0x040, 0, 0, .rw, 0⟩,  -- LK_CTL
    ⟨0x044, 31, 28, .ro, 0⟩, ⟨0x044, 27, 24, .ro, 0⟩, ⟨0x044, 23, 23, .ro, 0⟩, ⟨0x044, 22, 21, .ro, 0⟩, ⟨0x044, 20, 16, .ro, 0⟩,  -- LK_STATUS
    ⟨0x048, 31, 31, .ro, 0⟩, ⟨0x048, 24, 20, .ro, 0⟩, ⟨0x048, 19, 0, .ro, 0⟩,  -- LK_PEER
    ⟨0x04C, 31, 16, .rc, 0⟩, ⟨0x04C, 15, 0, .rc, 0⟩,  -- LK_FEC
    ⟨0x050, 31, 16, .rc, 0⟩, ⟨0x050, 15, 0, .rc, 0⟩,  -- LK_RETRY
    ⟨0x054, 31, 0, .rc, 0⟩,  -- LK_ABORT
    ⟨0x058, 31, 0, .rc, 0⟩,  -- LK_FENCE_DROP
    ⟨0x05C, 31, 0, .rc, 0⟩,  -- LK_NOROUTE
    ⟨0x060, 31, 0, .rc, 0⟩,  -- LK_PRIO
    ⟨0x064, 31, 0, .ro, 0⟩,  -- LK_TX_LO
    ⟨0x068, 31, 0, .ro, 0⟩,  -- LK_TX_HI
    ⟨0x06C, 31, 0, .ro, 0⟩,  -- LK_RX_LO
    ⟨0x070, 31, 0, .ro, 0⟩ ]  -- LK_RX_HI

/-- The registers of the traffic generator (R224). -/
def tgenFields : List RegField :=
  [ ⟨0x040, 4, 0, .rw, 0⟩,  -- TGEN_CHAN_SEL
    ⟨0x044, 31, 31, .w1s, 0⟩, ⟨0x044, 30, 30, .w1s, 0⟩, ⟨0x044, 29, 29, .rw, 0⟩, ⟨0x044, 26, 24, .rw, 0⟩, ⟨0x044, 23, 20, .rw, 0⟩, ⟨0x044, 15, 0, .rw, 1⟩,  -- TGEN_CTL
    ⟨0x048, 31, 0, .rw, 0x7FC00000⟩,  -- TGEN_OFFSET
    ⟨0x04C, 31, 0, .rw, 0x10000⟩,  -- TGEN_LENGTH
    ⟨0x050, 31, 0, .rw, 0⟩,  -- TGEN_STAMP_LO
    ⟨0x054, 31, 0, .rw, 0⟩,  -- TGEN_STAMP_HI
    ⟨0x058, 31, 0, .rw, 0⟩,  -- TGEN_USER
    ⟨0x05C, 31, 28, .ro, 0⟩, ⟨0x05C, 27, 24, .ro, 0⟩, ⟨0x05C, 15, 0, .ro, 0⟩,  -- TGEN_STATUS
    ⟨0x060, 31, 0, .rc, 0⟩,  -- TGEN_MISMATCH
    ⟨0x064, 31, 0, .ro, 0⟩,  -- TGEN_FIRST_ERR
    ⟨0x068, 31, 16, .rc, 0⟩, ⟨0x068, 15, 0, .rc, 0⟩ ]  -- TGEN_CODE_ERR

/-- The registers of the memory health (R225). -/
def hbmcFields : List RegField :=
  [ ⟨0x040, 4, 0, .rw, 0⟩,  -- HBMC_CHAN_SEL
    ⟨0x044, 23, 16, .rw, 0xC⟩, ⟨0x044, 15, 0, .ro, 0⟩,  -- HBMC_SCRUB_CTL
    ⟨0x048, 31, 0, .rc, 0⟩,  -- HBMC_CE_CNT
    ⟨0x04C, 31, 0, .rc, 0⟩,  -- HBMC_UE_CNT
    ⟨0x050, 31, 16, .ro, 0⟩, ⟨0x050, 15, 0, .ro, 0⟩,  -- HBMC_SPARE
    ⟨0x054, 31, 31, .ro, 0⟩, ⟨0x054, 30, 30, .ro, 0⟩, ⟨0x054, 29, 29, .ro, 0⟩, ⟨0x054, 23, 16, .ro, 0⟩, ⟨0x054, 15, 0, .rc, 0⟩,  -- HBMC_CAL
    ⟨0x058, 31, 31, .ro, 0⟩, ⟨0x058, 30, 24, .ro, 0⟩, ⟨0x058, 7, 0, .ro, 0⟩ ]  -- HBMC_LANE

/-- The registers of the doorbell page in BAR4 (R46, R297). -/
def dbFields : List RegField :=
  [ ⟨0x000, 31, 0, .wo, 0⟩,  -- CQ_DOORBELL
    ⟨0x004, 31, 0, .ro, 0⟩,  -- CQ_CONSUMED
    ⟨0x008, 31, 31, .ro, 0⟩, ⟨0x008, 30, 30, .w1c, 0⟩, ⟨0x008, 23, 16, .ro, 0⟩, ⟨0x008, 4, 0, .ro, 0⟩,  -- CQ_STATUS
    ⟨0x00C, 0, 0, .wo, 0⟩,  -- CQ_RESUME
    ⟨0x010, 31, 0, .ro, 0⟩,  -- FQ_PRODUCED
    ⟨0x014, 31, 0, .rw, 0⟩,  -- FQ_CONSUMED
    ⟨0x018, 31, 31, .wo, 0⟩, ⟨0x018, 15, 0, .wo, 0⟩,  -- FQ_RESP
    ⟨0x01C, 31, 31, .ro, 0⟩, ⟨0x01C, 30, 30, .ro, 0⟩, ⟨0x01C, 29, 29, .w1c, 0⟩, ⟨0x01C, 28, 28, .w1c, 0⟩, ⟨0x01C, 27, 27, .w1c, 0⟩, ⟨0x01C, 26, 26, .w1c, 0⟩, ⟨0x01C, 25, 25, .ro, 0⟩, ⟨0x01C, 15, 0, .ro, 0⟩ ]  -- FQ_STATUS

/-- The block registers of a page of each kind. -/
def blockFields : PageKind → List RegField
  | .die => dieFields
  | .prm => dieFields ++ prmFields
  | .pkg => pkgFields
  | .ctxm => ctxmFields
  | .route => routeFields
  | .cic => cicFields
  | .slu => sluFields
  | .ord => ordFields
  | .xlc => xlcFields
  | .hp => hpFields
  | .att => attFields
  | .mch => mchFields
  | .mir => mirFields
  | .pwr => pwrFields
  | .pld => pldFields
  | .dk => dkFields
  | .key => keyFields
  | .rst => rstFields
  | .core => coreFields
  | .xlt => xltFields
  | .ste => steFields
  | .rse => rseFields
  | .flc => flcFields
  | .coh => cohFields
  | .mtu => mtuFields
  | .cseq => cseqFields
  | .mxe => mxeFields
  | .vxe => vxeFields
  | .lx => lxFields
  | .lk => lkFields
  | .tgen => tgenFields
  | .hbmc => hbmcFields
  | .db => dbFields

/-- TYPE of PG_ID for each kind of page (R504); the doorbell pages have no header. -/
def PageKind.type : PageKind → Nat
  | .die => 0x01
  | .prm => 0x01
  | .pkg => 0x02
  | .ctxm => 0x03
  | .route => 0x04
  | .cic => 0x05
  | .slu => 0x06
  | .ord => 0x07
  | .xlc => 0x08
  | .hp => 0x09
  | .att => 0x0A
  | .mch => 0x0B
  | .mir => 0x0C
  | .pwr => 0x0D
  | .pld => 0x0E
  | .dk => 0x0F
  | .key => 0x10
  | .rst => 0x11
  | .core => 0x20
  | .xlt => 0x21
  | .ste => 0x30
  | .rse => 0x31
  | .flc => 0x32
  | .coh => 0x33
  | .mtu => 0x40
  | .cseq => 0x41
  | .mxe => 0x42
  | .vxe => 0x43
  | .lx => 0x50
  | .lk => 0x51
  | .tgen => 0x60
  | .hbmc => 0x61
  | .db => 0x00

/-- How many interrupt bits each kind of page implements, counted from the events its chapter names (DEDUCED,
notes/assumptions/4.md): CIC bits 0 to 9, for one. -/
def PageKind.intBits : PageKind → Nat
  | .die => 1
  | .prm => 1
  | .pkg => 0
  | .ctxm => 0
  | .route => 0
  | .cic => 10
  | .slu => 0
  | .ord => 0
  | .xlc => 0
  | .hp => 2
  | .att => 2
  | .mch => 2
  | .mir => 2
  | .pwr => 4
  | .pld => 3
  | .dk => 2
  | .key => 0
  | .rst => 3
  | .core => 2
  | .xlt => 3
  | .ste => 1
  | .rse => 0
  | .flc => 3
  | .coh => 2
  | .mtu => 1
  | .cseq => 0
  | .mxe => 1
  | .vxe => 1
  | .lx => 0
  | .lk => 2
  | .tgen => 1
  | .hbmc => 0
  | .db => 0

/-- Offset of the last block register of a page of each kind, which PG_CAPS.LAST_REG gives divided by 4 (R497). -/
def PageKind.lastReg : PageKind → Nat
  | .die => 0x07C
  | .prm => 0x0AC
  | .pkg => 0x058
  | .ctxm => 0x054
  | .route => 0x04C
  | .cic => 0x078
  | .slu => 0x074
  | .ord => 0x058
  | .xlc => 0x060
  | .hp => 0x06C
  | .att => 0x068
  | .mch => 0x078
  | .mir => 0x080
  | .pwr => 0x0B0
  | .pld => 0xFFC
  | .dk => 0x05C
  | .key => 0x050
  | .rst => 0x17C
  | .core => 0x070
  | .xlt => 0x06C
  | .ste => 0x078
  | .rse => 0x058
  | .flc => 0x070
  | .coh => 0x078
  | .mtu => 0x074
  | .cseq => 0x078
  | .mxe => 0x078
  | .vxe => 0x06C
  | .lx => 0x04C
  | .lk => 0x070
  | .tgen => 0x068
  | .hbmc => 0x058
  | .db => 0x01C

/-- The offsets of the _LO registers of each kind of page; the _HI register stands 4 bytes above each (R8). -/
def PageKind.loRegs : PageKind → List Nat
  | .die => []
  | .prm => [0x088]
  | .pkg => []
  | .ctxm => [0x044, 0x050]
  | .route => []
  | .cic => [0x040, 0x064]
  | .slu => [0x054]
  | .ord => [0x048]
  | .xlc => [0x044, 0x04C]
  | .hp => [0x050, 0x058]
  | .att => [0x064]
  | .mch => [0x060, 0x074]
  | .mir => [0x064]
  | .pwr => [0x07C, 0x088, 0x090, 0x09C]
  | .pld => []
  | .dk => [0x054]
  | .key => []
  | .rst => [0x050, 0x05C]
  | .core => [0x04C, 0x060]
  | .xlt => [0x048, 0x050]
  | .ste => [0x050, 0x074]
  | .rse => [0x048, 0x050]
  | .flc => [0x058, 0x060]
  | .coh => [0x044, 0x070]
  | .mtu => [0x048, 0x050]
  | .cseq => [0x06C]
  | .mxe => [0x048, 0x050, 0x058, 0x060]
  | .vxe => [0x048, 0x050, 0x058]
  | .lx => [0x044]
  | .lk => [0x064, 0x06C]
  | .tgen => [0x050]
  | .hbmc => []
  | .db => []

end Sys2Proof.Machine
end

