-- ==== Sys2Proof/Machine/State.lean ====
section
/-!
DEFINITION. The state of the Ixter 9: everything the manual gives the package, as plain data, with the queue of the
commands that are waiting. A register whose value is a status, a result, a count or a setting stands in `regs` under its
BAR0 address; what the machine itself works on has a field of its own, and its registers are views (Machine/Views.lean).
-/

namespace Sys2Proof.Machine

/-! ## Outputs -/

/-- What the block sends to the outside: the model's own record, so that an effect outside the package is visible
(notes/assumptions/7.md). Nothing in the machine reads it back. -/
inductive Out where
  /-- An MSI-X message: vector, port, address, data (R323). -/
  | msix (vector port addr data : Nat)
  /-- An interrupt identity delivered to a hart (R313). -/
  | hartIrq (hart identity : Nat)
  /-- The I3C alert (R485). -/
  | i3cAlert (record : Nat)
  /-- A code reported over I3C to the board management controller (R26, R468, R509). -/
  | i3cReport (code : Nat)
  /-- The ready signal over I3C (R468). -/
  | i3cReady
  /-- AER uncorrectable internal error, fatal, on a port (R485). -/
  | aer (port : Nat)
  /-- The value a register read returned. -/
  | readValue (value : Nat)
  /-- Data a read by the host, a hart or the guest returned, with its poison indication. -/
  | readData (data : List Byte) (poison : Bool)
  /-- A write to host memory: port, host I/O address, bytes, Relaxed Ordering (R328, R330). -/
  | hostWrite (port addr : Nat) (data : List Byte) (relaxed : Bool)
  /-- A read of host memory: port, host I/O address, bytes. -/
  | hostRead (port addr bytes : Nat)
  /-- An ATS translation request: unit, context, host I/O address, the PASID that it carries (R282, R298). -/
  | atsRequest (unit ctx addr : Nat) (pasid : Option Nat)
  /-- A PRI page request: unit, context, host I/O address, the PASID that it carries (R282, R283). -/
  | pageRequest (unit ctx addr : Nat) (pasid : Option Nat)
  /-- An ATS Invalidate Completion (R296). -/
  | atsInvalidateCompletion (port : Nat)
  /-- A back-invalidate or CXL.cache message to the host: kind and line. -/
  | hostCoh (kind line : Nat)
  /-- A message to another device: kind, device id, words (R345, R366, R369, R379, R382, R383). -/
  | message (kind dev : Nat) (words : List Nat)
  /-- A flit-level answer on a link: 0 ACK, 1 NAK, 2 resend, 3 abort marker; link and sequence number (R347, R360). -/
  | flit (kind link seq : Nat)
  /-- Credits returned on a link: link, lane, flits (R344, R348). -/
  | credits (link lane flits : Nat)
  /-- An acknowledgement of a memory access by the home or the sluice: requester, value. -/
  | ack (requester value : Nat)
  /-- A write that waited is discarded: the operation of its requester ends with an error (R386): requester and line. -/
  | writeError (requester line : Nat)
  /-- A status a hart instruction returned in its destination register, also written there. -/
  | status (hart value : Nat)
  /-- An error completion to the guest (R29). -/
  | guestError
  /-- A request to a regulator over AVSBus: die code of the rail and set point in units of 0.1 mV (R397). -/
  | avs (rail level : Nat)
  /-- Payload words of a mailbox or SPDM answer. -/
  | answer (words : List Nat)
  deriving DecidableEq, Repr

/-! ## Error collection (20_boot_reset_errors.md) -/

/-- One error record (R479): the fields of its 128 bytes. -/
structure ErrRec where
  /-- SEVERITY: 0 corrected, 1 deferred, 2 uncorrected-contained, 3 fatal. -/
  sev : Nat
  /-- CTX, when CTX_VALID. -/
  ctx : Option Nat
  /-- OVERFLOW. -/
  overflow : Bool
  /-- TYPE (R482). -/
  type : Nat
  /-- ADDR_SPACE. -/
  space : Nat
  /-- DIE. -/
  die : Nat
  /-- INSTANCE. -/
  inst : Nat
  /-- BOOT. -/
  boot : Nat
  /-- SEQ. -/
  seq : Nat
  /-- COUNT. -/
  count : Nat
  /-- ADDR. -/
  addr : Nat
  /-- NUMBER. -/
  number : Nat
  /-- COALESCED. -/
  coalesced : Nat
  /-- DETAIL, word 0 first. -/
  detail : List Nat
  deriving DecidableEq, Repr

/-- A coalescing window of corrected records of one type, die and unit (R483). -/
structure CoalWin where
  type : Nat
  die : Nat
  inst : Nat
  /-- Events counted since the first record of the window. -/
  events : Nat
  /-- Count value at which the window's second ends. -/
  until_ : Nat
  deriving DecidableEq, Repr

/-- The hub's error collector. -/
structure ErrState where
  /-- The newest records first, at most 256 (R484). -/
  held : List ErrRec
  /-- NUMBER of the next record (R479). -/
  nextNumber : Nat
  /-- Coalescing windows that are open (R483). -/
  windows : List CoalWin
  /-- Count value before which ERR_CORRECTED is not raised again (R485). -/
  ceVectorAt : Nat
  /-- The next record written to the ring carries OVERFLOW (R484). -/
  lost : Bool
  /-- The boot number is committed: records are stamped when raised, not held for it (R166). -/
  stamped : Bool
  /-- Count value at which AUTO_WARM starts a warm device reset (R490). -/
  escalateAt : Option Nat
  /-- A second record whose recovery is a warm device reset came before the first reset completed: only a cold reset
  leaves the fatal state (R490). -/
  stuck : Bool
  deriving DecidableEq, Repr

/-! ## Contexts (02_contexts_and_cells.md, 12_translation_and_faults.md, 14_host_attach.md) -/

/-- The context descriptor (R42), field by field. -/
structure CtxDesc where
  version : Nat
  latency : Bool
  detachRun : Bool
  scrub : Bool
  nextLine : Bool
  abandonS : Nat
  fqLog2 : Nat
  cqLog2 : Nat
  cqBase : Nat
  consumedAddr : Nat
  fqBase : Nat
  ptRoot : Nat
  phaseTable : Nat
  streamLimit : Nat
  borrowHoldUs : Nat
  energyBudget : Nat
  /-- 320 bits: the owned cells. -/
  cellSet : Nat
  /-- 320 bits: the cells it may borrow. -/
  borrowSet : Nat
  deriving DecidableEq, Repr

/-- One entry of a phase table (R65). -/
structure PhaseEntry where
  valid : Bool
  prefOp : Nat
  ceil : Nat
  guar : Nat
  mapAddr : Nat
  mapId : Nat
  deriving DecidableEq, Repr

/-- How far a fetched command has come. -/
inductive CmdStage where
  /-- Fetched, not issued. -/
  | fetched
  /-- Issued; its completion condition is still open. -/
  | issued
  /-- Its own effects are performed; COMMAND_COMPLETE may run. -/
  | performed
  deriving DecidableEq, Repr

/-- A fetched command: its ring index and its 64 bytes as one little-endian number (R47). -/
structure Cmd where
  index : Nat
  raw : Nat
  stage : CmdStage
  /-- The unit has tested its stamp once (R161). -/
  tested : Bool
  /-- The value of what it waits for: a stream handle, an invalidation number, a re-shard or collective number. -/
  waits : Nat
  /-- The command processor's replica when it issued (R163). -/
  base : Nat
  /-- Of the cells it names, by position: those it has acted on, and those that have halted since (R47). -/
  begun : Nat
  ended : Nat
  /-- Its done flag is written (R48). -/
  flagged : Bool
  deriving DecidableEq, Repr

/-- Who made an access that is translated (R277, R284, R287). -/
structure Requester where
  /-- 0 stream engine, 1 re-shard engine, 2 command processor, 3 SIGNAL, 4 descriptor cache (R287); 5 a hart, 6 a prefetch of a
  host page, which write no records. -/
  source : Nat
  ctx : Nat
  /-- Die code of the translation unit. -/
  unit : Nat
  /-- Stream handle, or 0. -/
  handle : Nat
  /-- Logical cell of a SIGNAL, a descriptor cache fill or a cell's transfer; 0xFFFF for none. -/
  cell : Nat
  track : Nat
  /-- SEQ of the command or transfer record, or the descriptor index. -/
  seq : Nat
  deriving DecidableEq, Repr

/-- An outstanding fault tag and the requester that waits for it (R286). -/
structure TagRec where
  tag : Nat
  req : Requester
  deriving DecidableEq, Repr

/-- A fault record that is not yet in the queue (R287, R290). -/
structure FaultRec where
  req : Requester
  cause : Nat
  write : Bool
  tag : Nat
  va : Nat
  tileBase : Nat
  tileBytes : Nat
  level : Nat
  deriving DecidableEq, Repr

/-- A context's phase barrier (R66): the target and the cells that have fired PHASE. -/
structure Barrier where
  target : Nat
  arrived : List Nat
  deriving DecidableEq, Repr

/-- A fault record that is written and not performed yet: its index and the mirror copies it waits for (R256, R286). -/
structure FqWait where
  index : Nat
  copies : List Nat
  deriving DecidableEq, Repr

/-- A context slot, 0-63 (R40). -/
structure Ctx where
  live : Bool
  desc : CtxDesc
  /-- PAUSE in force (R44). -/
  paused : Bool
  /-- Last accepted producer count (R46). -/
  producer : Nat
  /-- Consumer count, CQ_CONSUMED (R45). -/
  consumer : Nat
  /-- CQ_STATUS.HALTED. -/
  halted : Bool
  /-- CQ_STATUS.DB_BAD. -/
  dbBad : Bool
  /-- CQ_STATUS.ERR. -/
  err : Nat
  /-- Commands fetched and not complete, in ring order (R48). -/
  cmds : List Cmd
  /-- FQ_PRODUCED (R297). -/
  fqProduced : Nat
  /-- Records written and not performed, oldest first: FQ_PRODUCED does not count them yet (R286). -/
  fqWaits : List FqWait
  /-- FQ_CONSUMED (R297). -/
  fqConsumed : Nat
  /-- FQ_STATUS.QUEUE_FULL. -/
  fqQueueFull : Bool
  /-- FQ_STATUS.NOREC. -/
  fqNorec : Bool
  /-- FQ_STATUS.RESP_BAD. -/
  fqRespBad : Bool
  /-- FQ_STATUS.CONS_BAD. -/
  fqConsBad : Bool
  /-- FQ_STATUS.FQ_UNMAPPED. -/
  fqUnmapped : Bool
  /-- Outstanding tags (R286). -/
  tags : List TagRec
  /-- The tag the next fault record takes, unless it is outstanding (R287). -/
  nextTag : Nat
  /-- Records held in overflow stores, oldest first (R290). -/
  fqHeld : List FaultRec
  /-- Requesters that stall without a record (R290). -/
  norec : List Requester
  /-- Page requests outstanding (R283). -/
  priOut : Nat
  /-- The phase table in force (R65); empty: the single implicit phase 0. -/
  phases : List PhaseEntry
  /-- A table loaded by PHASE_TABLE that takes effect at the next PHASE (R65). -/
  nextPhases : Option (List PhaseEntry)
  /-- The phase in force (R66). -/
  phase : Nat
  /-- The open phase barrier (R66). -/
  barrier : Option Barrier
  /-- The context is claimed (R336). -/
  claimed : Bool
  /-- Number of the re-attach token in force, whose value is Config.randomWord (R335). -/
  token : Nat
  /-- ATT_CTX.TOKEN_READY. -/
  tokenReady : Bool
  /-- ATT_CTX.FAILS. -/
  tokenFails : Nat
  /-- Count value at which the abandon timer expires (R338). -/
  abandonAt : Option Nat
  /-- Count value at which the halted latency program's hold ends (R72), per context deadline window (R221). -/
  holdUntil : Option Nat
  /-- The deadline window is open (R221). -/
  window : Bool
  /-- Energy used, in nJ (R409). -/
  energyUsed : Nat
  /-- Its budget was reached (R410). -/
  energyOut : Bool
  /-- Completed-through count (R382): commands before it have all completed. -/
  completedThrough : Nat
  /-- Ring indices from the completed-through count on whose commands have completed, or had issued when the queue halted: they
  are not run again (R48, R50). -/
  ran : List Nat
  /-- A CONSUMED_ADDR write that stalled in translation, and is made again: SEQ of the command it followed, and the count (R45,
  R286). -/
  countDue : Option (Nat × Nat)
  /-- Mirror copies of what the context's commands have written, which the partner acknowledges before the writes are performed
  (R48, R380). -/
  copies : List Nat
  /-- The context-manager operation that waits for the context's cells to stop (R43, R44): 0 none, 2 DESTROY, 3 RESET, 4 a scrub
  (R338). -/
  ending : Nat
  deriving DecidableEq, Repr

/-! ## Cells (02_contexts_and_cells.md) -/

/-- Slots of a counter taken by one operation and not yet released or produced (R58). -/
structure Take where
  /-- The operation that took them. -/
  op : Nat
  count : Nat
  /-- The operation has completed; its slots wait for earlier takers only. -/
  done : Bool
  deriving DecidableEq, Repr

/-- A token or credit counter and the buffer that BIND attached to it (R53, R63). -/
structure Counter where
  bound : Bool
  /-- SLOTS of the buffer. -/
  slots : Nat
  /-- SLOT_SIZE in 256-byte units. -/
  size : Nat
  /-- BASE of the buffer. -/
  base : Nat
  /-- PEER: 0 none, 1 local pair, 2 stream. -/
  peer : Nat
  /-- PAIR. -/
  pair : Nat
  /-- HANDLE. -/
  handle : Nat
  /-- The count. -/
  value : Nat
  /-- Slot pointer: the slot that the next take begins at. -/
  ptr : Nat
  /-- Takes in ring order that are not yet released or produced. -/
  takes : List Take
  /-- Stream peer: 256-byte units of the front slot already filled or already credited back (R54, R182). -/
  units : Nat
  deriving DecidableEq, Repr

/-- A track of a cell's sequencer (R53). -/
structure Track where
  active : Bool
  /-- Current descriptor index. -/
  desc : Nat
  /-- Firings remaining after the next. -/
  left : Nat
  armed : Bool
  /-- Position in the order of arming (R57). -/
  armedAt : Nat
  /-- The armed descriptor has not fired yet: its stamp applies (R55). -/
  first : Bool
  /-- The armed descriptor is retired under SKIP_CONSUMES once its tokens are there (R60). -/
  skip : Bool
  /-- A BRANCH that the track fired has not been carried out: the track arms nothing (R53). -/
  held : Bool
  /-- The unit has tested the armed descriptor's stamp once (R161). -/
  tested : Bool
  /-- The operation that the track fired last (R292). -/
  lastOp : Nat
  deriving DecidableEq, Repr

/-- The slots an operation took at one binding (R61). -/
structure Bind where
  counter : Nat
  count : Nat
  /-- Slot pointer at the take. -/
  ptr : Nat
  hold : Bool
  deriving DecidableEq, Repr

/-- How far a fired operation has come. -/
inductive OpStage where
  /-- Issued to its engine or in the engine's issue queue. -/
  | fired
  /-- Carried out; OPERATION_COMPLETE may run. -/
  | executed
  /-- Waiting: a barrier, an acknowledgement, a transfer. -/
  | waiting
  deriving DecidableEq, Repr

/-- A fired operation that has not completed (R53, R55). -/
structure Op where
  id : Nat
  track : Nat
  desc : Nat
  /-- The descriptor's 64 bytes when it fired. -/
  raw : Nat
  /-- Input and output bindings taken, by port. -/
  ins : List (Nat × Bind)
  outs : List (Nat × Bind)
  stage : OpStage
  /-- It was fired while an earlier operation ran on its engine (R107). -/
  queued : Bool
  /-- Cicada replica at firing (R91). -/
  at_ : Nat
  /-- What it waits for: hand-overs or transfers that have not ended. A match request: the policy it began under (R156). -/
  left : Nat
  /-- XFER_LIST: records issued. -/
  issued : Nat
  /-- PSET: the SRAM word as it stood when the operation fired; none where it was poisoned (R137). -/
  word : Option Nat
  /-- SIGNAL: its write is made, with the mirror copies whose acknowledgement it waits for (R380). -/
  wrote : Option (List Nat)
  /-- SIGNAL: the target of a write that is issued and not accepted (R265). -/
  target : Option Nat
  deriving DecidableEq, Repr

/-- What a cell's program owns: everything a spill record saves (R69). -/
structure CellImg where
  /-- SRAM, 4 MiB (R51). -/
  sram : List Host.Cell
  /-- Poisoned 32-byte words of SRAM (R51, R209). -/
  poison : Table Bool
  /-- Program memory: 64-byte entries 0-1,023 as numbers (R52). -/
  prog : Table Nat
  /-- Counters: token counter t at key t, credit counter c at key 64 + c. -/
  counters : Table Counter
  /-- Tracks 0-7. -/
  tracks : List Track
  /-- Predicates p0-p7 as a bit set. -/
  preds : Nat
  /-- Stamp base (R163). -/
  stampBase : Nat
  /-- Fired operations in firing order. -/
  ops : List Op
  nextOp : Nat
  nextArm : Nat
  /-- Code-book slots (R82). -/
  books : Books
  /-- Curve tables: byte i of table t at key 4096 t + i (R130). -/
  curves : Table Nat
  /-- A program has been started. -/
  started : Bool
  /-- Context and ring index of the CELL_START that started it. -/
  cmd : Option (Nat × Nat)
  /-- Arming is stopped by CELL_STOP, HALT or HALT_REQ (R47, R53). -/
  stopping : Bool
  /-- The started program has halted (R53). -/
  halted : Bool
  /-- The cell waits at the context's phase barrier (R66). -/
  phaseWait : Bool
  /-- Fault code, track and descriptor of CSEQ_FAULT; code 0 for none (R64, R74). -/
  faultCode : Nat
  faultTrack : Nat
  faultDesc : Nat
  /-- Engine whose operation brought the fault, by the upper four bits of its code; 0 where none did (R116, R135). -/
  faultEngine : Nat
  deriving DecidableEq, Repr

/-- Where a cell stands in a preemption or a return (R70, R72). -/
inductive CellMove where
  | steady
  /-- Spilling its owner's state for the latency context named. -/
  | spilling (ctx : Nat)
  /-- Cleared, its owner's state being restored. -/
  | restoring
  deriving DecidableEq, Repr

/-- A physical cell. -/
structure Cell where
  /-- What its program owns (R69). -/
  img : CellImg
  /-- Context whose program occupies the cell (RUNNER). -/
  runner : Option Nat
  /-- RUNNER is a latency context that borrows it. -/
  borrowed : Bool
  /-- Spill, hold-buffer or restore step that it is in (R70-R73). -/
  move : CellMove
  /-- The owner's state in the cell's spill record, and the owner (R69). -/
  saved : Option (Nat × CellImg)
  /-- Arming is held for debug (R74). -/
  dbgHold : Bool
  /-- The CELL_START that took the cell: start header and argument bytes, track mask, entries, stamp base (R47, R163). -/
  startHead : List Byte
  /-- Tracks that a CELL_START under way starts (R47). -/
  startMask : Nat
  /-- Their entry descriptors (R47). -/
  startEntries : List Nat
  /-- Stamp base that the CELL_START gives (R163). -/
  startBase : Nat
  /-- Context and ring index of that CELL_START. -/
  startCmd : Option (Nat × Nat)
  /-- Count at which the borrowed cell's latency program halted (R72). -/
  haltedAt : Option Nat
  /-- An aborting CELL_STOP named the borrowed cell: it goes back as soon as its program has halted (R72). -/
  returnNow : Bool
  /-- Fenced by a failed self-test (R476). -/
  fenced : Bool
  deriving DecidableEq, Repr

/-- A request at a cell die's match unit (R140): the cell's position and its operation. -/
structure MatchReq where
  pos : Nat
  op : Nat
  deriving DecidableEq, Repr

/-- A cell die's match unit. -/
structure MatchUnitState where
  /-- The request that runs (R141). -/
  running : Option MatchReq
  /-- The request that has been accepted and waits (R141). -/
  waiting : Option MatchReq
  /-- Position of the last cell granted (R140). -/
  last : Nat
  /-- Cells with a latency-class request that has been ready but has not begun, by position, with the cell cycles so far (R155). -/
  since : Table Nat
  deriving DecidableEq, Repr

/-! ## Streams and re-shards (08_streams_and_reshard.md) -/

/-- An endpoint of a stream (R177). Fields that its kind does not have are 0. -/
structure Endpoint where
  /-- 1 CELL, 2 MEMORY, 3 HOST, 4 CORE, 5 REMOTE. -/
  kind : Nat
  /-- CELL: logical cell. CORE: hart. -/
  unit : Nat
  /-- CELL: counter. REMOTE: handle on the device. -/
  name : Nat
  /-- MEMORY, HOST, CORE: base address. REMOTE: device id. -/
  base : Nat
  /-- MEMORY, HOST: size in bytes. CORE: slots. -/
  size : Nat
  /-- CORE: slot size in 256-byte units. HOST: ports allowed. MEMORY: bit 6 STASH and the agent id. -/
  opt : Nat
  /-- CORE: control block address. -/
  control : Nat
  deriving DecidableEq, Repr

/-- A transfer pending on a stream (R187-R191). -/
structure Xfer where
  id : Nat
  /-- 1 command, 2 cell XFER or XFER_LIST (R519). -/
  issuer : Nat
  /-- Ring index of the command; or the physical cell. -/
  owner : Nat
  /-- The cell's operation. -/
  op : Nat
  /-- Bytes. -/
  len : Nat
  src : Nat
  dst : Nat
  /-- Bytes sent, and bytes acknowledged by the sink. -/
  sent : Nat
  acked : Nat
  /-- Flush before flag (R191). -/
  flush : Bool
  /-- Launch stamp, until the unit has released the transfer (R161, R189). -/
  stamp : Option Nat
  tested : Bool
  /-- Done flag: address and value, and whether it is written. -/
  flag : Option (Nat × Nat)
  flagged : Bool
  irq : Bool
  seq : Nat
  /-- Ports that carried data to a HOST sink, as a bit set, those of a HOST source's reads, and the port of the last data
  write (R191, R328). -/
  ports : Nat
  srcPorts : Nat
  lastPort : Nat
  /-- Last line written on each port (R330). -/
  lines : List Nat
  /-- Read-backs still open (R191). -/
  readbacks : Nat
  /-- Offset up to which tiles that are not current yet have been looked ahead for (R285). -/
  ahead : Nat
  deriving DecidableEq, Repr

/-- Slots handed to a stream by a window source (R183). -/
structure Hand where
  /-- Physical cell and counter of the window, and the operation (a SEND waits for the acknowledgement). -/
  cell : Nat
  counter : Nat
  op : Nat
  /-- SEND: the operation completes when every unit is acknowledged; otherwise slots return to the credit counter. -/
  send : Bool
  /-- Address of the first byte in SRAM, or the ring position of a CORE source. -/
  ptr : Nat
  units : Nat
  /-- Place of its first unit in the stream's count of units handed over. -/
  start : Nat
  sent : Nat
  acked : Nat
  deriving DecidableEq, Repr

/-- A piece of a translated range. -/
structure Seg where
  /-- 0 the device pool, 1 host memory. -/
  space : Nat
  pa : Nat
  len : Nat
  /-- Host I/O address of a piece in host memory, which chooses its port (R328); 0 in the pool. -/
  io : Nat
  deriving DecidableEq, Repr

/-- A packet in flight (R182). -/
structure Packet where
  id : Nat
  /-- Handle it carries, and the sending device; for a local stream the device's own id. -/
  handle : Nat
  dev : Nat
  /-- Stream index at the sender, and the generation then; the transfer that sent it, none for a hand-over. -/
  index : Nat
  xfer : Option Nat
  /-- Sink offset, and the sink range where it was translated as the packet was sent (R284). -/
  dst : Nat
  segs : Option (List Seg)
  data : List Byte
  /-- Poisoned 32-byte words of the data, by position. -/
  poison : List Nat
  /-- It ends its transfer: the slot it lies in closes (R184). -/
  last : Bool
  /-- 0 on its way, 1 placed at the sink, 2 refused there as stale, 3 its data is a host read that is not complete, 4 that
  is complete, where the packet goes to another device after earlier ones whose reads are not. -/
  fate : Nat
  /-- Of hand-overs: place of its first unit in the stream's count of units handed over (R194). -/
  fromUnit : Option Nat
  /-- Count at which it was sent (R190). -/
  sentAt : Nat
  /-- Mirror copies of its bytes, which the partner acknowledges before the sink does (R380). -/
  copies : List Nat
  deriving DecidableEq, Repr

/-- How a stream stands. -/
inductive StreamState where
  | free
  | live
  | dead
  | detached
  /-- STREAM_DESTROY has stopped it; packets in flight are waited for (R180). -/
  | destroying
  deriving DecidableEq, Repr

/-- A stream index (R173-R192). -/
structure Stream where
  gen : Nat
  st : StreamState
  ctx : Nat
  src : Endpoint
  snk : Endpoint
  flush : Bool
  vlane : Nat
  order : Nat
  home : Nat
  /-- Sink credits held, in units (R182). -/
  credits : Nat
  /-- Receiving half: credits held by its sending half for which a closed slot left no room (R184,
  notes/assumptions/18.md). -/
  debt : Nat
  /-- Transfers pending in issue order (R189). -/
  xfers : List Xfer
  nextXfer : Nat
  /-- Slots handed over and not returned (R183), and the units handed over since creation. -/
  hands : List Hand
  handed : Nat
  /-- Next offset of a ring sink (R178), or byte position in a window sink's slots (R184). -/
  ringAt : Nat
  /-- Units of the consumer and producer counts last read at a CORE endpoint (R182, R183). -/
  coreRead : Nat
  coreWritten : Nat
  /-- Bytes delivered since creation. -/
  delivered : Nat
  /-- Status of the last transfer that ended, and SEQ of the last that failed (R179). -/
  lastStatus : Nat
  lastFailSeq : Nat
  /-- SEQ of the last transfer that ended (R382). -/
  lastSeq : Nat
  /-- Command that waits for STREAM_DESTROY: context and ring index. -/
  destroyBy : Option (Nat × Nat)
  /-- CORE source: the consumer count as the engine has it (R183). -/
  srcDone : Nat
  /-- The engine's producer count of a CORE sink, or consumer count of a CORE source, is not in memory yet: its write stalls,
  and is made again (R183, R184, R286). -/
  prodDue : Bool
  consDue : Bool
  deriving DecidableEq, Repr

/-- A contiguous run of a piece: source address, sink address, bytes (R198). -/
structure PieceRun where
  src : Nat
  dst : Nat
  len : Nat
  deriving DecidableEq, Repr

/-- A piece that this device sends (R198). KIND 0 device memory, 1 cell SRAM; cells are logical. -/
structure Piece where
  dev : Nat
  srcKind : Nat
  srcCell : Nat
  dstKind : Nat
  dstCell : Nat
  runs : List PieceRun
  /-- Ordering identifier: TENSOR_ID [9:0] (R265), and the floor whose engine sends it. -/
  order : Nat
  floor : Nat
  /-- Packets sent, and packets looked ahead for (R284, R285). -/
  done : Nat
  ahead : Nat
  sent : Bool
  acked : Bool
  deriving DecidableEq, Repr

/-- A new place of this device: kind and logical cell as for a piece, the range, the floor whose engine serves it. -/
structure ShardPlace where
  kind : Nat
  cell : Nat
  addr : Nat
  len : Nat
  floor : Nat
  deriving DecidableEq, Repr

/-- A re-shard of a context on this device (R198-R200). -/
structure Reshard where
  ctx : Nat
  /-- Ring index of the RESHARD command; none when a PHASE asked for it. -/
  cmd : Option Nat
  mapId : Nat
  /-- Launch stamp not yet reached (R200). -/
  stamp : Option Nat
  oldAt : Nat
  newAt : Nat
  result : Nat
  /-- Begun: descriptors read, checks made. -/
  begun : Bool
  pieces : List Piece
  /-- Devices whose ready has arrived. -/
  ready : List Nat
  /-- Pieces expected from each device id: (device, pieces left). -/
  expect : List (Nat × Nat)
  /-- Bytes still expected. -/
  awaitBytes : Nat
  deadline : Option Nat
  /-- The new places of this device, with their bytes. -/
  places : List ShardPlace
  deriving DecidableEq, Repr

/-- An inbound write for a spilled owner, held by the floor (R71). -/
structure HeldWrite where
  cell : Nat
  addr : Nat
  data : List Byte
  /-- Positions of its poisoned 32-byte words. -/
  poison : List Nat
  deriving DecidableEq, Repr

/-- The stream engines. -/
structure StreamSys where
  /-- Streams by index (R173). -/
  streams : Table Stream
  /-- Indices freed, the one freed longest ago first (R174). -/
  freed : List Nat
  /-- Least index never used (R174). -/
  unused : Nat
  /-- Packets in flight (R182). -/
  packets : List Packet
  /-- Number of the next packet. -/
  nextPacket : Nat
  /-- Index last served by each floor's engine (R185), floors 0-3. -/
  lastServed : List Nat
  /-- Re-shards under way (R198). -/
  reshards : List Reshard
  /-- Ready messages that came before this device's re-shard began: context and device (R198). -/
  early : List (Nat × Nat)
  deriving DecidableEq, Repr

/-! ## Translation (12_translation_and_faults.md) -/

/-- What a translation that a unit holds has served so far. -/
inductive XltMark where
  /-- A tile has used it. -/
  | used
  /-- It came for a tile that waits, and has not used it. -/
  | demand
  /-- Prefetched, and not yet used by a current tile (R285). -/
  | ahead
  deriving DecidableEq, Repr

/-- A translation that a unit holds (R277): of a page of a context's tables, or, tagged `host`, of a page of host I/O addresses
(R282). -/
structure TlbEntry where
  ctx : Nat
  root : Nat
  host : Bool
  /-- Virtual address of the page, or its host I/O address, and its bytes. -/
  va : Nat
  bytes : Nat
  /-- PA[55:52] of the leaf: 0 device pool, 8 host memory (R279). -/
  space : Nat
  pa : Nat
  /-- Leaf permission bits [7:0]; of a host translation bit 2 alone, the host's permission to write. -/
  perm : Nat
  mark : XltMark
  deriving DecidableEq, Repr

/-- Where a walk stands (R277, R292). -/
inductive WalkStage where
  /-- It waits for a walk slot. -/
  | waiting
  | running
  /-- Its result was discarded, and it waits for the acknowledgement of the invalidation. -/
  | redo
  deriving DecidableEq, Repr

/-- A walk of a unit for a page of a tile, or a prefetch (R277, R284, R285). -/
structure WalkJob where
  number : Nat
  req : Requester
  /-- Lowest address of the tile in the page, and the range that it belongs to. -/
  va : Nat
  base : Nat
  bytes : Nat
  write : Bool
  prefetch : Bool
  stage : WalkStage
  /-- An invalidation of its page has come while it ran (R292). -/
  stale : Bool
  deriving DecidableEq, Repr

/-- A range invalidation (R293-R295), or the host's (R296), whose range is of host I/O addresses and of no context. -/
structure Inval where
  number : Nat
  ctx : Nat
  va : Nat
  bytes : Nat
  /-- Ring index of the INVALIDATE command; none for XLC_INV_CTL, RESET and DESTROY. -/
  cmd : Option Nat
  /-- Die codes of the units that have not acknowledged. -/
  waiting : List Nat
  began : Nat
  /-- A unit missed its bound (R295). -/
  failed : Bool
  /-- Port of an ATS Invalidate Request (R296). -/
  port : Nat
  deriving DecidableEq, Repr

/-- What a tile that waits for the host's translation waits for (R282, R283). -/
inductive AtsStage where
  /-- A port for its ATS request. -/
  | unsent
  | asked
  /-- Room among the 512 page requests. -/
  | queued
  /-- The answer to its page request. -/
  | paged
  deriving DecidableEq, Repr

/-- A tile that waits for the host's translation (R282, R283): the unit, the requester, the host I/O address, whether it
writes, and the port on which it asked last. -/
structure AtsWait where
  unit : Nat
  req : Requester
  addr : Nat
  write : Bool
  stage : AtsStage
  port : Nat
  deriving DecidableEq, Repr

/-- The translation units. -/
structure XltSys where
  /-- Translations held, by die code of the unit, the most recently used first (R277). -/
  tlb : Table (List TlbEntry)
  /-- Walks in flight and waiting, in the order asked for (R277). -/
  walks : List WalkJob
  /-- Number of the next walk. -/
  nextWalk : Nat
  /-- Invalidations under way (R293). -/
  invals : List Inval
  /-- Invalidations from the host under way (R296). -/
  hostInvals : List Inval
  /-- Number of the next invalidation. -/
  nextInval : Nat
  /-- Die codes of fenced units (R295). -/
  fenced : List Nat
  /-- Tiles that wait on an ATS or PRI answer. -/
  atsWait : List AtsWait
  deriving DecidableEq, Repr

/-! ## Stacked memory and sluices (09_hbm_and_sluices.md) -/

/-- A partition's sluice on one floor (R214, R215). -/
structure Sluice where
  /-- Burst tokens, in units. -/
  level : Nat
  /-- Fraction kept from refills, in eighths of a unit. -/
  carry : Nat
  aLeft : Nat
  /-- In eighths of a unit; 1,024 of CEIL means no ceiling. -/
  capLeft : Nat
  /-- Count at the next refill. -/
  nextAt : Nat
  /-- Requests waited with cap_left 0, or tier a went unserved, in the interval (R223). -/
  capped : Bool
  missed : Bool
  /-- Share of service in each of the tiers a to c, for its order (R215; notes/assumptions/107.md). -/
  tags : List Nat
  deriving DecidableEq, Repr

/-- Quiet steps of a channel (R220, R221): 0 write-data recalibration, 1 reference voltage, 2 lane repair. -/
structure Quiet where
  kind : Nat
  /-- Count at which it came due. -/
  due : Nat
  overdue : Bool
  deriving DecidableEq, Repr

/-- What a channel holds beside its registers (R211, R220). -/
structure Chan where
  /-- Remap table: row and spare. -/
  remap : List (Nat × Nat)
  /-- Occasions of corrected errors: row and power-on minute (R211). -/
  rowErrs : List (Nat × Nat)
  /-- Rows with a corrected error, and the symbol, in the scrub period (R211). -/
  symRows : List (Nat × Nat)
  quiet : List Quiet
  /-- A quiet step holds the channel. -/
  held : Option Nat
  /-- Patrol position, in granules. -/
  scrubAt : Nat
  trained : Bool
  /-- In self-refresh (R334). -/
  asleep : Bool
  /-- Patrol passes completed since cold reset (R225). -/
  passes : Nat
  /-- Training values, a number of the implementation's, and the lane-repair map: pins repaired (R211, R222). -/
  values : Nat
  lanes : List Nat
  deriving DecidableEq, Repr

/-- A traffic-generator run (R219). -/
structure TgenRun where
  mode : Nat
  pattern : Nat
  passes : Nat
  offset : Nat
  bytes : Nat
  user : Nat
  /-- Waiting for this stamp. -/
  stamp : Option Nat
  abort : Bool
  deriving DecidableEq, Repr

/-- The maintenance sluice of a floor (R216). -/
structure Maint where
  /-- Units left of the interval's share. -/
  left : Nat
  /-- Count of its next refill. -/
  nextAt : Nat
  /-- Units of work already done that the next shares pay for: the share is a ceiling in the long run. -/
  owed : Nat
  /-- Share of service in tier a. -/
  tag : Nat
  deriving DecidableEq, Repr

/-- The HBM controllers. -/
structure HbmSys where
  /-- Key 64 × floor + partition. -/
  sluices : Table Sluice
  maint : List Maint
  /-- Service given so far in tier t of floor f, at 3 × f + t - 1, as the sluices' tags measure it (R215). -/
  vtime : List Nat
  /-- Key 32 × stack + channel. -/
  chans : Table Chan
  /-- Traffic-generator run of each generator (R223). -/
  runs : Table (Option TgenRun)
  /-- Count before which no quiet step may begin (R221). -/
  quietAt : Nat
  /-- Channel that a quiet step holds, 32 × stack + channel. -/
  quietOn : Option Nat
  deriving DecidableEq, Repr

/-! ## Floor cache and coherence (10_floor_cache_coherence.md) -/

/-- A directory entry (R239). -/
structure DirEntry where
  /-- 0 DI, 1 DX, 2 DF, 3 DS, 4 DB. -/
  st : Nat
  /-- Agent ids of the valid pointers, pointer 0 first. -/
  ptrs : List Nat
  /-- Use order, for the eviction of R248. -/
  used : Nat
  deriving DecidableEq, Repr

/-- State of a line in a caching agent (R238). -/
inductive Mesi where
  | m
  | e
  | s
  | f
  | i
  deriving DecidableEq, Repr

/-- A line in a caching agent. -/
structure AgentLine where
  /-- MESIF state (R237). -/
  st : Mesi
  /-- The line's bytes. -/
  data : List Byte
  /-- Poisoned halves of 32 bytes. -/
  poison : List Nat
  /-- The line is being written back: its data is kept until the home acknowledges (R245). -/
  wb : Bool
  deriving DecidableEq, Repr

/-- A request at the home (R241). -/
inductive Req where
  | rdS
  | rdSN
  | rdO
  | upg
  | wb
  | rdC
  | wrL
  | wrP
  /-- Eviction of an entry (R248), the host sweep (R251) or recovery (R249). -/
  | sweep
  deriving DecidableEq, Repr

/-- A snoop on its way to an agent or its answer on the way back. -/
inductive Snp where
  | f
  | ifw
  | i
  | c
  deriving DecidableEq, Repr

/-- What a requester asks. -/
structure HomeReq where
  /-- Request code (R238). -/
  req : Req
  /-- Agent id; 64 and above: an uncached agent's number. -/
  from_ : Nat
  /-- Line address. -/
  line : Nat
  /-- Data that it carries. -/
  data : List Byte
  /-- Byte mask of a WrP. -/
  mask : Nat
  /-- Target of a stash (R255). -/
  stash : Option Nat
  /-- Context of the access, for NEXT_LINE (R231). A sweep: 1 + n where it recovers an entry (R249). -/
  ctx : Option Nat
  deriving DecidableEq, Repr

/-- An answer to a snoop that an agent has sent: response code 0 RspS, 1 RspI, 2 RspE, 3 RspNP, the line's data and
poisoned halves where it sends them, and whether it held the line in M. -/
structure SnpAnswer where
  /-- The agent that answers. -/
  agent : Nat
  /-- Response code (R241). -/
  code : Nat
  /-- Data and its poisoned words, where it carries data. -/
  data : Option (List Byte × List Nat)
  /-- The data is modified. -/
  dirty : Bool
  deriving DecidableEq, Repr

/-- A transaction open on a line (R240). -/
structure Txn where
  r : HomeReq
  /-- Snoops not yet taken by their agent, and answers on the way home. -/
  snoops : List (Nat × Snp)
  answers : List SnpAnswer
  /-- Broadcast: RspNP does not count as stale (R244). -/
  bcast : Bool
  /-- Entry after the transaction and the grant: 0 none, 1 E, 2 F, 3 S, 4 M. -/
  next : DirEntry
  grant : Nat
  /-- Data for the requester came from an agent. -/
  fwd : Option (List Byte × List Nat)
  /-- A host line (R252): 0 the host has not been asked, 1 it is asked, 2 it has answered. -/
  ask : Nat
  began : Nat
  deriving DecidableEq, Repr

/-- A block of a floor cache (R226, R227). -/
structure FlcBlock where
  /-- Device-physical address ÷ 256. -/
  block : Nat
  /-- Valid lines, a bit for each of the four. -/
  valid : Nat
  deriving DecidableEq, Repr

/-- A prefetch read in flight (R232). -/
structure Prefetch where
  floor : Nat
  line : Nat
  /-- Partition that the access which prompted it carries (R231). -/
  part : Option Nat
  deriving DecidableEq, Repr

/-- The floor caches, the directory and the agents' lines. -/
structure CohSys where
  /-- Directory, by line number; host lines at 2^58 + line number (R252). -/
  dir : Table DirEntry
  /-- Lines of agents: key agent × 2^60 + line number. -/
  lines : Table AgentLine
  /-- Transaction open on each line (R240). -/
  txns : Table (Option Txn)
  /-- Requests that wait for a busy line, oldest first (R240). -/
  waiting : List HomeReq
  /-- Floor-cache blocks: key (floor × 32,768 + set) × 16 + way. -/
  flc : Table (Option FlcBlock)
  /-- Pocket lines by floor, oldest first: (floor, line number). -/
  pocket : List (Nat × Nat)
  /-- Prefetches under way (R232). -/
  prefetches : List Prefetch
  /-- Retired ways: key 64 × floor + group. -/
  retired : Table Nat
  /-- Power-on minutes of corrected errors: key (64 × floor + group) × 16 + way (R234). -/
  wayErrs : Table (List Nat)
  /-- Host lines that the host has granted to the device in E or M (R252). -/
  hostOwn : List Nat
  /-- Use counter of the directory. -/
  clock : Nat
  /-- Enabled agents (R255). -/
  enabled : List Nat
  /-- Full coherence is in force (R326). -/
  full : Bool
  /-- Full coherence is ending: the host entries are being swept (R326). -/
  sweeping : Bool
  /-- Stash offers outstanding (R247), in the order sent: agent, line, and 0 not yet decided, 1 Acc, 2 Dec on its way
  home, 3 accepted and waiting for a way of its directory set (R248). -/
  offers : List (Nat × Nat × Nat)
  deriving DecidableEq, Repr

/-! ## Harts (13_core_die.md) -/

/-- A store that has not been accepted yet (R273). -/
structure BufStore where
  addr : Nat
  data : List Byte
  deriving DecidableEq, Repr

/-- A vector raised and not delivered: its number, and the hart, interrupt file and identity it was routed to as it was raised (R313). -/
structure RaisedVec where
  vector : Nat
  hart : Option (Nat × Nat)
  deriving DecidableEq, Repr

/-- A FENCE or DRAIN of a hart that waits for earlier accesses (R258, R259). -/
structure HartFence where
  /-- Buffered stores older than it that are not accepted. -/
  stores : Nat
  /-- It waits for the hart's writes to peer devices, and for its uncached writes to host memory, made before these numbers:
  acknowledged, or performed for a DRAIN. -/
  writes : Nat
  uncached : Nat
  /-- Successor set: accesses that it holds back, I in bit 3, O in bit 2, R in bit 1, W in bit 0. -/
  succ : Nat
  drain : Bool
  deriving DecidableEq, Repr

/-- A hart's wait (R312). -/
inductive HartWait where
  | none
  | nto
  /-- Ends at this count. -/
  | sto (until_ : Nat)
  deriving DecidableEq, Repr

/-- A hart, as far as this manual describes it. -/
structure Hart where
  /-- The hart runs (R316). -/
  running : Bool
  /-- Privilege: 3 M, 1 S, 0 U. -/
  priv : Nat
  /-- Entry point and argument registers it started with. -/
  startPc : Nat
  /-- Integer registers x1-x31 that an instruction of this manual has written: number and value. -/
  xregs : Table Nat
  /-- Store buffer, oldest first (R303). -/
  buffer : List BufStore
  /-- Reserved granule: address ÷ 256 (R268). -/
  resv : Option Nat
  /-- Count after which snoops to the granule are no longer deferred, while they are (R269). -/
  defer : Bool
  /-- Wait for a reservation (R312). -/
  wait : HartWait
  /-- Pending interrupt identities: 256 × file + identity. -/
  irqs : List Nat
  /-- Translations it holds (R306). -/
  tlb : List TlbEntry
  /-- The FENCE or DRAIN that is not complete (R258, R259). -/
  fence : Option HartFence
  /-- A discarded store was reported since the last host detachment (R309). -/
  reported : Bool
  /-- Last exception: cause and address, 0 for none. -/
  cause : Nat
  /-- mtval of the last exception (R305). -/
  tval : Nat
  deriving DecidableEq, Repr

/-- The core die. -/
structure CoreSys where
  /-- Harts 0-95 (R300). -/
  harts : Table Hart
  /-- Clusters offline, as a bit set (R314, R315). -/
  offline : Nat
  /-- GO was accepted since boot or warm reset (R316). -/
  ran : Bool
  /-- The protected image range: base and bytes (R316). -/
  image : Option (Nat × Nat)
  /-- SHA-512 of the body of the image that was started last (R447). -/
  imageHash : Nat
  /-- The die is offline: both connections below minimum (R314). -/
  dieOff : Bool
  deriving DecidableEq, Repr

/-! ## Host ports (14_host_attach.md) -/

/-- A host port (R318, R331). -/
structure Port where
  /-- Data link up. -/
  up : Bool
  memSpace : Bool
  busMaster : Bool
  cacheEn : Bool
  memEn : Bool
  biEn : Bool
  msixEn : Bool
  funcMask : Bool
  /-- SPEED and WIDTH of HP_LINK. -/
  speed : Nat
  width : Nat
  deriving DecidableEq, Repr

/-- A write to host memory that waits for a port (R333), or a read outstanding. -/
structure HostOp where
  /-- 0 flag or CONSUMED write of a command processor, 1 SIGNAL, 2 fault record, 3 transfer read, 4 a read-back (R256): the
  writes with numbers below `packet` went before it; 5 a line of host memory asked for over CXL.cache (R252): its number stands
  in `packet`. -/
  kind : Nat
  ctx : Nat
  addr : Nat
  /-- Host I/O address, which chooses the port of a write (R328). -/
  io : Nat
  data : List Byte
  /-- Port of a read. -/
  port : Nat
  /-- A transfer's read: bytes, the packet that its data fills, and where in it. -/
  len : Nat
  packet : Nat
  offset : Nat
  deriving DecidableEq, Repr

/-- Who made an access that a fence may wait for (R258, R262). -/
inductive AccWho where
  | hart (h : Nat)
  /-- A context's program on a physical cell. -/
  | cell (ctx c : Nat)
  /-- The fault queue of a context. -/
  | queue (ctx : Nat)
  deriving DecidableEq, Repr

/-- A write that a host port has taken and that is not read back: accepted, and not performed (R256). -/
structure HostWr where
  id : Nat
  who : AccWho
  /-- The cell's operation, or the fault record's index. -/
  op : Nat
  port : Nat
  /-- Host address of the line. -/
  line : Nat
  /-- Acknowledged when accepted (R263). -/
  early : Bool
  deriving DecidableEq, Repr

/-- An SPDM session (R448, R449). -/
structure Spdm where
  /-- Its number, 0-3 (notes/assumptions/30.md). -/
  id : Nat
  /-- Established through a host port since the last host-detachment. -/
  viaHost : Bool
  /-- The signed measurements over every index have been answered in it. -/
  meas : Bool
  /-- The ML-DSA-65 transcript signature has been answered in it. -/
  sig : Bool
  deriving DecidableEq, Repr

/-- The host attach. -/
structure HostSys where
  /-- The two host ports (R320). -/
  ports : List Port
  /-- Writes that wait for a port in service, oldest first. -/
  waiting : List HostOp
  /-- Reads outstanding. -/
  reads : List HostOp
  /-- Writes of harts and cells that are accepted and not performed, oldest first, and the number of the next (R256). -/
  unread : List HostWr
  nextWrite : Nat
  /-- 0 attached, 1 port-detached, 2 host-detached. -/
  attach : Nat
  /-- The host is attested (R336). -/
  attested : Bool
  /-- SPDM sessions that are open (R448). -/
  sessions : List Spdm
  /-- Vectors raised and not yet taken by VECTOR_DELIVER. -/
  vecs : List RaisedVec
  /-- PBA: held vectors. -/
  pba : List Nat
  deriving DecidableEq, Repr

/-! ## Links, jobs and collectives (15_links_and_machine.md) -/

/-- A message queued for a link or on it (R345). -/
structure LinkMsg where
  id : Nat
  /-- KIND of its header. -/
  kind : Nat
  lane : Nat
  /-- Requester at the port: source number × 8 + lane (R358). -/
  requester : Nat
  dst : Nat
  src : Nat
  order : Nat
  /-- Flits it takes. -/
  flits : Nat
  /-- Flits sent in the current attempt. -/
  sent : Nat
  mpart : Nat
  epoch : Nat
  /-- ROUTE field of its header (R354, R357). -/
  route : Nat
  handle : Nat
  offset : Nat
  data : List Byte
  poison : List Nat
  /-- KIND-specific words of its header (R345, notes/assumptions/22.md). -/
  extra : List Nat
  deriving DecidableEq, Repr

/-- A flit in a replay buffer (R347). -/
structure Flit where
  seq : Nat
  msg : Nat
  /-- Resends so far. -/
  resends : Nat
  deriving DecidableEq, Repr

/-- A requester's standing at an egress port (R359). -/
structure Contender where
  requester : Nat
  losses : Nat
  /-- Link cycle before which it does not request. -/
  backoff : Nat
  /-- Link cycle since which it holds a priority grant. -/
  prio : Option Nat
  deriving DecidableEq, Repr

/-- A link (R342-R360, R372). -/
structure Link where
  /-- STATE of LK_STATUS: 0 down, 1 training, 2 up, 3 up on one lane, 4 disabled. -/
  state : Nat
  /-- ROLE (R343); 8 twin (R376). -/
  role : Nat
  boundary : Bool
  lanes : Nat
  /-- Training entry, attempts made at it, and a bit set of failed lanes. -/
  step : Nat
  tries : Nat
  badLanes : Nat
  /-- Failed lanes recorded in the Polder store (R351, R424). -/
  keptBad : Nat
  /-- Count value until which a DOWN step holds the lanes idle (R349). -/
  idleUntil : Option Nat
  /-- Training table that this training runs, read when it began; empty: none has begun (R350). -/
  table : List Nat
  peerDev : Nat
  peerPort : Nat
  peerSwitch : Bool
  /-- IDENTITY has been exchanged (R352). -/
  known : Bool
  /-- Next sequence number to send, last received in order, last acknowledged by the peer. -/
  txSeq : Nat
  rxSeq : Nat
  ackSeq : Nat
  replay : List Flit
  /-- Credits for each lane, in flits. -/
  credits : List Nat
  queue : List LinkMsg
  /-- The burst under way, and how often in a row it was aborted (R360). -/
  burst : Option LinkMsg
  aborts : Nat
  contenders : List Contender
  lastWinner : Nat
  /-- Link cycles counted. -/
  cycle : Nat
  /-- Flits of the burst being received, and its lane. -/
  rxBurst : Nat
  rxLane : Nat
  /-- Flits that the receive buffer of each lane holds (R348). -/
  rxUsed : List Nat
  deriving DecidableEq, Repr

/-- A child in a job start (R366). -/
structure JobChild where
  ordinal : Nat
  /-- 0 waited for, 1 OK, 2 failed, 3 lost. -/
  st : Nat
  heard : Nat
  deriving DecidableEq, Repr

/-- A job start on this device (R365-R367). -/
structure Job where
  id : Nat
  ctx : Nat
  fanout : Nat
  ordinal : Nat
  /-- 0 idle, 1 expecting, 2 preparing (SEEN sent), 3 answered, 4 committing, 5 ended. -/
  st : Nat
  children : List JobChild
  /-- First failure known: status 4 or 5 or 7, reason, device, subtree size. -/
  fail : Option (Nat × Nat × Nat × Nat)
  answeredAt : Nat
  progressAt : Nat
  deriving DecidableEq, Repr

/-- A collective on this device (R368-R371). -/
structure Coll where
  ctx : Nat
  cmd : Nat
  op : Nat
  dtype : Nat
  redop : Nat
  wide : Bool
  members : List Nat
  me : Nat
  root : Nat
  src : Nat
  dst : Nat
  count : Nat
  release : Nat
  result : Nat
  group : Nat
  began : Nat
  deadline : Option Nat
  /-- Bytes of DST that have been written; in a tree reduction, elements that the children have sent. -/
  done : Nat
  /-- SEQ of its command, and count at which a member was last heard. -/
  seq : Nat
  heard : Nat
  /-- Members whose barrier or part has arrived. -/
  arrived : List Nat
  /-- Tree reduction: partial results held, as FP32 or INT32, by element. -/
  partials : Table Nat
  /-- Elements of them that poisoned data has entered (R486). -/
  bad : List Nat
  /-- LAG of each member, as far as known. -/
  lags : List Nat
  ended : Bool
  deriving DecidableEq, Repr

/-- The links and the machine partition. -/
structure LinkSys where
  /-- Links 0-95 (R344). -/
  links : Table Link
  /-- MCH_PART in force: MPART, EPOCH, first pod, pods (R361). -/
  mpart : Nat
  /-- Epoch of the partition (R361). -/
  epoch : Nat
  /-- First pod of the partition (R361). -/
  firstPod : Nat
  /-- Pods of the partition (R361). -/
  pods : Nat
  /-- 0 active, 1 draining, 2 drained. -/
  partState : Nat
  /-- The job start (R363). -/
  job : Job
  /-- Collectives under way (R368). -/
  colls : List Coll
  /-- Number of the next message. -/
  nextMsg : Nat
  /-- Most recent qualifying collective since the last cap period: own lag and all lags (R405). -/
  lagSample : Option (Nat × List Nat)
  /-- Count value of the lag sample (R380). -/
  lagAt : Nat
  deriving DecidableEq, Repr

/-! ## Mirror pairs (16_mirror_pairs.md) -/

/-- A mirror copy, or a mirror-state message, not yet acknowledged (R379, R382). -/
structure MirCopy where
  id : Nat
  /-- Its granule; of a mirror-state message the context's number. -/
  granule : Nat
  /-- The context of a mirror-state message. -/
  ctx : Option Nat
  /-- Twin link that carries it. -/
  link : Nat
  at_ : Nat
  deriving DecidableEq, Repr

/-- A mirrored stream (R382). -/
structure MirStream where
  handle : Nat
  st : Nat
  src : Endpoint
  snk : Endpoint
  delivered : Nat
  seq : Nat
  status : Nat
  deriving DecidableEq, Repr

/-- What the secondary holds of a mirrored context (R382). -/
structure MirCtx where
  desc : List Byte
  phase : Nat
  producer : Nat
  completed : Nat
  fqProduced : Nat
  fqConsumed : Nat
  /-- Number of its key at the primary, which travels wrapped (R455). -/
  key : Nat
  streams : List MirStream
  deriving DecidableEq, Repr

/-- A write that its home has not accepted and that waits there: into a mirrored region (R380, R386), to a line whose snoops are
deferred (R269), or behind an earlier one of its source (R265, R266). Address and bytes, or an uncached agent's request. -/
structure MirWait where
  addr : Nat
  data : List Byte
  req : Option HomeReq
  /-- Agent that writes: a host port as 96 or 97, the guest as 98 (R237). -/
  from_ : Nat
  /-- A posted write's stash target, and its Relaxed Ordering attribute (R246, R266). -/
  stash : Option Nat
  relaxed : Bool
  deriving DecidableEq, Repr

/-- A posted write of a host port whose copies the partner has not acknowledged, so that it is not accepted yet (R266, R380). -/
structure Posted where
  agent : Nat
  /-- Its target: the home floor of its line (R265). -/
  floor : Nat
  copies : List Nat
  deriving DecidableEq, Repr

/-- A message to another device that waits until the partner has acknowledged the mirror copies of what it answers (R380). -/
structure HeldReply where
  lane : Nat
  kind : Nat
  source : Nat
  dst : Nat
  order : Nat
  handle : Nat
  extra : List Nat
  copies : List Nat
  deriving DecidableEq, Repr

/-- The mirror pair. -/
structure MirSys where
  /-- STATE of MIR_STATUS: 0 unpaired ... 6 split. -/
  st : Nat
  /-- ROLE: this device is the primary (R375). -/
  primary : Bool
  /-- The pair's epoch (R375). -/
  epoch : Nat
  /-- A witness is configured (R384). -/
  witness : Bool
  /-- Dirty blocks of 64 KiB, rising. -/
  dirty : List Nat
  /-- Mirrored writes that are not acknowledged (R379). -/
  copies : List MirCopy
  /-- Sequence number of the next copy (R379). -/
  nextCopy : Nat
  /-- STATE in the partner's last heartbeat. -/
  peerSt : Nat
  /-- Missed heartbeats in a row. -/
  missed : Nat
  /-- Count from which the current 100 µs without a heartbeat runs (R383). -/
  hbAt : Nat
  /-- This device has a dirty bitmap: not after a power-up (R388). -/
  hasMap : Bool
  /-- Synchronous mode was asked for while copies were open: asynchronous until the lag is zero (R380). -/
  asyncHeld : Bool
  /-- Supervision suspended until this count (R391). -/
  suspended : Nat
  /-- FORM in progress, begun at this count. -/
  forming : Option Nat
  /-- Writes that their homes have not accepted, oldest first (R265, R266, R269, R380, R386). -/
  waiting : List MirWait
  /-- Posted writes that are made and not accepted (R266, R380). -/
  posts : List Posted
  /-- Dirty block being copied, and whether it was written since the copy began (R389). -/
  resync : Option (Nat × Bool)
  /-- State of the primary's mirrored contexts, as last received (R382). -/
  ctxs : Table (Option MirCtx)
  /-- Acknowledgements of synchronous writes held back: requester, line, copies still open (R380). -/
  acks : List (Nat × Nat × List Nat)
  /-- Answers to other devices held back for the same reason. -/
  replies : List HeldReply
  /-- Count of the last heartbeats sent (R383). -/
  sentAt : Nat
  /-- What was last sent of each mirrored context; at the secondary the message last received of it (R382). -/
  sent : Table (List Nat)
  /-- Cells of the primary's mirrored contexts as FORM told them, until each context's state has come (R378). -/
  cells : Nat
  deriving DecidableEq, Repr

/-! ## Power (17_power_and_heat.md) -/

/-- A die, as the power manager sees it. -/
structure DiePower where
  /-- Operating point in force, and the point it is moving to (R397). -/
  op : Nat
  /-- Point that a change under way goes to (R397). -/
  target : Nat
  /-- Ceilings of the cap loop, the fast loop and the thermal loop; duty of the cap loop (0-7). -/
  capCeil : Nat
  /-- Ceiling of the current loop (R397). -/
  curCeil : Nat
  /-- Ceiling of the thermal loop (R404). -/
  thermCeil : Nat
  /-- Duty that the cap sets (R402). -/
  capDuty : Nat
  /-- Margin in 2.5 mV steps; 10 with no history (R408). -/
  margin : Nat
  /-- An ageing margin has been read (R408). -/
  hasMargin : Bool
  /-- Count before which the fast loop does not raise the die again (R401). -/
  raiseAt : Nat
  /-- Counts of recent droop trips. -/
  droops : List Nat
  /-- The thermal loop lowers the die: since 100 °C, until 98 °C (R404); count at which its ceiling may rise again. -/
  hot : Bool
  /-- Count value of the last thermal step (R404). -/
  thermAt : Nat
  /-- On-die sensors alone; and those failed too: held at OP 0, duty 1/8 (R395). -/
  sensorOnly : Bool
  /-- Its own sensors failed while telemetry was lost (R395). -/
  sensorsFailed : Bool
  /-- Estimator coefficient scale, in thousandths, and first run (R406). -/
  coeff : Nat
  /-- The estimator's first run goes on (R406). -/
  firstRun : Bool
  /-- Power in the last 20 samples, in mW, the newest first (R394). -/
  samples : List Nat
  deriving DecidableEq, Repr

/-- The power manager. -/
structure PwrSys where
  /-- Power state of each die (R393). -/
  dies : Table DiePower
  /-- Ceilings of the core clusters, in units of 100 MHz: cap loop, fast loop, thermal loop. -/
  coreCap : Nat
  /-- Ceiling of the core frequency, current loop (R397). -/
  coreCur : Nat
  /-- Ceiling of the core frequency, thermal loop (R404). -/
  coreTherm : Nat
  /-- The thermal loop lowers the clusters, and counts as for a cell die. -/
  coreHot : Bool
  /-- Count value of the last thermal step of the core (R404). -/
  coreThermAt : Nat
  /-- Count value from which the core may be raised again (R397). -/
  coreRaiseAt : Nat
  /-- Thermal emergency in force, and the throttle input asserted. -/
  emergency : Bool
  /-- The emergency is the throttle pin's (R404). -/
  throttle : Bool
  /-- Shift of R405 in watts, times 256. -/
  shift : Int
  /-- The estimator is suspect (R406). -/
  suspect : Bool
  /-- The cap cannot be reached (R402). -/
  unreachable : Bool
  /-- Power-on minute of the last commit of coefficients (R406). -/
  coeffAt : Option Nat
  /-- Count since which power has been below the cap. -/
  belowSince : Option Nat
  /-- Package energy and unattributed energy since power-up, in nJ (R409). -/
  energy : Nat
  /-- Energy that no context is charged, in nJ (R409). -/
  unattributed : Nat
  /-- Lifetime energy committed by earlier boots, in mJ (R409). -/
  life : Nat
  /-- Power-on minute of the last ageing readings (R408). -/
  agedAt : Nat
  /-- Count values from which the next sample, fast loop and cap period are due (R168, R394, R401, R402). -/
  sampleAt : Nat
  fastAt : Nat
  capAt : Nat
  /-- Count of the last sample in which a sensor read above 100 °C, or of the last emergency (R404). -/
  coolAt : Nat
  /-- Thermal trip (R404). -/
  thermTrip : Bool
  /-- An orderly power-down is asked for; PD_DONE is asserted (R510). -/
  pdReq : Bool
  /-- PD_DONE (R510). -/
  pdDone : Bool
  deriving DecidableEq, Repr

/-! ## The Polder store (18_polder_store.md) -/

/-- A record in the store (R416). -/
structure PldRec where
  type : Nat
  key : Nat
  version : Nat
  frag : Nat
  fragLast : Bool
  tomb : Bool
  seq : Nat
  data : List Byte
  /-- Block that holds its valid copy in bank A and in bank B; 512 for none. -/
  inA : Nat
  inB : Nat
  deriving DecidableEq, Repr

/-- State of a journal block (R415, R427). -/
inductive BlkState where
  | erased
  | opened
  | full
  | erasing
  | retired
  deriving DecidableEq, Repr

/-- A journal block. -/
structure PldBlock where
  /-- Erased, written, full or retired (R415, R427). -/
  st : BlkState
  /-- Sequence number of its header (R415). -/
  seq : Nat
  /-- Erases counted (R415). -/
  erases : Nat
  /-- Next page to be programmed. -/
  page : Nat
  /-- Retired for good: an erase does not bring it back. -/
  dead : Bool
  deriving DecidableEq, Repr

/-- A commit in the queue (R421). -/
structure Commit where
  prio : Nat
  type : Nat
  key : Nat
  version : Nat
  tomb : Bool
  data : List Byte
  /-- A compaction copy out of a block, 512 × bank + block (R427). -/
  copy : Option Nat := none
  /-- A copy of the record of this SEQ into the bank that lacks it (R426, step 5). -/
  mend : Option Nat := none
  /-- The mailbox command that runs ends with it (R437). -/
  mbx : Bool := false
  deriving DecidableEq, Repr

/-- A mailbox command that runs (R437): its OP, the number of its source, and the type and key of the commit that ends it;
type 0 where none does. -/
structure Mbx where
  op : Nat
  src : Nat
  type : Nat
  key : Nat
  deriving DecidableEq, Repr

/-- The commit in progress: its fragment, its SEQ, the banks in which it has failed once, as a bit set, and the count at which
the record was begun. -/
structure Running where
  /-- The commit. -/
  c : Commit
  /-- Fragment that is being written (R419). -/
  frag : Nat
  /-- SEQ of its first record (R418). -/
  seq : Nat
  /-- Banks in which a copy of this record has failed once (R420). -/
  tries : Nat
  /-- The count at which this record was begun. -/
  since : Nat
  deriving DecidableEq, Repr

/-- The Polder store. -/
structure PldSys where
  /-- Records of the store in the order of SEQ (R417). -/
  records : List PldRec
  /-- Blocks 4-511: key 512 × bank + block. -/
  blocks : Table PldBlock
  /-- Bank in service. -/
  bankA : Bool
  /-- Bank B is in service. -/
  bankB : Bool
  /-- STATE of PLD_STATUS: 0 reading, 1 in service, 2 one bank, 3 unavailable. -/
  st : Nat
  /-- Commits that wait (R419). -/
  queue : List Commit
  /-- The commit that runs (R420). -/
  running : Option Running
  /-- SEQ of the last record committed. -/
  seq : Nat
  /-- Power-on minutes of bank A's erases (R429). -/
  eraseTimes : List Nat
  /-- Security events held, 32 bytes each as number fields: type, arg, level, result, boot, count (R463). -/
  held : List (List Nat)
  /-- Security events lost while they were held (R463). -/
  heldLost : Nat
  /-- An event marked immediate waits among them for the boot number (R166, R429). -/
  heldNow : Bool
  /-- Banks that could not be read at this boot: what they alone hold is not seen (R433). -/
  blind : List Nat
  /-- ERR_SUMMARY: error counts, key 4 × die + severity (R424). -/
  errSummary : Table Nat
  /-- First 64 bytes of the last eight fatal records, oldest first (R424). -/
  fatalRecs : List (List Byte)
  /-- They changed since the last commit. -/
  summaryDirty : Bool
  /-- The mailbox operation that runs (R437). -/
  busy : Option Mbx
  /-- Block being compacted, 512 × bank + block (R427). -/
  compact : Option Nat
  /-- SYNC: what it waits for (R437). -/
  syncAt : Option Nat
  /-- A VERSION ahead was reported in this boot (R434). -/
  aheadSaid : Bool
  /-- Highest VERSION of each type that the firmware knows, 1 where none is listed (R434). -/
  known : Table Nat
  /-- Minute of this boot at which log events were last committed (R429). -/
  logAt : Nat
  deriving DecidableEq, Repr

/-! ## Security (19_security_and_dike.md) -/

/-- The fuses (R439). Key hashes are numbers of 1,024 bits: the Ed25519 hash and the ML-DSA hash. -/
structure Fuses where
  vendorKeys : List (Option Nat)
  vendorRevoke : Nat
  ownerKeys : List (Option Nat)
  ownerRevoke : Nat
  svnHub : Nat
  svnCore : Nat
  svnPolicy : Nat
  /-- Floor level of each sensor, 0-3. -/
  floors : List Nat
  debugDisable : Nat
  retired : Bool
  /-- Feature word of each die by die code, and its unique id (R24, R435). -/
  features : Table Nat
  ids : Table Nat
  deriving DecidableEq, Repr

/-- A guest window (R29, R456). -/
structure GuestWin where
  base : Nat
  size : Nat
  ctx : Nat
  perm : Nat
  deriving DecidableEq, Repr

/-- An owner policy (R456). -/
structure Policy where
  levels : List Nat
  guestEn : Bool
  dbgOwner : Bool
  dbgVendor : Bool
  pages : Nat
  windows : List GuestWin
  /-- SHA-512 of its body (R447). -/
  hash : Nat
  deriving DecidableEq, Repr

/-- A key slot (R451): 0 EMPTY, 1 LOADED, 2 DISABLED; the key's number, whose value is a free value. -/
structure KeySlot where
  st : Nat
  key : Nat
  fromBlob : Bool
  deriving DecidableEq, Repr

/-- A key erase in progress (R460). -/
structure Erase where
  step : Nat
  level : Nat
  sensor : Nat
  /-- Listed blocks not yet erased: 512 × bank + block. -/
  blocks : List Nat
  deriving DecidableEq, Repr

/-- Root of trust, keys and the Dike. -/
structure SecSys where
  /-- The fuses (R445). -/
  fuses : Fuses
  /-- Key slots by context (R451). -/
  slots : Table KeySlot
  /-- Key map: slot of each 2 MiB granule; 0x7F NONE. -/
  keyMap : Table Nat
  /-- Number of the next key. -/
  nextKey : Nat
  /-- The policy in force (R457). -/
  policy : Option Policy
  /-- GUEST_WAIT (R40, R457). -/
  guestWait : Bool
  /-- The guest is enabled (R29). -/
  guestOn : Bool
  /-- The guest is isolated (R30). -/
  guestIso : Bool
  /-- Blocked guest requests within the last millisecond: their counts (R30). -/
  guestBlocks : List Nat
  /-- DK_STATUS.STATE: 0 normal, 1 quarantined, 2 erasing, 3 retired. -/
  dike : Nat
  /-- The key erase that runs (R460). -/
  erase : Option Erase
  /-- Owner debug is unlocked (R464). -/
  dbgOwner : Bool
  /-- Vendor debug is unlocked (R464). -/
  dbgVendor : Bool
  /-- Debug challenge: nonce number, level, count at which it expires. -/
  nonce : Option (Nat × Nat × Nat)
  /-- The owner slot from which stage 1 derived the key-encryption key (R453). -/
  kek : Option Nat
  /-- The key-encryption key is disabled by a vendor unlock (R464). -/
  kekOff : Bool
  /-- Staging area (R465). -/
  staging : List Host.Cell
  /-- The random source failed (R450). -/
  entropyBad : Bool
  /-- Trips latched before stage 2 (R461): sensor. -/
  latchedBoot : Option Nat
  /-- Measurements changed in service, by index: number of changes (R447). -/
  measures : Table Nat
  /-- SHA-512 of each component of the bundle that runs, measurements 2-5 (R447). -/
  bundle : List Nat
  /-- The Dike is armed (R458). -/
  armed : Bool
  /-- Identity layers were derived (R446); the UDS is closed. -/
  identity : Bool
  /-- The UDS is closed: the hub firmware was started (R444). -/
  udsClosed : Bool
  deriving DecidableEq, Repr

/-! ## Boot, resets and die-to-die interfaces (01, 20) -/

/-- A die-to-die interface, numbered as in D2D_SEL (R18-R23). -/
structure Iface where
  present : Bool
  /-- The training record: the width, absent on first boot, and the repair map (R20). A map lists failed wires, 66 × group +
  wire: a group steers up to two and is disabled by a third (R18). -/
  recorded : Option Nat
  recMap : List Nat
  /-- Trained width, and the map in use. -/
  width : Nat
  map : List Nat
  /-- STATE of D2D_STATUS. -/
  st : Nat
  deriving DecidableEq, Repr

/-- Boot and reset. -/
structure BootSys where
  /-- RST_STAGE.STAGE and STOPPED. -/
  stage : Nat
  /-- Boot has stopped, refused or failed (R26, R468). -/
  stopped : Bool
  /-- RST_STAGE.WARM_BUSY (R473). -/
  warmBusy : Bool
  /-- The full sweep runs at this boot (R468). -/
  full : Bool
  /-- In ROM service (R444). -/
  romService : Bool
  /-- Held in reset by a rail failure until a cold reset (R508). -/
  railDown : Bool
  /-- Rail that failed, latched for the next boot (R508). -/
  latchedRail : Option Nat
  /-- A block reset or warm reset runs: 1 warm, 2 block. -/
  busyKind : Nat
  /-- Power-on minute of each cell's last test (R478). -/
  tested : Table Nat
  /-- Dies offline, as a bit set by die code. -/
  dieOff : Nat
  /-- HOST_DURING_RESET was raised for this reset (R474). -/
  reportedReset : Bool
  /-- Fatal state: everything is stopped (R488). -/
  fatal : Bool
  /-- Domains whose clock has stopped: die, domain and unit of R37. -/
  stops : List (Nat × Nat × Nat)
  /-- Boot number is 0xFFFF_FFFF while the store is unavailable (R166). -/
  bootNum : Nat
  /-- Package feature level (R25). -/
  level : Nat
  /-- Counters updated since the last tick, cell and counter key, while a die lacks FEAT_TOKEN_BYPASS: firings that test them
  are held (R24, R56). -/
  fresh : List (Nat × Nat)
  /-- Entries of crossings that resets have discarded (R38). -/
  discarded : Nat
  /-- A warm device reset or an orderly power-down that waits for the store buffers: the count at which it waits no longer (R273). -/
  drainUntil : Option Nat
  /-- Die-to-die interfaces (R18). -/
  ifaces : Table Iface
  /-- Interface to be swept, channels to be trained fully, at this boot (R425). -/
  actSweep : Nat
  /-- Stacks that the next boot trains in full (R437). -/
  actTrain : List Nat
  /-- Count at the end of the last completed stage, and that stage's length in milliseconds (R492). -/
  stageAt : Nat
  /-- Milliseconds of the last stage, in RST_STAGE (R468). -/
  stageMs : Nat
  deriving DecidableEq, Repr

/-! ## The Cicada count (07_cicada_count.md) -/

/-- The count and what hangs on it. -/
structure CicSys where
  /-- The count (R157). -/
  count : Nat
  /-- Deviation of a replica from the count, by unit number. -/
  skew : Table Int
  /-- The value that a replica has reached and does not fall below (R159, R160). -/
  hold : Table Nat
  /-- Dies whose replicas are not loaded (R158). -/
  unloaded : List Nat
  /-- Consecutive bad checks by die (R160). -/
  bad : Table Nat
  /-- Watchdog: count at which the period ends. -/
  wdtAt : Nat
  /-- Power-on minutes committed by earlier boots (R167). -/
  minutes : Nat
  /-- Minutes of this boot at the last commit of POWER_MIN (R167). -/
  committedAt : Nat
  deriving DecidableEq, Repr

/-! ## The whole -/

/-- Why a command stops the model. -/
inductive Fault where
  /-- The command names a unit that the package does not have (a cell above 319, a link above 95, a hart above 95, a
  context above 63, a page or a channel that does not exist): raised by every command's check of its operands. Safe. -/
  | noSuchUnit
  deriving DecidableEq, Repr

/-- Why the model refuses a command. -/
inductive Refusal where
  /-- The command has no meaning here yet. Safe. -/
  | notModelled (mnemonic : String)
  /-- A register of a guest page from offset 0x040 on is the guest die's, whose behaviour is its vendor's and is not
  described (R28, R504): raised by a register access to such an offset of a page that the policy lists. Safe. -/
  | guestRegister
  deriving DecidableEq, Repr

/-- The state. -/
structure State where
  /-- Commands waiting, first in, first out. -/
  pending : List Instr
  /-- What the block has sent to the outside (notes/assumptions/7.md). -/
  out : List Out
  /-- Use number of the next free value (notes/assumptions/2.md). -/
  free : Nat
  /-- Registers: key index × 2^27 + BAR0 address; doorbell pages from 0x400_0000 (R493, R501). -/
  regs : Table Word
  /-- The _HI word that a source's last _LO read latched: key source × 2^27 + address of _LO (R500). -/
  latch : Table Nat
  /-- The _LO write that a source holds: key source × 2^27 + address of _LO; value + 1 (R500). -/
  heldLo : Table Nat
  cic : CicSys
  /-- Device memory by device-physical address; a channel's reserved offsets from 2^40 + channel × 2^31 (R204). -/
  mem : List Host.Cell
  /-- Poisoned code words, by address ÷ 32 (R209). -/
  poison : Table Bool
  /-- Key under which a code word was written: key number + 1, 0 for plain (R452). -/
  keyTag : Table Nat
  ctxs : Table Ctx
  cells : Table Cell
  mtus : Table MatchUnitState
  str : StreamSys
  xlt : XltSys
  /-- Held writes of the floors' hold buffers, oldest first (R70, R71). -/
  held : List HeldWrite
  hbm : HbmSys
  coh : CohSys
  core : CoreSys
  host : HostSys
  lnk : LinkSys
  mir : MirSys
  pwr : PwrSys
  pld : PldSys
  sec : SecSys
  err : ErrState
  boot : BootSys
  deriving DecidableEq, Repr

/-! ## Reset -/

/-- A context slot that is not live. -/
def Ctx.idle : Ctx where
  live := false
  desc := ⟨0, false, false, false, false, 0, 0, 0, 0, 0, 0, 0, 0, 0, 0, 0, 0, 0⟩
  paused := false
  producer := 0
  consumer := 0
  halted := false
  dbBad := false
  err := 0
  cmds := []
  fqProduced := 0
  fqWaits := []
  fqConsumed := 0
  fqQueueFull := false
  fqNorec := false
  fqRespBad := false
  fqConsBad := false
  fqUnmapped := false
  tags := []
  nextTag := 1
  fqHeld := []
  norec := []
  priOut := 0
  phases := []
  nextPhases := none
  phase := 0
  barrier := none
  claimed := false
  token := 0
  tokenReady := false
  tokenFails := 0
  abandonAt := none
  holdUntil := none
  window := false
  energyUsed := 0
  energyOut := false
  completedThrough := 0
  ran := []
  countDue := none
  copies := []
  ending := 0

/-- An unbound counter. -/
def Counter.idle : Counter := ⟨false, 0, 0, 0, 0, 0, 0, 0, 0, [], 0⟩

/-- A track that is not started. -/
def Track.idle : Track := ⟨false, 0, 0, false, 0, false, false, false, false, 0⟩

/-- A cleared cell's contents (R70 step 5, R88, R132). -/
def CellImg.idle : CellImg where
  sram := []
  poison := []
  prog := []
  counters := []
  tracks := List.replicate 8 Track.idle
  preds := 0
  stampBase := 0
  ops := []
  nextOp := 0
  nextArm := 0
  books := ⟨[], 0, 0⟩
  curves := []
  started := false
  cmd := none
  stopping := false
  halted := false
  phaseWait := false
  faultCode := 0
  faultTrack := 0
  faultDesc := 0
  faultEngine := 0

/-- A cell that nothing occupies. -/
def Cell.idle : Cell where
  img := CellImg.idle
  runner := none
  borrowed := false
  move := .steady
  saved := none
  dbgHold := false
  startHead := []
  startMask := 0
  startEntries := []
  startBase := 0
  startCmd := none
  haltedAt := none
  returnNow := false
  fenced := false

/-- A match unit with nothing to do. -/
def MatchUnitState.idle : MatchUnitState := ⟨none, none, 0, []⟩

/-- An endpoint of a free stream. -/
def Endpoint.none_ : Endpoint := ⟨0, 0, 0, 0, 0, 0, 0⟩

/-- A transfer of nothing. -/
def Xfer.idle : Xfer :=
  { id := 0, issuer := 1, owner := 0, op := 0, len := 0, src := 0, dst := 0, sent := 0, acked := 0, flush := false, stamp := none,
    tested := false, flag := none, flagged := false, irq := false, seq := 0, ports := 0, srcPorts := 0, lastPort := 0,
    lines := [0, 0], readbacks := 0, ahead := 0 }

/-- A stream index never used (R173, R174, R201: generation 1). -/
def Stream.idle : Stream where
  gen := 1
  st := .free
  ctx := 0
  src := Endpoint.none_
  snk := Endpoint.none_
  flush := false
  vlane := 0
  order := 0
  home := 0
  credits := 0
  debt := 0
  xfers := []
  nextXfer := 0
  hands := []
  handed := 0
  ringAt := 0
  coreRead := 0
  coreWritten := 0
  delivered := 0
  lastStatus := 0
  lastFailSeq := 0
  lastSeq := 0
  destroyBy := none
  srcDone := 0
  prodDue := false
  consDue := false

/-- A sluice at reset: its first refill is due at count 0. -/
def Sluice.idle : Sluice := ⟨0, 0, 0, 0, 0, false, false, [0, 0, 0]⟩

/-- A maintenance sluice at reset. -/
def Maint.idle : Maint := ⟨0, 0, 0, 0⟩

/-- A channel that is not trained. -/
def Chan.idle : Chan := ⟨[], [], [], [], none, 0, false, false, 0, 0, []⟩

/-- No directory entry: DI (R239). -/
def DirEntry.di : DirEntry := ⟨0, [], 0⟩

/-- A line not held (R238). -/
def AgentLine.none_ : AgentLine := ⟨.i, [], [], false⟩

/-- A hart that is parked (R315). -/
def Hart.parked : Hart := ⟨false, 3, 0, [], [], none, false, .none, [], [], none, false, 0, 0⟩

/-- A port that is down (R331). -/
def Port.down : Port := ⟨false, false, false, false, false, false, false, false, 0, 0⟩

/-- A link that is down. Each lane's credits are the receive buffer of R348. -/
def Link.down : Link where
  state := 0
  role := 0
  boundary := false
  lanes := 0
  step := 0
  tries := 0
  badLanes := 0
  keptBad := 0
  idleUntil := none
  table := []
  peerDev := 0
  peerPort := 0
  peerSwitch := false
  known := false
  txSeq := 0
  rxSeq := 4095
  ackSeq := 4095
  replay := []
  credits := [256, 256, 256, 256, 256, 256, 32, 32]
  queue := []
  burst := none
  aborts := 0
  contenders := []
  lastWinner := 0
  cycle := 0
  rxBurst := 0
  rxLane := 0
  rxUsed := [0, 0, 0, 0, 0, 0, 0, 0]

/-- No job start. -/
def Job.idle : Job := ⟨0, 0, 2, 0, 0, [], none, 0, 0⟩

/-- A die before its first telemetry: point 0, duty 8/8, no ceiling, the factory margin of 25 mV (R396, R413). -/
def DiePower.start : DiePower :=
  { op := 0, target := 0, capCeil := 15, curCeil := 15, thermCeil := 15, capDuty := 7, margin := 10, hasMargin := false,
    raiseAt := 0, droops := [], hot := false, thermAt := 0, sensorOnly := false, sensorsFailed := false, coeff := 1000,
    firstRun := false, samples := [] }

/-- A journal block that is erased and was never written (R415). -/
def PldBlock.fresh : PldBlock := ⟨.erased, 0, 0, 1, false⟩

/-- An EMPTY key slot (R451). -/
def KeySlot.empty : KeySlot := ⟨0, 0, false⟩

/-- An interface before it trains: its full width in groups (R18), lanes for the guest module. -/
def ifaceFull (i : Nat) : Nat :=
  if i < 4 then 32 else if i < 12 then 128 else if i < 14 then 32 else if i < 16 then 16 else if i < 20 then 80 else 64

/-- An interface with no record, not yet trained (R20). A guest die stands on its site, its module held in reset (R28;
notes/assumptions/31.md). -/
def Iface.start (i : Nat) : Iface := ⟨i ≤ 20, none, [], 0, [], if i < 20 then 0 else 2⟩

/-- The shipped feature word of a die code: hub A2, core B0, floor and link A1, cell B0, HBM base B0 (R5, R24, R26);
notes/assumptions/9.md. -/
def featureWord (d : Nat) : Nat :=
  if d = 0 then 0x01A2000F else if d = 1 then 0x02B0000F else if 2 ≤ d ∧ d ≤ 5 then 0x03A1000F
  else if 8 ≤ d ∧ d ≤ 15 then 0x04B0000F else if 16 ≤ d ∧ d ≤ 19 then 0x05A1000F
  else if 24 ≤ d ∧ d ≤ 31 then 0x06B0000F else 0

/-- Die codes of the package's own dies (R494). -/
def dieCodes : List Nat := [0, 1, 2, 3, 4, 5, 8, 9, 10, 11, 12, 13, 14, 15, 16, 17, 18, 19, 24, 25, 26, 27, 28, 29, 30, 31]

/-- The fuses of a part as it leaves the factory, vendor slot 0 blown, no owner (R439, R445); notes/assumptions/9.md. -/
def Fuses.factory : Fuses where
  vendorKeys := [some 0, none, none, none]
  vendorRevoke := 0
  ownerKeys := [none, none]
  ownerRevoke := 0
  svnHub := 0
  svnCore := 0
  svnPolicy := 0
  floors := [0, 0, 0, 0, 0, 0, 0]
  debugDisable := 0
  retired := false
  features := []
  ids := []

/-- Little-endian bytes of a factory record's payload. -/
def factoryBytes : Nat → Nat → List Byte
  | 0, _ => []
  | n + 1, v => BitVec.ofNat 8 v :: factoryBytes n (v / 256)

/-- Factory records (R415, R419, R424): FACTORY_ID with serial number 0 and each die's unique id, STEP_INVENTORY with each die's
feature word and id, and the two identity certificate chains; notes/assumptions/9.md. -/
def factoryRecords : List PldRec :=
  let one_ (type key seq : Nat) (data : List Byte) : PldRec := ⟨type, key, 1, 0, true, false, seq, data, 0, 0⟩
  [one_ 0x01 0 0 (List.replicate 8 0 ++ dieCodes.flatMap fun d => factoryBytes 8 d),
   one_ 0x41 0 1 (dieCodes.flatMap fun d => factoryBytes 4 (featureWord d) ++ factoryBytes 8 d),
   one_ 0x02 0 2 ((Config.factoryChain 0).take 2016), one_ 0x02 1 3 ((Config.factoryChain 1).take 2016)]

/-- The store of a part that holds factory records only (R424). -/
def PldSys.factory : PldSys where
  records := factoryRecords
  blocks := []
  bankA := false
  bankB := false
  st := 0
  queue := []
  running := none
  seq := 0xFFFF
  eraseTimes := []
  held := []
  heldLost := 0
  heldNow := false
  blind := []
  errSummary := []
  fatalRecs := []
  summaryDirty := false
  busy := none
  compact := none
  syncAt := none
  aheadSaid := false
  known := []
  logAt := 0

/-- No replica outside the hub is loaded before stage 3 (R158). -/
def CicSys.start : CicSys := ⟨0, [], [], dieCodes.filter (· != 0), [], 0, 0, 0⟩
def StreamSys.start : StreamSys := ⟨[], [], 0, [], 0, [0, 0, 0, 0], [], []⟩
def XltSys.start : XltSys := ⟨[], [], 0, [], [], 0, [], []⟩
def HbmSys.start : HbmSys := ⟨[], List.replicate 4 Maint.idle, List.replicate 12 0, [], [], 0, none⟩
def CohSys.start : CohSys :=
  { dir := [], lines := [], txns := [], waiting := [], flc := [], pocket := [], prefetches := [], hostOwn := [], retired := [],
    wayErrs := [], clock := 0, enabled := [], full := false, sweeping := false, offers := [] }
def CoreSys.start : CoreSys := ⟨[], 0, false, none, 0, false⟩
def HostSys.start : HostSys :=
  { ports := [Port.down, Port.down], waiting := [], reads := [], unread := [], nextWrite := 0, attach := 2, attested := false,
    sessions := [], vecs := [], pba := [] }
def LinkSys.start : LinkSys :=
  { links := [], mpart := 0, epoch := 0, firstPod := 0, pods := 1, partState := 2, job := Job.idle, colls := [],
    nextMsg := 0, lagSample := none, lagAt := 0 }
def MirSys.start : MirSys :=
  { st := 0, primary := false, epoch := 0, witness := false, dirty := [], copies := [], nextCopy := 0, peerSt := 0,
    missed := 0, hbAt := 0, hasMap := true, asyncHeld := false, suspended := 0, forming := none, waiting := [], posts := [], resync := none, ctxs := [],
    acks := [], replies := [], sentAt := 0, sent := [], cells := 0 }
def PwrSys.start : PwrSys :=
  { dies := [], coreCap := 32, coreCur := 32, coreTherm := 32, coreHot := false, coreThermAt := 0, coreRaiseAt := 0,
    emergency := false, throttle := false, shift := 0, suspect := false, unreachable := false, coeffAt := none,
    belowSince := none, energy := 0, unattributed := 0, life := 0, agedAt := 0, thermTrip := false, pdReq := false, pdDone := false,
    sampleAt := 0, fastAt := 0, capAt := 0, coolAt := 0 }
def SecSys.start (f : Fuses) : SecSys :=
  { fuses := f, slots := [], keyMap := [], nextKey := 1, policy := none, guestWait := false, guestOn := false,
    guestIso := false, guestBlocks := [], dike := 0, erase := none, dbgOwner := false, dbgVendor := false, nonce := none,
    kek := none, kekOff := false, staging := [], entropyBad := false, latchedBoot := none, measures := [], bundle := [], armed := false,
    identity := false, udsClosed := false }
def ErrState.start : ErrState := ⟨[], 1, [], 0, false, false, none, false⟩
def BootSys.start : BootSys :=
  { stage := 1, stopped := false, warmBusy := false, full := false, romService := false, railDown := false,
    latchedRail := none, busyKind := 0, tested := [], dieOff := 0, reportedReset := false, fatal := false, stops := [], bootNum := 0, level := 0,
    fresh := [], discarded := 0, drainUntil := none, ifaces := [], actSweep := 0, actTrain := [], stageAt := 0, stageMs := 0 }

/-- The package after a cold reset, with the fuses and the store it keeps (R471). -/
def State.afterCold (f : Fuses) (p : PldSys) (rail : Option Nat) : State where
  pending := []
  out := []
  free := 0
  regs := []
  latch := []
  heldLo := []
  cic := CicSys.start
  mem := []
  poison := []
  keyTag := []
  ctxs := []
  cells := []
  mtus := []
  str := StreamSys.start
  xlt := XltSys.start
  held := []
  hbm := HbmSys.start
  coh := CohSys.start
  core := CoreSys.start
  host := HostSys.start
  lnk := LinkSys.start
  mir := MirSys.start
  pwr := PwrSys.start
  pld := p
  sec := SecSys.start f
  err := ErrState.start
  boot := { BootSys.start with latchedRail := rail }

/-- The package right after power-up of a part fresh from the factory: count 0, boot stage 1, nothing trained, memory
unwritten (R157, R468, R471). -/
def State.reset : State := State.afterCold Fuses.factory PldSys.factory none

end Sys2Proof.Machine
end

