-- ==== Sys2Proof/Machine/Regs.lean ====
section
/-!
DEFINITION. Where registers stand and how they are held: pages and their kinds (R494, R504), select registers and the
registers they steer (R501), one register word, one field of it.
-/

namespace Sys2Proof.Machine

/-- BAR0 address of a register (R494). -/
def raddr (die page off : Nat) : Nat := 0x200000 * die + 0x1000 * page + off

/-- Address of a doorbell-page register: BAR4 stands above BAR0's 64 MiB (R493, R495). -/
def dbAddr (ctx off : Nat) : Nat := 0x4000000 + ctx * 0x1000 + off

/-- Kind of page `n` of die code `d`; none for an unassigned page (R504). -/
def pageKind (d n : Nat) : Option PageKind :=
  if !dieCodes.contains d then none
  else if n = 0 then some (if d = 0 then .prm else .die)
  else if d = 0 then
    match n with
    | 0x01 => some .pkg | 0x02 => some .ctxm | 0x03 => some .route | 0x04 => some .cic | 0x05 => some .slu
    | 0x06 => some .ord | 0x07 => some .xlc | 0x09 => some .hp | 0x0A => some .hp | 0x0B => some .att
    | 0x0C => some .mch | 0x0D => some .mir | 0x0E => some .pwr | 0x0F => some .pld | 0x10 => some .dk
    | 0x11 => some .key | 0x12 => some .rst | _ => none
  else if d = 1 then (if n = 2 then some .core else if n = 8 then some .xlt else none)
  else if d ≤ 5 then
    match n with
    | 0x08 => some .xlt | 0x10 => some .ste | 0x14 => some .rse | 0x18 => some .flc | 0x19 => some .coh | _ => none
  else if d ≤ 15 then
    if n = 8 then some .xlt else if n = 0x0C then some .mtu
    else if 0x10 ≤ n ∧ n < 0x38 then some .cseq else if 0x40 ≤ n ∧ n < 0x68 then some .mxe
    else if 0x70 ≤ n ∧ n < 0x98 then some .vxe else none
  else if d ≤ 19 then
    if n = 2 then some .lx else if 0x10 ≤ n ∧ n < 0x28 then some .lk else none
  else if n = 0x10 then some .tgen else if n = 0x11 then some .hbmc else none

/-- Kind of the page that holds an address. -/
def kindAt (a : Nat) : Option PageKind :=
  if 0x4000000 ≤ a then (if a < 0x4040000 then some .db else none) else pageKind (a / 0x200000) (a / 0x1000 % 512)

/-- INSTANCE of PG_ID (R504). -/
def pageInstance (d n : Nat) : Nat :=
  match pageKind d n with
  | some .hp => n - 9
  | some .die => if d = 1 then 0 else if d ≤ 5 then d - 2 else if d ≤ 15 then d - 8 else if d ≤ 19 then d - 16 else d - 24
  | some .xlt => if d = 1 then 0 else if d ≤ 5 then d - 2 else d - 8
  | some .ste | some .rse | some .flc | some .coh => d - 2
  | some .mtu => d - 8
  | some .cseq => n - 0x10
  | some .mxe => n - 0x40
  | some .vxe => n - 0x70
  | some .lx => d - 16
  | some .lk => n - 0x10
  | some .tgen | some .hbmc => d - 24
  | _ => 0

/-- Fields of a page's registers, header included; a doorbell page has no header (R46, R496). -/
def PageKind.fields (k : PageKind) : List RegField :=
  if k = .db then blockFields k else headerFields ++ blockFields k

/-- Fields of one register; the mailbox buffer and the words of the held record stand in rows of words (R438, R492). -/
def PageKind.at_ (k : PageKind) (off : Nat) : List RegField :=
  if k = .pld ∧ Reg.PLD_MBX_DATA ≤ off then (if off % 4 = 0 then [⟨off, 31, 0, .rw, 0⟩] else [])
  else if k = .rst ∧ Reg.ERR_HELD_DATA ≤ off ∧ off ≤ 0x17C then (if off % 4 = 0 then [⟨off, 31, 0, .ro, 0⟩] else [])
  else k.fields.filter fun f => f.off = off

/-- Value of a register word whose fields are listed, each at its reset value. -/
def fieldsReset (l : List RegField) : Nat := l.foldl (fun a f => a + f.reset * 2 ^ f.lo) 0

/-- The default link training table (R349, R350): OP, NEXT_OK, NEXT_FAIL, TRIES, TIMEOUT, ARG of entry `i`. An entry
beyond it is 0, whose OP behaves as DOWN with ARG 100 (R349). -/
def trainDefault (i : Nat) : Nat :=
  let e (op ok fail tries timeout arg : Nat) : Nat :=
    op * 2 ^ 56 + ok * 2 ^ 48 + fail * 2 ^ 40 + tries * 2 ^ 32 + timeout * 2 ^ 16 + arg
  match i with
  | 0 => e 1 1 1 1 10 0
  | 1 => e 2 2 11 1 1000 0
  | 2 => e 3 3 10 3 500 0
  | 3 => e 4 4 10 2 50000 0
  | 4 => e 5 5 10 3 1000 0
  | 5 => e 6 6 10 3 100 0
  | 6 => e 7 7 10 3 1000 0x4000
  | 7 => e 8 8 11 3 1000 0
  | 8 => e 9 9 10 3 100 0
  | 9 => e 10 0 0 0 0 0
  | 10 => e 11 2 11 1 10 0
  | 11 => e 12 0 0 1 0 100
  | _ => 0

/-- What a register that nothing has written holds: its reset value (R6). MSI-X vector control resets masked
(notes/assumptions/3.md). -/
def regReset (key : Nat) : Word :=
  let a := key % 2 ^ 27
  let off := a % 0x1000
  if 0x20000 ≤ a ∧ a < 0x28000 then (if a % 16 = 12 then 1 else 0)
  else
    match kindAt a with
    | none => 0
    | some .lx =>
      if off = Reg.LX_TRN_ENTRY_LO then BitVec.ofNat 32 (trainDefault (key / 2 ^ 27))
      else if off = Reg.LX_TRN_ENTRY_HI then BitVec.ofNat 32 (trainDefault (key / 2 ^ 27) / 2 ^ 32)
      else BitVec.ofNat 32 (fieldsReset (PageKind.lx.at_ off))
    | some k => BitVec.ofNat 32 (fieldsReset (k.at_ off))

/-- Key of register `a`, copy `idx`, in the register table; of a source's word for address `a` in the latch tables. -/
def regKey (idx a : Nat) : Nat := 2 ^ 27 * idx + a

/-- The word of register `a`, copy `idx`. -/
def rd (s : State) (idx a : Nat) : Nat := (tget regReset s.regs (regKey idx a)).toNat

/-- The state with `v` in register `a`, copy `idx`. -/
def wr (s : State) (idx a v : Nat) : State :=
  { s with regs := tset regReset s.regs (regKey idx a) (BitVec.ofNat 32 v) }

/-- A field of a register. -/
def fld (s : State) (idx a hi lo : Nat) : Nat := bits (rd s idx a) hi lo

/-- The state with a field set. -/
def setFld (s : State) (idx a hi lo v : Nat) : State := wr s idx a (setBits (rd s idx a) hi lo v)

/-- A 64-bit pair whose _LO register is `a` (R8). -/
def rd64 (s : State) (idx a : Nat) : Nat := rd s idx a + 2 ^ 32 * rd s idx (a + 4)

/-- The state with a 64-bit pair set. -/
def wr64 (s : State) (idx a v : Nat) : State := wr (wr s idx a (v % 2 ^ 32)) idx (a + 4) (v / 2 ^ 32 % 2 ^ 32)

/-- Hub register (die code 0). -/
def hub (page off : Nat) : Nat := raddr 0 page off

/-! Pages of the hub. -/
abbrev Pg.PKG : Nat := 0x01
abbrev Pg.CTXM : Nat := 0x02
abbrev Pg.ROUTE : Nat := 0x03
abbrev Pg.CIC : Nat := 0x04
abbrev Pg.SLU : Nat := 0x05
abbrev Pg.ORD : Nat := 0x06
abbrev Pg.XLC : Nat := 0x07
abbrev Pg.HP : Nat := 0x09
abbrev Pg.ATT : Nat := 0x0B
abbrev Pg.MCH : Nat := 0x0C
abbrev Pg.MIR : Nat := 0x0D
abbrev Pg.PWR : Nat := 0x0E
abbrev Pg.PLD : Nat := 0x0F
abbrev Pg.DK : Nat := 0x10
abbrev Pg.KEY : Nat := 0x11
abbrev Pg.RST : Nat := 0x12

/-- The copy of a register that its page's select register shows (R501): 0 where nothing selects it. -/
def steer (s : State) (k : PageKind) (base off : Nat) : Nat :=
  let sel (o hi lo : Nat) : Nat := fld s 0 (base + o) hi lo
  match k with
  | .pkg => if off = Reg.D2D_STATUS ∨ off = Reg.D2D_REPLAY_CNT then sel Reg.D2D_SEL 4 0 else 0
  | .cic => if Reg.CIC_TMR_CTL ≤ off ∧ off ≤ Reg.CIC_TMR_PERIOD then sel Reg.CIC_TMR_SEL 2 0 else 0
  | .slu =>
    if off = Reg.SLU_PIN_BASE ∨ off = Reg.SLU_PIN_SIZE then sel Reg.SLU_SEL 9 8 * 64 + sel Reg.SLU_SEL 5 0
    else if Reg.SLU_SHARE_CTL ≤ off ∧ off ≤ Reg.SLU_PIN_CTL then sel Reg.SLU_SEL 5 0 else 0
  | .ord =>
    if off = Reg.ORD_RAT_DEFAULT then sel Reg.ORD_RAT_SEL 9 8 * 64
    else if Reg.ORD_RAT_CTL ≤ off ∧ off ≤ Reg.ORD_RAT_SIZE then
      sel Reg.ORD_RAT_SEL 9 8 * 64 + sel Reg.ORD_RAT_SEL 5 0 else 0
  | .xlc => if off = Reg.XLC_PASID ∨ off = Reg.XLC_PRI_OUT then sel Reg.XLC_SEL 5 0 else 0
  | .mch => if off = Reg.MCH_ROUTE_UP ∨ off = Reg.MCH_ROUTE_TAG then sel Reg.MCH_ROUTE_SEL 11 0 else 0
  | .mir => if off = Reg.MIR_REG_BASE ∨ off = Reg.MIR_REG_SIZE then sel Reg.MIR_REG_SEL 3 0 else 0
  | .pwr =>
    if Reg.PWR_DIE_TEMP ≤ off ∧ off ≤ Reg.PWR_DIE_MARGIN then sel Reg.PWR_DIE_SEL 5 0
    else if Reg.PWR_CTX_USED_LO ≤ off ∧ off ≤ Reg.PWR_CTX_STATUS then sel Reg.PWR_CTX_SEL 5 0 else 0
  | .dk => if off = Reg.DK_SENSOR then sel Reg.DK_SENSOR_SEL 2 0 else 0
  | .core =>
    if Reg.CORE_HART_STATUS ≤ off ∧ off ≤ Reg.CORE_DB_MASK_HI then sel Reg.CORE_HART_SEL 6 0
    else if off = Reg.CORE_IRQ_ROUTE then sel Reg.CORE_IRQ_SEL 5 0 else 0
  | .lx => if off = Reg.LX_TRN_ENTRY_LO ∨ off = Reg.LX_TRN_ENTRY_HI then sel Reg.LX_TRN_SEL 4 0 else 0
  | .tgen => if Reg.TGEN_CTL ≤ off then sel Reg.TGEN_CHAN_SEL 4 0 else 0
  | .hbmc => if Reg.HBMC_CE_CNT ≤ off then sel Reg.HBMC_CHAN_SEL 4 0 else 0
  | _ => 0

/-! Tables of units. -/

/-- Context slot `i`. -/
def State.ctx (s : State) (i : Nat) : Ctx := tget (fun _ => Ctx.idle) s.ctxs i

/-- The state with a context slot set. -/
def State.setCtx (s : State) (i : Nat) (c : Ctx) : State := { s with ctxs := tset (fun _ => Ctx.idle) s.ctxs i c }

/-- Physical cell `c`. -/
def State.cell (s : State) (c : Nat) : Cell := tget (fun _ => Cell.idle) s.cells c

/-- The state with a cell set. -/
def State.setCell (s : State) (c : Nat) (x : Cell) : State := { s with cells := tset (fun _ => Cell.idle) s.cells c x }

/-- Match unit of cell die `d`. -/
def State.mtu (s : State) (d : Nat) : MatchUnitState := tget (fun _ => MatchUnitState.idle) s.mtus d

/-- The state with a match unit set. -/
def State.setMtu (s : State) (d : Nat) (m : MatchUnitState) : State :=
  { s with mtus := tset (fun _ => MatchUnitState.idle) s.mtus d m }

/-- Stream index `i`. -/
def State.stream (s : State) (i : Nat) : Stream := tget (fun _ => Stream.idle) s.str.streams i

/-- The state with a stream index set. -/
def State.setStream (s : State) (i : Nat) (x : Stream) : State :=
  { s with str := { s.str with streams := tset (fun _ => Stream.idle) s.str.streams i x } }

/-- Channel `c` (32 × stack + channel). -/
def State.chan (s : State) (c : Nat) : Chan := tget (fun _ => Chan.idle) s.hbm.chans c

/-- The state with a channel set. -/
def State.setChan (s : State) (c : Nat) (x : Chan) : State :=
  { s with hbm := { s.hbm with chans := tset (fun _ => Chan.idle) s.hbm.chans c x } }

/-- Hart `h`. -/
def State.hart (s : State) (h : Nat) : Hart := tget (fun _ => Hart.parked) s.core.harts h

/-- The state with a hart set. -/
def State.setHart (s : State) (h : Nat) (x : Hart) : State :=
  { s with core := { s.core with harts := tset (fun _ => Hart.parked) s.core.harts h x } }

/-- Host port `p`. -/
def State.port (s : State) (p : Nat) : Port := s.host.ports.getD p Port.down

/-- The state with a host port set. -/
def State.setPort (s : State) (p : Nat) (x : Port) : State :=
  { s with host := { s.host with ports := s.host.ports.set p x } }

/-- Link `l`. -/
def State.link (s : State) (l : Nat) : Link := tget (fun _ => Link.down) s.lnk.links l

/-- The state with a link set. -/
def State.setLink (s : State) (l : Nat) (x : Link) : State :=
  { s with lnk := { s.lnk with links := tset (fun _ => Link.down) s.lnk.links l x } }

/-- Die `d` at the power manager. -/
def State.die (s : State) (d : Nat) : DiePower := tget (fun _ => DiePower.start) s.pwr.dies d

/-- The state with a die set. -/
def State.setDie (s : State) (d : Nat) (x : DiePower) : State :=
  { s with pwr := { s.pwr with dies := tset (fun _ => DiePower.start) s.pwr.dies d x } }

/-- Key slot `i`. -/
def State.slot (s : State) (i : Nat) : KeySlot := tget (fun _ => KeySlot.empty) s.sec.slots i

/-- The state with a key slot set. -/
def State.setSlot (s : State) (i : Nat) (x : KeySlot) : State :=
  { s with sec := { s.sec with slots := tset (fun _ => KeySlot.empty) s.sec.slots i x } }

/-- Slot that maps a 2 MiB granule; 0x7F for NONE (R452). -/
def State.keyMapAt (s : State) (g : Nat) : Nat := tget (fun _ => 0x7F) s.sec.keyMap g

/-- Interface `i`. -/
def State.iface (s : State) (i : Nat) : Iface := tget Iface.start s.boot.ifaces i

/-- The state with an interface set. -/
def State.setIface (s : State) (i : Nat) (x : Iface) : State :=
  { s with boot := { s.boot with ifaces := tset Iface.start s.boot.ifaces i x } }

/-- Feature word of a die code (R24). -/
def State.feature (s : State) (d : Nat) : Nat := tget featureWord s.sec.fuses.features d

/-- A die is offline. -/
def State.offline (s : State) (d : Nat) : Bool := bit s.boot.dieOff d

/-- A domain's clock has stopped (R36, R37). -/
def clockStopped (s : State) (die domain unit : Nat) : Bool := s.boot.stops.contains (die, domain, unit)

/-- The state with something sent to the outside. -/
def State.emit (s : State) (o : Out) : State := { s with out := s.out ++ [o] }

/-- The next free value, cut to `w` bits. -/
def State.freeBits (s : State) (pos w : Nat) : Nat := Config.freeValue s.free pos % 2 ^ w

/-- The state with that free value used. -/
def State.useFree (s : State) : State := { s with free := s.free + 1 }

/-- Cell die and position of a cell (00_scope.md: cells are cell die × 40 + position). -/
def cellDie (c : Nat) : Nat := c / 40
def cellPos (c : Nat) : Nat := c % 40

/-- Positions of a die's cells. -/
def dieCells (d : Nat) : List Nat := (List.range 40).map (· + 40 * d)

/-- A preemption or a return runs on a die (R412). -/
def dieMoves (s : State) (d : Nat) : Bool := (dieCells d).any fun p => !((s.cell p).move = .steady)

/-- Duty of a cell die, less one, in eighths (R398, R404, R412). -/
def dutyOf (s : State) (d : Nat) : Nat :=
  let x := s.die (8 + d)
  if s.pwr.emergency ∨ x.sensorsFailed then 0 else if dieMoves s d then 7 else x.capDuty

/-- A cell die's clock stands in this tick: its duty leaves out the slot (R398). A frame is 125 ticks, of eight slots; that frames begin
at multiples of 125 is the model's choice (notes/assumptions/29.md). -/
def dutyGated (s : State) (d : Nat) : Bool := decide (dutyOf s d < s.cic.count % 125 * 8 / 125)

/-- The clock of a cell's die has stopped, or is gated (R36, R37, R398). -/
def cellClockStopped (s : State) (cell : Nat) : Bool :=
  clockStopped s (8 + cellDie cell) 1 0 || dutyGated s (cellDie cell)

/-- Floor die that carries a cell (R17). -/
def cellFloor (c : Nat) : Nat := c / 80

/-- Sequencer, matrix-engine and vector-engine registers of a cell (R74, R116, R135). -/
def cseqReg (c off : Nat) : Nat := raddr (8 + cellDie c) (0x10 + cellPos c) off
def mxeReg (c off : Nat) : Nat := raddr (8 + cellDie c) (0x40 + cellPos c) off
def vxeReg (c off : Nat) : Nat := raddr (8 + cellDie c) (0x70 + cellPos c) off

/-- Match-unit register of a cell die (R155). -/
def mtuReg (d off : Nat) : Nat := raddr (8 + d) 0x0C off

/-- Floor die registers (R201, R202, R254, R255). -/
def steReg (f off : Nat) : Nat := raddr (2 + f) 0x10 off
def rseReg (f off : Nat) : Nat := raddr (2 + f) 0x14 off
def flcReg (f off : Nat) : Nat := raddr (2 + f) 0x18 off
def cohReg (f off : Nat) : Nat := raddr (2 + f) 0x19 off

/-- Translation-unit register (R299). -/
def xltReg (die off : Nat) : Nat := raddr die 0x08 off

/-- Link port register (R372). -/
def lkReg (l off : Nat) : Nat := raddr (0x10 + l / 24) (0x10 + l % 24) off

/-- Stack registers (R224, R225). -/
def tgenReg (k off : Nat) : Nat := raddr (0x18 + k) 0x10 off
def hbmcReg (k off : Nat) : Nat := raddr (0x18 + k) 0x11 off

/-- Host port register (R340). -/
def hpReg (p off : Nat) : Nat := hub (Pg.HP + p) off

end Sys2Proof.Machine
end

