-- ==== Sys2Proof/Machine/Flags.lean ====
section
/-!
DEFINITION. Event flags, counters, vectors and error records: how a page's interrupt bits rise and raise its block
vector (R497, R505), how counters saturate, how a vector is sent (R313, R323), how an error record is raised, held,
written to the error ring and delivered (R479-R486), and the fatal state (R488).
-/

namespace Sys2Proof.Machine

/-! ## Vectors -/

/-- The hart and identity, of an interrupt file, to which a context's vector is routed (R313, R317). -/
def vectorRoute (s : State) (v : Nat) : Option (Nat × Nat) :=
  let r := rd s (v / 16) (raddr 1 2 Reg.CORE_IRQ_ROUTE)
  let h := bits r 22 16
  let base := bits r 7 0
  if v < 1024 ∧ bit r 31 ∧ 1 ≤ base ∧ base ≤ 240 ∧ bits r 30 28 ≤ 5 ∧ h < 96 then some (h, 256 * bits r 30 28 + base + v % 16) else none

/-- A vector raised, with the route in force now (R313); VECTOR_DELIVER takes it from here. -/
def raiseVector (s : State) (v : Nat) : State :=
  { s with host := { s.host with vecs := s.host.vecs ++ [⟨v, vectorRoute s v⟩] } }

/-- A context's vector `v` of 16 (R40). -/
def raiseCtxVector (s : State) (ctx v : Nat) : State := raiseVector s (16 * ctx + v)

/-- Block vector of a page (R505). -/
def pageVector (d n : Nat) : Nat :=
  match pageKind d n with
  | some .xlt => if d = 1 then 1088 + n else if d ≤ 5 then 1104 + 8 * (d - 2) else 1136 + 8 * (d - 8)
  | some .ste => 1104 + 8 * (d - 2) + 1
  | some .rse => 1104 + 8 * (d - 2) + 2
  | some .flc => 1104 + 8 * (d - 2) + 3
  | some .coh => 1104 + 8 * (d - 2) + 4
  | some .mtu => 1136 + 8 * (d - 8) + 1
  | some .cseq => 1136 + 8 * (d - 8) + 2
  | some .mxe => 1136 + 8 * (d - 8) + 3
  | some .vxe => 1136 + 8 * (d - 8) + 4
  | some .lx => 1200 + 32 * (d - 16)
  | some .lk => 1200 + 32 * (d - 16) + 1 + (n - 0x10)
  | some .tgen => 1328 + 2 * (d - 24)
  | some .hbmc => 1328 + 2 * (d - 24) + 1
  | some .die =>
    if d = 1 then 1088
    else if 8 ≤ d ∧ d ≤ 15 then 1136 + 8 * (d - 8) + 5
    else if 16 ≤ d ∧ d ≤ 19 then 1200 + 32 * (d - 16) + 25
    else 0
  | some _ => 1056 + n
  | none => if d = 6 ∧ n < 32 then 1344 + n else 0

/-- PG_INT_PEND of the page at `base` (R497). -/
def intPend (s : State) (base : Nat) : Nat :=
  rd s 0 (base + Reg.PG_INT_RAW) &&& rd s 0 (base + Reg.PG_INT_EN)

/-- The page's vector sent, where it has one. The die pages of floor dies and stacks have none (R505). -/
def sendPageVector (s : State) (base : Nat) : State :=
  let v := pageVector (base / 0x200000) (base / 0x1000 % 512)
  if v = 0 then s else raiseVector s v

/-- Bits of PG_INT_RAW set; the vector is sent when PG_INT_PEND changes from zero (R505). -/
def raiseBits (s : State) (base m : Nat) : State :=
  let t := wr s 0 (base + Reg.PG_INT_RAW) (rd s 0 (base + Reg.PG_INT_RAW) ||| m)
  if intPend s base = 0 ∧ intPend t base ≠ 0 then sendPageVector t base else t

/-- Bit `i` of PG_INT_RAW set. -/
def raiseInt (s : State) (base i : Nat) : State := raiseBits s base (2 ^ i)

/-- A value of the device parameter query has changed (R503): bit 0 of the hub's die page. -/
def paramChange (s : State) : State := raiseInt s 0 0

/-! ## Counters -/

/-- CNT_FREEZE of a page, where it has one. -/
def frozen (s : State) (k : PageKind) (base : Nat) : Bool :=
  match k with
  | .mxe | .vxe | .hp => bit (rd s 0 (base + 0x040 + (if k = .hp then 4 else 0))) 1
  | .lk => bit (rd s 0 (base + 0x040)) 2
  | .mtu | .ste | .flc | .coh | .xlt => bit (rd s 0 (base + 0x040)) 0
  | _ => false

/-- Pages whose PG_INT_RAW bit 0 is set when a counter saturates. -/
def satBit (k : PageKind) : Bool :=
  match k with
  | .mxe | .vxe | .hp | .lk | .mtu | .ste | .flc | .coh | .xlt | .cic => true
  | _ => false

/-- A counter field advanced by `n`: it saturates, and holds while the page's counters are frozen. -/
def countFld (s : State) (idx a hi lo n : Nat) : State :=
  let base := a / 0x1000 * 0x1000
  match kindAt a with
  | none => s
  | some k =>
    if frozen s k base ∨ n = 0 then s
    else
      let old := fld s idx a hi lo
      let top := 2 ^ (hi + 1 - lo) - 1
      let t := setFld s idx a hi lo (min (old + n) top)
      if satBit k ∧ old < top ∧ top ≤ old + n then raiseInt t base 0 else t

/-- A 32-bit counter advanced. -/
def count (s : State) (a n : Nat) : State := countFld s 0 a 31 0 n

/-- A 64-bit counter pair advanced; `a` is its _LO register. -/
def count64 (s : State) (idx a n : Nat) : State :=
  let base := a / 0x1000 * 0x1000
  match kindAt a with
  | none => s
  | some k =>
    if frozen s k base ∨ n = 0 then s
    else
      let old := rd64 s idx a
      let top := 2 ^ 64 - 1
      let t := wr64 s idx a (min (old + n) top)
      if satBit k ∧ old < top ∧ top ≤ old + n then raiseInt t base 0 else t

/-- Bytes sent to host memory on a port: they leave, and count in HP_TX (R340). -/
def toHost (s : State) (p a : Nat) (data : List Byte) (relaxed : Bool) : State :=
  count64 (s.emit (.hostWrite p a data relaxed)) 0 (hpReg p Reg.HP_TX_LO) data.length

/-! ## Where units stop -/

/-- A cell's contents whose sequencer has stopped arming, with some of the fired operations left. -/
def CellImg.stopWith (i : CellImg) (left : List Op) : CellImg :=
  { i with
    tracks := i.tracks.map fun t => { t with active := false, armed := false }
    ops := left
    stopping := true
    halted := i.started && left.isEmpty }

/-- A cell's program after an aborting CELL_STOP (R47): arming stops, and the matrix and vector engines discard the work they
have not carried out. Every other fired operation completes, a match request among them (R143). -/
def CellImg.abort (i : CellImg) : CellImg :=
  i.stopWith (i.ops.filter fun o => o.stage = .executed || !(bits o.raw 31 24 / 16 = 2 || bits o.raw 31 24 / 16 = 3))

/-- A cell's program ended with all its operations. -/
def CellImg.cease (i : CellImg) : CellImg := { i.stopWith [] with phaseWait := false }

/-- Every cell stopped as an aborting CELL_STOP stops it (R459, R473, R488). -/
def abortCells (s : State) : State :=
  { s with
    cells := (tkeys s.cells).foldl (fun m c =>
      let x := tget (fun _ => Cell.idle) s.cells c
      tset (fun _ => Cell.idle) m c { x with img := x.img.abort }) s.cells }

/-- Every hart stopped (R488). -/
def haltHarts (s : State) : State :=
  { s with core := { s.core with
      harts := (tkeys s.core.harts).foldl (fun m h =>
        let x := tget (fun _ => Hart.parked) s.core.harts h
        tset (fun _ => Hart.parked) m h { x with running := false, wait := .none }) s.core.harts } }

/-- Every link held down (R488). -/
def dropLinks (s : State) : State :=
  { s with lnk := { s.lnk with
      links := (tkeys s.lnk.links).foldl (fun m l =>
        let x := tget (fun _ => Link.down) s.lnk.links l
        tset (fun _ => Link.down) m l { x with state := if x.state = 4 then 4 else 0, lanes := 0, burst := none }) s.lnk.links } }

/-- Entry to the fatal state (R488): cells, harts, engines and links stop; BAR2 is poisoned while `boot.fatal`. -/
def enterFatal (s : State) : State :=
  let t := dropLinks (haltHarts (abortCells s))
  { t with
    boot := { t.boot with fatal := true }
    str := { t.str with packets := [], reshards := [], early := [] }
    lnk := { t.lnk with colls := [] } }

/-! ## Error records -/

/-- What a raising rule says of an error. -/
structure ErrEvent where
  sev : Nat
  type : Nat
  die : Nat
  inst : Nat
  ctx : Option Nat := none
  space : Nat := 0
  addr : Nat := 0
  seq : Nat := 0
  detail : List Nat := []
  deriving DecidableEq, Repr

/-- The 128 bytes of a record as 32 words (R479, R480). -/
def ErrRec.words (r : ErrRec) : List Nat :=
  let w0 := 2 ^ 28 + r.sev * 2 ^ 26 + (if r.ctx.isSome then 2 ^ 25 else 0) + b2n r.overflow * 2 ^ 24
    + (r.ctx.getD 0) * 2 ^ 18 + r.type
  let w1 := r.space * 2 ^ 22 + r.die * 2 ^ 16 + r.inst % 2 ^ 16
  [w0, w1, r.boot, r.seq, r.count % 2 ^ 32, r.count / 2 ^ 32, r.addr % 2 ^ 32, r.addr / 2 ^ 32, r.number, r.coalesced,
    0, 0, 0, 0, 0, 0] ++ (List.range 16).map (fun i => nth r.detail i % 2 ^ 32)

/-- The bytes of a record. -/
def ErrRec.bytes (r : ErrRec) : List Byte := r.words.flatMap fun w => leBytes 4 w

/-- A port is in service (R331). -/
def Port.inService (p : Port) : Bool := p.up && p.memSpace && p.busMaster

/-- The coherence port: port 0 while in service, else port 1 (R327); none without either. -/
def cohPort (s : State) : Option Nat :=
  if (s.port 0).inService then some 0 else if (s.port 1).inService then some 1 else none

/-- The interrupt port (R323). -/
def irqPort (s : State) : Option Nat :=
  if (s.port 0).inService && (s.port 0).msixEn then some 0
  else if (s.port 1).inService && (s.port 1).msixEn then some 1 else none

/-- Bytes of the pool (R204). -/
abbrev poolBytes : Nat := 547297951744

/-- The tag under which a code word at address `a` is read and written now: none where its slot is EMPTY or DISABLED (R452).
A reserved offset is never encrypted. -/
def accessTag (s : State) (a : Nat) : Option Nat :=
  if poolBytes ≤ a then some 0
  else
    let k := s.keyMapAt (a / 2 ^ 21)
    if k = 0x7F then some 0 else if (s.slot k).st = 1 then some ((s.slot k).key + 1) else none

/-- Reservations on the granule of an address are lost (R268). -/
def loseReservations (s : State) (a : Nat) : State :=
  { s with core := { s.core with
      harts := (tkeys s.core.harts).foldl (fun m h =>
        let x := tget (fun _ => Hart.parked) s.core.harts h
        tset (fun _ => Hart.parked) m h (if x.resv = some (a / 256) then { x with resv := none, defer := false } else x))
        s.core.harts } }

/-- A pocket line dropped, and a prefetch in flight discarded on arrival (R232). -/
def dropPocket (s : State) (line : Nat) : State :=
  { s with coh := { s.coh with
      pocket := s.coh.pocket.filter fun p => p.2 != line
      prefetches := s.coh.prefetches.filter fun p => p.line != line } }

/-- Every copy of a line that is written whole goes: the agents' lines and its entry (R242), and its pocket line. -/
def dropCopies (s : State) (line : Nat) : State :=
  let s := dropPocket s line
  loseReservations { s with coh := { s.coh with
    dir := tset (fun _ => DirEntry.di) s.coh.dir line DirEntry.di
    lines := s.coh.lines.filter fun p => p.1 % 2 ^ 60 != line } } (64 * line)

/-- A record written to device memory: whole lines, under the key of their granule (R209, R242, R452). -/
def ringStore (s : State) (slot : Nat) (data : List Byte) : State :=
  let s := dropCopies (dropCopies s (slot / 64)) (slot / 64 + 1)
  match accessTag s slot with
  | none => countFld s 0 (hub Pg.KEY Reg.KEY_NOKEY) 31 0 1
  | some t =>
    let words := (List.range 4).map fun i => slot / 32 + i
    { s with
      mem := memStore s.mem slot data
      keyTag := words.foldl (fun m w => tset (fun _ => 0) m w t) s.keyTag
      poison := words.foldl (fun m w => tset (fun _ => false) m w false) s.poison }

/-- A record written to the error ring, or counted as lost (R484): outside every context. -/
def ringWrite (s : State) (r : ErrRec) : State :=
  let ctl := rd s 0 (hub Pg.RST Reg.ERR_RING_CTL)
  if !bit ctl 31 then s
  else
    let log2 := max 4 (min 16 (bits ctl 4 0))
    let prod := rd s 0 (hub Pg.RST Reg.ERR_RING_PROD)
    let cons := rd s 0 (hub Pg.RST Reg.ERR_RING_CONS)
    let onHost := bit ctl 30
    let full := decide ((prod + 2 ^ 32 - cons) % 2 ^ 32 ≥ 2 ^ log2)
    let base := rd64 s 0 (hub Pg.RST Reg.ERR_RING_BASE_LO)
    let slot := base + 128 * (prod % 2 ^ log2)
    if full ∨ (onHost ∧ (cohPort s).isNone) ∨ (!onHost ∧ poolBytes < slot + 128) then
      let t := countFld s 0 (hub Pg.RST Reg.ERR_LOST) 31 0 1
      let t := raiseInt t (hub Pg.RST 0) 2
      { t with err := { t.err with lost := true } }
    else
      let r := { r with overflow := s.err.lost }
      let t := if onHost then toHost s ((cohPort s).getD 0) slot r.bytes false
        else ringStore s slot r.bytes
      let t := wr t 0 (hub Pg.RST Reg.ERR_RING_PROD) (prod + 1)
      { t with err := { t.err with lost := false } }

/-- Least reset that leaves the fatal state (R489): 0 warm, 1 cold, 2 none. -/
def recoveryOf (s : State) (e : ErrEvent) : Nat :=
  if e.type = 0x0102 then (if e.inst = 3 then 0 else 1)
  else if e.type = 0x0404 ∨ e.type = 0x0203 then 0
  else if e.type = 0x0A02 then (if (s.sec.erase.map (·.level)).getD 0 = 3 then 2 else 0)
  else 1

/-- Payload of ERR_SUMMARY (R424): the counts by die and severity, then the fatal records. -/
def summaryData (s : State) : List Byte :=
  (List.range 128).flatMap (fun i => leBytes 4 (tget (fun _ => 0) s.pld.errSummary i)) ++ s.pld.fatalRecs.flatten

/-- A record held among the last 256, with the number that is next (R484). -/
def holdRecord (s : State) (r : ErrRec) : State :=
  { s with err := { s.err with held := (r :: s.err.held).take 256, nextNumber := s.err.nextNumber + 1 } }

/-- A record counted for ERR_SUMMARY; the last eight fatal ones are kept (R424). -/
def noteRecord (s : State) (e : ErrEvent) (r : ErrRec) : State :=
  let key := 4 * e.die + e.sev
  { s with pld := { s.pld with
    errSummary := tset (fun _ => 0) s.pld.errSummary key (tget (fun _ => 0) s.pld.errSummary key + 1)
    fatalRecs := if e.sev = 3 then (s.pld.fatalRecs ++ [r.bytes.take 64]).drop (s.pld.fatalRecs.length - 7) else s.pld.fatalRecs
    summaryDirty := true } }

/-- Corrected: counted, and vector 1027 at most once in 1 ms (R485). -/
def deliverCorrected (s : State) : State :=
  let s := countFld s 0 (hub Pg.RST Reg.ERR_CNT_CE) 31 0 1
  if s.err.ceVectorAt ≤ s.cic.count then
    { raiseVector s 1027 with err := { s.err with ceVectorAt := s.cic.count + 125000 } }
  else s

/-- Deferred: counted, vector 1026 (R485). -/
def deliverDeferred (s : State) : State := raiseVector (countFld s 0 (hub Pg.RST Reg.ERR_CNT_DEF) 31 0 1) 1026

/-- Uncorrected but contained: counted, vector 1025, and outside every context an alert over I3C (R485). -/
def deliverContained (s : State) (e : ErrEvent) (r : ErrRec) : State :=
  let s := raiseVector (countFld s 0 (hub Pg.RST Reg.ERR_CNT_UC) 31 0 1) 1025
  if e.ctx.isNone then s.emit (.i3cAlert r.number) else s

/-- ERR_FATAL and what recovers from the fatal state (R488, R489). -/
def noteFatal (s : State) (e : ErrEvent) : State :=
  let f := hub Pg.RST Reg.ERR_FATAL
  let rec_ := recoveryOf s e
  let s :=
    if bit (rd s 0 f) 31 then
      (if s.err.escalateAt.isSome ∧ rec_ = 0 then { s with err := { s.err with stuck := true } } else s)
    else
      let s := setFld s 0 f 31 31 1
      setFld s 0 f 15 0 e.type
  let s := setFld s 0 f 30 29 (max (fld s 0 f 30 29) rec_)
  if bit (rd s 0 f) 28 ∧ rec_ = 0 ∧ e.type ≠ 0x0A02 ∧ s.err.escalateAt.isNone then
    { s with err := { s.err with escalateAt := some (s.cic.count + 1250000) } }
  else s

/-- Fatal: counted, vector 1024, AER on the ports in service and an alert; ERR_SUMMARY is queued and the device enters the fatal
state (R424, R485, R488). -/
def deliverFatal (s : State) (e : ErrEvent) (r : ErrRec) : State :=
  let s := raiseVector (countFld s 0 (hub Pg.RST Reg.ERR_CNT_FATAL) 31 0 1) 1024
  let s := [0, 1].foldl (fun s p => if (s.port p).inService then s.emit (.aer p) else s) s
  let s := noteFatal (raiseInt (s.emit (.i3cAlert r.number)) (hub Pg.RST 0) 0) e
  let c : Commit :=
    { prio := 5, type := 0x0040, key := 0, version := tget (fun _ => 1) s.pld.known 0x0040, tomb := false,
      data := summaryData s }
  enterFatal { s with pld := { s.pld with queue := s.pld.queue ++ [c], summaryDirty := false } }

/-- A record held, written to the ring, counted and delivered by severity (R484, R485). -/
def deliver (s : State) (e : ErrEvent) (coalesced : Nat) : State :=
  let r : ErrRec :=
    { sev := e.sev, ctx := e.ctx, overflow := false, type := e.type, space := e.space, die := e.die, inst := e.inst,
      boot := s.boot.bootNum, seq := e.seq, count := s.cic.count, addr := e.addr, number := s.err.nextNumber,
      coalesced := coalesced, detail := e.detail }
  let s := noteRecord (ringWrite (holdRecord s r) r) e r
  if e.sev = 0 then deliverCorrected s
  else if e.sev = 1 then deliverDeferred s
  else if e.sev = 2 then deliverContained s e r
  else deliverFatal s e r

/-- The count of a coalescing window that has ended, delivered (R483). -/
def deliverWindow (s : State) (w : CoalWin) : State :=
  if w.events = 0 then s else deliver s { sev := 0, type := w.type, die := w.die, inst := w.inst } w.events

/-- A corrected record that opens a window (R483). -/
def openCoalWin (s : State) (e : ErrEvent) : State :=
  deliver { s with err := { s.err with
    windows := s.err.windows ++ [⟨e.type, e.die, e.inst, 0, s.cic.count + 125000000⟩] } } e 1

/-- An error record raised (R479): corrected records of one TYPE, DIE and INSTANCE are coalesced for 1 s (R483), and
corrected symbol errors to one record per channel per second (R208), which is the same rule for MEM_CORRECTED. A window that has
ended is closed first, its count delivered. -/
def raiseError (s : State) (e : ErrEvent) : State :=
  let mine (w : CoalWin) : Bool := w.type == e.type && w.die == e.die && w.inst == e.inst
  if e.sev ≠ 0 then deliver s e 1
  else
    match s.err.windows.find? mine with
    | none => openCoalWin s e
    | some w =>
      if s.cic.count < w.until_ then
        let l := s.err.windows.map fun w => if mine w then { w with events := w.events + 1 } else w
        { s with err := { s.err with windows := l } }
      else openCoalWin (deliverWindow { s with err := { s.err with windows := s.err.windows.filter fun w => !mine w } } w) e

/-! ## Error types (R482) -/
abbrev Err.D2D_DEGRADED : Nat := 0x0101
abbrev Err.CLOCK_STOP : Nat := 0x0102
abbrev Err.BOOT_REFUSE : Nat := 0x0103
abbrev Err.SELF_TEST : Nat := 0x0104
abbrev Err.CICADA_SKEW : Nat := 0x0201
abbrev Err.CICADA_UNRELIABLE : Nat := 0x0202
abbrev Err.WATCHDOG : Nat := 0x0203
abbrev Err.MEM_CORRECTED : Nat := 0x0301
abbrev Err.MEM_POISON : Nat := 0x0302
abbrev Err.ROW_SPARE_EXHAUSTED : Nat := 0x0303
abbrev Err.CAL_OVERDUE : Nat := 0x0304
abbrev Err.HBM_CHANNEL_DEAD : Nat := 0x0305
abbrev Err.SLUICE_CLIPPED : Nat := 0x0306
abbrev Err.FLOOR_CACHE_DEGRADED : Nat := 0x0401
abbrev Err.DIR_ENTRY_RECOVERED : Nat := 0x0402
abbrev Err.SNOOP_TIMEOUT : Nat := 0x0403
abbrev Err.FABRIC_FATAL : Nat := 0x0404
abbrev Err.CMD_HALT : Nat := 0x0501
abbrev Err.DOORBELL_BAD : Nat := 0x0502
abbrev Err.CELL_FAULT : Nat := 0x0503
abbrev Err.XFER_FAILED : Nat := 0x0504
abbrev Err.RESHARD_FAILED : Nat := 0x0505
abbrev Err.COLL_FAILED : Nat := 0x0506
abbrev Err.FQ_UNMAPPED : Nat := 0x0507
abbrev Err.XLT_UNIT_FAILED : Nat := 0x0508
abbrev Err.HART_POISON : Nat := 0x0509
abbrev Err.HART_HOST_DISCARD : Nat := 0x050A
abbrev Err.WARM_DISCARD : Nat := 0x050B
abbrev Err.PROTECTED_WRITE : Nat := 0x050C
abbrev Err.REG_READ_LOST : Nat := 0x050D
abbrev Err.HOST_OOR : Nat := 0x0601
abbrev Err.HOST_CPL_ERR : Nat := 0x0602
abbrev Err.HOST_WB_LOST : Nat := 0x0603
abbrev Err.HOST_DURING_RESET : Nat := 0x0604
abbrev Err.LINK_DEGRADED : Nat := 0x0701
abbrev Err.LINK_DOWN : Nat := 0x0702
abbrev Err.LINK_BUNDLE_DOWN : Nat := 0x0703
abbrev Err.LINK_MISWIRED : Nat := 0x0704
abbrev Err.MIRROR_THIN : Nat := 0x0705
abbrev Err.MIRROR_SPLIT : Nat := 0x0706
abbrev Err.TELEMETRY_LOST : Nat := 0x0801
abbrev Err.CAP_UNREACHABLE : Nat := 0x0802
abbrev Err.THERMAL_EMERGENCY : Nat := 0x0803
abbrev Err.THERMAL_TRIP : Nat := 0x0804
abbrev Err.ESTIMATOR_SUSPECT : Nat := 0x0805
abbrev Err.AGEING_LIMIT : Nat := 0x0806
abbrev Err.ENERGY_BUDGET : Nat := 0x0807
abbrev Err.GUEST_POWER : Nat := 0x0808
abbrev Err.RAIL_FAIL : Nat := 0x0809
abbrev Err.HOLDUP_WEAK : Nat := 0x0901
abbrev Err.POLDER_WORN : Nat := 0x0902
abbrev Err.POLDER_BANK_DEGRADED : Nat := 0x0903
abbrev Err.POLDER_UNAVAILABLE : Nat := 0x0904
abbrev Err.POLDER_VERSION_AHEAD : Nat := 0x0905
abbrev Err.DIKE_EVENT : Nat := 0x0A01
abbrev Err.DIKE_ALARM : Nat := 0x0A02
abbrev Err.LEVEE_BLOCK : Nat := 0x0A03
abbrev Err.GUEST_ISOLATED : Nat := 0x0A04
abbrev Err.ENTROPY_FAIL : Nat := 0x0A05
abbrev Err.HUB_FIRMWARE : Nat := 0x0A06

end Sys2Proof.Machine
end

