-- ==== Sys2Proof/Machine/Home.lean ====
section
/-!
DEFINITION. Device memory: where an address falls (R204, R205), keys and poison (R209, R452), the floor cache and its
pocket (R226-R233), the directory with its transactions (R237-R253), and a write as its home handles it.
-/

namespace Sys2Proof.Machine

/-- A meaning's outcome: the next state where the units it names exist. -/
def run (ok : Bool) (t : State) : Host.Outcome State Fault Refusal := if ok then .next t else .fault .noSuchUnit

/-! ## Addresses -/

/-- Floor die of a device-physical address (R205). -/
def homeFloor (a : Nat) : Nat := bits a 17 16 ^^^ bits a 27 26

/-- Channel of a device-physical address, 32 × stack + channel (R205). -/
def chanOf (a : Nat) : Nat :=
  let st := 2 * homeFloor a + (bits a 12 12 ^^^ bits a 24 24)
  32 * st + ((bits a 13 13 ^^^ bits a 25 25) * 16 + (bits a 11 8 ^^^ bits a 23 20))

/-- Offset on its channel (R205). -/
def chanOffset (a : Nat) : Nat := a / 2 ^ 18 * 1024 + bits a 15 14 * 256 + a % 256

/-- Where the model keeps a channel's reserved offset (R204). -/
def reservedAddr (chan off : Nat) : Nat := 2 ^ 40 + 2 ^ 31 * chan + off

/-- Line number of an address (R238). -/
def lineOf (a : Nat) : Nat := a / 64

/-- Line numbers of a range. -/
def linesOf (a n : Nat) : List Nat := if n = 0 then [] else (List.range (lineOf (a + n - 1) + 1 - lineOf a)).map (· + lineOf a)

/-! ## Keys and code words (R209, R452) -/

/-- Tag under which the word at `a` was written. -/
def writtenTag (s : State) (a : Nat) : Nat := tget (fun _ => 0) s.keyTag (a / 32)

/-- A byte of HBM as the controller returns it. -/
def hbmByte (s : State) (a : Nat) : Byte :=
  match accessTag s a with
  | none => 0
  | some t => if writtenTag s a = t then memByte s.mem a
    else Config.wrongKey (writtenTag s a) t a (memBytes s.mem (a / 32 * 32) 32)

/-- The code word of an address reads poisoned (R209, R452). -/
def hbmPoison (s : State) (a : Nat) : Bool := (accessTag s a).isNone || tget (fun _ => false) s.poison (a / 32)

/-- Bytes of HBM. -/
def hbmBytes (s : State) (a n : Nat) : List Byte := (List.range n).map fun i => hbmByte s (a + i)

/-- Base addresses of the 32-byte words of a range. -/
def wordsOf (a n : Nat) : List Nat :=
  if n = 0 then [] else (List.range ((a + n - 1) / 32 + 1 - a / 32)).map fun i => (a / 32 + i) * 32

/-- One code word written with the bytes that fall in it: a write of fewer than 32 bytes reads, merges and rewrites
(R207); a whole word replaces poison (R209); a word with no key discards the write (R452). -/
def hbmWriteWord (s : State) (w a : Nat) (data : List Byte) : State :=
  match accessTag s w with
  | none => countFld s 0 (hub Pg.KEY Reg.KEY_NOKEY) 31 0 1
  | some t =>
    let whole := decide (a ≤ w ∧ w + 32 ≤ a + data.length)
    let new := (List.range 32).map fun i =>
      let x := w + i
      if a ≤ x ∧ x < a + data.length then data.getD (x - a) 0 else hbmByte s x
    { s with
      mem := memStore s.mem w new
      keyTag := tset (fun _ => 0) s.keyTag (w / 32) t
      poison := if whole then tset (fun _ => false) s.poison (w / 32) false else s.poison }

/-- Bytes written to HBM. -/
def hbmWrite (s : State) (a : Nat) (data : List Byte) : State :=
  (wordsOf a data.length).foldl (fun s w => hbmWriteWord s w a data) s

/-- The word at `a` rewritten poisoned (R208, R250). -/
def poisonWord (s : State) (a : Nat) : State := { s with poison := tset (fun _ => false) s.poison (a / 32) true }

/-! ## The floor cache and the pocket (R226-R233) -/

/-- Line numbers of host memory stand above those of the pool (R252). -/
abbrev hostLineBase : Nat := 2 ^ 58

/-- A line of host memory. -/
def isHostLine (line : Nat) : Bool := decide (hostLineBase ≤ line)

/-- Address of a line, in its own space. -/
def lineAddr (line : Nat) : Nat := line % hostLineBase * 64

/-- Floor on which a line is homed (R239, R252). -/
def homeOfLine (line : Nat) : Nat := homeFloor (lineAddr line)

/-- Set of an address (R227). -/
def flcSet (a : Nat) : Nat := (bits a 24 18 * 256 + bits a 15 8) ^^^ bits a 39 25

/-- Key of a way of a set of a floor. -/
def flcKey (f set way : Nat) : Nat := (f * 32768 + set) * 16 + way

/-- The block in a way of a set. -/
def flcAt (s : State) (k : Nat) : Option FlcBlock := tget (fun _ => none) s.coh.flc k

/-- Retired ways of a set group (R235). -/
def retiredWays (s : State) (f g : Nat) : Nat := tget (fun _ => 0) s.coh.retired (64 * f + g)

/-- The way that holds the block of an address. -/
def flcWay (s : State) (a : Nat) : Option Nat :=
  (List.range 16).find? fun w => ((flcAt s (flcKey (homeFloor a) (flcSet a) w)).map (·.block)) == some (a / 256)

/-- The floor cache holds a line. -/
def flcHas (s : State) (line : Nat) : Bool :=
  let a := lineAddr line
  match flcWay s a with
  | some w => ((flcAt s (flcKey (homeFloor a) (flcSet a) w)).map fun b => bit b.valid (line % 4)).getD false
  | none => false

/-- The state with a block set. -/
def setFlc (s : State) (k : Nat) (b : Option FlcBlock) : State :=
  { s with coh := { s.coh with flc := tset (fun _ => none) s.coh.flc k b } }

/-- A line filled: its block is allocated if absent, in a way that is not retired and empty, else in one that a free value
picks (R226: pseudo-LRU, whose order is not stated; notes/assumptions/2.md). -/
def flcFill (s : State) (line : Nat) : State :=
  let a := lineAddr line
  let f := homeFloor a
  let set := flcSet a
  match flcWay s a with
  | some w =>
    let k := flcKey f set w
    let v := ((flcAt s k).map (·.valid)).getD 0
    setFlc s k (some ⟨a / 256, if bit v (line % 4) then v else v + 2 ^ (line % 4)⟩)
  | none =>
    let ways := (List.range 16).filter fun w => !bit (retiredWays s f (set / 512)) w
    match ways.find? fun w => (flcAt s (flcKey f set w)).isNone with
    | some w => setFlc s (flcKey f set w) (some ⟨a / 256, 2 ^ (line % 4)⟩)
    | none =>
      if ways.isEmpty then s
      else setFlc s.useFree (flcKey f set (nth ways (s.freeBits 0 16 % ways.length))) (some ⟨a / 256, 2 ^ (line % 4)⟩)

/-- The block of an address invalidated. -/
def flcDropBlock (s : State) (a : Nat) : State :=
  match flcWay s a with
  | some w => setFlc s (flcKey (homeFloor a) (flcSet a) w) none
  | none => s

/-- A cached line invalidated, and its block with its last (R229). -/
def flcDropLine (s : State) (line : Nat) : State :=
  let a := lineAddr line
  match flcWay s a with
  | none => s
  | some w =>
    let k := flcKey (homeFloor a) (flcSet a) w
    let v := ((flcAt s k).map (·.valid)).getD 0
    if !bit v (line % 4) then s
    else if v = 2 ^ (line % 4) then setFlc s k none
    else setFlc s k (some ⟨a / 256, v - 2 ^ (line % 4)⟩)

/-- The partition number that a request carries (R40, R213, R307, R321, R379); spill, restore and maintenance carry none. -/
def partOf (s : State) : MemWho → Option Nat
  | .spill | .maint => none
  | .ctx c => some (c % 64)
  | .hart h => some (fld s h (raddr 1 2 Reg.CORE_HART_PART) 5 0)
  | .port p => some (fld s 0 (hpReg p Reg.HP_MEM_PART) 5 0)
  | .guest => some 63
  | .mirror => some (fld s 0 (hub Pg.MIR Reg.MIR_CTL) 21 16)

/-- A prefetch read issued, for the partition of the access that prompts it: of a line that is neither cached nor in the pocket
nor on its way (R231). -/
def prefetchLine (s : State) (part : Option Nat) (line : Nat) : State :=
  let f := homeOfLine line
  if flcHas s line ∨ s.coh.pocket.contains (f, line) ∨ s.coh.prefetches.any (·.line = line) then s
  else { s with coh := { s.coh with prefetches := s.coh.prefetches ++ [⟨f, line, part⟩] } }

/-- The two words of a line read at their controller: each access to a granule whose slot holds no key is counted (R452). -/
def noKeyRead (s : State) (line : Nat) : State :=
  if (accessTag s (64 * line)).isNone then countFld s 0 (hub Pg.KEY Reg.KEY_NOKEY) 31 0 2 else s

/-- A read of a line that reaches its floor (R228, R231-R233): `alloc` for an allocating requester, `next` where its context
asked for NEXT_LINE, and the partition it carries. -/
def memRead (s : State) (line : Nat) (alloc next : Bool) (part : Option Nat) : State :=
  if isHostLine line then s
  else
    let f := homeOfLine line
    if flcHas s line then count64 s 0 (flcReg f Reg.FLC_RD_HIT_LO) 1
    else if s.coh.pocket.contains (f, line) then
      let s := count (count64 s 0 (flcReg f Reg.FLC_RD_HIT_LO) 1) (flcReg f Reg.FLC_POCKET_HIT) 1
      if alloc then flcFill { s with coh := { s.coh with pocket := s.coh.pocket.filter (· != (f, line)) } } line else s
    else
      let s := noKeyRead (count64 s 0 (flcReg f Reg.FLC_RD_MISS_LO) 1) line
      if !alloc then s
      else
        let s := flcFill s line
        let s := if fld s 0 (flcReg f Reg.FLC_CTL) 2 2 = 0 then s
          else ((List.range 4).map fun i => line / 4 * 4 + i).foldl (fun s l => if l = line then s else prefetchLine s part l) s
        if next ∧ (line + 1) / 1024 = line / 1024 then prefetchLine s part (line + 1) else s

/-! ## Lines held by agents (R238, R239) -/

/-- Key of a line in an agent. -/
def lineKey (agent line : Nat) : Nat := 2 ^ 60 * agent + line

/-- A line as an agent holds it. -/
def agentLine (s : State) (agent line : Nat) : AgentLine := tget (fun _ => AgentLine.none_) s.coh.lines (lineKey agent line)

/-- The state with an agent's line set. -/
def setLine (s : State) (agent line : Nat) (l : AgentLine) : State :=
  { s with coh := { s.coh with lines := tset (fun _ => AgentLine.none_) s.coh.lines (lineKey agent line) l } }

/-- A line's directory entry. -/
def dirEntry (s : State) (line : Nat) : DirEntry := tget (fun _ => DirEntry.di) s.coh.dir line

/-- The state with a directory entry set. A line in DI has no entry (R239), and of a host line in DI the device keeps nothing
(R252). -/
def setDir (s : State) (line : Nat) (e : DirEntry) : State :=
  let e := if e.st = 0 then DirEntry.di else { e with used := s.coh.clock + 1 }
  { s with coh := { s.coh with
      dir := tset (fun _ => DirEntry.di) s.coh.dir line e
      clock := s.coh.clock + 1
      hostOwn := if e.st = 0 then s.coh.hostOwn.filter (· != line) else s.coh.hostOwn } }

/-- The host is sent a back-invalidate snoop for a line of device memory (R248, R324, R340). -/
def snoopHost (s : State) (line : Nat) : State := count (s.emit (.hostCoh 0 line)) (hpReg 0 Reg.HP_BISNP) 1

/-- The agent that holds a line in M, as the directory can find it (R239). -/
def modifiedBy (s : State) (line : Nat) : Option Nat :=
  let e := dirEntry s line
  if e.st = 1 then e.ptrs.head?.filter fun o => (agentLine s o line).st = .m else none

/-- Every agent that may hold a line, as the directory knows it: in DB every enabled agent (R242). -/
def holders (s : State) (line : Nat) : List Nat :=
  let e := dirEntry s line
  if e.st = 4 then s.coh.enabled else e.ptrs

/-- An agent that is a core cluster loses a line: its harts' reservations on the granule are lost (R268). -/
def loseClusterResv (s : State) (agent line : Nat) : State :=
  if 24 ≤ agent then s
  else
    [0, 1, 2, 3].foldl (fun s k =>
      let h := s.hart (4 * agent + k)
      if h.resv = some (line / 4) then s.setHart (4 * agent + k) { h with resv := none, defer := false } else s) s

/-- Data of a line of device memory as memory holds it. -/
def lineData (s : State) (line : Nat) : List Byte := hbmBytes s (line * 64) 64

/-- Poisoned halves of a line in memory. -/
def linePoison (s : State) (line : Nat) : List Nat := [0, 1].filter fun w => hbmPoison s (line * 64 + 32 * w)

/-- Masked bytes of a line written to HBM: a word written whole is one write, any other is read, merged and rewritten
(R207). -/
def hbmMasked (s : State) (line mask : Nat) (data : List Byte) : State :=
  [0, 1].foldl (fun s w =>
    let m := bits mask (32 * w + 31) (32 * w)
    if m = 2 ^ 32 - 1 then hbmWrite s (line * 64 + 32 * w) ((data.drop (32 * w)).take 32)
    else (bitList m 32).foldl (fun s i => hbmWrite s (line * 64 + 32 * w + i) [data.getD (32 * w + i) 0]) s) s

/-- Every byte of a line. -/
abbrev fullMask : Nat := 2 ^ 64 - 1

/-- A range meets a mirrored region (R378). -/
def inMirrorRegion (s : State) (a n : Nat) : Bool :=
  (List.range 16).any fun r =>
    let b := fld s r (hub Pg.MIR Reg.MIR_REG_BASE) 22 0 * 65536
    let z := fld s r (hub Pg.MIR Reg.MIR_REG_SIZE) 22 0 * 65536
    decide (a < b + z ∧ b < a + n)

/-- Links named as twins, in rising order (R379). -/
def twinLinks (s : State) : List Nat :=
  (List.range 96).filter fun l => bit (rd s 0 (hub Pg.MIR (Reg.MIR_TWIN0 + 4 * (l / 32)))) (l % 32)

/-- A link is up (R342). -/
def linkUp (s : State) (l : Nat) : Bool := (s.link l).state = 2 || (s.link l).state = 3

/-- A twin link carries what the pair sends: it is up, and no fence stands on it (R362, R375). -/
def twinOpen (s : State) (l : Nat) : Bool := linkUp s l && s.lnk.partState == 0 && !(s.link l).boundary

/-- Twin links that carry what the pair sends. -/
def twinsUp (s : State) : List Nat := (twinLinks s).filter (twinOpen s)

/-- Twin link that carries the copies of granule `g` (R379): the one in position g mod N, or the next that is up. -/
def twinFor (s : State) (g : Nat) : Option Nat :=
  let ts := twinLinks s
  let n := ts.length
  ((List.range n).map fun i => nth ts ((g + i) % n)).find? (twinOpen s)

/-- Link of the next copy of a granule, or message of a context: while some of it are open on a link that is up, the same one,
else the one that the rule names; 96 while none is up (R379, R382). -/
def copyLink (s : State) (ctx : Option Nat) (g : Nat) : Nat :=
  match (s.mir.copies.filter fun c => c.granule = g && c.ctx == ctx && twinOpen s c.link).getLast? with
  | some c => c.link
  | none => (twinFor s g).getD 96

/-- Copies of granules that are not acknowledged. -/
def dataCopies (s : State) : List MirCopy := s.mir.copies.filter (·.ctx.isNone)

/-- The lag: the age in microseconds of the oldest copy that is not acknowledged (R380). -/
def mirrorLag (s : State) : Nat :=
  match argMin id ((dataCopies s).map (·.at_)) with
  | some t => (s.cic.count - t) / 125
  | none => 0

/-- MIR_LAG as it applies (R392). -/
def lagBound (s : State) : Nat := max 10 (min 1000000 (fld s 0 (hub Pg.MIR Reg.MIR_LAG) 19 0))

/-- Asynchronous mode in force (R380). -/
def mirrorAsync (s : State) : Bool :=
  bit (rd s 0 (hub Pg.MIR Reg.MIR_CTL)) 30 || (s.mir.asyncHeld && !(dataCopies s).isEmpty)

/-- Mirror copies sent since number `first` that are not acknowledged. -/
def copiesFrom (s : State) (first : Nat) : List Nat := ((dataCopies s).filter fun c => first ≤ c.id).map (·.id)

/-- A write whose copies these are is not accepted yet: in synchronous mode the partner acknowledges them first (R380). -/
def copiesOpen (s : State) (l : List Nat) : Bool := !mirrorAsync s && s.mir.copies.any fun c => l.contains c.id

/-- Dirty blocks with one more, rising. -/
def addDirty (l : List Nat) (b : Nat) : List Nat :=
  if l.contains b then l else (l.filter (· < b)) ++ [b] ++ (l.filter (b < ·))

/-! ## Messages (R345, R348, R358) -/

/-- This device's id, where one is set (R352, R353). -/
def deviceId (s : State) : Option Nat :=
  let r := rd s 0 (hub Pg.MCH Reg.MCH_DEV_ID)
  if bit r 31 then some (bits r 19 0) else none

/-- The partner's device id. -/
def partner (s : State) : Nat := fld s 0 (hub Pg.MIR Reg.MIR_PARTNER) 19 0

/-- Flits of a message of `u` units (R345). -/
def msgFlits (u : Nat) : Nat := ceilDiv (64 + 256 * u) 240

/-- A message put in a link's queue. -/
def enqueue (s : State) (l : Nat) (m : LinkMsg) : State :=
  let k := s.link l
  let s := s.setLink l { k with queue := k.queue ++ [{ m with id := s.lnk.nextMsg }] }
  let s := { s with lnk := { s.lnk with nextMsg := s.lnk.nextMsg + 1 } }
  s.emit (.message m.kind m.dst ([m.handle, m.offset, m.data.length] ++ m.extra))

/-- Sources at a link port (R358): stream engine of floor f is f, the collective engine 4, the mirror path 5, transit from
port p 8 + p. -/
abbrev srcColl : Nat := 4
abbrev srcMirror : Nat := 5

/-- A message to the partner on a twin link (R376, R379): its lane, units and KIND-specific words. -/
def mirSend (s : State) (l kind lane units offset : Nat) (data : List Byte) (poison extra : List Nat) : State :=
  if !twinOpen s l then s
  else
    enqueue s l
      { id := 0, kind := kind, lane := lane, requester := srcMirror * 8 + lane, dst := partner s, src := (deviceId s).getD 0,
        order := 0, flits := msgFlits units, sent := 0, mpart := s.lnk.mpart, epoch := s.lnk.epoch, route := 0, handle := 0,
        offset := offset, data := data, poison := poison, extra := extra }

/-- A control message to the partner, on lane 7 (R376). -/
def mirTell (s : State) (l : Nat) (words : List Nat) : State := mirSend s l 5 7 0 0 [] [] words

/-- A granule sent as mirror copy number `id` on its link (R379): its bytes as HBM holds them, its poisoned words (R209) and the tag
it is stored under. -/
def putCopy (s : State) (c : MirCopy) : State :=
  mirSend s c.link 6 5 1 (256 * c.granule) (leBytes 256 (memLE s.mem (256 * c.granule) 256))
    ((List.range 8).filter fun w => tget (fun _ => false) s.poison (8 * c.granule + w)) [c.id, writtenTag s (256 * c.granule)]

/-- A message to the partner that it acknowledges, noted. -/
def noteCopy (s : State) (ctx : Option Nat) (g : Nat) : State × MirCopy :=
  let c : MirCopy := ⟨s.mir.nextCopy, g, ctx, copyLink s ctx g, s.cic.count⟩
  ({ s with mir := { s.mir with nextCopy := c.id + 1, copies := s.mir.copies ++ [c] } }, c)

/-- A copy of a granule sent to the partner. -/
def sendCopy (s : State) (g : Nat) : State :=
  let (s, c) := noteCopy s none g
  putCopy s c

/-- Copies of the granules of a range sent to the partner (R379), as the pair's state asks: a block written alone or not
yet copied is marked in the dirty bitmap (R386, R389). -/
def mirrorCopySend (s : State) (a n : Nat) : State :=
  if !s.mir.primary ∨ !inMirrorRegion s a n then s
  else
    let gs := (List.range ((a + n - 1) / 256 + 1 - a / 256)).map (· + a / 256)
    gs.foldl (fun s g =>
      let b := g / 256
      if s.mir.st = 4 ∨ (s.mir.st = 1 ∧ s.mir.dirty.contains b) then
        { s with mir := { s.mir with
            dirty := addDirty s.mir.dirty b
            resync := s.mir.resync.map fun r => if r.1 = b then (b, true) else r } }
      else if s.mir.st = 1 ∨ s.mir.st = 2 ∨ s.mir.st = 3 then sendCopy s g
      else s) s

/-- A line written through to its memory (R228, R242): HBM, or the host over the coherence port (R252, R327). -/
def writeThrough (s : State) (line mask : Nat) (data : List Byte) (poison : List Nat) : State :=
  if isHostLine line then
    match cohPort s with
    | some p => toHost s p (lineAddr line) data false
    | none => raiseError s { sev := 2, type := Err.HOST_WB_LOST, die := 2 + homeOfLine line, inst := 0, space := 3, addr := lineAddr line }
  else
    let s := dropPocket (hbmMasked s line mask data) line
    let s := poison.foldl (fun s p => poisonWord s (line * 64 + 32 * p)) s
    mirrorCopySend s (line * 64) 64

/-! ## Transactions at the home (R240-R249) -/

/-- The transaction open on a line. -/
def txnOf (s : State) (line : Nat) : Option Txn := tget (fun _ => none) s.coh.txns line

/-- The state with a line's transaction set. -/
def setTxn (s : State) (line : Nat) (t : Option Txn) : State :=
  { s with coh := { s.coh with txns := tset (fun _ => none) s.coh.txns line t } }

/-- A line is busy: a transaction or a stash offer is open on it (R240, R253). -/
def lineBusy (s : State) (line : Nat) : Bool := (txnOf s line).isSome || s.coh.offers.any fun o => o.2.1 = line

/-- What an agent does with a snoop (R241, R245): its line after it, the response, the line's data where it sends them, and
whether they are newer than memory. -/
def snoopAct (k : Snp) (l : AgentLine) : AgentLine × Nat × Option (List Byte × List Nat) × Bool :=
  let d := some (l.data, l.poison)
  let m : Bool := l.st = .m
  if l.st = .i then (l, 3, none, false)
  else if l.wb then (AgentLine.none_, 1, d, true)
  else
    match k with
    | .f => ({ l with st := .s }, 0, d, m)
    | .ifw => (AgentLine.none_, 1, d, m)
    | .i => (AgentLine.none_, 1, if m then d else none, m)
    | .c => if m ∨ l.st = .e then ({ l with st := .e }, 2, d, m) else (l, 0, none, false)

/-- An agent takes a snoop of kind `k`. -/
def takeSnoop (s : State) (line agent : Nat) (k : Snp) : State :=
  match txnOf s line with
  | none => s
  | some t =>
    if !t.snoops.contains (agent, k) then s
    else
      let (l, code, data, dirty) := snoopAct k (agentLine s agent line)
      let s := setLine s agent line l
      let s := if code = 1 then loseClusterResv s agent line else s
      setTxn s line (some { t with snoops := t.snoops.erase (agent, k), answers := t.answers ++ [⟨agent, code, data, dirty⟩] })

/-- A read transaction in which an agent turned out not to hold the line: `only` where it was the entry's only pointer (R244). -/
def Txn.without (t : Txn) (agent : Nat) (only : Bool) : Txn :=
  let q := t.r.from_
  match t.r.req with
  | .rdS | .rdSN =>
    let ps := q :: t.next.ptrs.filter fun p => p != agent && p != q
    if only ∧ t.r.req = .rdS then { t with next := { t.next with st := 1, ptrs := ps }, grant := 1 }
    else { t with next := { t.next with ptrs := ps } }
  | .rdC =>
    let ps := t.next.ptrs.filter (· != agent)
    { t with next := if ps.isEmpty then DirEntry.di else { t.next with ptrs := ps } }
  | _ => t

/-- The home receives an agent's answer (R242, R244). -/
def takeAnswer (s : State) (line agent : Nat) : State :=
  match txnOf s line with
  | none => s
  | some t =>
    match t.answers.find? (·.agent = agent) with
    | none => s
    | some a =>
      let t := { t with answers := t.answers.filter (·.agent != agent) }
      let own : Bool := t.r.req = .rdO || t.r.req = .upg
      let read : Bool := own || t.r.req = .rdS || t.r.req = .rdSN || t.r.req = .rdC
      let only := decide ((dirEntry s line).ptrs.length ≤ 1)
      let s := match a.data with
        | some d => if a.dirty && !own then writeThrough s line fullMask d.1 d.2 else s
        | none => s
      let t := if read ∧ a.data.isSome then { t with fwd := a.data } else t
      if a.code = 3 ∧ !t.bcast then
        setTxn (count s (cohReg (homeOfLine line) Reg.COH_STALE) 1) line (some (t.without agent only))
      else setTxn s line (some t)

/-- State of a granted line: 1 E, 2 F, 3 S, 4 M (R241). -/
def grantSt (g : Nat) : Mesi := if g = 1 then .e else if g = 2 then .f else if g = 3 then .s else .m

/-- A stash offer sent to its target, for a full-line write of device memory (R246, R247). -/
def sendOffer (s : State) (target line : Nat) : State :=
  if 0x20 ≤ target ∨ isHostLine line then s
  else { s with coh := { s.coh with offers := s.coh.offers ++ [(target, line, 0)] } }

/-- Uncached agents whose reads allocate: the host ports 96 and 97, the guest 98 (R228; notes/assumptions/8.md). -/
def allocates (agent : Nat) : Bool := decide (agent < 64 ∨ (96 ≤ agent ∧ agent ≤ 98))

/-- The context of an access asked for NEXT_LINE (R231). -/
def wantsNext (s : State) (ctx : Option Nat) : Bool :=
  match ctx with
  | some c => (s.ctx c).live && (s.ctx c).desc.nextLine
  | none => false

/-- The partition that a request at the home carries: its context's or hart's, its host port's, the guest's (R213). -/
def reqPart (s : State) (r : HomeReq) : Option Nat :=
  match r.ctx with
  | some c => some (c % 64)
  | none =>
    if r.from_ = 96 ∨ r.from_ = 97 then partOf s (.port (r.from_ - 96))
    else if r.from_ = 0x20 then partOf s (.port 0)
    else if r.from_ = 98 ∨ r.from_ = 0x21 then some 63
    else none

/-- A grant reaches its requester: an upgrade without data, else with the data of an agent or the host, or of memory (R242,
R244). -/
def grantTxn (s : State) (line : Nat) (t : Txn) : State :=
  let q := t.r.from_
  let old := agentLine s q line
  let st := grantSt t.grant
  if (t.r.req = .rdO ∨ t.r.req = .upg) ∧ old.st ≠ .i then setDir (setLine s q line { old with st := st }) line t.next
  else
    match t.fwd with
    | some d => setDir (setLine s q line ⟨st, d.1, d.2, false⟩) line t.next
    | none =>
      let s := memRead s line true (wantsNext s t.r.ctx) (reqPart s t.r)
      setDir (setLine s q line ⟨st, lineData s line, linePoison s line, false⟩) line t.next

/-- An uncached read completes with the owner's or the host's data, else from memory (R228, R242). -/
def readTxn (s : State) (line : Nat) (t : Txn) : State :=
  let s := setDir s line t.next
  match t.fwd with
  | some d => s.emit (.readData d.1 (!d.2.isEmpty))
  | none =>
    let s := memRead s line (allocates t.r.from_) (wantsNext s t.r.ctx) (reqPart s t.r)
    s.emit (.readData (lineData s line) (!(linePoison s line).isEmpty))

/-- An uncached write completes: written through, acknowledged, and offered to its stash target (R242, R247). -/
def writeTxn (s : State) (line : Nat) (t : Txn) : State :=
  let q := t.r.from_
  let first := s.mir.nextCopy
  let s := setDir (writeThrough s line t.r.mask t.r.data []) line DirEntry.di
  let open_ := copiesFrom s first
  let s := if isHostLine line then s else loseReservations s (line * 64)
  let s := if !copiesOpen s open_ then s.emit (.ack q line)
    else { s with mir := { s.mir with acks := s.mir.acks ++ [(q, line, open_)] } }
  match t.r.req, t.r.stash with
  | .wrL, some g => sendOffer s g line
  | _, _ => s

/-- A transaction whose snoops are all answered ends (R240, R242). -/
def endTxn (s : State) (line : Nat) (t : Txn) : State :=
  let s := setTxn s line none
  match t.r.req with
  | .rdS | .rdSN | .rdO | .upg => grantTxn s line t
  | .rdC => readTxn s line t
  | .wrL | .wrP => writeTxn s line t
  | .sweep =>
    let s := setDir s line DirEntry.di
    match t.r.ctx with
    | some _ => raiseError s { sev := 0, type := Err.DIR_ENTRY_RECOVERED, die := 2 + homeOfLine line, inst := 0, space := 1, addr := lineAddr line }
    | none => s
  | .wb => s

/-! ## Host lines (R252, R327) -/

/-- What a transaction on a host line still needs of the host: data that no agent sent, or a line that it has granted in E or
M. -/
def needsHost (s : State) (line : Nat) (t : Txn) : Bool :=
  isHostLine line && t.ask != 2 &&
    match t.r.req with
    | .rdS | .rdSN | .rdC => t.fwd.isNone
    | .rdO | .upg => !s.coh.hostOwn.contains line || (t.fwd.isNone && decide ((agentLine s t.r.from_ line).st = .i))
    | _ => false

/-- A transaction on a host line ends without its grant, as no coherence port is in service (R309, R327): the requester keeps
only what it held, and an uncached read ends poisoned. -/
def failTxn (s : State) (line : Nat) (t : Txn) : State :=
  let q := t.r.from_
  let kept := (agentLine s q line).st ≠ .i
  let ps := t.next.ptrs.filter fun p => p != q || kept
  let s := setTxn s line none
  if t.r.req = .rdC then s.emit (.readData (List.replicate 64 0) true)
  else setDir s line (if t.next.st = 4 then t.next else if ps.isEmpty then DirEntry.di else ⟨3, ps, 0⟩)

/-- The home asks the host for a line over the coherence port (R252, R327). -/
def askHost (s : State) (line : Nat) (t : Txn) : State :=
  match cohPort s with
  | none => failTxn s line t
  | some p =>
    let a := lineAddr line
    let op : HostOp := { kind := 5, ctx := 0, addr := a, io := a, data := [], port := p, len := 64, packet := line, offset := 0 }
    let s := { s with host := { s.host with reads := s.host.reads ++ [op] } }
    (setTxn s line (some { t with ask := 1 })).emit (.hostRead p a 64)

/-- A transaction with no snoop left goes on: it asks the host for what it needs, waits for it, or ends. -/
def finishTxn (s : State) (line : Nat) (t : Txn) : State :=
  if !needsHost s line t then endTxn s line t else if t.ask = 1 then s else askHost s line t

/-- What the host's answer makes of a transaction: its data where no agent sent them, and no state stronger than the host's own
grant, 1 for S and 2 for E or M (R252). -/
def Txn.given (t : Txn) (data : List Byte) (poison : List Nat) (grant : Nat) : Txn :=
  let weak : Bool := grant < 2 && (t.grant == 1 || t.grant == 4)
  { t with
    ask := 2
    fwd := some (t.fwd.getD (data, poison))
    grant := if weak then 2 else t.grant
    next := if weak then ⟨2, [t.r.from_], 0⟩ else t.next }

/-- Snoops that a broadcast sends: SnpI to every enabled agent but one (R242). -/
def bcastSnoops (s : State) (but : Nat) : List (Nat × Snp) := (s.coh.enabled.filter (· != but)).map fun g => (g, Snp.i)

/-- What the home does with a request: a transaction, by the table of R242. The entry to be, the grant, the snoops, and
whether they are a broadcast. -/
def homePlan (s : State) (r : HomeReq) : DirEntry × Nat × List (Nat × Snp) × Bool :=
  let e := dirEntry s r.line
  let q := r.from_
  let others := e.ptrs.filter (· != q)
  let dx : DirEntry := ⟨1, [q], 0⟩
  let first (k : Snp) : List (Nat × Snp) := (e.ptrs.take 1).map fun g => (g, k)
  let inv (l : List Nat) : List (Nat × Snp) := l.map fun g => (g, Snp.i)
  let ovr : Bool := !e.ptrs.contains q && e.ptrs.length == 4
  match r.req with
  | .rdS | .rdSN =>
    if e.st = 0 then (if r.req = .rdS then (dx, 1, [], false) else (⟨2, [q], 0⟩, 2, [], false))
    else if e.st = 4 then (e, 3, [], false)
    else if e.st ≠ 1 ∧ ovr then (⟨4, [], 0⟩, 3, [], false)
    else (⟨2, q :: others, 0⟩, 2, if e.st = 3 then [] else first .f, false)
  | .rdO | .upg =>
    if e.st = 0 then (dx, 4, [], false)
    else if e.st = 4 then (dx, 4, bcastSnoops s q, true)
    else if e.st = 1 then (dx, 4, if e.ptrs = [q] then [] else first .ifw, false)
    else if e.ptrs.contains q then (dx, 4, inv others, false)
    else (dx, 4, if e.st = 2 then first .ifw ++ inv (e.ptrs.drop 1) else inv e.ptrs, false)
  | .rdC => (e, 0, if e.st = 1 then first .c else [], false)
  | .wrL | .wrP => (DirEntry.di, 0, if e.st = 4 then bcastSnoops s 64 else inv e.ptrs, decide (e.st = 4))
  | .sweep => (DirEntry.di, 0, if e.st = 4 ∨ r.ctx.isSome then bcastSnoops s 64 else inv e.ptrs, decide (e.st = 4 ∨ r.ctx.isSome))
  | .wb => (e, 0, [], false)

/-- A transaction opened; the host's snoops go out over its port (R248). For an agent that is not enabled, which keeps no line,
the snoop is answered RspNP (R250). -/
def openTxn (s : State) (r : HomeReq) : State :=
  let (next, grant, snoops, bcast) := homePlan s r
  let f := homeOfLine r.line
  let s := if bcast then count s (cohReg f Reg.COH_BCAST) 1 else s
  let s := if next.st = 4 ∧ (dirEntry s r.line).st ≠ 4 then count s (cohReg f Reg.COH_OVERFLOW) 1 else s
  let live := snoops.filter fun p => s.coh.enabled.contains p.1
  let dead := (snoops.filter fun p => !s.coh.enabled.contains p.1).map Prod.fst
  let s := if live.any (·.1 = 0x20) then snoopHost s r.line else s
  let t : Txn :=
    { r := r, snoops := live, answers := dead.map fun g => ⟨g, 3, none, false⟩, bcast := bcast, next := next, grant := grant,
      fwd := none, ask := 0, began := s.cic.count }
  dead.foldl (fun s g => takeAnswer s r.line g) (setTxn s r.line (some t))

/-- A write-back as its home takes it: from the owner it is written through and the line goes to DI; where a SnpC has taken the
kept data already, they are in memory (R245). From any other it is acknowledged and discarded (R242). -/
def takeWb (s : State) (r : HomeReq) : State :=
  let e := dirEntry s r.line
  let l := agentLine s r.from_ r.line
  let s :=
    if e.st ≠ 1 ∨ e.ptrs ≠ [r.from_] ∨ l.st = .e then s
    else setDir (if l.st = .m then writeThrough s r.line fullMask l.data l.poison else s) r.line DirEntry.di
  let s := if l.st = .m then loseClusterResv (setLine s r.from_ r.line AgentLine.none_) r.from_ r.line else s
  s.emit (.ack r.from_ r.line)

/-- A request waits at the home (R240). -/
def waitReq (s : State) (r : HomeReq) : State := { s with coh := { s.coh with waiting := s.coh.waiting ++ [r] } }

/-- Two lines fall in one of the 131,072 sets of a directory slice (R239). -/
def sameDirSet (a b : Nat) : Bool := homeOfLine a == homeOfLine b && Config.dirSet a % 131072 == Config.dirSet b % 131072

/-- Lines with an entry in the directory set of a line. -/
def dirSetLines (s : State) (line : Nat) : List Nat := (tkeys s.coh.dir).filter fun l => sameDirSet l line

/-- Lines of the set whose open transaction will add an entry. -/
def dirSetComing (s : State) (line : Nat) : List Nat :=
  (tkeys s.coh.txns).filter fun l =>
    sameDirSet l line && (dirEntry s l).st == 0 && ((txnOf s l).map fun t => t.next.st != 0).getD false

/-- The set has no way for one more entry (R239). -/
def dirSetFull (s : State) (line : Nat) : Bool := decide (16 ≤ (dirSetLines s line).length + (dirSetComing s line).length)

/-- An entry of the set is being evicted. -/
def dirSetEvicts (s : State) (line : Nat) : Bool :=
  (tkeys s.coh.txns).any fun l => sameDirSet l line && ((txnOf s l).map fun t => decide (t.r.req = .sweep)).getD false

/-- A full directory set evicts its least recently used entry that is free to go, one at a time (R248). -/
def evictEntry (s : State) (line : Nat) : State :=
  if dirSetEvicts s line then s
  else match argMin (fun l => (dirEntry s l).used) ((dirSetLines s line).filter fun l => !lineBusy s l) with
  | some v =>
    openTxn (count s (cohReg (homeOfLine v) Reg.COH_DIR_EVICT) 1)
      { req := .sweep, from_ := 64, line := v, data := [], mask := 0, stash := none, ctx := none }
  | none => s

/-- A request reaches its home: it waits while its line is busy, or while a full directory set evicts its least recently
used entry for it (R240, R248). -/
def homeTake (s : State) (r : HomeReq) : State :=
  if lineBusy s r.line ∨ s.coh.waiting.any (·.line = r.line) then
    let s := if r.req = .wb then setLine s r.from_ r.line { agentLine s r.from_ r.line with wb := true } else s
    waitReq s r
  else if r.req = .wb then takeWb s r
  else
    let (next, _, _, _) := homePlan s r
    if (dirEntry s r.line).st = 0 ∧ next.st ≠ 0 ∧ dirSetFull s r.line then evictEntry (waitReq s r) r.line
    else openTxn s r

/-- An accepted stash offer takes its entry: the target holds the line in E. It waits for a way of the set (R247, R248). -/
def placeOffer (s : State) (agent line : Nat) : State :=
  if dirSetFull s line then evictEntry s line
  else
    let s := { s with coh := { s.coh with offers := s.coh.offers.erase (agent, line, 3) } }
    setDir (setLine s agent line ⟨.e, lineData s line, linePoison s line, false⟩) line ⟨1, [agent], 0⟩

/-- Transactions with nothing left to wait for end, accepted offers take their entries, and the requests that waited are taken
again, in arrival order. -/
def homeStep (s : State) : State :=
  let s := (tkeys s.coh.txns).foldl (fun s l =>
    match txnOf s l with
    | some t => if t.snoops.isEmpty ∧ t.answers.isEmpty then finishTxn s l t else s
    | none => s) s
  let s := (s.coh.offers.filter (·.2.2 = 3)).foldl (fun s o => placeOffer s o.1 o.2.1) s
  let w := s.coh.waiting
  w.foldl homeTake { s with coh := { s.coh with waiting := [] } }

/-- `homeStep` repeated. -/
def homeSteps : Nat → State → State
  | 0, s => s
  | n + 1, s => homeSteps n (homeStep s)

/-- The home does what it can: one round more than there are requests that wait. -/
def homeRun (s : State) : State := homeSteps (s.coh.waiting.length + 1) s

/-- A request reaches its home and is handled as far as it goes. -/
def homeReq (s : State) (r : HomeReq) : State := homeRun (homeTake s r)

/-- A hart of the cluster defers snoops to the line's granule (R269). -/
def defersSnoop (s : State) (agent line : Nat) : Bool :=
  decide (agent < 24) && !isHostLine line && [0, 1, 2, 3].any fun k =>
    let h := s.hart (4 * agent + k)
    h.defer && h.resv == some (line / 4)

/-- Every open transaction completed as far as it can be: its snoops taken, but for those deferred (R269), and answered. -/
def answerAll (s : State) : State :=
  homeRun ((tkeys s.coh.txns).foldl (fun s l =>
    match txnOf s l with
    | some t =>
      let s := t.snoops.foldl (fun s p => if defersSnoop s p.1 l then s else takeSnoop s l p.1 p.2) s
      let gs := ((txnOf s l).map fun t => t.answers.map (·.agent)).getD []
      gs.foldl (fun s g => takeAnswer s l g) s
    | none => s) s)

/-- An access that the model performs in one step meets a busy line: it is served after the transactions that are open
(R240; notes/assumptions/21.md). -/
def settle (s : State) (lines : List Nat) : State :=
  if lines.any fun l => (txnOf s l).isSome || s.coh.waiting.any (·.line = l) then answerAll (answerAll (answerAll s)) else s

/-- The agent's own request for a line is at the home already. -/
def asksAlready (s : State) (agent line : Nat) : Bool :=
  ((txnOf s line).map fun t => decide (t.r.from_ = agent)).getD false || s.coh.waiting.any fun r => r.line = line && r.from_ = agent

/-- A caching agent obtains a line, in one step as far as that goes: its request, the snoops and the grant. -/
def agentGets (s : State) (req : Req) (agent line : Nat) (ctx : Option Nat) : State :=
  let r : HomeReq := { req := req, from_ := agent, line := line, data := [], mask := 0, stash := none, ctx := ctx }
  let s := settle s [line]
  if asksAlready s agent line then s else settle (homeReq s r) [line]

/-! ## Reads and writes in one step -/

/-- An uncached read of a line in one step (RdC, R242), in a settled state: an owner in M writes its data through and stays in E,
one that dropped the line leaves the directory (R244), and memory is read where no owner has the line (R228). -/
def readLine (s : State) (line : Nat) (alloc next : Bool) (part : Option Nat) : State :=
  let e := dirEntry s line
  match e.ptrs.head?.filter fun _ => e.st = 1 with
  | none => memRead (setDir s line e) line alloc next part
  | some o =>
    let l := agentLine s o line
    let s := if o = 0x20 then snoopHost s line else s
    if l.st = .i then
      memRead (setDir (count s (cohReg (homeOfLine line) Reg.COH_STALE) 1) line DirEntry.di) line alloc next part
    else
      let s := if l.st = .m then setLine (writeThrough s line fullMask l.data l.poison) o line { l with st := .e } else s
      setDir s line e

/-- What an uncached read of a range does at its homes (R228, R242): the bytes themselves are `devBytes` of the state after it. -/
def readRange (s : State) (a n : Nat) (alloc : Bool) (part : Option Nat) : State :=
  (linesOf a n).foldl (fun s l => readLine s l alloc false part) (settle s (linesOf a n))

/-- A byte of device memory as an uncached reader obtains it (RdC, R242), in a settled state. -/
def settledByte (s : State) (a : Nat) : Byte :=
  match modifiedBy s (lineOf a) with
  | some o => (agentLine s o (lineOf a)).data.getD (a % 64) 0
  | none => hbmByte s a

/-- Bytes of device memory as an uncached reader obtains them (R242). -/
def devBytes (s : State) (a n : Nat) : List Byte :=
  let s := settle s (linesOf a n)
  (List.range n).map fun i => settledByte s (a + i)

/-- Little-endian value of `n` bytes of device memory. -/
def devLE (s : State) (a n : Nat) : Nat := leNat (devBytes s a n)

/-- Some word of a range reads poisoned. -/
def devPoison (s : State) (a n : Nat) : Bool :=
  let s := settle s (linesOf a n)
  (wordsOf a n).any fun w =>
    match modifiedBy s (lineOf w) with
    | some o => (agentLine s o (lineOf w)).poison.contains (w % 64 / 32)
    | none => hbmPoison s w

/-- Positions of the poisoned words of a range, counted from its first word. -/
def devPoisonWords (s : State) (a n : Nat) : List Nat :=
  ((wordsOf a n).zipIdx.filter fun p => devPoison s p.1 1).map Prod.snd

/-- Every other copy of a line invalidated, by SnpI to its holders: the data of one in M is written through first, a broadcast
and the stale pointers are counted (R242-R244). -/
def invalidateLine (s : State) (line : Nat) : State :=
  let f := homeOfLine line
  let gs := holders s line
  let s := if gs.contains 0x20 ∧ s.coh.enabled.contains 0x20 then snoopHost s line else s
  let s :=
    if (dirEntry s line).st = 4 then count s (cohReg f Reg.COH_BCAST) 1
    else count s (cohReg f Reg.COH_STALE) (gs.filter fun g => (agentLine s g line).st = .i).length
  let s := match modifiedBy s line with
    | some o => writeThrough s line fullMask (agentLine s o line).data (agentLine s o line).poison
    | none => s
  let s := gs.foldl (fun s g => loseClusterResv (setLine s g line AgentLine.none_) g line) s
  setDir s line DirEntry.di

/-- Who writes: the writer classes of R263 and the device's own engines. -/
inductive Writer where
  | hart
  | engine
  | host
  | guest
  deriving DecidableEq, Repr

/-- A write may not touch the protected image, or the regions of a device that is not the primary, has yielded or is
split (R316, R378, R386, R387). -/
def writeBarred (s : State) (by_ : Writer) (a n : Nat) : Bool :=
  let prot : Bool := match s.core.image with
    | some (b, z) => by_ != .hart && decide (a < b + z ∧ b < a + n)
    | none => false
  prot || (inMirrorRegion s a n && s.mir.st != 0 && (!s.mir.primary || s.mir.st == 5 || s.mir.st == 6))

/-- A write into a region of the primary waits: synchronous while the pair is suspect, asynchronous while the lag stands at
its bound (R380, R386). -/
def writeWaits (s : State) (a n : Nat) : Bool :=
  inMirrorRegion s a n && s.mir.primary && decide (1 ≤ s.mir.st ∧ s.mir.st ≤ 3)
    && (if mirrorAsync s then decide (lagBound s ≤ mirrorLag s) else s.mir.st == 3)

/-- A write that its home takes: every other copy is invalidated, the bytes written through, reservations on the granule
lost, pocket lines dropped (R232, R242, R268), and mirror copies sent (R379). -/
def devWriteNow (s : State) (a : Nat) (data : List Byte) : State :=
  let n := data.length
  let s := settle s (linesOf a n)
  let s := (linesOf a n).foldl (fun s l => dropPocket (invalidateLine s l) l) s
  let s := hbmWrite s a data
  let s := (linesOf a n).foldl (fun s l => loseReservations s (l * 64)) s
  mirrorCopySend s a n

/-- A line of the range is held by a cluster that defers its snoops (R269). -/
def rangeDeferred (s : State) (a n : Nat) : Bool := (linesOf a n).any fun l => (holders s l).any fun g => defersSnoop s g l

/-- Its home cannot accept a write now: the mirrored region waits, or the snoops that it needs are deferred (R269, R380, R386). -/
def writeHeld (s : State) (by_ : Writer) (a n : Nat) : Bool :=
  !writeBarred s by_ a n && (writeWaits s a n || rangeDeferred s a n)

/-- A write to device memory as its home handles it: one into a protected range or a region that takes none is refused (R316,
R378, R386). One that the home cannot accept yet is not made until it can: see `writeHeld`. -/
def devWrite (s : State) (by_ : Writer) (a : Nat) (data : List Byte) : State :=
  if data.isEmpty then s
  else if writeBarred s by_ a data.length then
    raiseError s { sev := 2, type := Err.PROTECTED_WRITE, die := 2 + homeFloor a, inst := 0, space := 1, addr := a }
  else devWriteNow s a data

/-- Stash offers for the whole lines of a range (R246, R247). -/
def offerLines (s : State) (target a n : Nat) : State :=
  ((linesOf a n).filter fun l => decide (a ≤ l * 64 ∧ l * 64 + 64 ≤ a + n)).foldl (fun s l => sendOffer s target l) s

/-! ## Posted writes (R265, R266) -/

/-- Writer class of an uncached agent: the host ports 96 and 97, the guest 98, else an engine (notes/assumptions/8.md). -/
def writerOf (agent : Nat) : Writer :=
  if agent = 96 ∨ agent = 97 then .host else if agent = 98 then .guest else .engine

/-- An earlier write of an agent holds back one of its own to a floor: to the same target in any case, and, in the order of
posted writes, to any (R265, R266). -/
def heldBehind (s : State) (agent floor : Nat) (ordered : Bool) : Bool :=
  s.mir.waiting.any (fun w => w.from_ = agent && (ordered || homeFloor w.addr == floor))
    || (ordered && s.mir.posts.any fun p => p.agent = agent && p.floor != floor && copiesOpen s p.copies)

/-- A waiting write cannot be made yet. -/
def MirWait.held (w : MirWait) (s : State) : Bool :=
  let n := if w.req.isSome then 64 else w.data.length
  (if w.req.isSome then writeWaits s w.addr n else writeHeld s (writerOf w.from_) w.addr n)
    || heldBehind s w.from_ (homeFloor w.addr) ((w.from_ == 96 || w.from_ == 97) && !w.relaxed && w.req.isNone)

/-- A write that waited, or need not wait, made: a posted one is accepted once the partner has its copies (R380), and its whole
lines are offered to its stash target (R247). -/
def MirWait.make (w : MirWait) (s : State) : State :=
  match w.req with
  | some r => homeReq s r
  | none =>
    let first := s.mir.nextCopy
    let s := devWriteNow s w.addr w.data
    let l := copiesFrom s first
    let s :=
      if !copiesOpen s l then s
      else { s with mir := { s.mir with posts := s.mir.posts ++ [(⟨w.from_, homeFloor w.addr, l⟩ : Posted)] } }
    match w.stash with
    | some g => offerLines s g w.addr w.data.length
    | none => s

/-- A write taken by its home, or left waiting there in the order of its source. -/
def postWrite (s : State) (w : MirWait) : State :=
  if w.req.isNone ∧ w.data.isEmpty then s
  else if w.held s then { s with mir := { s.mir with waiting := s.mir.waiting ++ [w] } }
  else w.make s

/-- The writes that wait are taken again, in order: those that still wait keep waiting. -/
def replayWaits (s : State) : State :=
  s.mir.waiting.foldl postWrite
    { s with mir := { s.mir with waiting := [], posts := s.mir.posts.filter fun p => copiesOpen s p.copies } }

/-- A write of a host port or the guest (R265, R266, R316, R378). -/
def portWrite (s : State) (agent a : Nat) (data : List Byte) (stash : Option Nat) (relaxed : Bool) : State :=
  if !data.isEmpty ∧ writeBarred s (writerOf agent) a data.length then devWrite s (writerOf agent) a data
  else postWrite s { addr := a, data := data, req := none, from_ := agent, stash := stash, relaxed := relaxed }

/-- A little-endian value written to device memory. -/
def devPut (s : State) (by_ : Writer) (a n v : Nat) : State := devWrite s by_ a (leBytes n v)

end Sys2Proof.Machine
end

