-- ==== Sys2Proof/Machine/Ops.lean ====
section
/-!
DEFINITION. The shared operations: address translation and its faults (R277-R291), and the failures of a command and of a
cell (R50, R64).
-/

namespace Sys2Proof.Machine

/-! ## Translation (R277-R285) -/

/-- Translation unit of a context's command processor (R277). -/
def cmdUnit (ctx : Nat) : Nat := 2 + ctx % 4

/-- Fault causes (R287). -/
abbrev Cause.NOT_VALID : Nat := 1
abbrev Cause.READ_DENIED : Nat := 2
abbrev Cause.WRITE_DENIED : Nat := 3
abbrev Cause.NOT_USER : Nat := 4
abbrev Cause.BAD_LEAF : Nat := 5
abbrev Cause.BAD_PHYS : Nat := 6
abbrev Cause.WALK_POISON : Nat := 7
abbrev Cause.NON_CANONICAL : Nat := 8

/-- What a walk finds: a leaf with the address of its entry, or a fault. -/
inductive Walk where
  | leaf (pte addr level : Nat)
  | fault (cause level : Nat)
  deriving DecidableEq, Repr

/-- A walk of an Sv48 table from the table at page number `ppn` (R278, R279). The fuel is one more than the level. -/
def walk (s : State) (va : Nat) : Nat → Nat → Walk
  | 0, _ => .fault Cause.NOT_VALID 0
  | level + 1, ppn =>
    let at_ := ppn * 4096 + 8 * bits va (12 + 9 * level + 8) (12 + 9 * level)
    if devPoison s at_ 8 then .fault Cause.WALK_POISON level
    else
      let e := devLE s at_ 8
      let v := bit e 0
      let r := bit e 1
      let w := bit e 2
      let x := bit e 3
      if !v ∨ (w ∧ !r) ∨ bits e 60 54 ≠ 0 then .fault Cause.NOT_VALID level
      else if !r ∧ !x then
        if bit e 4 ∨ bit e 6 ∨ bit e 7 ∨ bits e 63 61 ≠ 0 then .fault Cause.NOT_VALID level
        else
          let next := bits e 53 10
          if poolBytes ≤ next * 4096 then .fault Cause.BAD_PHYS level
          else walk s va level next
      else if level = 3 ∨ (0 < level ∧ bits e (10 + 9 * level - 1) 10 ≠ 0) then .fault Cause.BAD_LEAF level
      else if bit e 63 ∧ (0 < level ∨ bits e 13 10 ≠ 8) then .fault Cause.NOT_VALID level
      else .leaf e at_ level

/-- Addresses of the entries that a walk reads. -/
def walkReads (s : State) (va : Nat) : Nat → Nat → List Nat
  | 0, _ => []
  | level + 1, ppn =>
    let at_ := ppn * 4096 + 8 * bits va (12 + 9 * level + 8) (12 + 9 * level)
    let e := devLE s at_ 8
    if devPoison s at_ 8 ∨ !bit e 0 ∨ bit e 1 ∨ bit e 3 ∨ poolBytes ≤ bits e 53 10 * 4096 then [at_]
    else at_ :: walkReads s va level (bits e 53 10)

/-- The reads of a walk pass the floor caches as a translation unit's, in their context's partition (R213, R228). -/
def walkRead (s : State) (ctx va ppn : Nat) : State :=
  (walkReads s va 4 ppn).foldl (fun s a => readRange s a 8 false (some (ctx % 64))) s

/-- The physical address that a leaf gives for `va`: a NAPOT entry stands for the 4 KiB page it covers (R278). -/
def leafPa (pte level va : Nat) : Nat :=
  let ppn := bits pte 53 10
  if bit pte 63 then (ppn / 16 * 16 + bits va 15 12) * 4096 + va % 4096
  else ppn * 4096 + va % 2 ^ (12 + 9 * level)

/-- Canonical virtual address (R278). -/
def canonical (va : Nat) : Bool := bits va 63 48 = (if bit va 47 then 0xFFFF else 0)

/-- A unit's translations. -/
def tlbOf (s : State) (unit : Nat) : List TlbEntry := tget (fun _ => []) s.xlt.tlb unit

/-- The state with a unit's translations set. -/
def setTlb (s : State) (unit : Nat) (l : List TlbEntry) : State :=
  { s with xlt := { s.xlt with tlb := tset (fun _ => []) s.xlt.tlb unit l } }

/-- A unit's host translations (R282). -/
def hostXlts (s : State) (unit : Nat) : List TlbEntry := (tlbOf s unit).filter (·.host)

/-- How many translations a unit holds beside its prefetch buffer, and how many walks it has in flight (R277). -/
def tlbSize (unit : Nat) : Nat := if unit = 1 then 16384 else if unit ≤ 5 then 8192 else 1024
def walkSlots (unit : Nat) : Nat := if unit = 1 then 96 else if unit ≤ 5 then 64 else 16

/-- Permission of a leaf for an engine access (R280): none when permitted. -/
def leafDenied (perm : Nat) (write : Bool) : Option Nat :=
  if !bit perm 4 then some Cause.NOT_USER
  else if write ∧ !bit perm 2 then some Cause.WRITE_DENIED
  else if !write ∧ !bit perm 1 then some Cause.READ_DENIED
  else none

/-- A leaf's physical address names the device pool, below its size, or host memory (R279). -/
def leafMaps (space pa : Nat) : Bool := (space = 0 && pa < poolBytes) || space = 8

/-- The translation that serves an access of a page: of the context, permitted, with D set for a write, and within the pool. -/
def heldXlt (s : State) (unit ctx va : Nat) (write : Bool) : Option TlbEntry :=
  (tlbOf s unit).find? fun t => !t.host && t.ctx == ctx && decide (t.va ≤ va ∧ va < t.va + t.bytes)
    && (leafDenied t.perm write).isNone && (!write || bit t.perm 7) && leafMaps t.space (t.pa + (va - t.va))

/-- The host translation that serves an access of a page of host I/O addresses (R282). -/
def heldHost (s : State) (unit ctx h : Nat) (write : Bool) : Option TlbEntry :=
  (hostXlts s unit).find? fun t => t.ctx == ctx && t.va / 4096 == h / 4096 && (!write || bit t.perm 2)

/-- What a look into a unit's translations gives for a range (R284). -/
inductive LookRes where
  | ok (segs : List Seg)
  /-- The first address whose page has no translation. -/
  | miss (va : Nat)
  /-- The first host I/O address whose page has no host translation. -/
  | ats (addr : Nat)
  deriving DecidableEq, Repr

/-- A segment put before those of the rest of a range. -/
def LookRes.after (g : Seg) : LookRes → LookRes
  | .ok l => .ok (g :: l)
  | r => r

/-- The pages of a range of host I/O addresses looked up, in address order. -/
def lookHost (s : State) (unit ctx : Nat) (write : Bool) : List (Nat × Nat) → LookRes
  | [] => .ok []
  | (h, n) :: rest =>
    match heldHost s unit ctx h write with
    | none => .ats h
    | some x => (lookHost s unit ctx write rest).after ⟨1, x.pa + h % 4096, n, h⟩

/-- The pages of a range looked up, in address order; those in host memory take the host's stage too (R279, R282). -/
def look (s : State) (unit ctx : Nat) (write : Bool) : List (Nat × Nat) → LookRes
  | [] => .ok []
  | (va, n) :: rest =>
    match heldXlt s unit ctx va write with
    | none => .miss va
    | some t =>
      let pa := t.pa + (va - t.va)
      if t.space = 0 then (look s unit ctx write rest).after ⟨0, pa, n, 0⟩
      else
        match lookHost s unit ctx write [(pa % 2 ^ 52, n)] with
        | .ok (g :: _) => (look s unit ctx write rest).after g
        | r => r

/-- A translation is held for a current tile: it came for one that waits, or its page is one of a tile that waits for a walk. -/
def pinnedXlt (s : State) (unit : Nat) (t : TlbEntry) : Bool :=
  t.mark = .demand || s.xlt.walks.any fun j => j.req.unit == unit && !j.prefetch && !t.host && j.req.ctx == t.ctx
    && decide (t.va < j.base + j.bytes ∧ j.base < t.va + t.bytes)

/-- The translations of a unit brought down to its sizes: beyond the store's the least recently used goes that no current tile
holds, and beyond the prefetch buffer's 4,096 the oldest there (R277; notes/assumptions/111.md). -/
def trimXlts (s : State) (unit : Nat) (l : List TlbEntry) : List TlbEntry :=
  let main := l.filter (·.mark ≠ .ahead)
  let ahead := l.filter (·.mark = .ahead)
  let old := if main.length ≤ tlbSize unit then none else ((main.filter fun t => !pinnedXlt s unit t).getLast?).or main.getLast?
  let stale := if ahead.length ≤ 4096 then none else ahead.getLast?
  l.filter fun t => !(some t = old) && !(some t = stale)

/-- A translation put first among a unit's, in place of one of the same page. -/
def keepXlt (s : State) (unit : Nat) (t : TlbEntry) : State :=
  let same (x : TlbEntry) : Bool := x.ctx == t.ctx && x.host == t.host && x.va == t.va && x.bytes == t.bytes
  setTlb s unit (trimXlts s unit (t :: (tlbOf s unit).filter fun x => !same x))

/-- A tile uses a translation: it is the most recently used one. One that came for the tile is no lookup without a walk; a
prefetched one counts as used (R277, R285, R299). A unit of a cell die keeps no host translation (R282). -/
def useXlt (s : State) (unit : Nat) (lookup : Bool) (t : TlbEntry) : State :=
  let s := if lookup && t.mark ≠ .demand then count64 s 0 (xltReg unit Reg.XLT_HIT_LO) 1 else s
  let s := if t.mark = .ahead then count s (xltReg unit Reg.XLT_PF_USED) 1 else s
  if t.host ∧ 8 ≤ unit then setTlb s unit ((tlbOf s unit).erase t) else keepXlt s unit { t with mark := .used }

/-- A tile uses the translations of its pages of host I/O addresses. -/
def useHost (s : State) (unit ctx : Nat) (write lookup : Bool) (pages : List (Nat × Nat)) : State :=
  pages.foldl (fun s p => ((heldHost s unit ctx p.1 write).map (useXlt s unit lookup)).getD s) s

/-- A tile uses the translations of its pages. -/
def usePages (s : State) (unit ctx : Nat) (write : Bool) (pages : List (Nat × Nat)) : State :=
  pages.foldl (fun s p =>
    match heldXlt s unit ctx p.1 write with
    | none => s
    | some t =>
      let s := useXlt s unit true t
      if t.space = 0 then s else useHost s unit ctx write false [((t.pa + (p.1 - t.va)) % 2 ^ 52, p.2)]) s

/-- What the walk of a page finds: a fault, or the translation to keep and, where A or D is to be set, the entry's address and new
value (R278-R280). -/
inductive PageWalk where
  | fault (cause level : Nat)
  | leaf (t : TlbEntry) (set : Option (Nat × Nat))
  deriving DecidableEq, Repr

/-- The walk of a page of a context's tables (R278-R280). -/
def walkOutcome (s : State) (ctx va : Nat) (write : Bool) : PageWalk :=
  let root := (s.ctx ctx).desc.ptRoot
  if !canonical va then .fault Cause.NON_CANONICAL 3
  else
    match walk s va 4 root with
    | .fault c l => .fault c l
    | .leaf e at_ level =>
      let pa := leafPa e level va
      match leafDenied (e % 256) write with
      | some c => .fault c level
      | none =>
        if !leafMaps (bits pa 55 52) pa then .fault Cause.BAD_PHYS level
        else
          let e2 := e ||| 64 ||| (if write then 128 else 0)
          let size := if level = 0 then 4096 else 2 ^ (12 + 9 * level)
          .leaf
            { ctx := ctx, root := root, host := false, va := va / size * size, bytes := size, space := bits pa 55 52,
              pa := pa - va % size, perm := e2 % 256, mark := .demand }
            (if e2 = e then none else some (at_, e2))

/-- How the walk of a page ends. -/
inductive WalkEnd where
  | kept
  | fault (cause level : Nat)
  /-- The update of A and D is not accepted at its home yet (R269, R380). -/
  | hold
  deriving DecidableEq, Repr

/-- A walk's reads pass the floor caches, and it counts (R213, R299). -/
def walkCounted (s : State) (unit ctx va : Nat) : State :=
  let s := if canonical va then walkRead s ctx va (s.ctx ctx).desc.ptRoot else s
  count64 s 0 (xltReg unit Reg.XLT_WALK_LO) 1

/-- A page walked for a tile: A and D are set by an atomic OR at the entry's home, and the translation is kept; of a page that faults
none is (R280, R281). -/
def walkNow (s : State) (unit ctx va : Nat) (write : Bool) : State × WalkEnd :=
  match walkOutcome s ctx va write with
  | .fault c l =>
    let covers (t : TlbEntry) : Bool := !t.host && t.ctx == ctx && decide (t.va ≤ va ∧ va < t.va + t.bytes)
    let s := walkCounted s unit ctx va
    (setTlb s unit ((tlbOf s unit).filter fun t => !covers t), .fault c l)
  | .leaf t none => (keepXlt (walkCounted s unit ctx va) unit t, .kept)
  | .leaf t (some (at_, e)) =>
    if writeHeld s .engine at_ 8 then (s, .hold)
    else (keepXlt (devPut (walkCounted s unit ctx va) .engine at_ 8 e) unit t, .kept)

/-- The pages of a range: address and bytes in each. -/
def pagesOf (va n : Nat) : List (Nat × Nat) :=
  if n = 0 then []
  else (List.range ((va + n - 1) / 4096 + 1 - va / 4096)).map fun i =>
    let lo := if i = 0 then va else (va / 4096 + i) * 4096
    (lo, min (va + n) ((va / 4096 + i + 1) * 4096) - lo)

/-- How a range's translation in one step ends. -/
inductive TileRes where
  | ok (segs : List Seg)
  /-- Faulting address, CAUSE, LEVEL. -/
  | fault (va cause level : Nat)
  | ats (addr : Nat)
  | hold
  deriving DecidableEq, Repr

/-- The pages of a range that are not held walked at once, in address order; the first that is not kept ends it. -/
def walkPages (s : State) (unit ctx : Nat) (write : Bool) : List (Nat × Nat) → State × Option TileRes
  | [] => (s, none)
  | (va, _) :: rest =>
    if (heldXlt s unit ctx va write).isSome then walkPages s unit ctx write rest
    else
      match walkNow s unit ctx va write with
      | (s, .kept) => walkPages s unit ctx write rest
      | (s, .fault c l) => (s, some (.fault va c l))
      | (s, .hold) => (s, some .hold)

/-- A range translated in one step, walks and all: a write of a fault record, which is exempt from R286 (R291), and CREATE's read of
a phase table. -/
def translateRange (s : State) (unit ctx : Nat) (write : Bool) (pages : List (Nat × Nat)) : State × TileRes :=
  match walkPages s unit ctx write pages with
  | (s, some r) => (s, r)
  | (s, none) =>
    match look s unit ctx write pages with
    | .ok segs => (usePages s unit ctx write pages, .ok segs)
    | .ats a => (s, .ats a)
    | .miss _ => (s, .hold)

/-! ## Walks in flight (R277, R285, R292) -/

/-- The walks of a unit at a stage. -/
def walksAt (s : State) (unit : Nat) (st : WalkStage) : List WalkJob := s.xlt.walks.filter fun j => j.req.unit = unit && j.stage = st

/-- The state with the walks set. -/
def setWalks (s : State) (l : List WalkJob) : State := { s with xlt := { s.xlt with walks := l } }

/-- A walk is for a page of a context at a unit. -/
def WalkJob.forPage (j : WalkJob) (unit ctx va : Nat) : Bool := j.req.unit == unit && j.req.ctx == ctx && j.va / 4096 == va / 4096

/-- Walks that wait take the free slots of their unit, in order, demand walks ahead of prefetches; a prefetch whose page is held by now
has nothing to do (R277, R285). -/
def startWalks (s : State) (unit : Nat) : State :=
  let idle (j : WalkJob) : Bool := j.prefetch && j.stage = .waiting && (heldXlt s unit j.req.ctx j.va j.write).isSome
  let l := s.xlt.walks.filter fun j => !(j.req.unit = unit && idle j)
  let wait := l.filter fun j => j.req.unit = unit && j.stage = .waiting
  let next := ((wait.filter fun j => !j.prefetch) ++ wait.filter (·.prefetch)).take (walkSlots unit - (walksAt s unit .running).length)
  setWalks s (l.map fun j => if next.contains j then { j with stage := .running } else j)

/-- A walk asked for, for the tile at `base` of `bytes` bytes; a prefetch of the page that waits becomes this demand walk (R285). -/
def beginWalk (s : State) (req : Requester) (va base bytes : Nat) (write prefetch : Bool) : State :=
  let l := s.xlt.walks.filter fun j => !(j.forPage req.unit req.ctx va && j.prefetch && j.stage = .waiting)
  let j : WalkJob :=
    { number := s.xlt.nextWalk, req := req, va := va, base := base, bytes := bytes, write := write, prefetch := prefetch,
      stage := .waiting, stale := false }
  startWalks { s with xlt := { s.xlt with walks := l ++ [j], nextWalk := j.number + 1 } } req.unit

/-- A requester waits for a walk. -/
def walking (s : State) (req : Requester) : Bool := s.xlt.walks.any fun j => !j.prefetch && j.req == req

/-- The 32 bytes of a fault record with index `i` (R287). -/
def FaultRec.bytes (r : FaultRec) (i log2 : Nat) : List Byte :=
  let w0 := (if bit i log2 then 0 else 2 ^ 31) + r.req.source * 2 ^ 28 + r.cause * 2 ^ 24 + b2n r.write * 2 ^ 23
    + r.req.unit * 2 ^ 16 + r.tag
  let cell := if r.req.source = 4 then 0xFFFF else r.req.cell
  leBytes 4 w0 ++ leBytes 4 r.req.seq ++ leBytes 8 r.va ++ leBytes 8 r.tileBase ++ leBytes 4 r.req.handle
    ++ leBytes 4 (r.tileBytes * 2 ^ 19 + r.level * 2 ^ 17 + cell)

/-- Entries of a context's overflow records that one unit holds (R290). -/
def unitHeld (s : State) (unit : Nat) : Nat :=
  ((tkeys s.ctxs).map fun i => ((s.ctx i).fqHeld.filter fun r => r.req.unit = unit).length).foldl (· + ·) 0

/-- The fault queue is full (R288). -/
def Ctx.fqFull (c : Ctx) : Bool := (c.fqProduced + c.fqWaits.length + 2 ^ 32 - c.fqConsumed) % 2 ^ 32 ≥ 2 ^ c.desc.fqLog2

/-- A write to host memory that waits for a port (R333). -/
def HostOp.write (kind ctx addr io : Nat) (data : List Byte) : HostOp :=
  { kind := kind, ctx := ctx, addr := addr, io := io, data := data, port := 0, len := data.length, packet := 0, offset := 0 }

/-- Port for a page of host memory among the allowed ones (R328): allowed is a bit set. -/
def hostPort (s : State) (allowed h : Nat) : Option Nat :=
  let ok (p : Nat) : Bool := bit allowed p && (s.port p).inService
  if ok 0 && ok 1 then some (bits h 12 12) else if ok 0 then some 0 else if ok 1 then some 1 else none

/-- A write to these segments is not accepted at the home of one of them yet. -/
def segsHeld (s : State) (l : List Seg) : Bool := l.any fun g => g.space = 0 && writeHeld s .engine g.pa g.len

/-- A write to these segments finds no port for one in host memory (R333). -/
def noPort (s : State) (l : List Seg) : Bool := l.any fun g => g.space = 1 && (hostPort s 3 g.io).isNone

/-- The PASID that a context's host requests carry (R282, R298). -/
def pasidOf (s : State) (ctx : Nat) : Option Nat :=
  let a := hub Pg.XLC Reg.XLC_PASID
  if fld s ctx a 31 31 = 1 then some (fld s ctx a 19 0) else none

/-- Page requests outstanding on the device. -/
def priTotal (s : State) : Nat := ((tkeys s.ctxs).map fun c => (s.ctx c).priOut).foldl (· + ·) 0

/-- The state with the waiting tiles set. -/
def setAts (s : State) (l : List AtsWait) : State := { s with xlt := { s.xlt with atsWait := l } }

/-- An ATS request sent for a waiting tile; without a port in service it waits for one (R282, R333). -/
def sendAts (s : State) (w : AtsWait) : State :=
  let put (v : AtsWait) : State := setAts s (s.xlt.atsWait.map fun x => if x = w then v else x)
  match hostPort s 3 w.addr with
  | none => put { w with stage := .unsent }
  | some p =>
    (countFld (put { w with stage := .asked, port := p }) 0 (xltReg w.unit Reg.XLT_HOST) 15 0 1).emit
      (.atsRequest w.unit w.req.ctx w.addr (pasidOf s w.req.ctx))

/-- A tile asks the host for a translation; a prefetch of the page that waits for its ATS answer becomes the tile's (R282, R285). -/
def askXlt (s : State) (req : Requester) (addr : Nat) (write : Bool) : State :=
  let ahead (x : AtsWait) : Bool := x.req.source = 6 && x.unit == req.unit && x.req.ctx == req.ctx && x.addr / 4096 == addr / 4096
  match s.xlt.atsWait.find? ahead with
  | some x => setAts s (s.xlt.atsWait.map fun y => if y = x then { x with req := req, addr := addr, write := write } else y)
  | none =>
    let w : AtsWait := { unit := req.unit, req := req, addr := addr, write := write, stage := .unsent, port := 0 }
    sendAts (setAts s (s.xlt.atsWait ++ [w])) w

/-- A page request sent for a waiting tile (R283). -/
def sendPage (s : State) (w : AtsWait) : State :=
  let s := setAts s (s.xlt.atsWait.map fun x => if x = w then { x with stage := .paged } else x)
  let c := s.ctx w.req.ctx
  let s := countFld s 0 (xltReg w.unit Reg.XLT_HOST) 31 16 1
  (s.setCtx w.req.ctx { c with priOut := c.priOut + 1 }).emit (.pageRequest w.unit w.req.ctx w.addr (pasidOf s w.req.ctx))

/-- Page requests that waited sent, in order, while fewer than 512 are outstanding (R283). -/
def sendQueued (s : State) : State :=
  (s.xlt.atsWait.filter (·.stage = .queued)).foldl (fun s w => if priTotal s < 512 then sendPage s w else s) s

/-- Mark of a fault-queue write among the command processor's accesses. -/
abbrev fqTrack : Nat := 12

/-- The command processor's unit as it writes a fault record (R291). -/
def fqReq (ctx : Nat) : Requester :=
  { source := 2, ctx := ctx, unit := cmdUnit ctx, handle := 0, cell := 0xFFFF, track := fqTrack, seq := 0 }

/-- A fault-queue write faults (R291): an error record as the flag is set (notes/assumptions/111.md). -/
def fqFaults (s : State) (ctx slot tag cause : Nat) : State :=
  if (s.ctx ctx).fqUnmapped then s
  else
    let s := s.setCtx ctx { s.ctx ctx with fqUnmapped := true }
    raiseError s { sev := 2, type := Err.FQ_UNMAPPED, die := cmdUnit ctx, inst := ctx, ctx := some ctx, space := 2,
                   addr := slot, detail := [tag, cause] }

/-- A read-back of the line last written on a port, which performs every write that went before it there (R256). One that
stands already for the same writes is not repeated. -/
def readBack (s : State) (p : Nat) : State :=
  match (s.host.unread.filter fun (w : HostWr) => w.port = p).getLast? with
  | none => s
  | some w =>
    if s.host.reads.any fun r => r.kind = 4 && r.port = p && r.packet = s.host.nextWrite then s
    else
      let op : HostOp :=
        { kind := 4, ctx := 0, addr := w.line, io := w.line, data := [], port := p, len := 64, packet := s.host.nextWrite, offset := 0 }
      ({ s with host := { s.host with reads := s.host.reads ++ [op] } }).emit (.hostRead p w.line 64)

/-- A write of a cell or a hart that a host port has taken (R256): one that is not acknowledged early is read back at once. Of the
early writes of one maker on one port, one entry stands for all. -/
def noteWrite (s : State) (who : AccWho) (op port addr : Nat) (early : Bool) : State :=
  let id := s.host.nextWrite
  let same (w : HostWr) : Bool := early && w.early && w.who == who && w.port == port
  let op := ((s.host.unread.filter same).map (·.op)).foldl min op
  let w : HostWr := { id := id, who := who, op := op, port := port, line := addr / 64 * 64, early := early }
  let s := { s with host := { s.host with unread := (s.host.unread.filter fun w => !same w) ++ [w], nextWrite := id + 1 } }
  if early then s else readBack s port

/-- The read-backs that a DRAIN asks for: of every port with writes that it waits for (R256, R259, R262). -/
def readBacks (s : State) (mine : HostWr → Bool) : State :=
  [0, 1].foldl (fun s p => if s.host.unread.any fun w => w.port = p && mine w then readBack s p else s) s

/-- Writes of a port performed as a read-back completes: those with numbers below it. -/
def performed (s : State) (p before : Nat) : State :=
  { s with host := { s.host with unread := s.host.unread.filter fun w => !(w.port == p && decide (w.id < before)) } }

/-- Index of the next fault record: those written count before they are performed (R286, R287). -/
def Ctx.fqNext (c : Ctx) : Nat := (c.fqProduced + c.fqWaits.length) % 2 ^ 32

/-- FQ_PRODUCED advances over the records whose writes are performed, in order, and raises its vector (R286); `n` bounds their
number. -/
def showRecords (s : State) (ctx : Nat) : Nat → State
  | 0 => s
  | n + 1 =>
    let c := s.ctx ctx
    match c.fqWaits with
    | [] => s
    | w :: l =>
      if copiesOpen s w.copies ∨ s.host.unread.any (fun h => h.who == .queue ctx && h.op == w.index) then s
      else
        let s := s.setCtx ctx { c with fqProduced := (c.fqProduced + 1) % 2 ^ 32, fqWaits := l }
        showRecords (raiseCtxVector s ctx 3) ctx n

/-- The records of every context that are performed by now. -/
def showAll (s : State) : State := (tkeys s.ctxs).foldl (fun s i => showRecords s i ((s.ctx i).fqWaits.length)) s

/-- Address of the slot that the next fault record takes (R288). -/
def fqSlot (c : Ctx) : Nat := c.desc.fqBase + 32 * (c.fqNext % 2 ^ c.desc.fqLog2)

/-- A record written to the context's fault queue (R286, R291); false where the write itself faults, waits for the host's
translation (R282), or finds no port and waits in its overflow store (R333). -/
def writeFaultRecord (s : State) (ctx : Nat) (r : FaultRec) : State × Bool :=
  let slot := fqSlot (s.ctx ctx)
  if s.xlt.atsWait.any fun w => w.req == fqReq ctx then (s, false)
  else
    match translateRange s (cmdUnit ctx) ctx true (pagesOf slot 32) with
    | (s, .ok segs) =>
      if noPort s segs ∨ segsHeld s segs then (s, false)
      else
        let first := s.mir.nextCopy
        let index := (s.ctx ctx).fqNext
        let bytes := r.bytes index (s.ctx ctx).desc.fqLog2
        let s := (segs.foldl (fun (p : State × List Byte) g =>
          let s :=
            if g.space = 0 then devWrite p.1 .engine g.pa (p.2.take g.len)
            else
              let q := (hostPort p.1 3 g.io).getD 0
              noteWrite (toHost p.1 q g.pa (p.2.take g.len) false) (.queue ctx) index q g.pa false
          (s, p.2.drop g.len)) (s, bytes)).1
        let c := s.ctx ctx
        let s := s.setCtx ctx { c with fqWaits := c.fqWaits ++ [⟨index, copiesFrom s first⟩], fqUnmapped := false }
        (showRecords s ctx ((s.ctx ctx).fqWaits.length), true)
    | (s, .hold) => (s, false)
    | (s, .ats a) => (askXlt s (fqReq ctx) a true, false)
    | (s, .fault _ cause _) => (fqFaults s ctx slot r.tag cause, false)

/-- The next tag that is not outstanding (R287), from `t` on; at most 65,536 are tried. -/
def freshTag (tags : List TagRec) : Nat → Nat → Nat
  | 0, t => t
  | n + 1, t => if tags.any (·.tag = t) then freshTag tags n ((t + 1) % 65536) else t

/-- A tile's fault reported (R286, R290): the tag is drawn, the record written, held in the overflow store, or the
requester stalls without a record. -/
def raiseFault (s : State) (req : Requester) (cause level : Nat) (write : Bool) (va base bytes : Nat) : State :=
  let c := s.ctx req.ctx
  let tag := freshTag c.tags 65536 c.nextTag
  let r : FaultRec :=
    { req := req, cause := cause, write := write, tag := tag, va := va, tileBase := base, tileBytes := bytes,
      level := level }
  let tagged (c : Ctx) : Ctx :=
    { c with tags := c.tags ++ [⟨tag, req⟩], nextTag := (tag + 1) % 65536, norec := c.norec.filter (· != req) }
  let counted (s : State) : State := count s (xltReg req.unit Reg.XLT_FAULT) 1
  let hold (s : State) (full : Bool) : State :=
    let c := s.ctx req.ctx
    if 64 ≤ unitHeld s req.unit ∨ 32 ≤ (c.fqHeld.filter fun x => x.req.unit = req.unit).length then
      let s := s.setCtx req.ctx { c with fqNorec := true, norec := c.norec.filter (· != req) ++ [req] }
      count s (xltReg req.unit Reg.XLT_NOREC) 1
    else
      let s := s.setCtx req.ctx { tagged c with fqHeld := c.fqHeld ++ [r], fqQueueFull := c.fqQueueFull || full }
      let s := setFld s 0 (xltReg req.unit Reg.XLT_STATUS) 6 0 (unitHeld s req.unit)
      let s := raiseInt (counted s) (xltReg req.unit 0) 1
      if full then raiseCtxVector s req.ctx 3 else s
  if c.fqFull ∨ !c.fqHeld.isEmpty then hold s true
  else
    match writeFaultRecord s req.ctx r with
    | (s, true) => counted (s.setCtx req.ctx (tagged (s.ctx req.ctx)))
    | (s, false) => hold s false

/-- A requester stalls already: it waits for a walk, a tag of it is outstanding, it stalled without a record, or it waits for ATS or
PRI. -/
def stalled (s : State) (req : Requester) : Bool :=
  walking s req || (s.ctx req.ctx).tags.any (·.req = req) || (s.ctx req.ctx).norec.contains req
    || s.xlt.atsWait.any fun w => w.req = req

/-- Die codes of the translation units (R277). -/
def xltUnits : List Nat := [1, 2, 3, 4, 5, 8, 9, 10, 11, 12, 13, 14, 15]

/-- A cached translation lies in a range; a size of 0 is the whole space (R293). -/
def inRange (va bytes at_ n : Nat) : Bool := bytes = 0 || (decide (at_ < va / 4096 * 4096 + bytes) && decide (va / 4096 * 4096 < at_ + n))

/-- A unit drops a context's translations in a range; the core die's drops the walk-cache and hart entries of its root. -/
def dropRange (s : State) (unit ctx va bytes : Nat) : State :=
  let root := (s.ctx ctx).desc.ptRoot
  let keep (t : TlbEntry) : Bool := t.host || !((t.ctx == ctx || (unit == 1 && t.root == root)) && inRange va bytes t.va t.bytes)
  let s := setTlb s unit ((tlbOf s unit).filter keep)
  if unit ≠ 1 then s
  else (tkeys s.core.harts).foldl (fun s h => s.setHart h { s.hart h with tlb := (s.hart h).tlb.filter keep }) s

/-- The translation unit is fenced (R295). -/
def unitFenced (s : State) (unit : Nat) : Bool := s.xlt.fenced.contains unit

/-- A tile translated for a requester: its segments once every page it touches is held, else none, and it stalls: a walk of the
first page that is not held begins, or the host is asked for its translation. A write waits for a home that does not
accept it yet (R269, R282, R284, R380). -/
def tile (s : State) (req : Requester) (va n : Nat) (write : Bool) : State × Option (List Seg) :=
  if stalled s req ∨ unitFenced s req.unit then (s, none)
  else
    let pages := pagesOf va n
    match look s req.unit req.ctx write pages with
    | .ok segs => if write ∧ segsHeld s segs then (s, none) else (usePages s req.unit req.ctx write pages, some segs)
    | .miss at_ => (beginWalk s req at_ va n write false, none)
    | .ats a => (askXlt s req a write, none)

/-- A tile at a HOST endpoint, whose addresses take the host's translation alone (R177, R282). -/
def hostTile (s : State) (req : Requester) (h n : Nat) (write : Bool) : State × Option (List Seg) :=
  if stalled s req ∨ unitFenced s req.unit then (s, none)
  else
    let pages := pagesOf h n
    match lookHost s req.unit req.ctx write pages with
    | .ok segs => (useHost s req.unit req.ctx write true pages, some segs)
    | .miss _ => (s, none)
    | .ats a => (askXlt s req a write, none)

/-- A page of a tile that is not current yet is looked ahead for (R285): a walk of the page, or the host's translation of it, where none
is held or under way. -/
def prefetchPage (s : State) (req : Requester) (host write : Bool) (p : Nat × Nat) : State :=
  let asked (w : AtsWait) : Bool := w.unit == req.unit && w.req.ctx == req.ctx && w.addr / 4096 == p.1 / 4096
  if host then
    if (heldHost s req.unit req.ctx p.1 write).isSome ∨ s.xlt.atsWait.any asked then s
    else askXlt s { req with source := 6 } p.1 write
  else if (heldXlt s req.unit req.ctx p.1 write).isSome ∨ s.xlt.walks.any (·.forPage req.unit req.ctx p.1) then s
  else beginWalk s req p.1 p.1 p.2 write true

/-- Ranges of tiles that are not current yet looked ahead for (R285). -/
def prefetchRanges (s : State) (req : Requester) (host write : Bool) (l : List (Nat × Nat)) : State :=
  if unitFenced s req.unit then s
  else l.foldl (fun s r => (pagesOf r.1 r.2).foldl (fun s p => prefetchPage s req host write p) s) s

/-- The bytes of translated segments; a host segment's data comes as a read completion, which is a free value here
(notes/assumptions/10.md). -/
def segBytes (s : State) : List Seg → List Byte
  | [] => []
  | g :: l =>
    (if g.space = 0 then devBytes s g.pa g.len
     else (List.range g.len).map fun i => Config.freeByte s.free (g.pa + i)) ++ segBytes s l

/-- Segments of a context read by a unit of the device: every line as an uncached read at its home, of a streaming requester (R228;
notes/assumptions/110.md), and then their bytes. -/
def readSegs (s : State) (ctx : Nat) (l : List Seg) : State × List Byte :=
  let s := l.foldl (fun s g => if g.space = 0 then readRange s g.pa g.len false (some (ctx % 64)) else s) s
  (if l.any (·.space = 1) then s.useFree else s, segBytes s l)

/-- Some word of the segments is poisoned. -/
def segPoison (s : State) (l : List Seg) : Bool := l.any fun g => g.space = 0 ∧ devPoison s g.pa g.len

/-- Positions of the poisoned 32-byte words of the segments. -/
def segPoisonWords (s : State) : Nat → List Seg → List Nat
  | _, [] => []
  | k, g :: l => (if g.space = 0 then (devPoisonWords s g.pa g.len).map (· + k) else []) ++ segPoisonWords s (k + g.len / 32) l

/-- Bytes written to translated segments. Host writes that find no port wait (R333); `kind` names them. -/
def segWrite (s : State) (ctx kind : Nat) : List Seg → List Byte → State
  | [], _ => s
  | g :: l, data =>
    let part := data.take g.len
    let s :=
      if g.space = 0 then devWrite s .engine g.pa part
      else match hostPort s 3 g.io with
        | some p => toHost s p g.pa part false
        | none => { s with host := { s.host with waiting := s.host.waiting ++ [HostOp.write kind ctx g.pa g.io part] } }
    segWrite s ctx kind l (data.drop g.len)

/-- Open mirror copies since number `first` noted for a context (R48, R380). -/
def noteCopies (s : State) (ctx first : Nat) : State :=
  let l := copiesFrom s first
  let c := s.ctx ctx
  if copiesOpen s l then s.setCtx ctx { c with copies := (c.copies.filter fun k => copiesOpen s [k]) ++ l } else s

/-- Bytes written for a context's command. -/
def ctxWrite (s : State) (ctx : Nat) (segs : List Seg) (data : List Byte) : State :=
  noteCopies (segWrite s ctx 0 segs data) ctx s.mir.nextCopy

/-! ## Accepted and performed (R256, R263) -/

/-- An entry of the region attribute table matches a write: `space` 0 is the device pool, 1 host memory, 2 peer I/O, 3 remote
(R263). -/
def ratMatch (s : State) (k space addr : Nat) : Bool :=
  let ctl := rd s k (hub Pg.ORD Reg.ORD_RAT_CTL)
  let base := rd64 s k (hub Pg.ORD Reg.ORD_RAT_BASE_LO) / 4096 * 4096
  let size := rd s k (hub Pg.ORD Reg.ORD_RAT_SIZE) * 4096
  bit ctl 31 && bits ctl 29 28 == space && (space == 3 || decide (base ≤ addr ∧ addr < base + size))

/-- A write of an agent class, 0 core, 1 cell, 2 host port, 3 guest, is acknowledged when it is accepted (R263). -/
def earlyAck (s : State) (cls space addr : Nat) : Bool :=
  match ((List.range 64).map (64 * cls + ·)).find? fun k => ratMatch s k space addr with
  | some k => bit (rd s k (hub Pg.ORD Reg.ORD_RAT_CTL)) 30
  | none => bit (rd s (64 * cls) (hub Pg.ORD Reg.ORD_RAT_DEFAULT)) space

/-- The command processor as a requester (R277, R284). -/
def cmdReq (ctx seq : Nat) : Requester :=
  { source := 2, ctx := ctx, unit := cmdUnit ctx, handle := 0, cell := 0xFFFF, track := 0, seq := seq }

/-- Mark of a collective's accesses among the command processor's, whose SOURCE they carry (notes/assumptions/26.md). -/
abbrev collTrack : Nat := 9

/-- Mark of a command's fetch among the command processor's accesses. -/
abbrev fetchTrack : Nat := 10

/-- The command processor as it fetches a command (R45): the command is not known yet, so its SEQ reads 0. -/
def fetchReq (ctx : Nat) : Requester :=
  { source := 2, ctx := ctx, unit := cmdUnit ctx, handle := 0, cell := 0xFFFF, track := fetchTrack, seq := 0 }

/-- A collective engine as a requester (R287). -/
def collReq (ctx seq : Nat) : Requester :=
  { source := 2, ctx := ctx, unit := cmdUnit ctx, handle := 0, cell := 0xFFFF, track := collTrack, seq := seq }

/-- The 64-byte tiles of a range (R284). -/
def tiles64 (va n : Nat) : List (Nat × Nat) :=
  (List.range (ceilDiv n 64)).map fun i => (va + 64 * i, min 64 (n - 64 * i))

/-- Tiles translated one after another; none where one stalls. -/
def tileAll (s : State) (req : Requester) (write : Bool) : List (Nat × Nat) → State × Option (List Seg)
  | [] => (s, some [])
  | (va, n) :: l =>
    match tile s req va n write with
    | (s, none) => (s, none)
    | (s, some segs) =>
      match tileAll s req write l with
      | (s, none) => (s, none)
      | (s, some rest) => (s, some (segs ++ rest))

/-- A range read by the command processor, tile by tile of 64 bytes: its bytes, or none where it stalls. -/
def cmdRead (s : State) (ctx seq va n : Nat) : State × Option (List Byte) :=
  match tileAll s (cmdReq ctx seq) false (tiles64 va n) with
  | (s, some segs) => let r := readSegs s ctx segs; (r.1, some r.2)
  | (s, none) => (s, none)

/-- A command's 64 bytes read from the ring; none where the read stalls. -/
def fetchRead (s : State) (ctx va : Nat) : State × Option (List Byte) :=
  match tileAll s (fetchReq ctx) false (tiles64 va 64) with
  | (s, some segs) => let r := readSegs s ctx segs; (r.1, some r.2)
  | (s, none) => (s, none)

/-- A range written by the command processor: true where it is done; nothing is written where it stalls, or waits for a
port (R333). -/
def cmdWrite (s : State) (ctx seq va : Nat) (data : List Byte) : State × Bool :=
  match tileAll s (cmdReq ctx seq) true (tiles64 va data.length) with
  | (s, some segs) => if noPort s segs then (s, false) else (ctxWrite s ctx segs data, true)
  | (s, none) => (s, false)

/-- Mark of a CONSUMED_ADDR write among the command processor's accesses. -/
abbrev countTrack : Nat := 11

/-- A CONSUMED_ADDR write of 4 bytes (R45): to host memory without a port it waits in the queue of R333; one that stalls in
translation is due, and is made again (R286). -/
def consumedWrite (s : State) (ctx seq va count : Nat) : State :=
  match tileAll s { cmdReq ctx seq with track := countTrack } true (tiles64 va 4) with
  | (s, some segs) => ctxWrite (s.setCtx ctx { s.ctx ctx with countDue := none }) ctx segs (leBytes 4 count)
  | (s, none) => s.setCtx ctx { s.ctx ctx with countDue := some (seq, count) }

/-- A CONSUMED_ADDR write that is due made again. -/
def retryCount (s : State) (ctx : Nat) : State :=
  match (s.ctx ctx).countDue with
  | some (seq, count) => consumedWrite s ctx seq (s.ctx ctx).desc.consumedAddr count
  | none => s

/-! ## Contexts and commands -/

/-- Command error codes (R50, R295). -/
abbrev CmdErr.BAD_OPCODE : Nat := 1
abbrev CmdErr.BAD_FIELD : Nat := 2
abbrev CmdErr.CELL_RANGE : Nat := 3
abbrev CmdErr.CELL_FAULT : Nat := 4
abbrev CmdErr.FAULT_FAILED : Nat := 5
abbrev CmdErr.INV_FAILED : Nat := 6

/-- Ring index `a` comes before `b`: counts run free, modulo 2^32 (R45). -/
def ringBefore (a b : Nat) : Bool := a != b && decide ((b + 2 ^ 32 - a) % 2 ^ 32 < 2 ^ 31)

/-- The ring index before which every command of a queue has completed (R382): that of the oldest command that has not. -/
def oldestOpen (c : Ctx) : Nat := (c.cmds.map (·.index)).foldl (fun a x => if ringBefore x a then x else a) c.consumer

/-- The context with what it need not remember of `ran` forgotten. -/
def pruneRan (c : Ctx) : Ctx := { c with ran := c.ran.filter fun r => !ringBefore r (oldestOpen c) }

/-- A command fails and halts its queue (R50): the consumer count stays at it, and is written so (R45); later commands that were
only fetched are fetched again, and those that had issued are not; earlier ones go on. A further failure while the queue is
halted moves the count only back. -/
def haltQueue (s : State) (ctx index code : Nat) : State :=
  let c := s.ctx ctx
  let cmd := c.cmds.find? (·.index = index)
  let raw := (cmd.map (·.raw)).getD 0
  let others := c.cmds.filter fun x => x.index != index && (!(x.stage = .fetched) || ringBefore x.index index)
  let issued := (others.filter fun x => !(x.stage = .fetched)).map (·.index)
  let ran := (c.ran ++ issued.filter fun x => !c.ran.contains x).filter (· != index)
  let first := !c.halted || ringBefore index c.consumer
  let c := { c with halted := true, cmds := others, ran := ran }
  let s := s.setCtx ctx (pruneRan (if first then { c with err := code, consumer := index } else c))
  let s := if first ∧ index ≠ c.consumer then consumedWrite s ctx 0 c.desc.consumedAddr index else s
  let s := raiseCtxVector s ctx 1
  raiseError s { sev := 2, type := Err.CMD_HALT, die := cmdUnit ctx, inst := ctx, ctx := some ctx,
                 seq := bits raw 63 32, detail := [code, bits raw 7 0, index] }

/-- A command's stage set. -/
def setStage (s : State) (ctx index : Nat) (st : CmdStage) : State :=
  let c := s.ctx ctx
  s.setCtx ctx { c with cmds := c.cmds.map fun x => if x.index = index then { x with stage := st } else x }

/-- What a command waits for, set. -/
def setWaits (s : State) (ctx index w : Nat) : State :=
  let c := s.ctx ctx
  s.setCtx ctx { c with cmds := c.cmds.map fun x => if x.index = index then { x with waits := w } else x }

/-- Physical cells of a context in logical order: owned, then borrowed that it may name (R41). -/
def logicalCells (c : Ctx) : List Nat :=
  bitList c.desc.cellSet 320 ++ (if c.desc.latency then bitList c.desc.borrowSet 320 else [])

/-- Logical number of a physical cell for a context; 0xFFFF where it has none. -/
def logicalOf (c : Ctx) (cell : Nat) : Nat :=
  let l := logicalCells c
  if l.contains cell then l.idxOf cell else 0xFFFF

/-- Context that owns a cell (R41). -/
def ownerOf (s : State) (cell : Nat) : Option Nat :=
  (List.range 64).find? fun i => (s.ctx i).live && bit (s.ctx i).desc.cellSet cell

/-! ## Cell faults (R64) -/

abbrev CellFault.ILLEGAL_OP : Nat := 1
abbrev CellFault.BAD_BINDING : Nat := 2
abbrev CellFault.TOKEN_OVERFLOW : Nat := 3
abbrev CellFault.SRAM_UNCORRECTED : Nat := 4
abbrev CellFault.PHASE_MISMATCH : Nat := 5
abbrev CellFault.PHASE_UNDEFINED : Nat := 6
abbrev CellFault.ENGINE_FAULT : Nat := 7

/-- A cell's contents as a fault leaves them (R64): arming stops on every track; operations that were fired complete, and then
the program has halted (R53). -/
def CellImg.fault (i : CellImg) (code track desc : Nat) : CellImg :=
  { i with
    faultCode := code
    faultTrack := track
    faultDesc := desc
    stopping := true
    tracks := i.tracks.map fun t => { t with active := false, armed := false } }

/-- Where a context's program in a cell stands: in the cell's spill record, or in the cell (R69, R71). -/
inductive Place where
  | record
  | cell
  deriving DecidableEq, Repr

/-- Where the contents of a cell that belong to a context stand. -/
def placeOf (s : State) (cell ctx : Nat) : Option Place :=
  let x := s.cell cell
  if (x.saved.map Prod.fst) = some ctx then some .record
  else if x.runner = some ctx ∨ (x.runner = none ∧ ownerOf s cell = some ctx) then some .cell
  else none

/-- The contents of a cell that belong to a context. -/
def imgOf (s : State) (cell ctx : Nat) : Option CellImg :=
  match placeOf s cell ctx with
  | some .record => (s.cell cell).saved.map Prod.snd
  | some .cell => some (s.cell cell).img
  | none => none

/-- The state with a context's contents of a cell set, where it has any. -/
def setImg (s : State) (cell ctx : Nat) (i : CellImg) : State :=
  match placeOf s cell ctx with
  | some .record => s.setCell cell { s.cell cell with saved := some (ctx, i) }
  | some .cell => s.setCell cell { s.cell cell with img := i }
  | none => s

/-- Cells that a CELL_LOAD, CELL_START, CELL_STOP or code-book command names: first logical cell and count (R47). -/
def cmdFirst (raw : Nat) : Nat := bits raw 271 256
def cmdCount (raw : Nat) : Nat := bits raw 287 272

/-- A command whose every named cell has halted: a CELL_START one of whose cells faulted halts its queue with CELL_FAULT
(R50); any other is carried out. R50 does not say when such a CELL_START fails: here only once every cell that it names has
halted, its completion condition of R47 (notes/assumptions/91.md). -/
def settleCmd (s : State) (ctx index : Nat) : State :=
  match (s.ctx ctx).cmds.find? fun x => x.index = index && x.stage = .issued with
  | none => s
  | some c =>
    if c.ended ≠ 2 ^ cmdCount c.raw - 1 ∨ !(bits c.raw 7 0 = 2 || bits c.raw 7 0 = 3) then s
    else if c.waits ≠ 0 then haltQueue s ctx index CmdErr.CELL_FAULT
    else setStage s ctx index .performed

/-- A program of a context has halted in a cell: the CELL_START that started it and the CELL_STOPs that name the cell
learn of it (R47), and the hold after which an open deadline window closes runs from the last halt (R221). -/
def noteHalt (s : State) (ctx cell : Nat) (by_ : Option (Nat × Nat)) (faulted : Bool) : State :=
  let c := s.ctx ctx
  let lc := logicalOf c cell
  let cmds := c.cmds.map fun x =>
    let o := bits x.raw 7 0
    let pos := lc - cmdFirst x.raw
    let names : Bool := decide (cmdFirst x.raw ≤ lc ∧ pos < cmdCount x.raw)
    if !(x.stage = .issued) ∨ !names then x
    else if o = 2 ∧ by_ = some (ctx, x.index) then
      { x with ended := x.ended ||| 2 ^ pos, waits := if faulted then 1 else x.waits }
    else if o = 3 ∧ bit x.begun pos then { x with ended := x.ended ||| 2 ^ pos }
    else x
  let s := s.setCtx ctx
    { c with cmds := cmds, holdUntil := if c.window then some (s.cic.count + 125 * c.desc.borrowHoldUs) else c.holdUntil }
  (cmds.map (·.index)).foldl (fun s i => settleCmd s ctx i) s

/-- A program that halted in a cell: a borrowed cell's hold begins (R72), and the commands that wait learn of it, and of a
fault. -/
def programHalted (s : State) (p ctx : Nat) : State :=
  let x := s.cell p
  let s := if x.borrowed ∧ x.runner = some ctx then s.setCell p { x with haltedAt := some s.cic.count } else s
  let i := imgOf s p ctx
  noteHalt s ctx p (i.bind (·.cmd)) ((i.map fun i => i.faultCode != 0).getD false)

/-- A program whose tracks have all ended and whose operations have all completed has halted (R53). -/
def haltIfDone (s : State) (cell ctx : Nat) : State :=
  match imgOf s cell ctx with
  | none => s
  | some i =>
    if i.started ∧ !i.halted ∧ i.ops.isEmpty ∧ i.tracks.all fun t => !t.active then
      programHalted (setImg s cell ctx { i with halted := true }) cell ctx
    else s

/-- A cell fault of a context's program: arming stops, CSEQ_FAULT is set, vector 16 × id + 1 and an error record are raised
(R64, R480), and the program halts once its fired operations have completed (R53). A cell that has faulted keeps its first
fault (notes/assumptions/86.md). -/
def cellFaultOf (s : State) (cell ctx code track desc : Nat) : State :=
  match imgOf s cell ctx with
  | none => s
  | some i =>
    let s := if i.faultCode ≠ 0 then s
      else
        raiseError (raiseCtxVector (setImg s cell ctx (i.fault code track desc)) ctx 1)
          { sev := 2, type := Err.CELL_FAULT, die := 8 + cellDie cell, inst := cellPos cell, ctx := some ctx,
            detail := [code, track, desc, logicalOf (s.ctx ctx) cell] }
    haltIfDone s cell ctx

/-- A context's contents of a cell without a fired operation, which has failed and never completes; the engine that it ran on
is the one that faulted, unless the cell has faulted already. -/
def dropOp (s : State) (cell ctx op : Nat) : State :=
  match imgOf s cell ctx with
  | none => s
  | some i =>
    let e := ((i.ops.find? (·.id = op)).map fun o => bits o.raw 31 24 / 16).getD 0
    setImg s cell ctx
      { i with ops := i.ops.filter (·.id != op), faultEngine := if i.faultCode = 0 then e else i.faultEngine }

/-- A fired operation fails, and its cell faults. -/
def failOp (s : State) (cell ctx op code track desc : Nat) : State :=
  cellFaultOf (dropOp s cell ctx op) cell ctx code track desc

/-- A cell that will not reach its context's barrier is no longer among those that have (R66). -/
def leaveBarrier (s : State) (ctx cell : Nat) : State :=
  match (s.ctx ctx).barrier with
  | none => s
  | some b =>
    let l := b.arrived.filter (· != cell)
    s.setCtx ctx { s.ctx ctx with barrier := if l.isEmpty then none else some { b with arrived := l } }

/-- A context's program in a cell ends at once with a fault, and its fired operations with it: the cell or what it works through
is gone (R37, R295, R475; notes/assumptions/86.md). -/
def endProgram (s : State) (cell ctx code : Nat) : State :=
  match imgOf s cell ctx with
  | none => s
  | some i => cellFaultOf (leaveBarrier (setImg s cell ctx { i with ops := [], phaseWait := false }) ctx cell) cell ctx code 0 0

/-- A fault of the program that occupies a cell. -/
def cellFault (s : State) (cell code track desc : Nat) : State :=
  match (s.cell cell).runner with
  | none => s
  | some ctx => cellFaultOf s cell ctx code track desc

/-- Bytes stored in a cell's SRAM: a whole 32-byte word that is written loses its poison; the words named by `poison`,
counted from the first word, become poisoned (R51, R71, R209). -/
def CellImg.store (i : CellImg) (a : Nat) (data : List Byte) (poison : List Nat) : CellImg :=
  let whole := (wordsOf a data.length).filter fun w => decide (a ≤ w ∧ w + 32 ≤ a + data.length)
  let p := whole.foldl (fun m w => tset (fun _ => false) m (w / 32) false) i.poison
  { i with
    sram := memStore i.sram a data
    poison := poison.foldl (fun m k => tset (fun _ => false) m (a / 32 + k) true) p }

/-- Some word of a range of SRAM is poisoned. -/
def CellImg.poisoned (i : CellImg) (a n : Nat) : Bool := (wordsOf a n).any fun w => tget (fun _ => false) i.poison (w / 32)

/-- Positions of the poisoned words of a range. -/
def CellImg.poisonWords (i : CellImg) (a n : Nat) : List Nat :=
  ((wordsOf a n).zipIdx.filter fun p => tget (fun _ => false) i.poison (p.1 / 32)).map Prod.snd

/-- Counter `k` of a cell: token counter t at t, credit counter c at 64 + c (R53). -/
def CellImg.ctr (i : CellImg) (k : Nat) : Counter := tget (fun _ => Counter.idle) i.counters k

/-- The contents with a counter set. -/
def CellImg.setCtr (i : CellImg) (k : Nat) (c : Counter) : CellImg :=
  { i with counters := tset (fun _ => Counter.idle) i.counters k c }

/-- Bytes of a counter's buffer. -/
def Counter.bytes (c : Counter) : Nat := c.slots * c.size * 256

/-- The run of `n` slots of a counter's buffer from slot `p` (R102). -/
def Counter.run (c : Counter) (p n : Nat) : Run :=
  { base := c.base, ring := c.bytes, first := p * c.size * 256, len := n * c.size * 256 }

/-- Bytes held by a floor's hold buffer (R70). -/
def holdBytes (s : State) (f : Nat) : Nat := ((s.held.filter fun h => cellFloor h.cell = f).map fun h => h.data.length).foldl (· + ·) 0

/-- Inbound data for a context's cell: into its SRAM, into its spill record, or into the hold buffer while it is being
spilled or older writes of the cell are still held (R70, R71); none while the hold buffer has no room, or the clock of the
cell's die has stopped, so that its writers stall (R36, R37). -/
def inboundWrite (s : State) (cell ctx a : Nat) (data : List Byte) (poison : List Nat) : Option State :=
  let x := s.cell cell
  let spilling : Bool := match x.move with
    | .spilling _ => decide (x.runner = some ctx)
    | _ => false
  let behind : Bool := s.held.any (fun h => h.cell = cell) && !(x.borrowed && decide (x.runner = some ctx))
  if spilling ∨ behind then
    if 65536 < holdBytes s (cellFloor cell) + data.length then none
    else some { s with held := s.held ++ [⟨cell, a, data, poison⟩] }
  else
    match imgOf s cell ctx with
    | none => none
    | some i =>
      if cellClockStopped s cell ∧ placeOf s cell ctx = some .cell then none
      else some (setImg s cell ctx (i.store a data poison))

/-- Counters of a cell updated: while a die of the package lacks FEAT_TOKEN_BYPASS, firings that test them are held for the
cell cycle that follows, here until the next tick (R24, R25; notes/assumptions/83.md). -/
def markCtrs (s : State) (cell : Nat) (keys : List Nat) : State :=
  if bit s.boot.level 1 then s
  else { s with boot := { s.boot with fresh := s.boot.fresh ++ keys.map fun k => (cell, k) } }

/-- A counter raised by `n` (R54); beyond the slots of its buffer the cell faults (R59). The fault is no descriptor's: it
shows track 0 and descriptor 0 (notes/assumptions/84.md). -/
def bumpCounter (s : State) (cell ctx k n : Nat) : State :=
  match imgOf s cell ctx with
  | none => s
  | some i =>
    let c := i.ctr k
    if !c.bound ∨ n = 0 then s
    else if c.slots < c.value + n then cellFaultOf s cell ctx CellFault.TOKEN_OVERFLOW 0 0
    else markCtrs (setImg s cell ctx (i.setCtr k { c with value := c.value + n })) cell [k]

end Sys2Proof.Machine
end

