-- ==== Sys2Proof/WellFormed.lean ====
section
/-!
DEFINITION. Which commands name units that the package has. A command that names another one is no command of this
hardware, and its meaning faults (Fault.noSuchUnit).
-/

namespace Sys2Proof

/-- A context slot: 64 of them (R40). -/
def okCtx (c : Nat) : Bool := decide (c < 64)
/-- A cell: 320 of them (00_scope.md). -/
def okCell (c : Nat) : Bool := decide (c < 320)
/-- A hart: 96 of them (R300). -/
def okHart (h : Nat) : Bool := decide (h < 96)
/-- A link: 96 of them (R342). -/
def okLink (l : Nat) : Bool := decide (l < 96)
/-- A floor die: 4 of them (R17). -/
def okFloor (f : Nat) : Bool := decide (f < 4)
/-- A stack: 8 of them (R203). -/
def okStack (k : Nat) : Bool := decide (k < 8)
/-- A channel of the package: 8 stacks of 32 (R203). -/
def okChan (c : Nat) : Bool := decide (c < 256)
/-- A channel of a stack (R203). -/
def okStackChan (c : Nat) : Bool := decide (c < 32)
/-- A track of a cell: 8 of them (R53). -/
def okTrack (t : Nat) : Bool := decide (t < 8)
/-- A host port: 2 of them (R318). -/
def okPort (p : Nat) : Bool := decide (p < 2)
/-- A sluice: those of the 64 partitions, and the maintenance sluice as 64 (R214, R216). -/
def okPart (p : Nat) : Bool := decide (p ≤ 64)
/-- A hub timer: 8 of them (R170). -/
def okTimer (t : Nat) : Bool := decide (t < 8)
/-- A Dike sensor: 7 of them (R458). -/
def okSensor (d : Nat) : Bool := decide (d < 7)
/-- A die-to-die interface, numbered as in D2D_SEL (R39). -/
def okIface (i : Nat) : Bool := decide (i < 21)
/-- An integer register of a hart. -/
def okReg (r : Nat) : Bool := decide (r < 32)
/-- The size of an LR, SC or AMO, in bytes. -/
def okAtomic (size : Nat) : Bool := size == 4 || size == 8
/-- A hart's access: a load of up to eight bytes to a register, a store of up to 64, or a fetch. -/
def okHartAcc : HartAcc → Bool
  | .load _ size rd _ _ => decide (1 ≤ size ∧ size ≤ 8) && okReg rd
  | .store _ data _ => decide (1 ≤ data.length ∧ data.length ≤ 64)
  | .fetch _ => true
/-- A stream index: 262,144 of them (R173). -/
def okStream (i : Nat) : Bool := decide (i < 262144)
/-- A coherence agent, caching or not (R237). -/
def okAgent (a : Nat) : Bool := decide (a < 128)
/-- A cell die by its number (R17). -/
def okCellDie (d : Nat) : Bool := decide (d < 8)
/-- A cell die by its die code (R494). -/
def okCellDieCode (d : Nat) : Bool := decide (8 ≤ d ∧ d < 16)
/-- A link die by its number (R342). -/
def okLinkDie (d : Nat) : Bool := decide (d < 4)
/-- A die by its die code (R494). -/
def okDie (d : Nat) : Bool :=
  decide (d < 6) || decide (8 ≤ d ∧ d < 20) || decide (24 ≤ d ∧ d < 32)
/-- A translation unit by its die code: core, floor and cell dies (R277). -/
def okUnit (u : Nat) : Bool := decide (1 ≤ u ∧ u < 6) || decide (8 ≤ u ∧ u < 16)
/-- A page of BAR0 by its number in the BAR (R494). -/
def okPage (p : Nat) : Bool := decide (p < 16384)
/-- A bank of the Polder store: 2 of them (R414). -/
def okBank (b : Nat) : Bool := decide (b < 2)
/-- A die whose clock the fast loop lowers: the core die and the cell dies, by die code (R401). -/
def okControlled (d : Nat) : Bool := d == 1 || okCellDieCode d
/-- A line number of host memory, which lies below the numbers that stand for host lines (notes/assumptions/8.md). -/
def okHostLine (l : Nat) : Bool := decide (l < 2 ^ 46)
/-- What completes: a walk by its number, or a line that a cell's descriptor cache is missing. -/
def okWalkObs (w : WalkObs) : Bool :=
  match w with
  | .walk _ => true
  | .fill cell _ _ _ => okCell cell

/-- A rail failure's cut names a bank that exists. -/
def okHoldObs (o : HoldObs) : Bool :=
  match o with
  | .held => true
  | .cut bank => okBank bank
/-- A source of register accesses. -/
def okSource : Source → Bool
  | .host p => okPort p
  | .hart h => okHart h
  | .i3c => true
  | .guest => true

/-- Every unit that the command names exists. -/
def Instr.wellFormed : Instr → Bool
  | .pkgRstN => true
  | .romStage _ _ => true
  | .hubFirmwareStage _ => true
  | .dieToDieStage _ _ => true
  | .hbmStage _ _ => true
  | .cellDieStage _ _ _ => true
  | .coreDieStage _ => true
  | .hostLinkStage => true
  | .readyStage => true
  | .railFailure _ o => okHoldObs o.hold
  | .pdReqN => true
  | .thermalEmergency _ die => okDie die
  | .thermalEmergencyEnd => true
  | .thermalTrip die => okDie die
  | .clockStop die _ _ => okDie die
  | .cicadaTick => true
  | .cicadaCheckMarker _ => true
  | .timerFire timer => okTimer timer
  | .timerCompareWrite src _ => okSource src
  | .watchdogExpiry => true
  | .wdtKick src _ => okSource src
  | .wdtEnable src _ => okSource src
  | .powerMinCommit => true
  | .create src id => okSource src && okCtx id
  | .destroy src id => okSource src && okCtx id
  | .reset src id => okSource src && okCtx id
  | .pause src id => okSource src && okCtx id
  | .resume src id => okSource src && okCtx id
  | .cqDoorbell src ctx _ => okSource src && okCtx ctx
  | .commandFetch ctx => okCtx ctx
  | .cqResume src ctx _ => okSource src && okCtx ctx
  | .commandComplete ctx _ => okCtx ctx
  | .nop ctx => okCtx ctx
  | .cellLoad ctx => okCtx ctx
  | .cellStart ctx => okCtx ctx
  | .cellStop ctx => okCtx ctx
  | .phaseTable ctx => okCtx ctx
  | .wait ctx => okCtx ctx
  | .waitEvaluate ctx _ => okCtx ctx
  | .invalidate ctx => okCtx ctx
  | .streamCreate ctx => okCtx ctx
  | .streamDestroy ctx => okCtx ctx
  | .xfer ctx => okCtx ctx
  | .reshard ctx => okCtx ctx
  | .streamQuery ctx => okCtx ctx
  | .cbTableLoad ctx => okCtx ctx
  | .cbTableStore ctx => okCtx ctx
  | .coll ctx => okCtx ctx
  | .descriptorArm cell track => okCell cell && okTrack track
  | .fire cell track => okCell cell && okTrack track
  | .operationComplete cell _ => okCell cell
  | .cellNop cell _ => okCell cell
  | .halt cell _ => okCell cell
  | .branch cell _ => okCell cell
  | .pset cell _ => okCell cell
  | .bind cell _ => okCell cell
  | .phase cell _ => okCell cell
  | .phaseBarrierComplete ctx => okCtx ctx
  | .signal cell _ => okCell cell
  | .lfence cell _ => okCell cell
  | .sfence cell _ => okCell cell
  | .fence cell _ => okCell cell
  | .cellDrain cell _ => okCell cell
  | .move cell _ => okCell cell
  | .send cell _ => okCell cell
  | .cellXfer cell _ => okCell cell
  | .xferList cell _ => okCell cell
  | .mm cell _ => okCell cell
  | .elem cell _ => okCell cell
  | .crvSet cell _ => okCell cell
  | .crvGet cell _ => okCell cell
  | .cbEncode cell _ => okCell cell
  | .cbSet cell _ => okCell cell
  | .cbGet cell _ => okCell cell
  | .topk cell _ => okCell cell
  | .merge cell _ => okCell cell
  | .intersect cell _ => okCell cell
  | .dispatch cell _ => okCell cell
  | .matchRequestBegin die => okCellDie die
  | .spillComplete cell => okCell cell
  | .borrowReturn cell => okCell cell
  | .restoreComplete cell => okCell cell
  | .holdBufferPlace cell => okCell cell
  | .cseqStep src cell => okSource src && okCell cell
  | .cseqHaltReq src cell => okSource src && okCell cell
  | .cseqDbgHold src cell _ => okSource src && okCell cell
  | .streamPacketSend floor => okFloor floor
  | .packetReceive _ => true
  | .packetAckReceive _ => true
  | .staleNackReceive _ => true
  | .transferEnd index => okStream index
  | .flushReadbackDone index => okStream index
  | .coreRingPoll index => okStream index
  | .transferUnreachable index => okStream index
  | .reshardReadyReceive ctx _ => okCtx ctx
  | .reshardPieceReceive ctx _ => okCtx ctx
  | .reshardTimeout ctx => okCtx ctx
  | .memoryUnitServe floor _ _ => okFloor floor
  | .sluiceRefill floor part => okFloor floor && okPart part
  | .patrolScrub chan _ => okChan chan
  | .laneRepair chan _ => okChan chan
  | .writeDataRecal chan => okChan chan
  | .vrefRecal chan => okChan chan
  | .readTimingTrim chan => okChan chan
  | .calOverdue chan => okChan chan
  | .sluShareCtlWrite src _ => okSource src
  | .sluMaintWrite src _ => okSource src
  | .tgenGo src stack _ => okSource src && okStack stack
  | .tgenAbort src stack => okSource src && okStack stack
  | .tgenRunEnd stack chan _ => okStack stack && okStackChan chan
  | .flcInvalidate src floor => okSource src && okFloor floor
  | .prefetchFill floor _ => okFloor floor
  | .rds agent _ _ _ => okAgent agent
  | .rdsn agent _ => okAgent agent
  | .rdo agent _ => okAgent agent
  | .upg agent _ => okAgent agent
  | .wb agent _ => okAgent agent
  | .rdc agent _ => okAgent agent
  | .wrl agent _ _ _ => okAgent agent
  | .wrp agent _ _ _ => okAgent agent
  | .snpf agent _ => okAgent agent
  | .snpif agent _ => okAgent agent
  | .snpi agent _ => okAgent agent
  | .snpc agent _ => okAgent agent
  | .offer agent _ _ => okAgent agent
  | .snoopResponse agent _ => okAgent agent
  | .stashAnswer agent _ => okAgent agent
  | .snoopTimeout agent _ => okAgent agent
  | .cohProbe src floor => okSource src && okFloor floor
  | .hartAccess hart a => okHart hart && okHartAcc a
  | .hartFence hart _ _ => okHart hart
  | .drain hart => okHart hart
  | .ccnt hart rd => okHart hart && okReg rd
  | .cdb hart rd rs1 rs2 => okHart hart && okReg rd && okReg rs1 && okReg rs2
  | .cboClean hart _ => okHart hart
  | .cboFlush hart _ => okHart hart
  | .cboZero hart _ => okHart hart
  | .prefetchRW hart _ _ => okHart hart
  | .lr hart rd _ size => okHart hart && okReg rd && okAtomic size
  | .sc hart rd _ size _ => okHart hart && okReg rd && okAtomic size
  | .amo hart rd _ size _ _ => okHart hart && okReg rd && okAtomic size
  | .wrsNto hart => okHart hart
  | .wrsSto hart => okHart hart
  | .wrsWake hart => okHart hart
  | .sfenceVma hart _ => okHart hart
  | .coreRunGo src => okSource src
  | .translationWalkDone w => okWalkObs w
  | .fqResp src ctx _ => okSource src && okCtx ctx
  | .fqConsumed src ctx _ => okSource src && okCtx ctx
  | .overflowRetry ctx => okCtx ctx
  | .pageRequestResponse unit ctx _ _ => okUnit unit && okCtx ctx
  | .atsInvalidateRequest port _ _ => okPort port
  | .xlcInvGo src _ => okSource src
  | .invalidationAck unit _ => okUnit unit
  | .invalidationTimeout _ => true
  | .hostLinkReset port _ => okPort port
  | .portInService port _ => okPort port
  | .hostMemAccess port _ _ => okPort port
  | .hostReadCompletion port _ _ => okPort port
  | .fullReq src => okSource src
  | .onewayReq src => okSource src
  | .homeSweepDone => true
  | .vectorDeliver => true
  | .reclaim src => okSource src
  | .attTokenRead src => okSource src
  | .scrubOnAbandon ctx => okCtx ctx
  | .flitReceive link _ => okLink link
  | .flitNak link _ => okLink link
  | .linkRetrain link _ => okLink link
  | .trainingStep link _ _ _ => okLink link
  | .lkRetrain src link => okSource src && okLink link
  | .lkDisable src link _ => okSource src && okLink link
  | .lxTrnDefault src die => okSource src && okLinkDie die
  | .mchDevIdWrite src _ => okSource src
  | .burstGrant link => okLink link
  | .immediateAbort link _ => okLink link
  | .messageReceive link _ _ => okLink link
  | .teardown src => okSource src
  | .teardownDrained => true
  | .setPart src => okSource src
  | .jobPrepare src => okSource src
  | .expect src => okSource src
  | .jobCancel src => okSource src
  | .prepareReceive _ ctx _ _ _ => okCtx ctx
  | .jobAnswerReceive _ _ => true
  | .commitReceive _ => true
  | .abortReceive _ => true
  | .jobProgress => true
  | .childLost _ => true
  | .orphaned => true
  | .collectiveSegmentReceive _ _ => true
  | .collectiveEnd _ _ => true
  | .collectiveTimeout _ => true
  | .form src _ => okSource src
  | .formTimeout => true
  | .dissolve src => okSource src
  | .resync src => okSource src
  | .mirrorCopyReceive _ _ _ _ => true
  | .mirrorStateReceive ctx _ => okCtx ctx
  | .mirrorAckReceive _ => true
  | .heartbeatSend => true
  | .heartbeatReceive _ => true
  | .missedHeartbeat => true
  | .grant src _ => okSource src
  | .yieldAnswer src _ => okSource src
  | .telemetrySample _ => true
  | .telemetryLost dies _ => dies.all okDie
  | .fastLoop amps => amps.all fun p => okControlled p.1
  | .droopTrip die => okCellDie die
  | .capLoop _ => true
  | .opChangeDone die => okCellDie die
  | .estimatorSuspect => true
  | .recalibration _ _ => true
  | .pwrRecal src => okSource src
  | .ageingReading _ => true
  | .guestPower => true
  | .commitStart => true
  | .commitComplete _ banks => banks.all okBank
  | .blockEraseEnd bank _ _ => okBank bank
  | .logFlush => true
  | .pldRead src => okSource src
  | .pldList src => okSource src
  | .logRead src => okSource src
  | .reqSweep src => okSource src
  | .reqHbmTrain src => okSource src
  | .reqWayClear src => okSource src
  | .pldCancel src => okSource src
  | .noteWrite src => okSource src
  | .pldSync src => okSource src
  | .stage src => okSource src
  | .policyLoad src => okSource src
  | .keyMap src => okSource src
  | .keyWrap src => okSource src
  | .keyLoad src => okSource src
  | .debugChallenge src => okSource src
  | .debugUnlock src => okSource src
  | .ownerEnroll src => okSource src
  | .ownerRevoke src => okSource src
  | .certInstall src => okSource src
  | .svnFuse src => okSource src
  | .dikeFloor src => okSource src
  | .dikeTest src => okSource src
  | .spdmRequest port _ => (port.map okPort).getD true
  | .dikeTrip sensor => okSensor sensor
  | .entropyFail => true
  | .guestRequest _ => true
  | .rstCmdWarm src => okSource src
  | .warmResetDone _ _ _ => true
  | .rstCmdBlock src _ _ _ => okSource src
  | .rstCmdCold src => okSource src
  | .idleCellTest cell _ => okCell cell
  | .correctedCoalesceEnd _ die _ => okDie die
  | .autoWarmEscalation => true
  | .errRingCons src _ => okSource src
  | .pgIntRawWrite src page _ => okSource src && okPage page
  | .pgIntEnWrite src page _ => okSource src && okPage page
  | .pgIntSet src page _ => okSource src && okPage page
  | .pgLock src page => okSource src && okPage page
  | .cntClear src page => okSource src && okPage page
  | .rcRegisterRead src _ => okSource src
  | .loReadLatch src _ => okSource src
  | .hiWrite src _ _ => okSource src
  | .registerWrite src _ _ => okSource src
  | .deadlineWindowClose ctx => okCtx ctx
  | .selfRefreshEntry stack => okStack stack
  | .snoopDeferralEnd hart => okHart hart
  | .atsTranslationCompletion unit ctx _ _ => okUnit unit && okCtx ctx
  | .hostSnoop line _ => okHostLine line
  | .msiXFunctionMaskWrite port _ _ => okPort port
  | .fabricFatal floor => okFloor floor
  | .hubFirmwareCheckFail => true
  | .d2dReplay iface => okIface iface

end Sys2Proof
end

