-- ==== Sys2Proof/Machine/Access.lean ====
section
/-!
DEFINITION. Register accesses: which source reaches which page, and what an access that does not meet the register rules
does instead (R6, R31, R474, R495, R499); how a write changes a register by the access types of its fields.
-/

namespace Sys2Proof.Machine

/-- SOURCE of PG_ERR_SYND (R497). -/
def srcNum : Source → Nat
  | .host _ => 0
  | .hart _ => 1
  | .i3c => 2
  | .guest => 3

/-- The _LO latch of a source: each host port, each hart and I3C has one (R500). -/
def srcLatch : Source → Nat
  | .host p => p
  | .hart h => 2 + h
  | .i3c => 98
  | .guest => 99

/-- Page base of an address. -/
def pageBase (a : Nat) : Nat := a / 0x1000 * 0x1000

/-- Die code of a BAR0 address. -/
def dieOfAddr (a : Nat) : Nat := a / 0x200000

/-- The address lies in the MSI-X table or the PBA (R322). -/
def isMsix (a : Nat) : Bool := decide (0x20000 ≤ a ∧ a < 0x29000)

/-- A doorbell-page address (R493). -/
def isDoorbell (a : Nat) : Bool := decide (0x4000000 ≤ a ∧ a < 0x4040000)

/-- A bad access recorded in PG_ERR_SYND, unless it holds one already (R497). -/
def synd (s : State) (src : Source) (a code : Nat) : State :=
  let p := pageBase a + Reg.PG_ERR_SYND
  if isDoorbell a ∨ isMsix a then s
  else if fld s 0 p 31 24 = 0 then wr s 0 p (code * 2 ^ 24 + bits a 11 2 * 4 + srcNum src) else s

/-- Whether an access reaches its page. -/
inductive Reach where
  /-- The access takes effect. -/
  | ok
  /-- Read returns zero, write discarded, nothing recorded. -/
  | silent
  /-- A page of a die in a warm device reset: read returns ones, write discarded (R474). -/
  | inReset
  /-- A guest register of a listed page: the guest die's, not described (R28, R504). -/
  | guestDie
  deriving DecidableEq, Repr

/-- Page `p` of die code 0x06 is listed by the owner policy, and the site is enabled or was until its isolation: an empty site
and one held in reset read as zeros (R28, R31, R456; notes/assumptions/31.md). -/
def guestListed (s : State) (p : Nat) : Bool :=
  match s.sec.policy with
  | some pol => pol.guestEn && bit pol.pages p && (s.iface 20).present && (s.sec.guestOn || s.sec.guestIso)
  | none => false

/-- The source can reach registers at this stage of boot: the host from stage 7 on (R469), I3C from the start of stage 2 on, and in
ROM service the package inventory, the boot and error page and the mailbox (R444, R469). -/
def stageReaches (s : State) (src : Source) (a : Nat) : Bool :=
  match src with
  | .host _ => decide (7 ≤ s.boot.stage) && !s.boot.railDown
  | .i3c =>
    if s.boot.romService then [0x1, 0xF, 0x12].contains (a / 0x1000) else s.sec.udsClosed || decide (2 ≤ s.boot.stage)
  | .hart _ | .guest => true

/-- How an access of a source reaches the page of `a` (R31, R469, R474, R495, R499). -/
def reachOf (s : State) (src : Source) (a : Nat) : Reach :=
  let d := dieOfAddr a
  let lawful : Bool := match src with
    | .host _ | .hart _ => true
    | .i3c => decide (d = 0) && !isDoorbell a
    | .guest => decide (d = 6) && !isDoorbell a
  if !lawful ∨ !stageReaches s src a then .silent
  else if isDoorbell a then (if s.boot.warmBusy then .silent else .ok)
  else if isMsix a then .ok
  else if d = 6 then
    let p := a / 0x1000 % 512
    if s.boot.warmBusy then .inReset
    else if p < 32 ∧ guestListed s p then (if a % 0x1000 < 0x040 then .ok else .guestDie) else .silent
  else if s.boot.warmBusy ∧ d ≠ 0 ∧ dieCodes.contains d then .inReset
  else if (kindAt a).isNone then .silent
  else if d ≠ 0 ∧ s.offline d ∧ a / 0x1000 % 512 ≠ 0 then .silent
  else .ok

/-- How a write reaches its page: in ROM service the mailbox alone takes writes (R444), and the power manager's page takes
none of a hart (R413; notes/assumptions/116.md). -/
def writeReach (s : State) (src : Source) (a : Nat) : Reach :=
  let barred : Bool := match src with
    | .hart _ => a / 0x1000 == 0xE
    | _ => false
  if barred ∨ s.boot.romService ∧ a / 0x1000 ≠ 0xF then .silent else reachOf s src a

/-- An operation that a register write asks for: done where the write reaches its register, else what R474 and R499 say
of the access. -/
def viaReg (s : State) (src : Source) (a : Nat) (t : State) : State :=
  match writeReach s src a with
  | .ok => t
  | .silent | .guestDie => s
  | .inReset => synd s src a 0x04

/-- The page of `a` is locked (R497). -/
def pageLocked (s : State) (a : Nat) : Bool := bit (rd s 0 (pageBase a + Reg.PG_LOCK)) 0

/-- A register word after a write, field by field (R6). -/
def writeFields (l : List RegField) (locked : Bool) (old v : Nat) : Nat :=
  l.foldl (fun w f =>
    let x := bits v f.hi f.lo
    match f.acc with
    | .rw => setBits w f.hi f.lo x
    | .rwl => if locked then w else setBits w f.hi f.lo x
    | .w1c => setBits w f.hi f.lo (bits w f.hi f.lo &&& (2 ^ (f.hi + 1 - f.lo) - 1 - x))
    | .w1s | .ro | .wo | .rc => w) old

/-- The write changes an RWL field of a locked page (R499). -/
def changesLocked (l : List RegField) (locked : Bool) (old v : Nat) : Bool :=
  locked && l.any fun f => f.acc = .rwl && bits v f.hi f.lo != bits old f.hi f.lo

/-- Bits of a register word that a read returns: reserved bits and write-only fields read zero (R6, R7). -/
def readMask (l : List RegField) (w : Nat) : Nat :=
  l.foldl (fun a f => if f.acc = .wo then a else a + bits w f.hi f.lo * 2 ^ f.lo) 0

/-- A register word after the read that clears its RC fields (R6). -/
def clearRc (l : List RegField) (w : Nat) : Nat :=
  l.foldl (fun w f => if f.acc = .rc then setBits w f.hi f.lo 0 else w) w

end Sys2Proof.Machine
end

