-- ==== Sys2Proof/Machine/Cicada.lean ====
section
/-!
DEFINITION. The Cicada count, its replicas, timers and watchdog (07_cicada_count.md).
-/

namespace Sys2Proof.Machine

/-! ## Replicas (R158, R160) -/

/-- Unit number of a replica: die code × 64 + unit of the die. -/
abbrev Rep.cell (c : Nat) : Nat := (8 + cellDie c) * 64 + cellPos c
/-- The command processor of a context (R277). -/
abbrev Rep.cmd (ctx : Nat) : Nat := cmdUnit ctx * 64 + 16 + ctx / 4
/-- The stream engine of a floor. -/
abbrev Rep.stream (f : Nat) : Nat := (2 + f) * 64
/-- The re-shard engine of a floor. -/
abbrev Rep.reshard (f : Nat) : Nat := (2 + f) * 64 + 1
/-- The collective engine of a link die. -/
abbrev Rep.coll (d : Nat) : Nat := (16 + d) * 64
/-- A core cluster. -/
abbrev Rep.cluster (c : Nat) : Nat := 64 + c
/-- The traffic generators of a stack. -/
abbrev Rep.stack (k : Nat) : Nat := (24 + k) * 64

/-- The value a replica reads: it follows the count with its deviation, but holds the value it has reached (R159, R160). -/
def replica (s : State) (u : Nat) : Nat :=
  max (tget (fun _ => 0) s.cic.hold u) ((s.cic.count : Int) + tget (fun _ => (0 : Int)) s.cic.skew u).toNat

/-- A stamp that a unit finds at its first test more than one tick below its replica is counted late (R161). -/
def lateStamp (s : State) (u stamp : Nat) : State :=
  if stamp + 1 < replica s u then countFld s 0 (hub Pg.CIC Reg.CIC_LATE_STAMP) 31 0 1 else s

/-- A die takes work: its replicas are loaded (R158). -/
def dieLoaded (s : State) (die : Nat) : Bool := !s.cic.unloaded.contains die

/-- A replica set to deviate from the count by `d`; it never reads less than it has read, or than `least` (R159). -/
def setReplica (s : State) (u : Nat) (d : Int) (least : Nat) : State :=
  { s with cic := { s.cic with
      skew := tset (fun _ => (0 : Int)) s.cic.skew u d
      hold := tset (fun _ => 0) s.cic.hold u (max (replica s u) least) } }

/-- One realignment counted and reported (R160): `d` is r − V. A replica behind jumps to V; one ahead holds what it has. -/
def realign (s : State) (u : Nat) (d : Int) : State :=
  let die := u / 64
  let s := countFld s 0 (hub Pg.CIC Reg.CIC_SKEW) 31 16 1
  let s := setFld s 0 (hub Pg.CIC Reg.CIC_SKEW) 15 8 (ofSigned 8 (max (-127) (min 127 d)))
  let s := setFld s 0 (hub Pg.CIC Reg.CIC_SKEW) 5 0 die
  let s := raiseError s { sev := 0, type := Err.CICADA_SKEW, die := die, inst := u % 64, detail := [ofSigned 32 d] }
  setReplica s u 0 (max s.cic.count ((s.cic.count : Int) + d).toNat)

/-- A die's run of bad checks; the third marks it unreliable (R160). -/
def markDie (s : State) (outOfBounds : List Nat) (die : Nat) : State :=
  if outOfBounds.contains die then
    let n := tget (fun _ => 0) s.cic.bad die + 1
    let s := { s with cic := { s.cic with bad := tset (fun _ => 0) s.cic.bad die n } }
    if n = 3 then
      let s := raiseError s { sev := 2, type := Err.CICADA_UNRELIABLE, die := die, inst := 0 }
      setFld s 0 (hub Pg.CIC Reg.CIC_UNRELIABLE) die die 1
    else s
  else { s with cic := { s.cic with bad := tset (fun _ => 0) s.cic.bad die 0 } }

/-- r − V of every replica that the marker finds at another value than V: those that the row names, none below what it has
reached, and those that still hold above V + 1 (R160). -/
def deviations (s : State) (diffs : List (Nat × Int)) : List (Nat × Int) :=
  let above (u : Nat) : Int := Int.ofNat (tget (fun _ => 0) s.cic.hold u) - s.cic.count
  let live := diffs.filter fun p => dieCodes.contains (p.1 / 64) && dieLoaded s (p.1 / 64)
  let held := s.cic.hold.filter fun p =>
    decide (s.cic.count + 1 < p.2) && dieLoaded s (p.1 / 64) && !(live.any fun q => q.1 == p.1)
  (live.map fun p => (p.1, max p.2 (above p.1))) ++ held.map fun p => (p.1, above p.1)

/-- A deviation of one tick is admitted unless another replica deviates the other way: any two are within one tick (R159;
notes/assumptions/103.md). -/
def admitted (s : State) (u : Nat) (d : Int) : Int := if s.cic.skew.any fun p => p.1 != u && p.2 == -d then 0 else d

/-- The check at a multiple of 65,536: `diffs` gives r − V of replicas (R160). -/
def execCicadaCheckMarker (diffs : List (Nat × Int)) (s : State) : Host.Outcome State Fault Refusal :=
  if s.cic.count % 65536 ≠ 0 then .next s
  else
    let found := deviations s diffs
    let bad := found.filter fun p => p.2 < -1 || 1 < p.2
    let s := found.foldl (fun s p =>
      if p.2 < -1 ∨ 1 < p.2 then realign s p.1 p.2 else setReplica s p.1 (admitted s p.1 p.2) 0) s
    .next (dieCodes.foldl (fun s d => markDie s (bad.map fun p => p.1 / 64) d) s)

/-! ## Timers (R170) -/

/-- Register of timer `t`. -/
abbrev tmr (off : Nat) : Nat := hub Pg.CIC off

/-- A timer fires where it is armed and the count has reached its compare value (R170): a periodic one stays armed and
moves its compare value on by PERIOD, past the count where it is more than one period behind. -/
def fireTimer (s : State) (t : Nat) : State :=
  let ctl := rd s t (tmr Reg.CIC_TMR_CTL)
  let cmp := rd64 s t (tmr Reg.CIC_TMR_CMP_LO)
  let per := rd s t (tmr Reg.CIC_TMR_PERIOD)
  let now := s.cic.count
  if bit ctl 31 ∧ cmp ≤ now then
    let s := setFld s t (tmr Reg.CIC_TMR_CTL) 30 30 1
    let s := raiseInt s (hub Pg.CIC 0) (1 + t)
    if per = 0 then setFld s t (tmr Reg.CIC_TMR_CTL) 31 31 0
    else
      let next := if now ≤ cmp + per then cmp + per else cmp + ((now - cmp) / per + 1) * per
      wr64 s t (tmr Reg.CIC_TMR_CMP_LO) next
  else s

/-- A timer reaches its compare value (R170). -/
def execTimerFire (timer : Nat) (s : State) : Host.Outcome State Fault Refusal :=
  run (okTimer timer) (fireTimer s timer)

/-- The _LO write that a source holds for a pair, if any (R500). -/
def heldLoOf (s : State) (src : Source) (lo : Nat) : Option Nat :=
  let v := tget (fun _ => 0) s.heldLo (regKey (srcLatch src) lo)
  if v = 0 then none else some (v - 1)

/-- The state with a source's held _LO write taken. -/
def dropHeldLo (s : State) (src : Source) (lo : Nat) : State :=
  { s with heldLo := tset (fun _ => 0) s.heldLo (regKey (srcLatch src) lo) 0 }

/-- A write of the _HI word of the pair at `lo`, copy `idx`: the source's held _LO write takes effect with it; without
one the low word keeps its value (R500). -/
def applyHi (s : State) (src : Source) (idx lo value : Nat) : State :=
  let s := match heldLoOf s src lo with
    | some v => wr s idx lo v
    | none => s
  wr (dropHeldLo s src lo) idx (lo + 4) value

/-- A write of CIC_TMR_CMP_HI: the selected timer takes the new compare value, and an armed one fires at once where the
count has passed it (R170). -/
def execTimerCompareWrite (src : Source) (value : Nat) (s : State) : Host.Outcome State Fault Refusal :=
  let t := fld s 0 (tmr Reg.CIC_TMR_SEL) 2 0
  run (okSource src)
    (viaReg s src (tmr Reg.CIC_TMR_CMP_HI) (fireTimer (applyHi s src t (tmr Reg.CIC_TMR_CMP_LO) value) t))

/-! ## Watchdog (R171) -/

/-- Ticks of the watchdog's period; 0 is treated as 1 (R172). -/
def wdtPeriod (s : State) : Nat := max 1 (rd s 0 (hub Pg.CIC Reg.CIC_WDT_PERIOD))

/-- The watchdog's period restarts (R171). -/
def wdtRestart (s : State) : State :=
  let s := { s with cic := { s.cic with wdtAt := s.cic.count + wdtPeriod s } }
  setFld s 0 (hub Pg.CIC Reg.CIC_WDT_CTL) 29 28 0

/-- Any write to CIC_WDT_KICK restarts the period and clears STAGE (R171). -/
def execWdtKick (src : Source) (_value : Nat) (s : State) : Host.Outcome State Fault Refusal :=
  run (okSource src) (viaReg s src (hub Pg.CIC Reg.CIC_WDT_KICK) (wdtRestart s))

/-- A write of CIC_WDT_CTL: EN is set by a 1 and starts the first period; ACTION is written unless the page is locked
(R171, R172). -/
def wdtWrite (s : State) (src : Source) (value : Nat) : State :=
  let a := hub Pg.CIC Reg.CIC_WDT_CTL
  let old := rd s 0 a
  let locked := pageLocked s a
  let new := writeFields (PageKind.cic.at_ Reg.CIC_WDT_CTL) locked old value
  let t := wr s 0 a (if bit value 31 then setBits new 31 31 1 else new)
  let t := if bit value 31 ∧ !bit old 31 then { t with cic := { t.cic with wdtAt := t.cic.count + wdtPeriod t } } else t
  if changesLocked (PageKind.cic.at_ Reg.CIC_WDT_CTL) locked old value then synd t src a 0x02 else t

/-- WDT_ENABLE. -/
def execWdtEnable (src : Source) (value : Nat) (s : State) : Host.Outcome State Fault Refusal :=
  run (okSource src) (viaReg s src (hub Pg.CIC Reg.CIC_WDT_CTL) (wdtWrite s src value))

/-! ## Power-on minutes (R167) -/

/-- Whole minutes of this boot on the count. -/
def bootMinutes (s : State) : Nat := s.cic.count / 7500000000

/-- Power-on minutes: committed, and those of this boot not yet committed (R167). -/
def powerMinutes (s : State) : Nat := s.cic.minutes + (bootMinutes s - s.cic.committedAt)

/-- The highest VERSION of a type that the firmware knows (R434). -/
def knownVersion (s : State) (type : Nat) : Nat := tget (fun _ => 1) s.pld.known type

/-- A record queued for commit to the Polder store (R421), at the VERSION that the firmware knows (R434). -/
def queueCommit (s : State) (c : Commit) : State :=
  { s with pld := { s.pld with queue := s.pld.queue ++ [{ c with version := knownVersion s c.type }] } }

end Sys2Proof.Machine
end

