-- ==== Sys2Proof/Machine/Sluice.lean ====
section
/-!
DEFINITION. The sluices: effective shares and the bound on their sum (R214, R217), the tier in which a partition stands, and the charge
for its units (R215). The effective values of a partition stand in its SLU_STATUS.
-/

namespace Sys2Proof.Machine

/-- Register of the sluice page. -/
abbrev slu (off : Nat) : Nat := hub Pg.SLU off

/-- Effective guaranteed share of a partition, in 1/1,024 (R214). -/
def effGuar (s : State) (p : Nat) : Nat := fld s p (slu Reg.SLU_STATUS) 9 0

/-- Effective ceiling of a partition; 1,024 for none (R214). -/
def effCeil (s : State) (p : Nat) : Nat :=
  let c := fld s p (slu Reg.SLU_STATUS) 25 16
  if c = 0 then 1024 else c

/-- Sum of the effective guarantees of the other partitions (R217). -/
def otherGuar (s : State) (p : Nat) : Nat := ((List.range 64).map fun q => if q = p then 0 else effGuar s q).foldl (· + ·) 0

/-- The maintenance share, in thousandths (R216). -/
def maintShare (s : State) : Nat := fld s 0 (slu Reg.SLU_MAINT) 6 0

/-- The bound of R217 on a guarantee sum and a maintenance share. -/
def shareFits (sum maint : Nat) : Bool := decide (sum * 1000 + maint * 1024 ≤ 1024000)

/-- The largest guarantee of a partition that fits (R217). -/
def largestGuar (s : State) (p : Nat) : Nat := (1024000 - maintShare s * 1024) / 1000 - otherGuar s p

/-- Guarantee and ceiling that a partition asks for: its context's phase entry where it has a phase table, else
SLU_SHARE_CTL (R214). -/
def askedShare (s : State) (p : Nat) : Nat × Nat :=
  let c := s.ctx p
  if c.live ∧ !c.phases.isEmpty then
    match c.phases[c.phase]? with
    | some e => (e.guar, e.ceil)
    | none => (0, 0)
  else (fld s p (slu Reg.SLU_SHARE_CTL) 9 0, fld s p (slu Reg.SLU_SHARE_CTL) 25 16)

/-- GUAR clipped to CEIL, where 0 stands for no ceiling (R214). -/
def clipGuar (g c : Nat) : Nat := if c = 0 then g else min g c

/-- The effective values of a partition set. -/
def setShare (s : State) (p g c : Nat) : State :=
  setFld (setFld s p (slu Reg.SLU_STATUS) 9 0 g) p (slu Reg.SLU_STATUS) 25 16 c

/-- The share that a phase or a partition asks for takes effect; one that would break the bound is cut to the largest that
fits, with GUAR_CLIPPED and a record (R217). -/
def applyShare (s : State) (p : Nat) : State :=
  let (g0, c) := askedShare s p
  let g := clipGuar g0 c
  let top := largestGuar s p
  if g ≤ top then setShare s p g c
  else
    let s := setFld (setShare s p top c) p (slu Reg.SLU_STATUS) 29 29 1
    raiseError s { sev := 0, type := Err.SLUICE_CLIPPED, die := 0, inst := p, ctx := some p }

/-- SLU_SHARE_CTL written (R217): not applied, with CFG_REJECT, where it would break the bound. While a phase table gives the
partition its share, the register stands for later (R214). -/
def writeShare (s : State) (value : Nat) : State :=
  let p := fld s 0 (slu Reg.SLU_SEL) 5 0
  let g := bits value 9 0
  let c := bits value 25 16
  let table : Bool := (s.ctx p).live && !(s.ctx p).phases.isEmpty
  if table then wr s p (slu Reg.SLU_SHARE_CTL) (c * 2 ^ 16 + g)
  else if !shareFits (otherGuar s p + clipGuar g c) (maintShare s) then setFld s p (slu Reg.SLU_STATUS) 30 30 1
  else applyShare (wr s p (slu Reg.SLU_SHARE_CTL) (c * 2 ^ 16 + g)) p

/-- SLU_SHARE_CTL_WRITE. -/
def execSluShareCtlWrite (src : Source) (value : Nat) (s : State) : Host.Outcome State Fault Refusal :=
  run (okSource src) (viaReg s src (slu Reg.SLU_SHARE_CTL) (writeShare s value))

/-- SLU_MAINT written: reduced to the largest value that fits, and to 100 (R216, R217). -/
def writeMaint (s : State) (value : Nat) : State :=
  let sum := otherGuar s 64
  wr s 0 (slu Reg.SLU_MAINT) (min (min (bits value 6 0) 100) ((1024000 - sum * 1000) / 1024))

/-- SLU_MAINT_WRITE. -/
def execSluMaintWrite (src : Source) (value : Nat) (s : State) : Host.Outcome State Fault Refusal :=
  run (okSource src) (viaReg s src (slu Reg.SLU_MAINT) (writeMaint s value))

/-! ## Sluices at work (R215) -/

/-- A partition's sluice on a floor. -/
def sluiceAt (s : State) (f p : Nat) : Sluice := tget (fun _ => Sluice.idle) s.hbm.sluices (64 * f + p)

/-- The state with a sluice set. -/
def setSluice (s : State) (f p : Nat) (x : Sluice) : State :=
  { s with hbm := { s.hbm with sluices := tset (fun _ => Sluice.idle) s.hbm.sluices (64 * f + p) x } }

/-- A sluice's ceiling allows a unit; 1,024 is no ceiling (R215). -/
def capOpen (s : State) (f p : Nat) : Bool := effCeil s p = 1024 || decide (0 < (sluiceAt s f p).capLeft)

/-- The tier of R215 to which a partition's request belongs now; 4 where it waits. -/
def tierAt (s : State) (f p : Nat) : Nat :=
  let x := sluiceAt s f p
  if 0 < x.aLeft then 1
  else if x.aLeft < x.level ∧ capOpen s f p then 2
  else if capOpen s f p then 3
  else 4

/-- `n` units charged to a partition's sluice, served from tier `t` (R215). -/
def chargePart (s : State) (f p t n : Nat) : State :=
  let x := sluiceAt s f p
  let x := { x with aLeft := if t = 1 then x.aLeft - n else x.aLeft, level := if t ≤ 2 then x.level - n else x.level,
                    capLeft := x.capLeft - 8 * n }
  count64 (setSluice s f p x) p (slu Reg.SLU_UNITS_LO) n

end Sys2Proof.Machine
end

