-- ==== Sys2Proof/Machine/Coherence.lean ====
section
/-!
DEFINITION. The rows of coherence: requests at the home, snoops and their answers, stash offers, timeouts and probes
(R237-R255), over the transactions of Home.lean; and the floor cache's invalidation and pocket fills (R230-R232).
-/

namespace Sys2Proof.Machine

/-! ## The floor cache -/

/-- FLC_INVALIDATE (R230): every block and pocket line of a floor; a fill in flight is not installed (R253). -/
def flcClear (s : State) (f : Nat) : State :=
  { s with coh := { s.coh with
      flc := s.coh.flc.filter fun p => p.1 / 16 / 32768 != f
      pocket := s.coh.pocket.filter fun p => p.1 != f
      prefetches := s.coh.prefetches.filter fun p => p.floor != f } }

/-- FLC_INVALIDATE. -/
def execFlcInvalidate (src : Source) (floor : Nat) (s : State) : Host.Outcome State Fault Refusal :=
  run (okSource src && okFloor floor) (viaReg s src (flcReg floor Reg.FLC_CTL) (flcClear s floor))

/-- A line enters a floor's pocket of 16,384 lines; the oldest leaves a full one (R231, R232). -/
def pocketPut (s : State) (f line : Nat) : State :=
  let s := count s (flcReg f Reg.FLC_PF_ISSUED) 1
  let mine := s.coh.pocket.filter fun p => p.1 = f
  let s :=
    if mine.length < 16384 then s
    else match mine.head? with
      | some o => count { s with coh := { s.coh with pocket := s.coh.pocket.erase o } } (flcReg f Reg.FLC_POCKET_DROP) 1
      | none => s
  { s with coh := { s.coh with pocket := s.coh.pocket ++ [(f, line)] } }

/-- PREFETCH_FILL (R231, R232): a prefetched line that is still wanted is read from HBM, charged to the sluice of the access that
prompted it, for which it waits, and enters the pocket. -/
def pocketFill (s : State) (f line : Nat) : State :=
  match s.coh.prefetches.find? fun p => p.floor = f && p.line = line with
  | none => s
  | some q =>
    let t := noKeyRead { s with coh := { s.coh with prefetches := s.coh.prefetches.erase q } } line
    match q.part with
    | none => pocketPut t f line
    | some p =>
      let tier := tierAt s f p
      if tier = 4 then s else pocketPut (chargePart t f p tier 1) f line

/-- PREFETCH_FILL. -/
def execPrefetchFill (floor line : Nat) (s : State) : Host.Outcome State Fault Refusal :=
  run (okFloor floor) (pocketFill s floor line)

/-! ## Requests at the home (R241, R242) -/

/-- A line of the pool or of host memory. -/
def realLine (line : Nat) : Bool := decide (line * 64 < poolBytes) || (isHostLine line && decide (lineAddr line < 2 ^ 52))

/-- A guest window is open: all its granules are mapped to its owner's slot (R456). -/
def GuestWin.opened (w : GuestWin) (s : State) : Bool :=
  decide (0 < w.size) && (List.range ((w.base + w.size - 1) / 2 ^ 21 + 1 - w.base / 2 ^ 21)).all fun i =>
    s.keyMapAt (w.base / 2 ^ 21 + i) = w.ctx

/-- The levee passes a guest access: it lies wholly inside one open window that permits all of `need` (R29, R456). -/
def guestPasses (s : State) (a n need : Nat) : Bool :=
  s.sec.guestOn && !s.sec.guestIso && decide (0 < n) && ((s.sec.policy.map (·.windows)).getD []).any fun w =>
    decide (w.base ≤ a ∧ a + n ≤ w.base + w.size) && (w.perm &&& need) == need && w.opened s

/-- Permissions that a caching request of the guest needs: read and cache, and write where it asks for ownership. -/
def guestNeed (req : Req) : Nat :=
  match req with
  | .rdO | .upg | .wb => 7
  | _ => 5

/-- The host may send a request as agent 0x20 (R237, R251): in full coherence, for device memory; while full coherence ends it only
writes back. -/
def hostMaySend (s : State) (line : Nat) (req : Req) : Bool :=
  s.coh.full && !isHostLine line && (!s.coh.sweeping || req == .wb)

/-- A caching agent may send a request: it is enabled, a descriptor cache reads with RdSN only, the host is an agent in full
coherence alone, and the levee passes what the guest asks (R29, R237, R241). -/
def maySend (s : State) (agent line : Nat) (req : Req) : Bool :=
  s.coh.enabled.contains agent && !(decide (0x18 ≤ agent ∧ agent < 0x20) && req != .rdSN)
    && !(agent == 0x20 && !hostMaySend s line req)
    && !(agent == 0x21 && (isHostLine line || !guestPasses s (line * 64) 64 (guestNeed req)))

/-- The guest's link carries requests: the guest is enabled and not isolated, and its clock and the levee run (R28, R30). -/
def guestUp (s : State) : Bool := s.sec.guestOn && !s.sec.guestIso && !s.boot.warmBusy && !clockStopped s 6 11 0

/-- The guest die is cut off (R30): its link down and its windows closed until the next warm device reset. -/
def closeGuest (s : State) : State :=
  let s := { s with sec := { s.sec with guestIso := true, guestOn := false } }
  s.setIface 20 { s.iface 20 with st := 2 }

/-- The guest die is isolated, with its record (R30, R32). -/
def isolateGuest (s : State) : State :=
  raiseError (closeGuest s) { sev := 2, type := Err.GUEST_ISOLATED, die := 6, inst := 0 }

/-- A blocked request of the guest (R29, R30): a read completes with an error, a write is discarded; more than 256 within
1 ms isolate the guest. -/
def leveeBlock (s : State) (write : Bool) (addr : Nat) : State :=
  let s := if write then s else s.emit .guestError
  let s := raiseError s { sev := 2, type := Err.LEVEE_BLOCK, die := 6, inst := 0, space := 1, addr := addr }
  let l := (s.sec.guestBlocks.filter fun t => s.cic.count < t + 125000) ++ [s.cic.count]
  let s := { s with sec := { s.sec with guestBlocks := l } }
  if 256 < l.length then isolateGuest s else s

/-- A request of the guest for a line that the levee blocks (R29): agent 0x21, or the guest as an uncached agent. -/
def leveeBars (s : State) (agent line need : Nat) : Bool :=
  (agent == 0x21 || agent == 98) && guestUp s && (isHostLine line || !guestPasses s (line * 64) 64 need)

/-- A directory entry that the check of a request finds bad is recovered by broadcast before the request (R249). -/
def recoverEntry (s : State) (line : Nat) (bad : Bool) : State :=
  if !bad ∨ lineBusy s line ∨ !realLine line then s
  else homeReq s { req := .sweep, from_ := 64, line := line, data := [], mask := 0, stash := none, ctx := some 0 }

/-- Agent number of the uncached descriptor reads of a cell die whose descriptor cache is disabled. -/
abbrev uncachedReader : Nat := 64

/-- A cell die in service whose descriptor cache is disabled: its descriptor reads are RdC (R250). -/
def readsUncached (s : State) (agent : Nat) (req : Req) : Bool :=
  decide (0x18 ≤ agent ∧ agent < 0x20) && req == .rdSN && !s.coh.enabled.contains agent && !s.offline (8 + (agent - 0x18))
    && decide (5 ≤ s.boot.stage)

/-- A request of a caching agent: the levee blocks what the guest may not ask. -/
def cachingReq (s : State) (req : Req) (agent line : Nat) (bad : Bool) (ctx : Option Nat) : State :=
  let r : HomeReq := { req := req, from_ := agent, line := line, data := [], mask := 0, stash := none, ctx := ctx }
  if leveeBars s agent line (guestNeed req) then leveeBlock s (req == .wb) (lineAddr line)
  else if !realLine line then s
  else if readsUncached s agent req then homeReq (recoverEntry s line bad) { r with req := .rdC, from_ := uncachedReader }
  else if !maySend s agent line req then s
  else homeReq (recoverEntry s line bad) r

/-- RDS (R242, R249). -/
def execRds (agent line : Nat) (badEntry : Bool) (ctx : Option Nat) (s : State) : Host.Outcome State Fault Refusal :=
  run (okAgent agent) (cachingReq s .rdS agent line badEntry ctx)

/-- RDSN (R242, R249). -/
def execRdsn (agent : Nat) (q : LineFor) (s : State) : Host.Outcome State Fault Refusal :=
  run (okAgent agent) (cachingReq s .rdSN agent q.line q.badEntry q.ctx)

/-- RDO (R242, R249). -/
def execRdo (agent : Nat) (q : LineFor) (s : State) : Host.Outcome State Fault Refusal :=
  run (okAgent agent) (cachingReq s .rdO agent q.line q.badEntry q.ctx)

/-- UPG (R242, R249). -/
def execUpg (agent : Nat) (l : LineAt) (s : State) : Host.Outcome State Fault Refusal :=
  run (okAgent agent) (cachingReq s .upg agent l.line l.badEntry none)

/-- WB (R242, R245, R249): of a line that the agent holds in M. -/
def execWb (agent : Nat) (l : LineAt) (s : State) : Host.Outcome State Fault Refusal :=
  run (okAgent agent) (cachingReq s .wb agent l.line l.badEntry none)

/-- An uncached request of the guest does not arrive while its link is down. -/
def guestAway (s : State) (agent : Nat) : Bool := agent == 98 && !guestUp s

/-- RDC (R242): of an uncached agent; the levee blocks what the guest may not read. -/
def execRdc (agent : Nat) (l : LineAt) (s : State) : Host.Outcome State Fault Refusal :=
  run (okAgent agent)
    (if leveeBars s agent l.line 1 then leveeBlock s false (lineAddr l.line)
     else if !realLine l.line ∨ guestAway s agent then s
     else homeReq (recoverEntry s l.line l.badEntry)
       { req := .rdC, from_ := agent, line := l.line, data := [], mask := 0, stash := none, ctx := none })

/-- A write of an uncached agent to a line: protected and mirrored ranges first (R316, R378, R386), then the home. -/
def uncachedWrite (s : State) (req : Req) (agent line mask : Nat) (bad : Bool) (data : List Byte) (stash : Option Nat) : State :=
  let a := lineAddr line
  let r : HomeReq := { req := req, from_ := agent, line := line, data := data, mask := mask, stash := stash, ctx := none }
  if leveeBars s agent line 2 then leveeBlock s true (lineAddr line)
  else if !realLine line ∨ guestAway s agent then s
  else if !isHostLine line ∧ writeBarred s (writerOf agent) a 64 then
    raiseError s { sev := 2, type := Err.PROTECTED_WRITE, die := 2 + homeOfLine line, inst := 0, space := 1, addr := a }
  else if isHostLine line then homeReq (recoverEntry s line bad) r
  else
    postWrite (recoverEntry s line bad) { addr := a, data := [], req := some r, from_ := agent, stash := none, relaxed := true }

/-- WRL (R242, R246): a full line, with an optional stash target. Data short of a line is extended with zeros, and what lies
beyond one is not part of it. -/
def execWrl (agent : Nat) (l : LineAt) (data : List Byte) (stash : Option Nat) (s : State) :
    Host.Outcome State Fault Refusal :=
  run (okAgent agent) (uncachedWrite s .wrL agent l.line fullMask l.badEntry ((data ++ List.replicate 64 0).take 64) stash)

/-- WRP (R242): part of a line under a byte mask, its data laid out as a line's. -/
def execWrp (agent : Nat) (l : LineAt) (mask : Nat) (data : List Byte) (s : State) : Host.Outcome State Fault Refusal :=
  run (okAgent agent) (uncachedWrite s .wrP agent l.line (mask % 2 ^ 64) l.badEntry ((data ++ List.replicate 64 0).take 64) none)

/-! ## Snoops (R241, R244, R245, R269) -/

/-- An agent takes a snoop. -/
def snoopRow (agent line : Nat) (k : Snp) (s : State) : Host.Outcome State Fault Refusal :=
  run (okAgent agent) (if defersSnoop s agent line then s else takeSnoop s line agent k)

/-- SNPF. -/
def execSnpf (agent line : Nat) (s : State) : Host.Outcome State Fault Refusal := snoopRow agent line .f s

/-- SNPIF. -/
def execSnpif (agent line : Nat) (s : State) : Host.Outcome State Fault Refusal := snoopRow agent line .ifw s

/-- SNPI. -/
def execSnpi (agent line : Nat) (s : State) : Host.Outcome State Fault Refusal := snoopRow agent line .i s

/-- SNPC. -/
def execSnpc (agent line : Nat) (s : State) : Host.Outcome State Fault Refusal := snoopRow agent line .c s

/-- SNOOP_RESPONSE: the home receives an answer; with the last one the transaction ends (R240). -/
def execSnoopResponse (agent line : Nat) (s : State) : Host.Outcome State Fault Refusal :=
  run (okAgent agent) (homeRun (takeAnswer s line agent))

/-! ## Stash offers (R246, R247) -/

/-- The state with an offer's standing changed. -/
def setOffer (s : State) (agent line st : Nat) : State :=
  { s with coh := { s.coh with offers := s.coh.offers.map fun o => if o = (agent, line, 0) then (agent, line, st) else o } }

/-- A stash target accepts an offer (R247). -/
def acceptsOffer (s : State) (agent line : Nat) (evictsM : Bool) : Bool :=
  decide ((s.coh.offers.filter (·.1 = agent)).length ≤ 32) && !evictsM && s.coh.enabled.contains agent
    && !(decide (0x18 ≤ agent) && fld s 0 (cohReg (homeOfLine line) Reg.COH_CTL) 2 2 == 0)

/-- OFFER: the target answers Acc or Dec. -/
def execOffer (agent line : Nat) (evictsM : Bool) (s : State) : Host.Outcome State Fault Refusal :=
  run (okAgent agent) (setOffer s agent line (if acceptsOffer s agent line evictsM then 1 else 2))

/-- STASH_ANSWER: the home receives Acc, and the target holds the line in E as soon as its entry has a way; or Dec, and the line
is allocated in the floor cache (R247, R248). -/
def stashEnd (s : State) (agent line : Nat) : State :=
  match s.coh.offers.find? fun o => o.1 = agent && o.2.1 == line && (o.2.2 == 1 || o.2.2 == 2) with
  | none => s
  | some o =>
    let f := homeOfLine line
    let taken := o.2.2 = 1
    let keep := taken ∧ (dirEntry s line).st = 0 ∧ s.coh.enabled.contains agent
    let rest := s.coh.offers.erase o
    let s := { s with coh := { s.coh with offers := if keep then rest ++ [(agent, line, 3)] else rest } }
    homeRun (if taken then count s (cohReg f Reg.COH_STASH_ACC) 1 else flcFill (count s (cohReg f Reg.COH_STASH_DEC) 1) line)

/-- STASH_ANSWER. -/
def execStashAnswer (agent line : Nat) (s : State) : Host.Outcome State Fault Refusal :=
  run (okAgent agent) (stashEnd s agent line)

/-! ## Timeouts (R32, R250) -/

/-- Lines that the directory records an agent in DX for. -/
def ownedLines (s : State) (agent : Nat) : List Nat :=
  (tkeys s.coh.dir).filter fun l => (dirEntry s l).st = 1 && (dirEntry s l).ptrs == [agent]

/-- Lines that agents hold, by an agent. -/
def linesOfAgent (s : State) (agent : Nat) : List Nat :=
  ((tkeys s.coh.lines).filter fun k => k / 2 ^ 60 = agent).map (· % 2 ^ 60)

/-- An agent's lines recorded in DX are written poisoned, the rest are not present (R250). A descriptor cache holds nothing that
memory has not. -/
def poisonAgent (s : State) (agent : Nat) : State :=
  let s := (ownedLines s agent).foldl (fun s l =>
    let s := setDir s l DirEntry.di
    if isHostLine l ∨ (0x18 ≤ agent ∧ agent < 0x20) then s
    else
      let s := dropPocket (poisonWord (poisonWord s (l * 64)) (l * 64 + 32)) l
      raiseError s { sev := 1, type := Err.MEM_POISON, die := 2 + homeOfLine l, inst := agent, space := 1, addr := l * 64 }) s
  (linesOfAgent s agent).foldl (fun s l => setLine s agent l AgentLine.none_) s

/-- Every snoop that an agent has not answered is answered RspNP for it, and its own requests are dropped. -/
def answerFor (s : State) (agent : Nat) : State :=
  let s := { s with coh := { s.coh with
    waiting := s.coh.waiting.filter fun r => r.from_ != agent
    offers := (s.coh.offers.filter fun o => o.1 != agent || o.2.2 != 3).map fun o => if o.1 = agent then (o.1, o.2.1, 2) else o } }
  let s := (tkeys s.coh.txns).foldl (fun s l =>
    match txnOf s l with
    | some t =>
      if t.snoops.any (·.1 = agent) then
        takeAnswer (setTxn s l (some { t with snoops := t.snoops.filter (·.1 != agent),
                                               answers := t.answers ++ [⟨agent, 3, none, false⟩] })) l agent
      else s
    | none => s) s
  homeRun s

/-- An agent is no longer enabled (R250, R314). -/
def disableAgent (s : State) (agent : Nat) : State :=
  { s with coh := { s.coh with enabled := s.coh.enabled.filter (· != agent) } }

/-- A core cluster goes offline (R250, R273, R314): its harts stop and their buffered stores are lost. -/
def offlineCluster (s : State) (c : Nat) : State :=
  let s := disableAgent s c
  let s := [0, 1, 2, 3].foldl (fun s k => s.setHart (4 * c + k) Hart.parked) s
  let s := { s with core := { s.core with offline := if bit s.core.offline c then s.core.offline else s.core.offline + 2 ^ c } }
  paramChange (raiseInt s (raddr 1 2 0) 0)

/-- Lines whose entry names the host as a holder. -/
def hostHeld (s : State) : List Nat := (tkeys s.coh.dir).filter fun l => (dirEntry s l).ptrs.contains 0x20

/-- Full coherence begins to end: every entry that names the host is swept (R251, R326). -/
def beginSweep (s : State) : State :=
  if !s.coh.full ∨ s.coh.sweeping then s
  else
    let s := { s with coh := { s.coh with sweeping := true } }
    (hostHeld s).foldl (fun s l =>
      homeReq s { req := .sweep, from_ := 64, line := l, data := [], mask := 0, stash := none, ctx := none }) s

/-- Full coherence has ended: the host is no agent, and COH_HOST_MODE.FULL reads 0 (R251, R326). -/
def endFull (s : State) : State :=
  let s := disableAgent s 0x20
  { s with coh := { s.coh with full := false, sweeping := false } }

/-- The sweep is done: no entry names the host, and no snoop to it is open. One-way coherence is in force (R251, R326). -/
def endHostSweep (s : State) : State :=
  let open_ := (tkeys s.coh.txns).any fun l => ((txnOf s l).map fun t => t.snoops.any (·.1 = 0x20)).getD false
  if s.coh.sweeping ∧ (hostHeld s).isEmpty ∧ !open_ then endFull s else s

/-- What the passing of an agent's bound brings (R32, R250). -/
def agentFails (s : State) (agent floor : Nat) : State :=
  let a := cohReg floor Reg.COH_SNP_TIMEOUT
  let s := setFld (countFld s 0 a 31 16 1) 0 a 5 0 agent
  let s := raiseInt s (cohReg floor 0) 1
  let s := answerFor (poisonAgent s agent) agent
  if agent = 0x21 then disableAgent (isolateGuest s) agent
  else
    let s := raiseError s { sev := 2, type := Err.SNOOP_TIMEOUT, die := 2 + floor, inst := agent }
    if agent < 24 then offlineCluster s agent
    else if agent = 0x20 then endHostSweep (beginSweep (disableAgent s agent))
    else disableAgent s agent

/-- Ticks in which an agent must answer before it is given up (R32, R250). -/
def snoopBound (agent : Nat) : Nat := if agent = 0x21 then 1250 else 12500

/-- SNOOP_TIMEOUT. -/
def snoopLate (s : State) (agent line : Nat) : State :=
  match txnOf s line with
  | some t =>
    if t.snoops.any (·.1 = agent) ∧ t.began + snoopBound agent ≤ s.cic.count then agentFails s agent (homeOfLine line) else s
  | none => s

/-- SNOOP_TIMEOUT. -/
def execSnoopTimeout (agent line : Nat) (s : State) : Host.Outcome State Fault Refusal :=
  run (okAgent agent) (snoopLate s agent line)

/-! ## Probe (R255) -/

/-- The entry of a line as COH_PROBE_RESULT lays it out (R239, R255). -/
def probeWord (s : State) (line : Nat) : Nat :=
  let e := dirEntry s line
  let p (i : Nat) : Nat := nth e.ptrs i
  e.st * 2 ^ 29 + b2n (txnOf s line).isSome * 2 ^ 28 + (2 ^ e.ptrs.length - 1) % 16 * 2 ^ 24 + p 3 * 2 ^ 18 + p 2 * 2 ^ 12
    + p 1 * 2 ^ 6 + p 0

/-- COH_PROBE. -/
def cohProbe (s : State) (f : Nat) : State :=
  let a := rd64 s 0 (cohReg f Reg.COH_PROBE_ADDR_LO)
  if poolBytes ≤ a ∨ homeFloor a ≠ f then setFld s 0 (cohReg f Reg.COH_PROBE) 30 30 1
  else wr (setFld s 0 (cohReg f Reg.COH_PROBE) 30 30 0) 0 (cohReg f Reg.COH_PROBE_RESULT) (probeWord s (lineOf a))

/-- COH_PROBE. -/
def execCohProbe (src : Source) (floor : Nat) (s : State) : Host.Outcome State Fault Refusal :=
  run (okSource src && okFloor floor) (viaReg s src (cohReg floor Reg.COH_PROBE) (cohProbe s floor))

end Sys2Proof.Machine
end

