-- ==== Sys2Proof/Machine/HartMem.lean ====
section
/-!
DEFINITION. Main memory as a hart reaches it (11_ordering.md, 13_core_die.md): its cluster's lines, poison, the store
buffer and how it drains (R256, R273, R274, R308, R309).
-/

namespace Sys2Proof.Machine

/-- Register of the core control page. -/
abbrev coreReg (off : Nat) : Nat := raddr 1 2 off

/-- Partition that a hart's requests carry (R307). -/
def hartPart (s : State) (h : Nat) : Nat := fld s h (coreReg Reg.CORE_HART_PART) 5 0

/-- Cluster of a hart (R300). -/
def clusterOf (h : Nat) : Nat := h / 4

/-- Exception causes (R305, R308, R309; notes/assumptions/32.md). -/
abbrev Trap.FETCH_FAULT : Nat := 1
abbrev Trap.LOAD_MISALIGNED : Nat := 4
abbrev Trap.LOAD_FAULT : Nat := 5
abbrev Trap.STORE_MISALIGNED : Nat := 6
abbrev Trap.STORE_FAULT : Nat := 7
abbrev Trap.HARDWARE : Nat := 19

/-- A precise exception: its cause and address are recorded, the reservation and a wait end (R268, R308, R314). -/
def hartTrap (s : State) (h cause addr : Nat) : State :=
  s.setHart h { s.hart h with resv := none, defer := false, wait := .none, cause := cause, tval := addr }

/-- Poison consumed by a hart: the exception of R308 and its record. -/
def hartPoison (s : State) (h addr : Nat) : State :=
  raiseError (hartTrap s h Trap.HARDWARE addr) { sev := 2, type := Err.HART_POISON, die := 1, inst := h, space := 1, addr := addr }

/-- A line is held by a cluster well enough for a read, or for a write (R238). -/
def holdsLine (s : State) (c line : Nat) (own : Bool) : Bool :=
  let l := agentLine s c line
  !l.wb && (if own then decide (l.st = .m ∨ l.st = .e) else decide (l.st ≠ .i))

/-- The cluster asks for a line that it does not hold well enough (R242). -/
def askLine (s : State) (h line : Nat) (own : Bool) : State :=
  let c := clusterOf h
  if holdsLine s c line own then s
  else
    let st := (agentLine s c line).st
    let req : Req := if !own then .rdS else if st = .s ∨ st = .f then .upg else .rdO
    agentGets s req c line (some (hartPart s h))

/-- Host memory without a port in service cannot be asked for (R309). -/
def hostCut (s : State) (line : Nat) : Bool := isHostLine line && (hostPort s 3 (lineAddr line)).isNone

/-- Some line that is not held lies in host memory, and no port is in service (R309). -/
def rangeCut (s : State) (h : Nat) (own : Bool) (a n : Nat) : Bool :=
  (linesOf a n).any fun l => hostCut s l && !holdsLine s (clusterOf h) l own

/-- The lines of a range obtained. -/
def askRange (s : State) (h : Nat) (own : Bool) (a n : Nat) : State := (linesOf a n).foldl (fun s l => askLine s h l own) s

/-- All lines of a range are held. -/
def holdsRange (s : State) (h : Nat) (own : Bool) (a n : Nat) : Bool :=
  (linesOf a n).all fun l => holdsLine s (clusterOf h) l own

/-- Bytes of held lines. -/
def heldBytes (s : State) (h a n : Nat) : List Byte :=
  (List.range n).map fun i => (agentLine s (clusterOf h) (lineOf (a + i))).data.getD ((a + i) % 64) 0

/-- A code word of a range is poisoned in the lines held. -/
def heldPoison (s : State) (h a n : Nat) : Bool :=
  (wordsOf a n).any fun w => (agentLine s (clusterOf h) (lineOf w)).poison.contains (w % 64 / 32)

/-- A store covers only part of a poisoned code word (R308). -/
def partPoison (s : State) (h a n : Nat) : Bool :=
  (wordsOf a n).any fun w =>
    (agentLine s (clusterOf h) (lineOf w)).poison.contains (w % 64 / 32) && !(decide (a ≤ w / 32 * 32 ∧ w / 32 * 32 + 32 ≤ a + n))

/-- A hart's store ends the reservations of every other hart on the granule. -/
def loseOthers (s : State) (h a : Nat) : State :=
  let own := s.hart h
  let t := loseReservations s a
  if own.resv = some (a / 256) then t.setHart h { t.hart h with resv := own.resv, defer := own.defer } else t

/-- Bytes written into the lines held, which become M; a code word written whole loses its poison (R308). -/
def putHeld (s : State) (h a : Nat) (data : List Byte) : State :=
  let c := clusterOf h
  (linesOf a data.length).foldl (fun s l =>
    let x := agentLine s c l
    let at_ (i : Nat) : Byte := if a ≤ l * 64 + i ∧ l * 64 + i < a + data.length then data.getD (l * 64 + i - a) 0 else x.data.getD i 0
    let whole (w : Nat) : Bool := decide (a ≤ l * 64 + 32 * w ∧ l * 64 + 32 * w + 32 ≤ a + data.length)
    let x : AgentLine := { x with st := .m, data := (List.range 64).map at_, poison := x.poison.filter fun w => !whole w }
    let s := setLine s c l x
    loseOthers s h (l * 64)) s

/-- A store to host memory with no port in service is discarded and counted, and reported once per hart and detachment
(R309). -/
def hostDiscard (s : State) (h a : Nat) : State :=
  let s := countFld s 0 (coreReg Reg.CORE_HOST_DISCARD) 31 0 1
  if (s.hart h).reported then s
  else
    raiseError (s.setHart h { s.hart h with reported := true })
      { sev := 2, type := Err.HART_HOST_DISCARD, die := 1, inst := h, space := 3, addr := lineAddr (lineOf a) + a % 64 }

/-- A store made in the lines of the cluster; false where a line cannot be had now. -/
def storeNow (s : State) (h a : Nat) (data : List Byte) : State × Bool :=
  if rangeCut s h true a data.length then (hostDiscard s h a, true)
  else
    let s := askRange s h true a data.length
    if !holdsRange s h true a data.length then (s, false)
    else if partPoison s h a data.length then (hartPoison s h a, true)
    else (putHeld s h a data, true)

/-- The buffer as a drain leaves it: a fence waits for those of its older stores that are still there (R258). -/
def setBuffer (s : State) (h : Nat) (l : List BufStore) : State :=
  let x := s.hart h
  let gone := x.buffer.length - l.length
  s.setHart h { x with buffer := l, fence := x.fence.map fun f => { f with stores := f.stores - gone } }

/-- A hart's buffered stores made in order, as far as they go (R256). With `keep` one to host memory that no port reaches stays
in the buffer (R274). -/
def drainList (h : Nat) (keep : Bool) : List BufStore → State → State
  | [], s => setBuffer s h []
  | b :: l, s =>
    if keep ∧ rangeCut s h true b.addr b.data.length then setBuffer s h (b :: l)
    else
      let r := storeNow s h b.addr b.data
      if r.2 then drainList h keep l r.1 else setBuffer r.1 h (b :: l)

/-- A hart's store buffer drained as far as it goes. -/
def drainHart (s : State) (h : Nat) : State := drainList h false (s.hart h).buffer s

/-! ## Fences (R258, R259) -/

/-- The fence that a hart waits for is complete: its older stores are accepted, and its writes to peer devices acknowledged or,
for a DRAIN, performed. -/
def HartFence.met (f : HartFence) (s : State) (h : Nat) : Bool :=
  f.stores == 0 && !(s.host.unread.any fun w =>
    w.who == .hart h && decide (w.id < if w.op = 1 then f.uncached else f.writes) && (f.drain || !w.early))

/-- A hart's fence ends where it can. -/
def tryFence (s : State) (h : Nat) : State :=
  match (s.hart h).fence with
  | none => s
  | some _ =>
    let s := drainHart s h
    match (s.hart h).fence with
    | some f => if f.met s h then s.setHart h { s.hart h with fence := none } else s
    | none => s

/-- A fence holds back accesses of the kinds in `need`: I 8, O 4, R 2, W 1. -/
def fenceHolds (s : State) (h need : Nat) : Bool := ((s.hart h).fence.map fun f => f.succ &&& need != 0).getD false

/-- A fence of a hart begins, and ends at once where nothing is open. -/
def beginFence (s : State) (h : Nat) (f : HartFence) : State := tryFence (s.setHart h { s.hart h with fence := some f }) h

/-- A cluster's line in M written back and kept in E: the directory still names the cluster (R242, R303;
notes/assumptions/33.md). -/
def cleanLine (s : State) (c line : Nat) : State :=
  let s := settle s [line]
  let l := agentLine s c line
  if l.st ≠ .m then s
  else (setLine (writeThrough s line fullMask l.data l.poison) c line { l with st := .e, wb := false }).emit (.ack c line)

/-- Every line in M of a cluster written back (R273). -/
def cleanCluster (s : State) (c : Nat) : State := (linesOfAgent s c).foldl (fun s l => cleanLine s c l) s

/-- Some hart of a list has stores in its buffer. -/
def buffersLeft (s : State) (harts : List Nat) : Bool := harts.any fun h => !(s.hart h).buffer.isEmpty

/-- Steps 2 of R473 and R475 for some harts: stores drained as far as they go, those that no port reaches kept (R273, R274). -/
def drainPass (s : State) (harts : List Nat) : State :=
  harts.foldl (fun s h => drainList h true (s.hart h).buffer s) s

/-- The drain ends: stores that are not accepted are discarded, counted, and reported once (R274); then the clusters' lines
are written back. -/
def endDrain (s : State) (harts : List Nat) : State :=
  let left := harts.filter fun h => !(s.hart h).buffer.isEmpty
  let s := left.foldl (fun s h =>
    let n := (s.hart h).buffer.length
    countFld (setBuffer s h []) 0 (hub Pg.ORD Reg.ORD_WARM_DISCARD) 31 0 n) s
  let s := match left with
    | h :: _ => raiseError s { sev := 2, type := Err.WARM_DISCARD, die := 1, inst := h }
    | [] => s
  (harts.map clusterOf).eraseDups.foldl cleanCluster s

end Sys2Proof.Machine
end

