-- ==== Sys2Proof/Machine/Points.lean ====
section
/-!
DEFINITION. Operating points (R396-R400, R412) and energy budgets (R410).
-/

namespace Sys2Proof.Machine

/-- Register of the power-manager page. -/
abbrev pwrReg (off : Nat) : Nat := hub Pg.PWR off

/-! ## Phase entries (R65) -/

/-- The single phase of a context without a phase table (R65). -/
def PhaseEntry.implicit : PhaseEntry := ⟨true, 15, 0, 0, 0, 0⟩

/-- Entry `p` of a table, where it is defined. -/
def phaseIn (l : List PhaseEntry) (p : Nat) : Option PhaseEntry :=
  if l.isEmpty then (if p = 0 then some PhaseEntry.implicit else none) else (l[p]?).filter (·.valid)

/-- The entry in force. -/
def Ctx.entry (c : Ctx) : PhaseEntry := (phaseIn c.phases c.phase).getD PhaseEntry.implicit

/-! ## Operating points -/

/-- Voltage of point `n` under a margin of `m` steps of 2.5 mV, in units of 0.1 mV (R396). -/
def pointVolts (n m : Nat) : Nat := max 6000 (5750 + 150 * n + 25 * m)

/-- OP_MAX: the highest point at no more than 850 mV (R399). -/
def opMax (m : Nat) : Nat := min 15 ((2750 - 25 * m) / 150)

/-- The lowest OP_MAX over the cell dies (R503). -/
def lowestTop (s : State) : Nat := ((List.range 8).map fun d => opMax (s.die (8 + d)).margin).foldl min 15

/-- The requested point of cell die `d`: the highest PREF_OP in force among contexts with started cells on it, else 0
(R66, R399). -/
def reqPoint (s : State) (d : Nat) : Nat :=
  (dieCells d).foldl (fun a p =>
    let x := s.cell p
    match x.runner with
    | some c => if x.img.started ∧ !x.img.halted then max a (s.ctx c).entry.prefOp else a
    | none => a) 0

/-- Lowest ceiling of a cell die (R399). -/
def lowestCeil (s : State) (d : Nat) : Nat :=
  let x := s.die (8 + d)
  if s.pwr.emergency ∨ x.sensorsFailed then 0
  else min (min x.capCeil x.curCeil) (min x.thermCeil (opMax x.margin))

/-- The point at which a cell die runs (R399). -/
def pointOf (s : State) (d : Nat) : Nat := min (reqPoint s d) (lowestCeil s d)

/-- LIMIT of PWR_CELL_STATUS: the ceiling in force (R399, R413). -/
def limitOf (s : State) (d : Nat) : Nat :=
  let x := s.die (8 + d)
  let low := lowestCeil s d
  if x.sensorsFailed then 7
  else if s.pwr.emergency then (if s.pwr.throttle then 5 else 4)
  else if reqPoint s d ≤ low then (if x.capDuty < 7 then 1 else 0)
  else if x.capCeil = low then 1 else if x.curCeil = low then 2 else if x.thermCeil = low then 3 else 6

/-- Frequency of the core clusters, in units of 100 MHz (R400, R404, R408). -/
def coreFreq (s : State) : Nat :=
  let m := (s.die 1).margin
  let top := if m ≤ 10 then 32 else max 8 (min 32 (Config.coreTop m))
  if s.pwr.emergency then 8 else min (min s.pwr.coreCap s.pwr.coreCur) (min s.pwr.coreTherm top)

/-- A die begins to move to its point: the regulator is asked for the new voltage (R397). -/
def beginPoint (s : State) (d : Nat) : State :=
  let x := s.die (8 + d)
  let p := pointOf s d
  if p = x.target then s
  else (s.setDie (8 + d) { x with target := p }).emit (.avs (8 + d) (pointVolts p x.margin))

/-- Every cell die is moved to its point. -/
def repoint (s : State) : State := (List.range 8).foldl beginPoint s

/-! ## Energy budgets (R410) -/

/-- A context whose USED has reached a non-zero budget is paused, and reported once. -/
def budgetCheck (s : State) (ctx : Nat) : State :=
  let c := s.ctx ctx
  let b := rd64 s ctx (pwrReg Reg.PWR_CTX_BUDGET_LO)
  if !c.live ∨ b = 0 ∨ c.energyUsed / 1000000 < b then s
  else
    let s := s.setCtx ctx { c with paused := true, energyOut := true }
    if c.energyOut then s
    else
      let s := raiseError s { sev := 0, type := Err.ENERGY_BUDGET, die := 0, inst := 0, ctx := some ctx }
      raiseInt (raiseCtxVector s ctx 1) (pwrReg 0) 3

/-- A budget above USED clears EXHAUSTED (R410, R413). -/
def budgetRaised (s : State) (ctx : Nat) : State :=
  let c := s.ctx ctx
  let b := rd64 s ctx (pwrReg Reg.PWR_CTX_BUDGET_LO)
  if b = 0 ∨ c.energyUsed / 1000000 < b then s.setCtx ctx { c with energyOut := false } else budgetCheck s ctx

end Sys2Proof.Machine
end

