-- ==== Sys2Proof/Machine/LinkOps.lean ====
section
/-!
DEFINITION. Device ids, routes and the sending of messages (R343, R345, R348, R353-R358).
-/

namespace Sys2Proof.Machine

/-- Fields of a device id (R353). -/
def devPod (d : Nat) : Nat := bits d 19 8
def devX (d : Nat) : Nat := bits d 7 5
def devY (d : Nat) : Nat := bits d 4 2
def devZ (d : Nat) : Nat := bits d 1 0

/-- Coordinate of a dimension, and the size of its ring. -/
def devCoord (d dim : Nat) : Nat := if dim = 0 then devX d else if dim = 1 then devY d else devZ d
def ringSize (dim : Nat) : Nat := if dim = 2 then 4 else 8

/-- Role of a dimension and direction (R343): direction 0 plus, 1 minus. -/
def roleOf (dim dir : Nat) : Nat := 1 + 2 * dim + dir

/-- A link is named as a twin and its peer is the partner (R376). -/
def isTwin (s : State) (l : Nat) : Bool :=
  (s.link l).known && !(s.link l).peerSwitch && (twinLinks s).contains l && bit (rd s 0 (hub Pg.MIR Reg.MIR_PARTNER)) 31
    && (s.link l).peerDev == partner s

/-- ROLE of a link (R343, R376). -/
def linkRole (s : State) (l : Nat) : Nat := if isTwin s l then 8 else (s.link l).role

/-- A link that may carry traffic of a role: up, with that role. -/
def usable (s : State) (role l : Nat) : Bool := linkUp s l && linkRole s l = role

/-- Links of a bundle as wired (R343): three ports on each link die. -/
def bundlePort (role die pos : Nat) : Nat := 24 * die + 3 * (role - 1) + pos

/-- The bundle of a role has a link up. -/
def bundleUp (s : State) (role : Nat) : Bool := (List.range 96).any (usable s role)

/-- Hop count and direction in one dimension (R354): the shorter way, a tie by ORDER_ID[0]; the other way where the
outgoing bundle of the shorter way is down (R356). -/
def dimRoute (s : State) (me dst order dim : Nat) : Nat × Nat :=
  let n := ringSize dim
  let d := (devCoord dst dim + n - devCoord me dim) % n
  if d = 0 then (0, 0)
  else
    let dir := if 2 * d < n then 0 else if 2 * d = n then order % 2 else 1
    let hops (dir : Nat) : Nat := if dir = 0 then d else n - d
    if bundleUp s (roleOf dim dir) ∨ !bundleUp s (roleOf dim (1 - dir)) then (hops dir, dir) else (hops (1 - dir), 1 - dir)

/-- Places of the fields of ROUTE (R354): hop count and direction of each dimension. -/
def hopBits (dim : Nat) : Nat × Nat := if dim = 0 then (2, 0) else if dim = 1 then (6, 4) else (9, 8)
def dirBit (dim : Nat) : Nat := if dim = 0 then 3 else if dim = 1 then 7 else 10

/-- Hops left in a dimension of a route. -/
def hopsOf (route dim : Nat) : Nat := bits route (hopBits dim).1 (hopBits dim).2

/-- A source route (R354). -/
def sourceRoute (s : State) (me dst order : Nat) : Nat :=
  [0, 1, 2].foldl (fun r dim =>
    let (h, dir) := dimRoute s me dst order dim
    setBits (setBits r (hopBits dim).1 (hopBits dim).2 h) (dirBit dim) (dirBit dim) dir) 0

/-- The dimension in which a source-routed message moves next: X, then Y, then Z (R354). -/
def nextDim (route : Nat) : Option Nat := [0, 1, 2].find? fun d => hopsOf route d ≠ 0

/-- The route after a hop from `me` in dimension `dim`: its count is one less, and a crossing of the wrap link sets the
dateline bit (R354). -/
def afterHop (me route dim : Nat) : Nat :=
  let (hi, lo) := hopBits dim
  let r := setBits route hi lo (hopsOf route dim - 1)
  let minus := bit route (dirBit dim)
  let c := devCoord me dim
  if (!minus && c == ringSize dim - 1) || (minus && c == 0) then setBits r (11 + dim) (11 + dim) 1 else r

/-- Links of a bundle in the order in which a message tries them (R355, R356): the die and port that the rule gives, the
other ports of that die, the same port position on the following dies, then the rest of the bundle. -/
def bundleOrder (role die pos : Nat) : List Nat :=
  let p (d k : Nat) : Nat := bundlePort role (d % 4) (k % 3)
  [p die pos, p die (pos + 1), p die (pos + 2), p (die + 1) pos, p (die + 2) pos, p (die + 3) pos,
    p (die + 1) (pos + 1), p (die + 1) (pos + 2), p (die + 2) (pos + 1), p (die + 2) (pos + 2),
    p (die + 3) (pos + 1), p (die + 3) (pos + 2)]

/-- Link of uplink `u` of 24: six on each link die (R343). -/
def uplinkPort (u : Nat) : Nat := 24 * (u / 6) + 18 + u % 6

/-- What becomes of a message that leaves this device. -/
inductive Egress where
  /-- The link it takes, and its ROUTE from there. -/
  | link (l route : Nat)
  /-- No working link: dropped and counted on the link it would have taken (R356). -/
  | dropped (l : Nat)
  deriving DecidableEq, Repr

/-- Egress of a source-routed message. -/
def egressPod (s : State) (me src order route : Nat) (onDie : Option Nat) : Egress :=
  match nextDim route with
  | none => .dropped 0
  | some dim =>
    let role := roleOf dim (b2n (bit route (dirBit dim)))
    let die := onDie.getD ((src + order) % 4)
    let l := bundleOrder role die (order / 4 % 3)
    match l.find? (usable s role) with
    | some k => .link k (afterHop me route dim)
    | none => .dropped (nth l 0)

/-- Egress of a message to another pod (R357). -/
def egressOff (s : State) (me src order dst : Nat) (onDie : Option Nat) : Egress :=
  let pod := devPod dst
  let mask := fld s pod (hub Pg.MCH Reg.MCH_ROUTE_UP) 23 0
  let tagw := rd s pod (hub Pg.MCH Reg.MCH_ROUTE_TAG)
  let ups := (bitList mask 24).filter fun u => usable s 7 (uplinkPort u)
  if mask = 0 then .dropped (uplinkPort 0)
  else if !ups.isEmpty then
    .link (uplinkPort (nth ups ((src + order) % ups.length))) (2 ^ 15 + bits tagw 15 0 * 2 ^ 16)
  else if bit tagw 19 then
    egressPod s me src order (sourceRoute s me (devPod me * 256 + bits tagw 27 20) order) onDie
  else .dropped (uplinkPort (nth (bitList mask 24) 0))

/-- Lane of a stream by its VLANE (R348). -/
def streamLane (v : Nat) : Nat := if v ≤ 4 then v else 5

/-- A destination within this device's machine partition (R361, R362). -/
def inBlock (s : State) (dst : Nat) : Bool := decide (s.lnk.firstPod ≤ devPod dst ∧ devPod dst < s.lnk.firstPod + s.lnk.pods)

/-- A message of this device sent: its header, the choice of link, the queue (R345, R354-R358). False where it is refused
at once: another partition's device, no device id, or a partition that is not active (R362, R363). `extra` are the header's
KIND-specific words. -/
def sendWith (extra : List Nat) (s : State) (kind lane source dst order handle offset : Nat) (data : List Byte)
    (poison : List Nat) : State × Bool :=
  match deviceId s with
  | none => (s, false)
  | some me =>
    if s.lnk.partState ≠ 0 ∨ !inBlock s dst then (s, false)
    else
      let m : LinkMsg :=
        { id := 0, kind := kind, lane := lane, requester := source * 8 + lane, dst := dst, src := me, order := order,
          flits := msgFlits (ceilDiv data.length 256), sent := 0, mpart := s.lnk.mpart, epoch := s.lnk.epoch, route := 0,
          handle := handle, offset := offset, data := data, poison := poison, extra := extra }
      let e := if devPod dst = devPod me then egressPod s me me order (sourceRoute s me dst order) none
        else egressOff s me me order dst none
      match e with
      | .link l r => (enqueue s l { m with route := r }, true)
      | .dropped l => (countFld s 0 (lkReg l Reg.LK_NOROUTE) 31 0 1, true)

/-- A message without KIND-specific words. -/
def sendMsg (s : State) (kind lane source dst order handle offset : Nat) (data : List Byte) (poison : List Nat) :
    State × Bool := sendWith [] s kind lane source dst order handle offset data poison

/-- An answer to another device sent. -/
def sendReply (s : State) (m : HeldReply) : State :=
  (sendWith m.extra s m.kind m.lane m.source m.dst m.order m.handle 0 [] []).1

/-- An answer to what was written since mirror copy `first`: it waits until the partner has acknowledged the copies (R380). -/
def sendAfter (s : State) (first : Nat) (m : HeldReply) : State :=
  let l := copiesFrom s first
  if copiesOpen s l then { s with mir := { s.mir with replies := s.mir.replies ++ [{ m with copies := l }] } } else sendReply s m

/-- Answers whose copies are acknowledged go out, and fault records are counted (R286). -/
def sendReplies (s : State) : State :=
  let go := s.mir.replies.filter fun m => !copiesOpen s m.copies
  showAll (go.foldl sendReply { s with mir := { s.mir with replies := s.mir.replies.filter fun m => copiesOpen s m.copies } })

/-- Bytes cut into pieces of `n`. -/
def chunks (n : Nat) : Nat → List Byte → List (List Byte)
  | 0, _ => []
  | fuel + 1, l => if l.isEmpty then [] else l.take n :: chunks n fuel (l.drop n)

/-- A stream packet or a part of a re-shard piece sent to another device: one message, or two for 15 or 16 units (R345). The
KIND-specific words of the messages are `pre`, whether this is the start, whether it is the end. -/
def sendPacketMsg (s : State) (pre : List Nat) (start last : Bool) (floor lane dst order handle offset : Nat) (data : List Byte) (poison : List Nat) :
    State × Bool :=
  let u := ceilDiv data.length 256
  let words (a b : Bool) : List Nat := pre ++ [a.toNat, b.toNat]
  if u ≤ 14 then sendWith (words start last) s 1 lane floor dst order handle offset data poison
  else
    let a := ceilDiv u 2 * 256
    let w := a / 32
    match sendWith (words start false) s 1 lane floor dst order handle offset (data.take a) (poison.filter (· < w)) with
    | (s, false) => (s, false)
    | (s, true) =>
      sendWith (words false last) s 1 lane floor dst order handle (offset + a) (data.drop a)
        ((poison.filter (w ≤ ·)).map (· - w))

end Sys2Proof.Machine
end

