-- ==== Sys2Proof/Machine/StreamOps.lean ====
section
/-!
DEFINITION. What the stream operations share: handles, the placing of a packet at its sink, the return of its credits, the
ends of transfers, the destruction of a stream (R173-R194).
-/

namespace Sys2Proof.Machine

/-! Endpoint kinds (R177) and transfer statuses (R190). -/
abbrev Kind.CELL : Nat := 1
abbrev Kind.MEMORY : Nat := 2
abbrev Kind.HOST : Nat := 3
abbrev Kind.CORE : Nat := 4
abbrev Kind.REMOTE : Nat := 5
abbrev XferSt.OK : Nat := 0
abbrev XferSt.STALE : Nat := 1
abbrev XferSt.HOST_DETACHED : Nat := 2
abbrev XferSt.DESTROYED : Nat := 3
abbrev XferSt.UNREACHABLE : Nat := 4
abbrev XferSt.FAULT_FAILED : Nat := 5

/-- Handle of an index with its present generation (R173). -/
def handleOf (s : State) (i : Nat) : Nat := 2 ^ 20 * (s.stream i).gen + i

/-- A handle is current (R173). -/
def currentHandle (s : State) (h : Nat) : Bool :=
  let x := s.stream (h % 2 ^ 18)
  bits h 19 18 = 0 && x.st != .free && x.gen = h / 2 ^ 20

/-- Physical cell of a context's logical cell (R41). -/
def physOf (s : State) (ctx lc : Nat) : Option Nat := (logicalCells (s.ctx ctx))[lc]?

/-- The floor a CORE window counts as on: the nearer of floors 0 and 1 to a floor (R186), by the seams 0-2 and 1-3 (R17); floor 0
where the other endpoint lies on no floor (notes/assumptions/105.md). -/
def coreFloor (f : Nat) : Nat := f % 2

/-- The floor die of an endpoint, where it is a cell (R175). -/
def cellFloorOf (s : State) (ctx : Nat) (e : Endpoint) : Option Nat :=
  if e.kind = Kind.CELL then (physOf s ctx e.unit).map cellFloor else none

/-- A stream's home (R175). -/
def homeOf (s : State) (ctx i : Nat) (src snk : Endpoint) : Nat :=
  if src.kind = Kind.CELL then (cellFloorOf s ctx src).getD 0
  else if src.kind = Kind.CORE then coreFloor ((cellFloorOf s ctx snk).getD 0)
  else if snk.kind = Kind.CELL then (cellFloorOf s ctx snk).getD 0
  else if snk.kind = Kind.CORE then coreFloor ((cellFloorOf s ctx src).getD 0)
  else i % 4

/-- The stream engine as a requester for a stream (R277, R284, R287). -/
def streamReq (s : State) (i seq cell track : Nat) : Requester :=
  let x := s.stream i
  { source := 0, ctx := x.ctx, unit := 2 + x.home, handle := handleOf s i, cell := cell, track := track, seq := seq }

/-- Transfer `id` of a stream. -/
def Stream.xfer (x : Stream) (id : Nat) : Option Xfer := x.xfers.find? (·.id = id)

/-- A stream's transfer changed. -/
def Stream.mapXfer (x : Stream) (id : Nat) (f : Xfer → Xfer) : Stream :=
  { x with xfers := x.xfers.map fun t => if t.id = id then f t else t }

/-- A requester of a transfer: its cell and track, where a cell issued it. -/
def xferReq (s : State) (i : Nat) (t : Xfer) : Requester :=
  let x := s.stream i
  if t.issuer = 2 then streamReq s i t.seq (logicalOf (s.ctx x.ctx) t.owner) 0 else streamReq s i t.seq 0xFFFF 0

/-! ## Counters at stream endpoints -/

/-- Physical cell and counter key of a CELL endpoint: a token counter for a sink, a credit counter for a source. -/
def endCell (s : State) (ctx : Nat) (e : Endpoint) : Nat := (physOf s ctx e.unit).getD 320
def sinkKey (e : Endpoint) : Nat := e.name
def srcKey (e : Endpoint) : Nat := 64 + e.name

/-- The counter at a CELL sink, where it is bound to the stream (R183, R193). -/
def sinkCounter (s : State) (i : Nat) : Option Counter :=
  let x := s.stream i
  match imgOf s (endCell s x.ctx x.snk) x.ctx with
  | none => none
  | some img =>
    let c := img.ctr (sinkKey x.snk)
    if c.bound ∧ c.peer = 2 ∧ c.handle = handleOf s i then some c else none

/-- Bytes of one slot and slots of a window sink. -/
def sinkShape (s : State) (i : Nat) : Option (Nat × Nat) :=
  let x := s.stream i
  if x.snk.kind = Kind.CELL then (sinkCounter s i).map fun c => (c.size * 256, c.slots)
  else if x.snk.kind = Kind.CORE then some (x.snk.opt * 256, x.snk.size)
  else none

/-- Credits granted to a stream at a local sink: spent by its own packets, or carried to the sending half of a receiving half
(R182), less what that half holds for a slot that has been closed. The carrying message names the sending half's handle and the
units in DST_OFFSET (notes/assumptions/12.md, 18.md). -/
def grantCredits (s : State) (i n : Nat) : State :=
  let x := s.stream i
  if n = 0 then s
  else if x.src.kind = Kind.REMOTE then
    let n' := n - x.debt
    let s := s.setStream i { x with credits := x.credits + n', debt := x.debt - n }
    if n' = 0 then s else (sendMsg s 2 7 x.home x.src.base x.order x.src.name n' [] []).1
  else s.setStream i { x with credits := x.credits + n }

/-- A packet is on its way: not placed at its sink and not refused there. -/
def Packet.onWay (p : Packet) : Bool := p.fate = 0 || p.fate = 3 || p.fate = 4

/-- Units of a stream's packets on their way. -/
def unitsInFlight (s : State) (i : Nat) : Nat :=
  ((s.str.packets.filter fun p => p.index = i && p.onWay).map fun p => ceilDiv p.data.length 256).foldl (· + ·) 0

/-- Hand-overs put behind those of a stream, each with the next units of those handed over since creation (R183). -/
def Stream.handOver (x : Stream) (l : List Hand) : Stream :=
  l.foldl (fun x h =>
    let h := { h with start := x.handed }
    { x with hands := x.hands ++ [h], handed := x.handed + h.units }) x

/-! ## Packets (R182-R185, R193) -/

/-- How the placing of a packet ends. -/
inductive Placed where
  | done
  | stale
  /-- It waits: a translation stalls, or a hold buffer is full (R71). -/
  | waits
  deriving DecidableEq, Repr

/-- Ranges of a ring that `n` bytes from position `at_` on take; the fuel bounds their number. -/
def ringRanges (ring : Nat) : Nat → Nat → Nat → List (Nat × Nat)
  | 0, _, _ => []
  | f + 1, at_, n =>
    if n = 0 ∨ ring ≤ at_ then []
    else (at_, min n (ring - at_)) :: ringRanges ring f 0 (n - min n (ring - at_))

/-- Data placed in a ring at byte position `at_`, cut at the ring's end. -/
def ringPieces (ring at_ : Nat) (data : List Byte) : List (Nat × List Byte) :=
  ((ringRanges ring 66 at_ data.length).foldl (fun (q : List (Nat × List Byte) × List Byte) r =>
    (q.1 ++ [(r.1, q.2.take r.2)], q.2.drop r.2)) ([], data)).1

/-- A packet's data placed in a CELL sink: into the ring, a token for each slot completed (R184). -/
def placeCell (s : State) (i : Nat) (c : Counter) (data : List Byte) (poison : List Nat) : State × Placed :=
  let x := s.stream i
  let cell := endCell s x.ctx x.snk
  let r := (ringPieces c.bytes x.ringAt data).foldl
    (fun (p : Option State × Nat) q =>
      let n := q.2.length / 32
      let here := (poison.filter fun w => p.2 ≤ w ∧ w < p.2 + n).map (· - p.2)
      (p.1.bind fun s => inboundWrite s cell x.ctx (c.base + q.1) q.2 here, p.2 + n)) (some s, 0)
  match r.1 with
  | none => (s, .waits)
  | some t =>
    let sz := c.size * 256
    let done := (x.ringAt + data.length) / sz - x.ringAt / sz
    let t := t.setStream i { t.stream i with ringAt := (x.ringAt + data.length) % c.bytes }
    (bumpCounter t cell x.ctx (sinkKey x.snk) done, .done)

/-- Stash offers for the whole lines of a write that carries a stash hint (R177, R247). -/
def stashOffers (s : State) (agent : Nat) (segs : List Seg) : State :=
  segs.foldl (fun s g =>
    if g.space ≠ 0 ∨ writeBarred s .engine g.pa g.len then s else offerLines s agent g.pa g.len) s

/-- Words of a written range made poisoned, where the data came poisoned (R190, R209). -/
def poisonSegs (s : State) (poison : List Nat) : Nat → List Seg → State
  | _, [] => s
  | k, g :: l =>
    let n := g.len / 32
    let s := if g.space ≠ 0 then s
      else (poison.filter fun w => k ≤ w ∧ w < k + n).foldl (fun s w => poisonWord s (g.pa + 32 * (w - k))) s
    poisonSegs s poison (k + n) l

/-- Data written at a context's virtual address by a stream, tile by packet (R189, R284), with its poison; none where it
stalls. -/
def vaWrite (s : State) (req : Requester) (va : Nat) (data : List Byte) (poison : List Nat) : State × Bool :=
  if data.isEmpty then (s, true)
  else
    match tile s req va data.length true with
    | (s, some segs) => (poisonSegs (segWrite s req.ctx 3 segs data) poison 0 segs, true)
    | (s, none) => (s, false)

/-- A u64 of a CORE endpoint's control block read (R177). -/
def coreCount (s : State) (req : Requester) (addr : Nat) : State × Option Nat :=
  match tile s req addr 8 false with
  | (s, some segs) => let r := readSegs s req.ctx segs; (r.1, some (leNat r.2))
  | (s, none) => (s, none)

/-- The counts of a stream's CORE endpoints that are not in memory yet written there (R183, R184); one whose write stalls stays
due (R286). -/
def writeCounts (s : State) (i : Nat) : State :=
  let put (s : State) (addr n : Nat) (x : Stream → Stream) : State :=
    match vaWrite s (streamReq s i 0 0xFFFF 0) addr (leBytes 8 (n % 2 ^ 64)) [] with
    | (s, true) => s.setStream i (x (s.stream i))
    | (s, false) => s
  let x := s.stream i
  let s := if x.prodDue then put s x.snk.control x.coreWritten fun x => { x with prodDue := false } else s
  if x.consDue then put s (x.src.control + 8) x.srcDone fun x => { x with consDue := false } else s

/-- A packet's data placed in a CORE sink's ring, the whole of its range translated first (R284); the producer count rises by the
slots completed (R177, R182). -/
def placeCore (s : State) (i : Nat) (data : List Byte) (poison : List Nat) : State × Placed :=
  let x := s.stream i
  let sz := x.snk.opt * 256
  let ring := sz * x.snk.size
  let req := streamReq s i 0 0xFFFF 0
  match tileAll s req true ((ringRanges ring 66 x.ringAt data.length).map fun r => (x.snk.base + r.1, r.2)) with
  | (s, none) => (s, .waits)
  | (s, some segs) =>
    let s := poisonSegs (segWrite s x.ctx 3 segs data) poison 0 segs
    let done := (x.ringAt + data.length) / sz - x.ringAt / sz
    let y := s.stream i
    let s := s.setStream i
      { y with ringAt := (x.ringAt + data.length) % ring, coreWritten := x.coreWritten + done, prodDue := y.prodDue || done != 0 }
    (writeCounts s i, .done)

/-- The stream fills its addressable sink as a ring: its source is a window, or another device's (R178). -/
def ringSink (x : Stream) : Bool := x.src.kind == Kind.CELL || x.src.kind == Kind.CORE || x.src.kind == Kind.REMOTE

/-- The sink is addressable and on this device (R177). -/
def addressable (x : Stream) : Bool := x.snk.kind == Kind.MEMORY || x.snk.kind == Kind.HOST

/-- Ranges of an addressable sink that `n` bytes at offset `dst` take (R178). -/
def sinkRanges (x : Stream) (dst n : Nat) : List (Nat × Nat) :=
  (if ringSink x then ringRanges x.snk.size 66 (dst % max 1 x.snk.size) n else [(dst, n)]).map fun r => (x.snk.base + r.1, r.2)

/-- Tiles at a HOST endpoint, one after another; none where one stalls. -/
def hostTiles (s : State) (req : Requester) (write : Bool) : List (Nat × Nat) → State × Option (List Seg)
  | [] => (s, some [])
  | (h, n) :: l =>
    match hostTile s req h n write with
    | (s, none) => (s, none)
    | (s, some segs) =>
      match hostTiles s req write l with
      | (s, none) => (s, none)
      | (s, some rest) => (s, some (segs ++ rest))

/-- The range of an addressable sink translated for a packet (R282, R284); nothing to translate at another sink. -/
def sinkTile (s : State) (req : Requester) (i dst n : Nat) : State × Option (List Seg) :=
  let x := s.stream i
  if x.snk.kind = Kind.MEMORY then tileAll s req true (sinkRanges x dst n)
  else if x.snk.kind = Kind.HOST then hostTiles s req true (sinkRanges x dst n)
  else (s, some [])

/-- Ports allowed to a stream's data writes (R328). -/
def sinkPorts (x : Stream) : Nat := if x.snk.kind = Kind.HOST then x.snk.opt else 3

/-- The cell operation for which a stream writes, the earliest it may be: that of the transfer, or of the slots handed over
and not acknowledged (R261). -/
def cellWriter (s : State) (i : Nat) (xfer : Option Nat) : Option (Nat × Nat) :=
  let x := s.stream i
  match xfer.bind x.xfer with
  | some t => if t.issuer = 2 then some (t.owner, t.op) else none
  | none => if x.src.kind = Kind.CELL then some (endCell s x.ctx x.src, ((x.hands.map (·.op)).min?).getD 0) else none

/-- Transfer data written to a piece of host memory: Relaxed Ordering by HP_CTL.RO_DATA (R330); the port is one that carries
the transfer, and the line the last written there. A cell's write is accepted, and performed once it is read back (R256, R263). -/
def hostData (s : State) (i : Nat) (xfer : Option Nat) (port : Nat) (g : Seg) (data : List Byte) : State :=
  let s := toHost s port g.pa data (bit (rd s 0 (hpReg port Reg.HP_CTL)) 0)
  let s := match cellWriter s i xfer with
    | some (c, op) => noteWrite s (.cell (s.stream i).ctx c) op port (g.pa + g.len - 1) (earlyAck s 1 1 g.pa)
    | none => s
  match xfer with
  | none => s
  | some id =>
    s.setStream i ((s.stream i).mapXfer id fun t =>
      { t with ports := t.ports ||| 2 ^ port, lastPort := port, lines := t.lines.set port ((g.pa + g.len - 1) / 64 * 64) })

/-- Data of a packet written to the pieces of its sink range, in address order (R191, R328). -/
def placeSegs (s : State) (i : Nat) (xfer : Option Nat) : List Seg → List Byte → State
  | [], _ => s
  | g :: l, data =>
    let part := data.take g.len
    let s :=
      if g.space = 0 then devWrite s .engine g.pa part
      else hostData s i xfer ((hostPort s (sinkPorts (s.stream i)) g.io).getD 0) g part
    placeSegs s i xfer l (data.drop g.len)

/-- A packet's data placed in an addressable sink. It waits while a piece in host memory finds no allowed port in service
(R192, R333). -/
def placeAddr (s : State) (i : Nat) (xfer : Option Nat) (segs : List Seg) (data : List Byte) (poison : List Nat) :
    State × Placed :=
  let x := s.stream i
  if segsHeld s segs ∨ segs.any fun g => g.space = 1 && (hostPort s (sinkPorts x) g.io).isNone then (s, .waits)
  else
    let s := poisonSegs (placeSegs s i xfer segs data) poison 0 segs
    (if x.snk.kind = Kind.MEMORY ∧ bit x.snk.opt 6 then stashOffers s (x.snk.opt % 64) segs else s, .done)

/-- A packet's data placed at its stream's local sink, or found stale (R184, R193). The sink range of an addressable sink is
the one translated as the packet was sent; a receiving half translates it here. -/
def placeData (s : State) (i : Nat) (xfer : Option Nat) (dst : Nat) (segs : Option (List Seg)) (data : List Byte)
    (poison : List Nat) : State × Placed :=
  let x := s.stream i
  if x.snk.kind = Kind.CELL then
    match sinkCounter s i with
    | none => (s, .stale)
    | some c => placeCell s i c data poison
  else if x.snk.kind = Kind.CORE then placeCore s i data poison
  else if addressable x then
    match segs with
    | some l => placeAddr s i xfer l data poison
    | none =>
      match sinkTile s (streamReq s i 0 0xFFFF 0) i dst data.length with
      | (s, none) => (s, .waits)
      | (s, some l) => placeAddr s i xfer l data poison
  else (s, .stale)

/-- A stale packet counted at the receiving engine (R193, R201). -/
def countStale (s : State) (floor handle dev : Nat) : State :=
  let s := count s (steReg floor Reg.STE_STALE_CNT) 1
  let s := wr s 0 (steReg floor Reg.STE_STALE_LAST) handle
  wr s 0 (steReg floor Reg.STE_STALE_DEV) (dev % 2 ^ 20)

/-! ## Ends of transfers (R184, R190, R191) -/

/-- The slot of a local window sink in which a transfer ended is closed: it counts as filled (R184), so the credits for the rest
of it are spent too, by a local sender at once and by a sending half out of those granted next (notes/assumptions/18.md). -/
def closeSlot (s : State) (i : Nat) : State :=
  let x := s.stream i
  match sinkShape s i with
  | none => s
  | some (sz, n) =>
    if sz = 0 ∨ x.ringAt % sz = 0 then s
    else
      let rest := (sz - x.ringAt % sz) / 256
      let x := { x with ringAt := (x.ringAt / sz + 1) * sz % (sz * n) }
      let x := if x.src.kind = Kind.REMOTE then { x with debt := x.debt + rest } else { x with credits := x.credits - rest }
      if x.snk.kind = Kind.CELL then bumpCounter (s.setStream i x) (endCell s x.ctx x.snk) x.ctx (sinkKey x.snk) 1
      else writeCounts (s.setStream i { x with coreWritten := x.coreWritten + 1, prodDue := true }) i

/-- A cell operation changed in the contents that its context has in the cell. -/
def mapOp (s : State) (cell ctx op : Nat) (f : Op → Op) : State :=
  match imgOf s cell ctx with
  | none => s
  | some i => setImg s cell ctx { i with ops := i.ops.map fun o => if o.id = op then f o else o }

/-- The descriptor and track of a cell's operation. -/
def opPlace (s : State) (cell ctx op : Nat) : Nat × Nat :=
  match (imgOf s cell ctx).bind fun i => i.ops.find? (·.id = op) with
  | some o => (o.track, o.desc)
  | none => (0, 0)

/-- One thing less that an operation waits for; with none left it is carried out. -/
def opPart (s : State) (cell ctx op : Nat) : State :=
  mapOp s cell ctx op fun o => { o with left := o.left - 1, stage := if o.left ≤ 1 then .executed else o.stage }

/-- The value written to a done flag, 8 bytes through the context's translation (R191): a flag in host memory goes on the
port of the transfer's last data write (R328). True where it is done. -/
def writeFlag (s : State) (req : Requester) (addr value : Nat) (port : Option Nat) : State × Bool :=
  match tile s req addr 8 true with
  | (s, some segs) =>
    if noPort s segs then (s, false)
    else
      match port, segs with
      | some p, [g] =>
        if g.space = 1 ∧ (s.port p).inService then (toHost s p g.pa (leBytes 8 value) false, true)
        else (ctxWrite s req.ctx segs (leBytes 8 value), true)
      | _, _ => (ctxWrite s req.ctx segs (leBytes 8 value), true)
  | (s, none) => (s, false)

/-- A sink whose credits bound what its sender may send, so that a packet needs them. A MEMORY or HOST sink on this device grants
one for each unit as it accepts it, which a packet spends as it is placed: they limit nothing, and none is held between
packets (R182; notes/assumptions/104.md). -/
def needsCredits (x : Stream) : Bool :=
  x.snk.kind == Kind.CELL || x.snk.kind == Kind.CORE || x.snk.kind == Kind.REMOTE

/-- Floor whose engine receives a stream's packets. -/
def sinkFloor (s : State) (i : Nat) : Nat :=
  let x := s.stream i
  (cellFloorOf s x.ctx x.snk).getD x.home

/-- A packet's fate set. -/
def setFate (s : State) (id fate : Nat) : State :=
  { s with str := { s.str with packets := s.str.packets.map fun p => if p.id = id then { p with fate := fate } else p } }

/-- The packets of a stream that are not placed yet taken off the network; what they spent comes back. -/
def dropPackets (s : State) (i : Nat) : State :=
  let gone (p : Packet) : Bool := p.index == i && p.onWay
  let n := ((s.str.packets.filter gone).map fun p => ceilDiv p.data.length 256).foldl (· + ·) 0
  let s := { s with str := { s.str with packets := s.str.packets.filter fun p => !gone p } }
  if needsCredits (s.stream i) then s.setStream i { s.stream i with credits := (s.stream i).credits + n } else s

/-- The packets of a stream on their way to its local sink as a transfer of it ends early: they are placed in order, and from
the first that cannot be on they are dropped. A HOST sink gets no more (R192). -/
def landPackets (s : State) (i : Nat) : List Packet → State
  | [] => s
  | p :: l =>
    if p.fate = 1 ∨ p.fate = 2 then landPackets s i l
    else if p.fate = 3 ∨ (s.stream i).snk.kind = Kind.HOST then dropPackets s i
    else
      match placeData s i p.xfer p.dst p.segs p.data p.poison with
      | (t, .done) => landPackets (setFate t p.id 1) i l
      | (t, .stale) => landPackets (setFate (countStale t (sinkFloor t i) p.handle p.dev) p.id 2) i l
      | (t, .waits) => dropPackets t i

/-- A transfer's end puts what its stream has on the way to a local sink where it belongs. -/
def landStream (s : State) (i : Nat) : State :=
  if (s.stream i).snk.kind = Kind.REMOTE then s else landPackets s i (s.str.packets.filter (·.index = i))

/-- A transfer that ends with a status other than OK (R190): recorded in the stream, an error record, vector 16 × id + 2,
and its issuer told. Every ending but DESTROYED and STALE closes the slot it stands in (R184). -/
def failXfer (s : State) (i id status : Nat) : State :=
  let x := s.stream i
  match x.xfer id with
  | none => s
  | some t =>
    let h := handleOf s i
    let s := s.setStream i
      { x with xfers := x.xfers.filter (·.id != id), lastStatus := status, lastFailSeq := t.seq, lastSeq := t.seq }
    let s := if status = XferSt.DESTROYED ∨ status = XferSt.STALE ∨ t.sent = 0 then s else closeSlot (landStream s i) i
    let lc := if t.issuer = 2 then logicalOf (s.ctx x.ctx) t.owner else 0xFFFF
    let s := raiseCtxVector s x.ctx 2
    let s := raiseError s
      { sev := 2, type := Err.XFER_FAILED, die := 2 + x.home, inst := x.ctx, ctx := some x.ctx, seq := t.seq,
        detail := [h, status, t.issuer, lc] }
    if t.issuer = 1 then
      if status = XferSt.FAULT_FAILED then haltQueue s x.ctx t.owner CmdErr.FAULT_FAILED
      else setStage (setWaits s x.ctx t.owner (status + 1)) x.ctx t.owner .performed
    else if ((imgOf s t.owner x.ctx).map fun i => i.ops.any (·.id = t.op)).getD false then
      let (tr, d) := opPlace s t.owner x.ctx t.op
      failOp s t.owner x.ctx t.op CellFault.ENGINE_FAULT tr d
    else s

/-- Every transfer of a stream ended with a status. -/
def failAll (s : State) (i status : Nat) : State :=
  ((s.stream i).xfers.map (·.id)).foldl (fun s id => failXfer s i id status) s

/-- A transfer whose data is performed and whose read-backs are done ends OK (R190, R191): its done flag is written, its
vector raised, its issuer told. It stays where the flag's write stalls. -/
def endXferOk (s : State) (i id : Nat) : State :=
  let x := s.stream i
  match x.xfer id with
  | none => s
  | some t =>
    let (s, done) := match t.flag with
      | some (a, v) => if t.flagged then (s, true) else writeFlag s (xferReq s i t) a v (if t.ports = 0 then none else some t.lastPort)
      | none => (s, true)
    if !done then s
    else if t.flag.isSome ∧ copiesOpen s (s.ctx x.ctx).copies then
      s.setStream i ((s.stream i).mapXfer id fun t => { t with flagged := true })
    else
      let s := closeSlot s i
      let x := s.stream i
      let s := s.setStream i { x with xfers := x.xfers.filter (·.id != id), lastStatus := XferSt.OK, lastSeq := t.seq }
      let s := if t.irq then raiseCtxVector s x.ctx 0 else s
      if t.issuer = 1 then setStage s x.ctx t.owner .performed else opPart s t.owner x.ctx t.op

/-- Units of a hand-over that lie among the `n` units from place `at_` of those handed over to the stream. -/
def Hand.among (h : Hand) (at_ n : Nat) : Nat := min (h.start + h.units) (at_ + n) - max h.start at_

/-- Units of a hand-over that a packet carries. -/
def Hand.inPacket (h : Hand) (p : Packet) : Nat := (p.fromUnit.map fun u => h.among u (ceilDiv p.data.length 256)).getD 0

/-- The units of a packet acknowledged: each counts for the hand-over that holds it (R183, R194). -/
def ackHands (p : Packet) (l : List Hand) : List Hand := l.map fun h => { h with acked := h.acked + h.inPacket p }

/-- Slots that a hand-over stands for, at a slot size in units. -/
def Hand.slots (h : Hand) (size : Nat) : Nat := if size = 0 then 0 else h.units / size

/-- A hand-over that is acknowledged whole leaves the stream (R183, R195): its SEND is carried out, or its slot returns to its
producer, where the credit counter is still bound to the stream. -/
def returnHand (s : State) (i : Nat) (h : Hand) : State :=
  let x := s.stream i
  let s := s.setStream i { x with hands := x.hands.erase h }
  if h.cell = 0xFFFF then
    writeCounts (s.setStream i { s.stream i with srcDone := x.srcDone + h.slots x.src.opt, consDue := true }) i
  else if h.send then opPart s h.cell x.ctx h.op
  else
    match imgOf s h.cell x.ctx with
    | none => s
    | some img =>
      let c := img.ctr h.counter
      if c.bound ∧ c.peer = 2 ∧ c.handle = handleOf s i then bumpCounter s h.cell x.ctx h.counter 1 else s

/-- The hand-overs that are acknowledged whole leave the stream: a SEND's wherever it stands, a slot in the order of the ring,
behind no slot that is not (R54, R183). -/
def returnHands (s : State) (i : Nat) : Bool → List Hand → State
  | _, [] => s
  | free, h :: l =>
    if h.acked < h.units then returnHands s i (free && h.send) l
    else if h.send || free then returnHands (returnHand s i h) i free l
    else returnHands s i free l

/-- A packet acknowledged at its sender (R182): it is off the network, its bytes count as delivered, its transfer or its
slots move on. -/
def ackPacket (s : State) (p : Packet) : State :=
  let s := { s with str := { s.str with packets := s.str.packets.filter (·.id != p.id) } }
  let x := s.stream p.index
  let n := p.data.length
  let x := { x with delivered := x.delivered + n }
  match p.xfer with
  | some id =>
    s.setStream p.index (x.mapXfer id fun t => { t with acked := t.acked + n })
  | none =>
    let s := s.setStream p.index { x with hands := ackHands p x.hands }
    returnHands s p.index true (s.stream p.index).hands

/-! ## Destruction (R180) -/

/-- A stream's generation advances and its index is freed (R174). -/
def freeStream (s : State) (i : Nat) : State :=
  let x := s.stream i
  let s := s.setStream i { Stream.idle with gen := if x.gen = 4095 then 1 else x.gen + 1 }
  { s with str := { s.str with freed := s.str.freed ++ [i] } }

/-- Step 4 of R180, once no packet of the stream is in flight; a STREAM_DESTROY command that waited is carried out. -/
def finishDestroy (s : State) (i : Nat) : State :=
  let x := s.stream i
  if x.st = .destroying ∧ !(s.str.packets.any fun p => p.index = i) then
    let s := freeStream s i
    match x.destroyBy with
    | some (c, idx) => setStage s c idx .performed
    | none => s
  else s

/-- Steps 1 and 2 of R180. -/
def beginDestroy (s : State) (i : Nat) (who : Option (Nat × Nat)) : State :=
  let s := s.setStream i { s.stream i with st := .destroying, destroyBy := who }
  failAll s i XferSt.DESTROYED

/-- The whole of R180 in one step, for CTXM operations and returned cells: packets in flight are placed and acknowledged
before the index is freed (notes/assumptions/13.md). -/
def destroyStream (s : State) (i : Nat) : State :=
  let s := if (s.stream i).st = .destroying then s else beginDestroy s i none
  let s := (s.str.packets.filter fun p => p.index = i).foldl (fun s p =>
    let s := if p.fate = 0 ∧ (s.stream i).snk.kind ≠ Kind.REMOTE then (placeData s i p.xfer p.dst p.segs p.data p.poison).1 else s
    { s with str := { s.str with packets := s.str.packets.filter (·.id != p.id) } }) s
  freeStream s i

/-- The live indices of a context. -/
def streamsOf (s : State) (ctx : Nat) : List Nat :=
  (tkeys s.str.streams).filter fun i => (s.stream i).st != .free && (s.stream i).ctx = ctx

/-! ## The state a stream takes when its sink refuses it (R194) -/

/-- A stream becomes dead: its transfers end STALE, its SENDs of the hand-overs that are lost fault, its slots stay
unreturned. -/
def killHands (lost : Hand → Bool) (s : State) (i : Nat) : State :=
  let x := s.stream i
  let s := s.setStream i { x with st := if x.st = .live ∨ x.st = .detached then .dead else x.st }
  let s := failAll s i XferSt.STALE
  x.hands.foldl (fun s h =>
    if h.send && lost h then
      let (tr, d) := opPlace s h.cell x.ctx h.op
      failOp s h.cell x.ctx h.op CellFault.ENGINE_FAULT tr d
    else s) s

/-- A stream becomes dead with all that it holds. -/
def killStream (s : State) (i : Nat) : State := killHands (fun _ => true) s i

/-- A hand-over that a refused packet ends: some of its units were in the packet, or are not sent and never will be (R194). -/
def Packet.ends (p : Packet) (h : Hand) : Bool :=
  decide (h.sent < h.units) || h.inPacket p != 0

end Sys2Proof.Machine
end

