-- ==== Sys2Proof/Machine/Power.lean ====
section
/-!
DEFINITION. The power manager (17_power_and_heat.md) and the fatal events of the dies: telemetry and energy accounts, the
fast loop, the cap loop and the thermal loop, emergencies and trips, the estimator and ageing, clock stops.
-/

namespace Sys2Proof.Machine

/-- Die codes of the cell dies, the floor dies, the link dies, the stacks. -/
def cellDieCodes : List Nat := (List.range 8).map (· + 8)

/-- Bit `i` of PWR_STATUS set or cleared. -/
def pwrStatus (s : State) (i : Nat) (b : Bool) : State := setFld s 0 (pwrReg Reg.PWR_STATUS) i i (b2n b)

/-! ## Telemetry and energy accounts (R394, R395, R409) -/

/-- A die's hottest sensor (R394, R413). -/
def takeTemp (s : State) (die t : Nat) : State :=
  let a := pwrReg Reg.PWR_DIE_TEMP
  let t := t % 65536
  setFld (setFld s die a 31 16 (max t (fld s die a 31 16))) die a 15 0 t

/-- A die's power in a sample, and its average over the last 20 samples, which are 1 ms (R394; notes/assumptions/29.md). -/
def takeWatts (s : State) (die mw : Nat) : State :=
  let x := s.die die
  let l := (mw :: x.samples).take 20
  let s := s.setDie die { x with samples := l }
  setFld s die (pwrReg Reg.PWR_DIE_W) 15 0 (min 65535 (l.foldl (· + ·) 0 / (1000 * l.length)))

/-- Energy in nJ charged to contexts, what no live context takes being unattributed, so that the accounts sum to the
package's energy (R409). -/
def chargeAll (s : State) : Nat → List (Nat × Nat) → State
  | left, [] => { s with pwr := { s.pwr with unattributed := s.pwr.unattributed + left } }
  | left, (c, e) :: l =>
    let n := min left e
    if c < 64 ∧ (s.ctx c).live then
      let s := s.setCtx c { s.ctx c with energyUsed := (s.ctx c).energyUsed + n }
      chargeAll s (left - n) l
    else chargeAll s left l

/-- Counts of a die's payers in a sample. -/
def sharesOf (o : PowerObs) (die : Nat) : List (Nat × Nat) := (o.shares.filter (·.1 = die)).map Prod.snd

/-- The energy of a cell die, in nJ, by context (R409): of the leakage a fortieth for each occupied cell, of the rest a share by the
activity of its cells. -/
def cellEnergy (s : State) (o : PowerObs) (die mw : Nat) : List (Nat × Nat) :=
  let leak := min mw (((o.leak.find? (·.1 = die)).map Prod.snd).getD 0)
  let w := sharesOf o die
  let weight (p : Nat) : Nat := (w.filter (·.1 = p)).foldl (fun a q => a + q.2) 0
  let cells := dieCells (die - 8)
  let all := max 1 ((cells.map weight).foldl (· + ·) 0)
  cells.filterMap fun p => (s.cell p).runner.map fun c => (c, leak * 50 / 40 + (mw - leak) * 50 * weight p / all)

/-- The energy of a die of `mw` in one sample by context (R409): none of the hub's and the guest's. -/
def dieEnergy (s : State) (o : PowerObs) (die mw : Nat) : List (Nat × Nat) :=
  if cellDieCodes.contains die then cellEnergy s o die mw
  else if die = 0 ∨ die = 6 then []
  else
    let w := sharesOf o die
    let all := max 1 (w.foldl (fun a q => a + q.2) 0)
    w.map fun q => (q.1, mw * 50 * q.2 / all)

/-- Ticks from one sample, fast loop and cap period to the next: 50 µs, 10 µs, 1 ms (R394, R401, R402). -/
abbrev sampleTicks : Nat := 6250
abbrev fastTicks : Nat := 1250

/-- A sample of 50 µs: temperatures, powers, energies; budgets that are reached (R394, R404, R409, R410). -/
def sampleIn (s : State) (o : PowerObs) : State :=
  if s.cic.count < s.pwr.sampleAt then s
  else
  let real := fun p : Nat × Nat => dieCodes.contains p.1 || p.1 == 6
  let s := (o.temps.filter real).foldl (fun s p => takeTemp s p.1 p.2) s
  let w := o.watts.filter real
  let s := w.foldl (fun s p => takeWatts s p.1 p.2) s
  let nj := (w.map fun p => p.2 * 50).foldl (· + ·) 0
  let warm : Bool := dieCodes.any fun d => 1600 < fld s d (pwrReg Reg.PWR_DIE_TEMP) 15 0
  let s := { s with pwr := { s.pwr with
    energy := s.pwr.energy + nj, sampleAt := s.cic.count + sampleTicks, coolAt := if warm then s.cic.count else s.pwr.coolAt } }
  let s := chargeAll s nj (w.flatMap fun p => dieEnergy s o p.1 p.2)
  (List.range 64).foldl budgetCheck s

/-- TELEMETRY_SAMPLE. -/
def execTelemetrySample (o : PowerObs) (s : State) : Host.Outcome State Fault Refusal := .next (sampleIn s o)

/-- TELEMETRY_LOST (R395): the dies of a silent regulator are measured by their own sensors; a cell die whose sensors have
failed too is held at OP 0 with duty 1/8 until a warm device reset. -/
def telemetryLost (s : State) (dies failed : List Nat) : State :=
  let s := dies.foldl (fun s d =>
    s.setDie d { s.die d with sensorOnly := true, sensorsFailed := (s.die d).sensorsFailed || failed.contains d }) s
  let s := raiseError (pwrStatus s 24 true) { sev := 0, type := Err.TELEMETRY_LOST, die := 0, inst := 0 }
  repoint s

/-- TELEMETRY_LOST. -/
def execTelemetryLost (dies sensorsFailed : List Nat) (s : State) : Host.Outcome State Fault Refusal :=
  run (dies.all okDie) (telemetryLost s dies sensorsFailed)

/-! ## The fast loop (R401) -/

/-- One millisecond in ticks. -/
abbrev msTicks : Nat := 125000

/-- A cell die lowered one point by the fast loop, not to be raised for 1 ms. -/
def fastLower (s : State) (d : Nat) : State :=
  let x := s.die (8 + d)
  beginPoint (s.setDie (8 + d) { x with curCeil := pointOf s d - 1, raiseAt := s.cic.count + msTicks }) d

/-- A cell die's current ceiling rises one point, at most once in 1 ms; the die moves to its point where cells have started or
stopped on it (R66, R399). -/
def fastRaise (s : State) (d : Nat) : State :=
  let x := s.die (8 + d)
  if x.curCeil < 15 ∧ x.raiseAt ≤ s.cic.count then
    beginPoint (s.setDie (8 + d) { x with curCeil := x.curCeil + 1, raiseAt := s.cic.count + msTicks }) d
  else beginPoint s d

/-- The same for the clusters on VDD_CORE, in steps of 100 MHz (R400, R401). -/
def fastCore (s : State) (ovr : Bool) : State :=
  if ovr then
    { s with pwr := { s.pwr with coreCur := max 8 (coreFreq s - 1), coreRaiseAt := s.cic.count + msTicks } }
  else if s.pwr.coreCur < 32 ∧ s.pwr.coreRaiseAt ≤ s.cic.count then
    { s with pwr := { s.pwr with coreCur := s.pwr.coreCur + 1, coreRaiseAt := s.cic.count + msTicks } }
  else s

/-- PWR_EDC as it applies, in mA: at most 260 A, and 5% less while the estimator is suspect (R401, R407). -/
def currentLimit (s : State) : Nat :=
  let a := min 260 (fld s 0 (pwrReg Reg.PWR_EDC) 8 0)
  if s.pwr.suspect then a * 950 else a * 1000

/-- A rail, named by the die code that it feeds, draws more than the limit. -/
def railOver (s : State) (amps : List (Nat × Nat)) (die : Nat) : Bool :=
  amps.any fun p => p.1 == die && decide (currentLimit s < p.2)

/-- The fast loop, every 10 µs. -/
def fastLoop (s : State) (amps : List (Nat × Nat)) : State :=
  if s.cic.count < s.pwr.fastAt then s
  else
    let s := { s with pwr := { s.pwr with fastAt := s.cic.count + fastTicks } }
    (List.range 8).foldl (fun s d => if railOver s amps (8 + d) then fastLower s d else fastRaise s d) (fastCore s (railOver s amps 1))

/-- FAST_LOOP (R401): average current in mA of the rails, by the die code that each feeds. -/
def execFastLoop (amps : List (Nat × Nat)) (s : State) : Host.Outcome State Fault Refusal :=
  run (amps.all fun p => okControlled p.1) (fastLoop s amps)

/-- A droop detector's trip: counted; the third within 1 ms lowers the die as the fast loop does (R401). -/
def droop (s : State) (d : Nat) : State :=
  let s := countFld s 0 (pwrReg Reg.PWR_DROOP) 31 0 1
  let x := s.die (8 + d)
  let l := (x.droops.filter fun t => s.cic.count < t + msTicks) ++ [s.cic.count]
  if 3 ≤ l.length then fastLower (s.setDie (8 + d) { x with droops := [] }) d else s.setDie (8 + d) { x with droops := l }

/-- DROOP_TRIP. -/
def execDroopTrip (die : Nat) (s : State) : Host.Outcome State Fault Refusal := run (okCellDie die) (droop s die)

/-- OP_CHANGE_DONE (R397): voltage and clock have moved; the die is at its point. -/
def opDone (s : State) (d : Nat) : State := s.setDie (8 + d) { s.die (8 + d) with op := (s.die (8 + d)).target }

/-- OP_CHANGE_DONE. -/
def execOpChangeDone (die : Nat) (s : State) : Host.Outcome State Fault Refusal := run (okCellDie die) (opDone s die)

/-! ## The thermal loop (R404) -/

/-- Hottest sensor of a die now, in 1/16 °C. -/
def tempOf (s : State) (die : Nat) : Nat := fld s die (pwrReg Reg.PWR_DIE_TEMP) 15 0

/-- Dies whose heat lowers cell die `d`: itself, its floor, the stacks on its floor, the hub and the link dies. -/
def heatSources (d : Nat) : List Nat :=
  let f := d / 2
  [8 + d, 2 + f, 24 + 2 * f, 25 + 2 * f, 0, 16, 17, 18, 19]

/-- Heat of a die as the thermal loop compares it with 100 °C: a stack's is counted from the limit of its standard. -/
def heatOf (s : State) (die : Nat) : Nat := if 24 ≤ die then tempOf s die + 1600 - Config.stackLimit else tempOf s die

/-- The thermal ceiling after a cap period: `hot` since 100 °C until 98 °C it falls by one; at or below 98 °C it rises by one
in 10 ms (R404). The next ceiling, whether it falls, the next rise. -/
def thermStep (temp ceil floor_ top : Nat) (hot : Bool) (at_ now : Nat) : Nat × Bool × Nat :=
  let hot := decide (1600 ≤ temp) || (hot && decide (1568 < temp))
  if hot then (max floor_ (ceil - 1), true, now + 10 * msTicks)
  else if temp ≤ 1568 ∧ ceil < top ∧ at_ ≤ now then (ceil + 1, false, now + 10 * msTicks)
  else (ceil, false, at_)

/-- The thermal loop in one cap period. -/
def thermalLoop (s : State) : State :=
  let s := (List.range 8).foldl (fun s d =>
    let x := s.die (8 + d)
    let t := (heatSources d).foldl (fun a i => max a (heatOf s i)) 0
    let (c, h, a) := thermStep t x.thermCeil 0 15 x.hot x.thermAt s.cic.count
    s.setDie (8 + d) { x with thermCeil := c, hot := h, thermAt := a }) s
  let (c, h, a) := thermStep (tempOf s 1) s.pwr.coreTherm 8 32 s.pwr.coreHot s.pwr.coreThermAt s.cic.count
  let s := { s with pwr := { s.pwr with coreTherm := c, coreHot := h, coreThermAt := a } }
  pwrStatus s 27 (s.pwr.coreTherm < 32 || (List.range 8).any fun d => decide ((s.die (8 + d)).thermCeil < 15))

/-! ## The effective cap (R403, R405, R406) -/

/-- PWR_CAP as it applies (R403). -/
def capWatts (s : State) : Nat := min 2500 (fld s 0 (pwrReg Reg.PWR_CAP) 15 0)

/-- A list in rising order. -/
def sortNat : List Nat → List Nat
  | [] => []
  | x :: l => let t := sortNat l; t.takeWhile (· ≤ x) ++ [x] ++ t.dropWhile (· ≤ x)

/-- The median of a list, the mean of the two middle values where their number is even (notes/assumptions/29.md). -/
def median (l : List Nat) : Nat :=
  let t := sortNat l
  let n := t.length
  if n % 2 = 1 then nth t (n / 2) else (nth t (n / 2 - 1) + nth t (n / 2)) / 2

/-- The shift after a cap period, in 1/256 W (R405). -/
def shiftStep (s : State) : State :=
  let ctl := rd s 0 (pwrReg Reg.PWR_SHIFT_CTL)
  let p := s.pwr
  if !bit ctl 31 then { s with pwr := { p with shift := 0 }, lnk := { s.lnk with lagSample := none } }
  else
    let cap : Int := capWatts s
    let hi : Int := fld s 0 (pwrReg Reg.PWR_SHIFT_RANGE) 31 16
    let lo : Int := fld s 0 (pwrReg Reg.PWR_SHIFT_RANGE) 15 0
    match s.lnk.lagSample with
    | some (mine, lags) =>
      let med : Int := median lags
      let d : Int := if med = 0 then 0 else max (-med) (min med (med - mine))
      let goal : Int := if med = 0 then 0 else if 0 ≤ d then 256 * d * (hi - cap) / med else 256 * d * (cap - lo) / med
      { s with pwr := { p with shift := p.shift + (goal - p.shift) / 8 }, lnk := { s.lnk with lagSample := none } }
    | none => if s.lnk.lagAt + 100 * msTicks ≤ s.cic.count then { s with pwr := { p with shift := p.shift - p.shift / 8 } } else s

/-- The effective cap in watts: shifted within its range, and 5% less while the estimator is suspect (R405, R406). -/
def effCap (s : State) : Nat :=
  let cap := capWatts s
  let c : Nat :=
    if bit (rd s 0 (pwrReg Reg.PWR_SHIFT_CTL)) 31 then
      let v : Int := (cap : Int) + s.pwr.shift / 256
      (max (fld s 0 (pwrReg Reg.PWR_SHIFT_RANGE) 15 0 : Int) (min (fld s 0 (pwrReg Reg.PWR_SHIFT_RANGE) 31 16 : Int) v)).toNat
    else cap
  if s.pwr.suspect then c * 95 / 100 else c

/-! ## The cap loop (R402) -/

/-- Cell clock of a point in MHz (R396). -/
def pointMhz (n : Nat) : Nat := nth [400, 447, 493, 540, 587, 633, 680, 727, 773, 820, 867, 913, 960, 1007, 1053, 1100] n

/-- Leakage and dynamic reference power at a voltage (0.1 mV) and a point, in mW (R396). -/
def leakMw (v : Nat) : Nat := 25000 * v * v * v / (8250 * 8250 * 8250)
def dynMw (v n : Nat) : Nat := 180 * v * v * pointMhz n / 100000000

/-- Settings of the cap loop. -/
structure CapSet where
  core : Nat
  /-- Point and duty of each cell die. -/
  dies : List (Nat × Nat)
  deriving DecidableEq, Repr

/-- The settings in force. -/
def capNow (s : State) : CapSet where
  core := coreFreq s
  dies := (List.range 8).map fun d => (pointOf s d, (s.die (8 + d)).capDuty)

/-- Measured power of a die, in mW: the 1 ms average (R394). -/
def dieMw (s : State) (die : Nat) : Nat :=
  let l := (s.die die).samples
  l.foldl (· + ·) 0 / max 1 l.length

/-- Measured power of some dies, and of the package (R394). -/
def sumMw (s : State) (l : List Nat) : Nat := (l.map (dieMw s)).foldl (· + ·) 0
def packageMw (s : State) : Nat := sumMw s (6 :: dieCodes)

/-- Estimated power of some settings, in mW: that of the dies that are not controlled is as measured
(notes/assumptions/29.md). -/
def estimate (s : State) (o : CapObs) (c : CapSet) : Nat :=
  sumMw s ((6 :: dieCodes).filter fun d => d != 1 && !cellDieCodes.contains d) + c.core * o.coreStep + ((c.dies.zipIdx).map fun p =>
    let d := p.2
    let x := s.die (8 + d)
    let v := pointVolts p.1.1 x.margin
    let act := ((o.activity.find? (·.1 = d)).map Prod.snd).getD 0
    if s.offline (8 + d) then 0
    else (leakMw v + dynMw v p.1.1 * (p.1.2 + 1) * act / 8000) * x.coeff / 1000).foldl (· + ·) 0

/-- The forecast: the estimate scaled by measured over estimated power of the period (R402). -/
def forecast (s : State) (o : CapObs) (c : CapSet) : Nat := estimate s o c * packageMw s / max 1 (estimate s o (capNow s))

/-- A latency context with an open deadline window has cells on a die (R221, R402). -/
def windowOn (s : State) (d : Nat) : Bool :=
  (List.range 64).any fun c =>
    (s.ctx c).live && (s.ctx c).window && (logicalCells (s.ctx c)).any fun p => cellDie p = d

/-- Limit of step 1 in units of 100 MHz (R413). -/
def coreMin (s : State) : Nat := max 8 (min 32 (fld s 0 (pwrReg Reg.PWR_CORE_MIN) 11 0 / 100))

/-- Among the cell dies that meet a condition, the one with the greatest value, dies without an open window before the
others. -/
def pickDie (s : State) (ok value : Nat → Nat) : Option Nat :=
  let l := (List.range 8).filter fun d => ok d != 0
  let quiet := l.filter fun d => !windowOn s d
  argMin (fun d => 1000 - value d) (if quiet.isEmpty then l else quiet)

/-- Point and duty of a die in some settings. -/
def CapSet.point (c : CapSet) (d : Nat) : Nat := (c.dies.getD d (0, 0)).1
def CapSet.duty (c : CapSet) (d : Nat) : Nat := (c.dies.getD d (0, 0)).2

/-- One step down in the order of R402; the same settings where nothing is left. -/
def lowerOne (s : State) (c : CapSet) : CapSet :=
  if coreMin s < c.core then { c with core := c.core - 1 }
  else
    match pickDie s c.point c.point with
    | some d => { c with dies := c.dies.set d (c.point d - 1, c.duty d) }
    | none =>
      match pickDie s c.duty c.duty with
      | some d => { c with dies := c.dies.set d (0, c.duty d - 1) }
      | none => if 8 < c.core then { c with core := c.core - 1 } else c

/-- Settings lowered until the forecast meets the cap, or nothing is left (R402). -/
def lowerTo (s : State) (o : CapObs) (cap : Nat) : Nat → CapSet → CapSet
  | 0, c => c
  | n + 1, c => if cap < forecast s o c then lowerTo s o cap n (lowerOne s c) else c

/-- The cap loop's ceilings set to the settings they were lowered to: only what was lowered. -/
def setCaps (s : State) (was c : CapSet) : State :=
  let s := if c.core < was.core then { s with pwr := { s.pwr with coreCap := c.core } } else s
  (List.range 8).foldl (fun s d =>
    let x := s.die (8 + d)
    s.setDie (8 + d)
      { x with capCeil := if c.point d < was.point d then c.point d else x.capCeil
               capDuty := if c.duty d < was.duty d then c.duty d else x.capDuty }) s

/-- One step up, in the reverse order (R402): clusters below the limit of step 1, duty, points, clusters. A die that the fast
loop lowered is not raised for 1 ms (R412). -/
def raiseOne (s : State) : State :=
  let put (d : Nat) (f : DiePower → DiePower) : State := s.setDie (8 + d) (f (s.die (8 + d)))
  let low (v : Nat → Nat) (top : Nat) : Option Nat :=
    let l := (List.range 8).filter fun d => decide (v d < top ∧ (s.die (8 + d)).raiseAt ≤ s.cic.count)
    let busy := l.filter fun d => windowOn s d
    argMin v (if busy.isEmpty then l else busy)
  if s.pwr.coreCap < coreMin s then { s with pwr := { s.pwr with coreCap := s.pwr.coreCap + 1 } }
  else
    match low (fun d => (s.die (8 + d)).capDuty) 7 with
    | some d => put d fun x => { x with capDuty := x.capDuty + 1 }
    | none =>
      match low (fun d => (s.die (8 + d)).capCeil) 15 with
      | some d => put d fun x => { x with capCeil := x.capCeil + 1 }
      | none => if s.pwr.coreCap < 32 then { s with pwr := { s.pwr with coreCap := s.pwr.coreCap + 1 } } else s

/-- Every cell die at OP 0 with duty 1/8 and every cluster at 0.8 GHz (R403). -/
def atFloor (s : State) : Bool :=
  coreFreq s == 8 && (List.range 8).all fun d => s.offline (8 + d) || (pointOf s d == 0 && dutyOf s d == 0)

/-- CAP_UNREACHABLE set and cleared (R403). -/
def reachCheck (s : State) (pkgMw : Nat) : State :=
  let cap := effCap s * 1000
  if cap < pkgMw ∧ atFloor s then
    let w := pkgMw / 1000
    let s := { s with pwr := { s.pwr with belowSince := none } }
    if s.pwr.unreachable then s
    else
      let s := setFld s 0 (pwrReg Reg.PWR_FLOOR) 15 0 (min 65535 w)
      let s := pwrStatus { s with pwr := { s.pwr with unreachable := true } } 30 true
      raiseInt (raiseError s { sev := 0, type := Err.CAP_UNREACHABLE, die := 0, inst := 0, detail := [w] }) (pwrReg 0) 0
  else if pkgMw < cap then
    let since := s.pwr.belowSince.getD (s.cic.count - msTicks)
    let s := { s with pwr := { s.pwr with belowSince := some since } }
    if s.pwr.unreachable ∧ since + 10 * msTicks ≤ s.cic.count then
      pwrStatus { s with pwr := { s.pwr with unreachable := false } } 30 false
    else s
  else { s with pwr := { s.pwr with belowSince := none } }

/-- What a cap period measures (R402-R406): the package power, the shift, the thermal ceilings, whether the cap was reachable. -/
def capMeasure (s : State) : State :=
  let s := setFld s 0 (pwrReg Reg.PWR_STATUS) 15 0 (min 65535 (packageMw s / 1000))
  let s := shiftStep (reachCheck s (packageMw s))
  thermalLoop (setFld s 0 (pwrReg Reg.PWR_CAP_EFF) 15 0 (effCap s))

/-- The settings of the next period (R402): lowered until the forecast meets the cap, or raised one step where it is more than
5% below. -/
def capMove (s : State) (o : CapObs) : State :=
  let cap := effCap s * 1000
  let now := capNow s
  let f := forecast s o now
  if cap < f then setCaps s now (lowerTo s o cap 256 now) else if f * 100 < cap * 95 then raiseOne s else s

/-- The cap binds a cell die or the clusters. -/
def capBinds (s : State) : Bool :=
  s.pwr.coreCap < 32 || (List.range 8).any fun d =>
    decide ((s.die (8 + d)).capCeil < 15) || decide ((s.die (8 + d)).capDuty < 7)

/-- A cap period, every 1 ms. -/
def capLoop (s : State) (o : CapObs) : State :=
  if s.cic.count < s.pwr.capAt then s
  else
    let s := capMove (capMeasure { s with pwr := { s.pwr with capAt := s.cic.count + msTicks } }) o
    repoint (pwrStatus s 31 (capBinds s))

/-- CAP_LOOP. -/
def execCapLoop (o : CapObs) (s : State) : Host.Outcome State Fault Refusal := .next (capLoop s o)

/-! ## Emergency and trip (R404, R412, R513, R516) -/

/-- THERMAL_EMERGENCY: every cell die at OP 0 with duty 1/8 and the clusters at 0.8 GHz at once, a raise abandoned, the
voltages to follow; preemptions under way are counted (R412). During a thermal trip the trip governs (R516). -/
def emergency (s : State) (throttle : Bool) (die : Nat) : State :=
  if s.pwr.thermTrip then s
  else
    let first := !s.pwr.emergency
    let s := { s with pwr := { s.pwr with emergency := true, throttle := s.pwr.throttle || throttle, coolAt := s.cic.count } }
    let s := pwrStatus (pwrStatus s 26 true) 25 s.pwr.throttle
    let s := repoint s
    let s := (List.range 8).foldl (fun s d => s.setDie (8 + d) { s.die (8 + d) with op := 0 }) s
    if !first then s
    else
      let n := ((tkeys s.cells).filter fun c => match (s.cell c).move with
        | .spilling _ => true
        | _ => false).length
      let s := countFld s 0 (pwrReg Reg.PWR_EMERG_PREEMPT) 31 0 n
      raiseInt (raiseError s { sev := 0, type := Err.THERMAL_EMERGENCY, die := if throttle then 0 else die, inst := 0 }) (pwrReg 0) 2

/-- THERMAL_EMERGENCY. -/
def execThermalEmergency (throttle : Bool) (die : Nat) (s : State) : Host.Outcome State Fault Refusal :=
  run (okDie die) (emergency s throttle die)

/-- THERMAL_EMERGENCY_END: control returns to the loops, where no sensor has read above 100 °C for 10 ms; the row says that the
throttle input is deasserted. -/
def emergencyEnd (s : State) : State :=
  if !s.pwr.emergency ∨ s.cic.count < s.pwr.coolAt + 10 * msTicks ∨ dieCodes.any fun d => 1600 < tempOf s d then s
  else repoint (pwrStatus (pwrStatus { s with pwr := { s.pwr with emergency := false, throttle := false } } 26 false) 25 false)

/-- THERMAL_EMERGENCY_END. -/
def execThermalEmergencyEnd (s : State) : Host.Outcome State Fault Refusal := .next (emergencyEnd s)

/-- THERMAL_TRIP: every clock but the hub's stops, a fatal record, THERMTRIP_N asserted until cold reset. -/
def thermTrip (s : State) (die : Nat) : State :=
  if s.pwr.thermTrip then s
  else raiseError { s with pwr := { s.pwr with thermTrip := true } } { sev := 3, type := Err.THERMAL_TRIP, die := die, inst := 0 }

/-- THERMAL_TRIP. -/
def execThermalTrip (die : Nat) (s : State) : Host.Outcome State Fault Refusal := run (okDie die) (thermTrip s die)

/-! ## The estimator (R406, R407) -/

/-- Some die runs on factory coefficients for the first time. -/
def firstRunning (s : State) : Bool := dieCodes.any fun d => (s.die d).firstRun

/-- ESTIMATOR_SUSPECT: not during FIRST_RUN (R407, R412). -/
def estimatorSuspect (s : State) : State :=
  if s.pwr.suspect ∨ firstRunning s then s
  else
    let s := pwrStatus { s with pwr := { s.pwr with suspect := true } } 29 true
    let s := setFld s 0 (pwrReg Reg.PWR_CAP_EFF) 15 0 (effCap s)
    raiseInt (raiseError s { sev := 0, type := Err.ESTIMATOR_SUSPECT, die := 0, inst := 0 }) (pwrReg 0) 1

/-- ESTIMATOR_SUSPECT. -/
def execEstimatorSuspect (s : State) : Host.Outcome State Fault Refusal := .next (estimatorSuspect s)

/-- A die's coefficients committed under its die code (R424; notes/assumptions/22.md). -/
def coeffCommit (s : State) (die : Nat) : State :=
  queueCommit s
    { prio := 5, type := 0x0031, key := die, version := 1, tomb := false, data := leBytes 4 (s.die die).coeff }

/-- RECALIBRATION (R406, R407): new coefficients, committed on a die's first and else at most once in 24 power-on hours; the
suspect state ends where estimate and measurement then agree. -/
def recalibrate (s : State) (fits : List (Nat × Nat)) (agreed : Bool) : State :=
  let first := firstRunning s
  let fits := fits.filter fun p => dieCodes.contains p.1
  let s := fits.foldl (fun s p => s.setDie p.1 { s.die p.1 with coeff := p.2, firstRun := false }) s
  let s := pwrStatus s 28 (firstRunning s)
  let s := setFld s 0 (pwrReg Reg.PWR_CTL) 0 0 0
  let now := powerMinutes s
  let due : Bool := match s.pwr.coeffAt with
    | some t => decide (t + 1440 ≤ now)
    | none => true
  let s := if first ∨ due then
      fits.foldl (fun s p => coeffCommit s p.1) { s with pwr := { s.pwr with coeffAt := some now } }
    else s
  if s.pwr.suspect ∧ agreed then
    let s := pwrStatus { s with pwr := { s.pwr with suspect := false } } 29 false
    setFld s 0 (pwrReg Reg.PWR_CAP_EFF) 15 0 (effCap s)
  else s

/-- RECALIBRATION. -/
def execRecalibration (fits : List (Nat × Nat)) (agreed : Bool) (s : State) : Host.Outcome State Fault Refusal :=
  .next (recalibrate s fits agreed)

/-- PWR_RECAL (R406, R413): RECAL reads 1 until a recalibration is done. -/
def execPwrRecal (src : Source) (s : State) : Host.Outcome State Fault Refusal :=
  run (okSource src) (viaReg s src (pwrReg Reg.PWR_CTL) (setFld s 0 (pwrReg Reg.PWR_CTL) 0 0 1))

/-! ## Ageing (R408) -/

/-- One reading of a die's slack monitors: the requirement in steps of 2.5 mV. The first sets M, at least 10 mV; a later one
raises it by at most one step. Each change is committed; a point lost is reported, and PRM_OP with it (R503). -/
def takeMargin (s : State) (die need : Nat) : State :=
  let x := s.die die
  let m := if !x.hasMargin then max 4 need else if x.margin < need then x.margin + 1 else x.margin
  let t := s.setDie die { x with margin := m, hasMargin := true }
  if m = x.margin ∧ x.hasMargin then s
  else
    let t := if lowestTop t = lowestTop s then t else paramChange t
    let t := queueCommit t { prio := 4, type := 0x0030, key := die, version := 1, tomb := false, data := leBytes 4 m }
    if die ≠ 1 ∧ opMax m < opMax x.margin then raiseError t { sev := 0, type := Err.AGEING_LIMIT, die := die, inst := 0 } else t

/-- AGEING_READING: 24 power-on hours after the last readings (R168, R408). -/
def execAgeingReading (needs : List (Nat × Nat)) (s : State) : Host.Outcome State Fault Refusal :=
  if powerMinutes s < s.pwr.agedAt + 1440 then .next s
  else
    let s := { s with pwr := { s.pwr with agedAt := powerMinutes s } }
    .next (repoint ((needs.filter fun p => p.1 == 1 || cellDieCodes.contains p.1).foldl (fun s p => takeMargin s p.1 p.2) s))

/-! ## The guest's power (R411) -/

/-- GUEST_POWER: a guest above its allowance throughout 10 ms is isolated. -/
def execGuestPower (s : State) : Host.Outcome State Fault Refusal :=
  .next (if !s.sec.guestOn then s else raiseError (closeGuest s) { sev := 2, type := Err.GUEST_POWER, die := 6, inst := 0 })

/-! ## Clock stops and the fatal events of R488 -/

/-- A context fails: its programs fault, its queue halts, its streams end. -/
def failCtx (s : State) (c : Nat) : State :=
  let s := (tkeys s.cells).foldl (fun s p =>
    let x := s.cell p
    if x.runner = some c ∧ x.img.started ∧ !x.img.halted then endProgram s p c CellFault.ENGINE_FAULT else s) s
  let s := if (s.ctx c).halted then s
    else haltQueue s c (((s.ctx c).cmds.head?.map (·.index)).getD (s.ctx c).consumer) CmdErr.CELL_FAULT
  (streamsOf s c).foldl killStream s

/-- A context has streams with an endpoint of a kind. -/
def hasKind (s : State) (c k : Nat) : Bool :=
  (streamsOf s c).any fun i => (s.stream i).src.kind = k || (s.stream i).snk.kind = k

/-- A live context uses what a clock domain serves (R37, which says "the contexts using that die" and not which those are;
notes/assumptions/85.md): cells on the die, core windows, device memory, links, the host; none uses the Polder store's or the
guest's domain. -/
def usesDomain (s : State) (die domain c : Nat) : Bool :=
  (s.ctx c).live &&
    (if domain = 1 then (logicalCells (s.ctx c)).any fun p => 8 + cellDie p = die
     else if domain = 2 then hasKind s c Kind.CORE
     else if domain = 4 then true
     else if domain = 5 then
       ((logicalCells (s.ctx c)).any fun p => 2 + cellFloor p = die) || ((streamsOf s c).any fun i => 2 + (s.stream i).home = die)
     else if domain = 6 then hasKind s c Kind.REMOTE || s.lnk.colls.any fun x => x.ctx = c
     else if domain = 7 then hasKind s c Kind.HOST
     else false)

/-- CLOCK_STOP (R36, R37): fatal for a floor fabric, hub management or the Cicada reference, else the contexts that use it
fail and the domain stands still until its die is reset. -/
def clockStop (s : State) (die domain unit : Nat) : State :=
  let d := if domain = 8 ∨ domain = 9 ∨ domain = 10 then 0 else if domain = 11 then 6 else die
  let u := if domain = 2 ∨ domain = 4 ∨ domain = 5 ∨ domain = 6 ∨ domain = 7 then unit else 0
  if domain = 0 ∨ 11 < domain ∨ clockStopped s d domain u then s
  else
    let fatal : Bool := domain = 3 || domain = 8 || domain = 9
    let s := { s with boot := { s.boot with stops := s.boot.stops ++ [(d, domain, u)] } }
    let s := raiseError s
      { sev := if fatal then 3 else 2, type := Err.CLOCK_STOP, die := d, inst := domain, detail := [u] }
    if fatal then s else ((List.range 64).filter (usesDomain s d domain)).foldl failCtx s

/-- CLOCK_STOP. -/
def execClockStop (die domain unit : Nat) (s : State) : Host.Outcome State Fault Refusal :=
  run (okDie die) (clockStop s die domain unit)

/-- FABRIC_FATAL (R488): a floor die's mesh or directory has lost a request. -/
def execFabricFatal (floor : Nat) (s : State) : Host.Outcome State Fault Refusal :=
  run (okFloor floor) (raiseError s { sev := 3, type := Err.FABRIC_FATAL, die := 2 + floor, inst := 0 })

/-- HUB_FIRMWARE_CHECK_FAIL (R488). -/
def execHubFirmwareCheckFail (s : State) : Host.Outcome State Fault Refusal :=
  .next (raiseError s { sev := 3, type := Err.HUB_FIRMWARE, die := 0, inst := 0 })

end Sys2Proof.Machine
end

