-- ==== Sys2Proof/Machine/SecLog.lean ====
section
/-!
DEFINITION. The security event log (R463): events held in the hub, and their commit to SEC_LOG records (R424, R429). The order
of an entry's words and the codes of its types are the model's (notes/assumptions/24.md).
-/

namespace Sys2Proof.Machine

/-! Types of security events. -/
abbrev Sev.TRIP : Nat := 1
abbrev Sev.IMAGE_REJECTED : Nat := 2
abbrev Sev.DEBUG : Nat := 3
abbrev Sev.ENROL : Nat := 4
abbrev Sev.REVOKE : Nat := 5
abbrev Sev.FUSE : Nat := 6
abbrev Sev.CERT : Nat := 7
abbrev Sev.RECLAIM : Nat := 8
abbrev Sev.SCRUB : Nat := 9
abbrev Sev.KEY : Nat := 10
abbrev Sev.MEASURE : Nat := 11

/-- The 32 bytes of an event: type, sensor or command, level, result, boot number, events lost before it, count. -/
def secEntry (e : List Nat) (lost : Nat) : List Byte :=
  leBytes 4 (nth e 0) ++ leBytes 4 (nth e 1) ++ leBytes 4 (nth e 2) ++ leBytes 4 (nth e 3) ++ leBytes 4 (nth e 4)
    ++ leBytes 4 lost ++ leBytes 8 (nth e 5)

/-- The held events handed to the store in records of at most 63, the count of those lost in the first (R424, R429). -/
def flushSecLog (s : State) (prio : Nat) : Nat → State
  | 0 => s
  | n + 1 =>
    match s.pld.held with
    | [] => s
    | l =>
      let part := l.take 63
      let data := (part.zipIdx).flatMap fun p => secEntry p.1 (if p.2 = 0 then s.pld.heldLost else 0)
      let s := queueCommit s { prio := prio, type := 0x0050, key := 0, version := 1, tomb := false, data := data }
      flushSecLog { s with pld := { s.pld with held := l.drop 63, heldLost := 0, heldNow := false } } prio n

/-- A security event: held, and committed with those held before it where it is immediate, or where they fill a record
(R429, R463); before the boot number is committed it is held alone (R166). -/
def secEvent (s : State) (type arg level result : Nat) (immediate : Bool) : State :=
  let e := [type, arg, level, result, s.boot.bootNum, s.cic.count]
  let s := if s.pld.held.length < 4096 then { s with pld := { s.pld with held := s.pld.held ++ [e] } }
    else { s with pld := { s.pld with heldLost := s.pld.heldLost + 1 } }
  if !s.err.stamped then { s with pld := { s.pld with heldNow := s.pld.heldNow || immediate } }
  else if immediate then flushSecLog s 4 66
  else if 63 ≤ s.pld.held.length then flushSecLog s 6 1 else s

/-- A measurement has changed in service, which is a security event (R447). -/
def measureChanged (s : State) (i : Nat) : State :=
  let n := tget (fun _ => 0) s.sec.measures i + 1
  secEvent { s with sec := { s.sec with measures := tset (fun _ => 0) s.sec.measures i n } } Sev.MEASURE i 0 0 false

end Sys2Proof.Machine
end

