-- ==== Sys2Proof/Machine/Store.lean ====
section
/-!
DEFINITION. The Polder store (18_polder_store.md): records and their current values, blocks and banks, commits, compaction, wear,
and the life of a mailbox command.
-/

namespace Sys2Proof.Machine

/-- Register of the Polder mailbox page. -/
abbrev pldReg (off : Nat) : Nat := hub Pg.PLD off

/-! ## Records and values (R417-R419) -/

/-- Number of journal SEQ values (R419). -/
abbrev seqCount : Nat := 4294901760

/-- The SEQ after one (R419). -/
def seqNext (q : Nat) : Nat := if q = 0xFFFFFFFF then 0x10000 else q + 1

/-- The SEQ `n` before a journal record's (R418, R419); a factory record's wraps nowhere. -/
def seqBack (q n : Nat) : Nat := if q < 0x10000 then q - n else if q < 0x10000 + n then q + seqCount - n else q - n

/-- `a` is newer than `b` (R419). -/
def seqNewer (a b : Nat) : Bool :=
  if a < 0x10000 then decide (b < 0x10000 ∧ b < a)
  else if b < 0x10000 then true
  else
    let d := (a + seqCount - b) % seqCount
    decide (1 ≤ d ∧ d < 2 ^ 31)

/-- Pages of a record of `n` payload bytes (R416). -/
def recPages (n : Nat) : Nat := ceilDiv (n + 32) 256

/-- CRC-32C over one more bit, and over bytes (R416): the reflected polynomial 0x82F6_3B78, all ones at the start and inverted at
the end, as CRC-32C is known. -/
def crcStep (c : Nat) : Nat := if c % 2 = 1 then (c / 2) ^^^ 0x82F63B78 else c / 2
def crc32c (l : List Byte) : Nat :=
  (l.foldl (fun c (b : Byte) => (List.range 8).foldl (fun c _ => crcStep c) (c ^^^ b.toNat)) 0xFFFFFFFF) ^^^ 0xFFFFFFFF

/-- The pages of a committed record: header, CRC, payload, padding of ones, COMMIT (R416). -/
def PldRec.image (r : PldRec) : List Byte :=
  let flags := r.type * 2 ^ 16 + r.version % 256 * 2 ^ 8 + r.frag % 16 * 2 ^ 4 + b2n r.fragLast * 2 ^ 3 + b2n r.tomb * 2 ^ 2
  let head := leBytes 4 flags ++ leBytes 4 r.seq ++ leBytes 4 (r.key * 2 ^ 16 + r.data.length)
  let body := head ++ leBytes 4 (crc32c (head ++ r.data)) ++ r.data
  body ++ List.replicate (256 * recPages r.data.length - 4 - body.length) 0xFF ++ leBytes 4 0

/-- The fragments that end in a record, from 0 on; none where one is missing (R418). -/
def fragsOf (l : List PldRec) (r : PldRec) : Option (List PldRec) :=
  if !r.fragLast then none
  else
    (List.range (r.frag + 1)).mapM fun k =>
      l.find? fun x => x.type = r.type && x.key = r.key && x.version = r.version && x.frag = k
        && x.seq = seqBack r.seq (r.frag - k)

/-- The block of a bank in which a record stands; 512 for none. -/
def PldRec.at_ (r : PldRec) (bank : Nat) : Nat := if bank = 0 then r.inA else r.inB

/-- A record's place in a bank set. -/
def PldRec.put (r : PldRec) (bank block : Nat) : PldRec := if bank = 0 then { r with inA := block } else { r with inB := block }

/-- Records that this boot has read: those of a bank that it could read (R417, R433). -/
def seenRecs (s : State) : List PldRec :=
  s.pld.records.filter fun r => [0, 1].any fun bank => decide (r.at_ bank < 512) && !s.pld.blind.contains bank

/-- The current value of a type and key: its fragments; absent for a tombstone (R417, R418). -/
def currentRecs (s : State) (type key : Nat) : Option (List PldRec) :=
  let l := (seenRecs s).filter fun r => r.type = type && r.key = key
  let best := l.foldl (fun (b : Option (List PldRec)) r =>
    match fragsOf l r, b with
    | some f, none => some f
    | some f, some g => if seqNewer r.seq ((g.getLast?.map (·.seq)).getD 0) then some f else some g
    | none, b => b) none
  best

/-- The current value, where it is not a tombstone. -/
def currentVal (s : State) (type key : Nat) : Option (List PldRec) :=
  (currentRecs s type key).filter fun f => !(f.any (·.tomb))

/-- Payload of the current value. -/
def currentData (s : State) (type key : Nat) : Option (List Byte) := (currentVal s type key).map fun f => f.flatMap (·.data)

/-- The value that a consumer reads: none where the store is unavailable or the VERSION is ahead of the firmware (R424, R434). -/
def storeVal (s : State) (type key : Nat) : Option (List Byte) :=
  if s.pld.st = 3 ∨ s.pld.st = 0 then none
  else (currentVal s type key).filter (fun f => f.all fun r => r.version ≤ knownVersion s r.type) |>.map fun f => f.flatMap (·.data)

/-- The record types; every other is reserved (R424). -/
def storeTypes : List Nat :=
  [0x01, 0x02, 0x03, 0x04, 0x10, 0x11, 0x12, 0x20, 0x21, 0x22, 0x23, 0x24, 0x30, 0x31, 0x32, 0x40, 0x41, 0x42, 0x50, 0x51, 0x60,
   0x70, 0xF0]

/-- Keys of a type that have a current value. -/
def keysOf (s : State) (type : Nat) : List Nat :=
  let ks := (((seenRecs s).filter fun r => r.type = type).map (·.key)).eraseDups
  (ks.filter fun k => (currentVal s type k).isSome)

/-- Numbers in rising order. -/
def rising (l : List Nat) : List Nat := l.foldl (fun a x => (a.filter (· < x)) ++ [x] ++ (a.filter (x < ·))) []

/-! ## Blocks and banks (R415, R427-R433) -/

/-- Journal blocks of a bank: keys 512 × bank + block, blocks 4-511. -/
def journal (bank : Nat) : List Nat := (List.range 508).map fun i => 512 * bank + 4 + i

/-- A block. -/
def blk (s : State) (k : Nat) : PldBlock := tget (fun _ => PldBlock.fresh) s.pld.blocks k

/-- The state with a block set. -/
def setBlk (s : State) (k : Nat) (b : PldBlock) : State :=
  { s with pld := { s.pld with blocks := tset (fun _ => PldBlock.fresh) s.pld.blocks k b } }

/-- A bank is in service. -/
def bankUp (s : State) (bank : Nat) : Bool := if bank = 0 then s.pld.bankA else s.pld.bankB

/-- Journal blocks of a bank in a state. -/
def blocksIn (s : State) (bank : Nat) (st : BlkState) : List Nat := (journal bank).filter fun k => (blk s k).st = st

/-- Journal blocks of a bank that are not retired. -/
def inService (s : State) (bank : Nat) : List Nat := (journal bank).filter fun k => !((blk s k).st = .retired)

/-- Room for a record of `p` pages in a bank: the open block, or the erased one with the lowest ERASE_COUNT, opened with the
next BLOCK_SEQ (R427). The block, or 512 where there is none. -/
def takePages (s : State) (bank p : Nat) : State × Nat :=
  let open_ := (journal bank).find? fun k => (blk s k).st = .opened
  let fits := open_.filter fun k => (blk s k).page + p ≤ 256
  match fits with
  | some k => (setBlk s k { blk s k with page := (blk s k).page + p }, k % 512)
  | none =>
    let s := match open_ with
      | some k => setBlk s k { blk s k with st := .full }
      | none => s
    match argMin (fun k => (blk s k).erases) (blocksIn s bank .erased) with
    | some k =>
      let top := (journal bank).foldl (fun a j => max a (blk s j).seq) 0
      (setBlk s k { blk s k with st := .opened, seq := top + 1, page := 1 + p }, k % 512)
    | none => (s, 512)

/-- The current value of a type and key has a record in a block. -/
def standsIn (s : State) (bank block type key : Nat) : Bool :=
  ((currentRecs s type key).getD []).any fun r => r.at_ bank = block

/-- Types and keys whose current value has a record in a block, SEC_LOG beyond the newest 1,024 left out (R427). -/
def valuesIn (s : State) (bank block : Nat) : List (Nat × Nat) :=
  let here := ((s.pld.records.filter fun r => r.at_ bank = block).map fun r => (r.type, r.key)).eraseDups
  here.filter fun p => standsIn s bank block p.1 p.2 &&
    (p.1 != 0x50 ||
      let newest (k : Nat) : Nat := (((currentRecs s 0x50 k).getD []).getLast?.map (·.seq)).getD 0
      decide (((keysOf s 0x50).filter fun k => seqNewer (newest k) (newest p.2)).length < 1024))

/-- Copies of a block's current values queued (R427). -/
def queueCopies (s : State) (k prio : Nat) (skip : Nat) : State :=
  (valuesIn s (k / 512) (k % 512)).foldl (fun s p =>
    if p.1 = skip then s
    else
      queueCommit s { prio := prio, type := p.1, key := p.2, version := 1, tomb := false, data := [], copy := some k }) s

/-- Payload of INDEX: type, key and blocks of every current record (notes/assumptions/22.md). -/
def indexData (s : State) : List Byte :=
  ((s.pld.records.filter fun r => standsIn s 0 r.inA r.type r.key || standsIn s 1 r.inB r.type r.key).flatMap fun r =>
    leBytes 2 r.type ++ leBytes 2 r.key ++ leBytes 2 r.inA ++ leBytes 2 r.inB).take 32256

/-- A block begins to be erased: its records are no longer there. -/
def beginErase (s : State) (k : Nat) : State :=
  let s := setBlk s k { blk s k with st := .erasing }
  let l := (s.pld.records.map fun r => if r.at_ (k / 512) = k % 512 then r.put (k / 512) 512 else r)
  { s with pld := { s.pld with records := l.filter fun r => !(r.inA = 512 && r.inB = 512 && 0x10000 ≤ r.seq) } }

/-- A block retired (R431): its current values are compacted away. -/
def retireBlk (s : State) (k : Nat) : State :=
  if (blk s k).dead then s
  else queueCopies (setBlk s k { blk s k with st := .retired, dead := true }) k 6 0

/-- Erases of bank A in the last 168 power-on hours, divided by 7 (R429). -/
def eraseRate (s : State) : Nat := (s.pld.eraseTimes.filter fun t => powerMinutes s ≤ t + 10080).length / 7

/-- The remaining lifetime in days (R432). -/
def lifeDays (s : State) : Nat :=
  ((inService s 0).map fun k => 100000 - (blk s k).erases).foldl (· + ·) 0 / max 1 (eraseRate s)

/-- WORN (R432). -/
def wornCheck (s : State) : State :=
  let a := pldReg Reg.PLD_STATUS
  if bit (rd s 0 a) 27 then s
  else if lifeDays s < 3650 ∨ (inService s 0).length < 64 ∨ (inService s 1).length < 64 then
    let s := raiseInt (setFld s 0 a 27 27 1) (pldReg 0) 2
    raiseError s { sev := 0, type := Err.POLDER_WORN, die := 0, inst := 0 }
  else s

/-- A bank taken out of service (R433); without either the store is unavailable. -/
def loseBank (s : State) (bank : Nat) : State :=
  if !bankUp s bank then s
  else
    let s := if bank = 0 then { s with pld := { s.pld with bankA := false } } else { s with pld := { s.pld with bankB := false } }
    let s := { s with pld := { s.pld with compact := s.pld.compact.filter fun k => decide (k / 512 ≠ bank) } }
    let s := raiseInt s (pldReg 0) 1
    let s := raiseError s { sev := 0, type := Err.POLDER_BANK_DEGRADED, die := 0, inst := bank }
    if s.pld.bankA ∨ s.pld.bankB then { s with pld := { s.pld with st := 2 } }
    else
      raiseError { s with pld := { s.pld with st := 3 } } { sev := 2, type := Err.POLDER_UNAVAILABLE, die := 0, inst := 0 }

/-- A bank with fewer than 16 journal blocks in service leaves service (R433). -/
def bankCheck (s : State) : State :=
  let s := if (inService s 0).length < 16 then loseBank s 0 else s
  if (inService s 1).length < 16 then loseBank s 1 else s

/-- The victim of compaction in a bank with eight or fewer erased blocks: the least erased full block where erase counts differ
by more than 2,000 (R428), else the oldest one (R427). -/
def victim (s : State) (bank : Nat) : Option Nat :=
  let sv := inService s bank
  let most := sv.foldl (fun a k => max a (blk s k).erases) 0
  let full := sv.filter fun k => (blk s k).st = .full
  match argMin (fun k => (blk s k).erases) full with
  | some k =>
    if 8 < (blocksIn s bank .erased).length then none
    else if (blk s k).erases + 2000 < most then some k
    else argMin (fun k => (blk s k).seq) full
  | none => none

/-- Compaction begins in a bank that needs it: its copies are queued, and a new INDEX (R427). -/
def compactStart (s : State) (bank : Nat) : State :=
  if s.pld.compact.isSome ∨ !bankUp s bank then s
  else
    match victim s bank with
    | none => s
    | some k =>
      let prio := if (blocksIn s bank .erased).length ≤ 2 then 4 else 6
      let s := queueCopies { s with pld := { s.pld with compact := some k } } k prio 0
      queueCommit s { prio := prio, type := 0xF0, key := 0, version := 1, tomb := false, data := [], copy := some k }

/-- Copies out of a block are still to be committed. -/
def copiesLeft (s : State) (k : Nat) : Bool :=
  s.pld.queue.any (fun c => c.copy = some k) || (s.pld.running.map fun r => decide (r.c.copy = some k)).getD false

/-- Compaction's copies are committed: its block is erased (R427). -/
def compactEnd (s : State) : State :=
  match s.pld.compact with
  | none => s
  | some k => if copiesLeft s k then s else beginErase { s with pld := { s.pld with compact := none } } k

/-- Copies run at priority 4 while a bank has two erased blocks or fewer (R427). -/
def compactUrge (s : State) : State :=
  match s.pld.compact with
  | none => s
  | some k =>
    if 2 < (blocksIn s (k / 512) .erased).length then s
    else { s with pld := { s.pld with queue := s.pld.queue.map fun c => if c.copy = some k then { c with prio := 4 } else c } }

/-! ## Commits (R420, R421, R433, R434) -/

/-- One more commit discarded (R433, R434, R438). -/
def lostCommit (s : State) : State := countFld s 0 (pldReg Reg.PLD_STATUS) 15 0 1

/-- Payload bytes of fragment `k` of a value (R418). -/
def fragData (data : List Byte) (k : Nat) : List Byte := (data.drop (2016 * k)).take 2016

/-- Fragments of a value, at most 16 (R418). -/
def fragCount (data : List Byte) : Nat := max 1 (min 16 (ceilDiv data.length 2016))

/-- The next commit of the queue: the least priority number, the oldest of those (R421). -/
def nextCommit (s : State) : Option (Nat × Commit) :=
  (argMin (fun p : Commit × Nat => p.1.prio) s.pld.queue.zipIdx).map fun p => (p.2, p.1)

/-- Journal blocks that hold a KEY_BLOB record, current or superseded: 512 × bank + block, bank A's first (R460). -/
def blobBlocks (s : State) : List Nat :=
  let l := s.pld.records.filter fun r => r.type = 3
  let a := (l.filter fun r => r.inA < 512 ∧ 4 ≤ r.inA).map (·.inA)
  let b := (l.filter fun r => r.inB < 512 ∧ 4 ≤ r.inB).map fun r => 512 + r.inB
  rising (a ++ b)

/-- Payload of PENDING_ERASE: level, sensor, blocks (R460; notes/assumptions/22.md). -/
def markerData (e : Erase) : List Byte := leBytes 4 e.level ++ leBytes 4 e.sensor ++ e.blocks.flatMap fun k => leBytes 2 k

/-- The record of a SEQ in a bank that the other bank lacks (R426). -/
def lonely (s : State) (q : Nat) : Option PldRec :=
  (seenRecs s).find? fun r => r.seq = q && (decide (r.inA = 512) != decide (r.inB = 512))

/-- A copy takes the value as it stands now, and falls away where the value has moved on or both banks hold the record; INDEX is
made anew. A new SEC_LOG record takes the key of its SEQ (R424), PENDING_ERASE the blocks as they now are (R460), and every new
record the VERSION that the firmware knows (R434). -/
def prepare (s : State) (c : Commit) : Option Commit :=
  match c.copy, c.mend with
  | none, some q => (lonely s q).map fun r => { c with tomb := r.tomb, version := r.version, data := r.data }
  | none, none =>
    let c := { c with version := knownVersion s c.type }
    match s.sec.erase with
    | some e =>
      if c.type = 0x51 ∧ !c.tomb then some { c with data := markerData { e with blocks := blobBlocks s } }
      else some (if c.type = 0x50 then { c with key := seqNext s.pld.seq % 65536 } else c)
    | none => some (if c.type = 0x50 then { c with key := seqNext s.pld.seq % 65536 } else c)
  | some k, _ =>
    if c.type = 0xF0 then some { c with data := indexData s }
    else
      if !standsIn s (k / 512) (k % 512) c.type c.key then none
      else (currentRecs s c.type c.key).map fun f =>
        { c with
          tomb := f.any (·.tomb)
          version := (f.head?.map (·.version)).getD 1
          data := f.flatMap (·.data) }

/-- The current record of a commit's type and key carries a higher VERSION (R434). -/
def versionAhead (s : State) (c : Commit) : Bool :=
  c.copy.isNone && c.mend.isNone && ((currentRecs s c.type c.key).getD []).any fun r => decide (knownVersion s c.type < r.version)

/-- A VERSION ahead is reported once per boot (R434). -/
def sayAhead (s : State) : State :=
  if s.pld.aheadSaid then s
  else
    raiseError { s with pld := { s.pld with aheadSaid := true } } { sev := 0, type := Err.POLDER_VERSION_AHEAD, die := 0, inst := 0 }

/-- Fragments of a commit: one of a tombstone and of a record copied across. -/
def Commit.frags (c : Commit) : Nat := if c.tomb ∨ c.mend.isSome then 1 else fragCount c.data

/-- The record that a commit writes as fragment `frag` with a SEQ (R416, R418); one copied across is the record as it stands. -/
def Commit.record (s : State) (c : Commit) (frag seq : Nat) : PldRec :=
  ((seenRecs s).find? fun r => c.mend = some r.seq).getD
    { type := c.type, key := c.key, version := c.version, frag := frag, fragLast := decide (c.frags ≤ frag + 1), tomb := c.tomb,
      seq := seq, data := if c.tomb then [] else fragData c.data frag, inA := 512, inB := 512 }

/-- A bank holds a record of this SEQ, type and key. -/
def heldIn (s : State) (bank : Nat) (r : PldRec) : Bool :=
  s.pld.records.any fun x => x.seq = r.seq && x.type = r.type && x.key = r.key && decide (x.at_ bank < 512)

/-- A record written to a bank in service that does not hold it yet (R420): its pages are taken, and a new record's SEQ is the
last committed. -/
def writeCopy (s : State) (bank : Nat) (r : PldRec) : State :=
  if !bankUp s bank ∨ heldIn s bank r then s
  else
    let (s, b) := takePages s bank (recPages r.data.length)
    let same (x : PldRec) : Bool := x.seq = r.seq && x.type = r.type && x.key = r.key
    if b = 512 then s
    else if s.pld.records.any same then
      { s with pld := { s.pld with records := s.pld.records.map fun x => if same x then x.put bank b else x } }
    else { s with pld := { s.pld with records := s.pld.records ++ [r.put bank b], seq := r.seq } }

/-- One record written to bank A and then to bank B (R420). -/
def placeRec (s : State) (c : Commit) (frag seq : Nat) : State :=
  let r := c.record s frag seq
  writeCopy (writeCopy s 0 r) 1 r

/-- Fragments of a commit from number `frag` on written at once, from this SEQ on. -/
def placeAll (c : Commit) : Nat → Nat → Nat → State → State
  | 0, _, _, s => s
  | n + 1, frag, seq, s => placeAll c n (frag + 1) (seqNext seq) (placeRec s c frag seq)

/-- A commit that boot stage 2 makes before anything else runs: the whole value (R166, R426, R461). -/
def commitNow (s : State) (c : Commit) : State :=
  if s.pld.st = 3 then lostCommit s
  else
    match prepare s { c with version := knownVersion s c.type } with
    | some c => if versionAhead s c then sayAhead (lostCommit s) else placeAll c c.frags 0 (seqNext s.pld.seq) s
    | none => s

/-! ## Mailbox commands (R437, R438) -/

/-- Results (R437, R465). -/
abbrev MbxRes.OK : Nat := 0
abbrev MbxRes.BAD_OP : Nat := 1
abbrev MbxRes.BAD_ARG : Nat := 2
abbrev MbxRes.ABSENT : Nat := 3
abbrev MbxRes.DENIED : Nat := 4
abbrev MbxRes.LIMIT : Nat := 5
abbrev MbxRes.UNAVAILABLE : Nat := 6
abbrev MbxRes.AHEAD : Nat := 7
abbrev MbxRes.SIG_BAD : Nat := 8
abbrev MbxRes.ROLLBACK : Nat := 9
abbrev MbxRes.EXPIRED : Nat := 10
abbrev MbxRes.KEY_BAD : Nat := 11
abbrev MbxRes.BAD_FORMAT : Nat := 12

/-- A mailbox command ends (R438). -/
def mbxEnd (s : State) (result : Nat) : State :=
  let a := pldReg Reg.PLD_MBX_CMD
  let s := setFld (setFld s 0 a 31 31 0) 0 a 23 16 result
  raiseInt { s with pld := { s.pld with busy := none } } (pldReg 0) 0

/-- GO written with an OP: a command that finds another running is ignored; one before the store is read waits (R436, R437). -/
def mbxGo (s : State) (src : Source) (op : Nat) (f : State → State) : State :=
  let a := pldReg Reg.PLD_MBX_CMD
  if s.pld.busy.isSome then setFld s 0 a 30 30 1
  else
    let s := setFld (setFld (setFld (setFld s 0 a 7 0 op) 0 a 25 24 (srcNum src)) 0 a 23 16 0) 0 a 31 31 1
    let s := { s with pld := { s.pld with busy := some ⟨op, srcNum src, 0, 0⟩ } }
    if s.pld.st = 0 ∧ !s.boot.romService then s else f s

/-- The arguments. -/
def mbxType (s : State) : Nat := fld s 0 (pldReg Reg.PLD_MBX_ARG) 31 16
def mbxKey (s : State) : Nat := fld s 0 (pldReg Reg.PLD_MBX_ARG) 15 0
def mbxArg2 (s : State) : Nat := rd s 0 (pldReg Reg.PLD_MBX_ARG2)

/-- Bytes of the buffer. -/
def mbxBuf (s : State) (n : Nat) : List Byte :=
  ((List.range (ceilDiv n 4)).flatMap fun i => leBytes 4 (rd s 0 (pldReg (0x800 + 4 * i)))).take n

/-- Bytes put in the buffer, with INFO and SEQ of what they are. -/
def mbxReturn (s : State) (data : List Byte) (version : Nat) (last : Bool) (seq : Nat) : State :=
  let s := (List.range (ceilDiv data.length 4)).foldl (fun s i =>
    wr s 0 (pldReg (0x800 + 4 * i)) (leNat ((data.drop (4 * i)).take 4))) s
  let s := wr s 0 (pldReg Reg.PLD_MBX_INFO) (version * 2 ^ 24 + b2n last * 2 ^ 23 + data.length % 4096)
  wr s 0 (pldReg Reg.PLD_MBX_SEQ) seq

/-- A command that ends when its commit is made: refused where the store is unavailable. -/
def mbxCommit (s : State) (c : Commit) : State :=
  if s.pld.st = 3 then mbxEnd (lostCommit s) MbxRes.UNAVAILABLE
  else if versionAhead s c then mbxEnd (sayAhead (lostCommit s)) MbxRes.AHEAD
  else
    let s := { s with pld := { s.pld with busy := s.pld.busy.map fun b => { b with type := c.type, key := c.key } } }
    queueCommit s { c with mbx := true }

/-- Nothing is left to commit. -/
def drained (s : State) : Bool := s.pld.queue.isEmpty && s.pld.running.isNone

/-- The mailbox command whose commit this was ends; SYNC ends once nothing is left to commit. -/
def mbxAfter (s : State) (c : Commit) : State :=
  match s.pld.busy with
  | some b =>
    if c.mbx then mbxEnd s MbxRes.OK
    else if b.op = 9 ∧ b.type = 0xFFFF ∧ drained s then mbxEnd s MbxRes.OK
    else s
  | none => s

/-- Security commands that the host and the harts alone may give (R465). -/
def overI3c (src : Source) : Bool :=
  match src with
  | .i3c => true
  | _ => false

/-- A training record committed: the width, and the failed wires of the repair map (R20, R424; notes/assumptions/22.md). -/
def trainCommit (s : State) (i width : Nat) (map : List Nat) : State :=
  queueCommit s
    { prio := 4, type := 0x20, key := i, version := 1, tomb := false
      data := leBytes 4 width ++ leBytes 4 map.length ++ map.flatMap (leBytes 2) }

end Sys2Proof.Machine
end

