-- ==== Sys2Proof/Machine/Images.lean ====
section
/-!
DEFINITION. Signed images (R440-R443): the header, the checks in their order, what an acceptance and a rejection leave;
signatures of owners and of debug responses (R445, R464); measurements (R447).
-/

namespace Sys2Proof.Machine

/-- Bytes of an image. -/
def part (img : List Byte) (off n : Nat) : List Byte := (img.drop off).take n

/-- A little-endian word of an image. -/
def imgWord (img : List Byte) (off : Nat) : Nat := leNat (part img off 4)

/-- Fields of the header (R440). -/
def imgClass (img : List Byte) : Nat := bits (imgWord img 4) 31 24
def imgSigner (img : List Byte) : Nat := bits (imgWord img 4) 23 20
def imgSlot (img : List Byte) : Nat := bits (imgWord img 4) 19 16
def imgSvn (img : List Byte) : Nat := bits (imgWord img 4) 15 0
def imgLen (img : List Byte) : Nat := imgWord img 8

/-- The body. -/
def imgBody (img : List Byte) : List Byte := part img 0x2000 (imgLen img)

/-- The number that a fuse slot holds for a pair of public keys: both SHA-512 digests (R439). -/
def keyHash (ed ml : List Byte) : Nat := Config.sha512 ed % 2 ^ 512 * 2 ^ 512 + Config.sha512 ml % 2 ^ 512

/-- The fuse of a key slot of a signer, 0 vendor, 1 owner, where it is usable: blown and not revoked (R439). -/
def usableKey (f : Fuses) (signer slot : Nat) : Option Nat :=
  let keys := if signer = 0 then f.vendorKeys else f.ownerKeys
  let revoked := if signer = 0 then f.vendorRevoke else f.ownerRevoke
  if bit revoked slot then none else (keys.getD slot none)

/-- Both signatures over a message verify (R442). -/
def bothSigs (edPub edSig mlPub mlSig msg : List Byte) : Bool :=
  Config.edVerify edPub edSig msg && Config.mlVerify mlPub mlSig msg

/-- Anti-rollback counter of an image class in the store; without the store the fuses alone decide (R433, R441). -/
def rollbackOf (s : State) (cls : Nat) : Nat := if s.pld.st = 3 then 0 else leNat ((if s.pld.st = 0 then currentData s 4 cls else storeVal s 4 cls).getD [])

/-- Security version of an image class in the fuses (R439). -/
def fuseSvn (f : Fuses) (cls : Nat) : Nat :=
  if cls = 1 then f.svnHub else if cls = 2 then f.svnCore else if cls = 3 then f.svnPolicy else 0

/-- Signers allowed for a class (R441). -/
def signerAllowed (cls signer : Nat) : Bool :=
  if cls = 2 then decide (signer ≤ 1) else if cls = 3 then signer == 1 else (cls == 1 || cls == 4) && signer == 0

/-- All bytes of a part are zero. -/
def zeroPart (img : List Byte) (off n : Nat) : Bool := (part img off n).all fun b => b == 0

/-- Check 1 of R442. -/
def formatOk (img : List Byte) (cls : Nat) : Bool :=
  decide (0x2000 + imgLen img ≤ img.length) && imgWord img 0 == 0x4858494D && imgClass img == cls
    && signerAllowed cls (imgSigner img) && decide (imgSvn img < if cls = 1 then 64 else 32)
    && zeroPart img 0x00C 0x14 && zeroPart img 0x060 0x20 && zeroPart img 0x156D 0xA93

/-- The checks of R442 in their order: the result of the first that fails, as a mailbox result; 0 where all pass. -/
def imageCheck (s : State) (img : List Byte) (cls : Nat) : Nat :=
  let edPub := part img 0x080 32
  let mlPub := part img 0x0E0 1952
  if !formatOk img cls then MbxRes.BAD_FORMAT
  else if usableKey s.sec.fuses (imgSigner img) (imgSlot img) ≠ some (keyHash edPub mlPub) then MbxRes.KEY_BAD
  else if !bothSigs edPub (part img 0x0A0 64) mlPub (part img 0x880 3309) (part img 0 0x80) then MbxRes.SIG_BAD
  else if cls ≠ 4 ∧ imgSvn img < max (fuseSvn s.sec.fuses cls) (rollbackOf s cls) then MbxRes.ROLLBACK
  else if leNat (part img 0x020 64) ≠ Config.sha512 (imgBody img) % 2 ^ 512 then MbxRes.SIG_BAD
  else 0

/-- What a check leaves: a rejection is a security event (R442); an acceptance above the ROLLBACK value raises it (R443). -/
def imageNoted (s : State) (img : List Byte) (cls result : Nat) : State :=
  if result ≠ 0 then secEvent s Sev.IMAGE_REJECTED cls 0 result true
  else if cls ≠ 4 ∧ rollbackOf s cls < imgSvn img ∧ s.pld.st ≠ 3 then
    queueCommit s { prio := 3, type := 4, key := cls, version := 1, tomb := false, data := leBytes 4 (imgSvn img) }
  else s

/-- A signature block after a signed text: ED_PUB, ML_PUB, ED_SIG, ML_SIG (notes/assumptions/22.md). -/
structure SigBlock where
  edPub : List Byte
  mlPub : List Byte
  edSig : List Byte
  mlSig : List Byte
  deriving DecidableEq, Repr

/-- The signature block at an offset. -/
def sigBlock (l : List Byte) (off : Nat) : SigBlock :=
  ⟨part l off 32, part l (off + 32) 1952, part l (off + 1984) 64, part l (off + 2048) 3309⟩

/-- Bytes of a signature block. -/
abbrev sigBytes : Nat := 5357

/-- A usable slot of a signer, other than `but`, whose keys a block carries. -/
def signedBy (f : Fuses) (signer : Nat) (but : Option Nat) (b : SigBlock) : Bool :=
  [0, 1, 2, 3].any fun k => some k != but && usableKey f signer k == some (keyHash b.edPub b.mlPub)

/-- A block's signatures over a text. -/
def sigOk (b : SigBlock) (msg : List Byte) : Bool := bothSigs b.edPub b.edSig b.mlPub b.mlSig msg

/-! ## Measurements (R447) -/

/-- Unique id of a die. -/
def dieId (s : State) (d : Nat) : Nat := tget (fun d => d) s.sec.fuses.ids d

/-- Payload of STEP_INVENTORY: feature word and unique id of every die (notes/assumptions/22.md). -/
def inventoryData (s : State) : List Byte := dieCodes.flatMap fun d => leBytes 4 (s.feature d) ++ leBytes 8 (dieId s d)

/-- A SHA-512 digest as a number. -/
def digest (l : List Byte) : Nat := Config.sha512 l % 2 ^ 512

/-- Digests of a bundle's four components. -/
def bundleDigests (body : List Byte) : List Nat := (List.range 4).map fun k => digest (Config.component body k)

/-- The effective levels of the sensors and their floors, a byte each. -/
def levelBytes (s : State) : List Byte :=
  let floor (n : Nat) : Nat := nth s.sec.fuses.floors n
  (List.range 7).flatMap fun n =>
    leBytes 1 (max (floor n) ((s.sec.policy.map fun p => nth p.levels n).getD 0)) ++ leBytes 1 (floor n)

/-- Measurement `i`; the bytes that 6, 9 and 10 digest are the model's (notes/assumptions/22.md). -/
def measurement (s : State) (i : Nat) : Nat :=
  match i with
  | 1 => Config.romDigest
  | 2 | 3 | 4 | 5 => nth s.sec.bundle (i - 2)
  | 6 => digest (leBytes 2 s.boot.level ++ inventoryData s)
  | 7 => (s.sec.policy.map (·.hash)).getD 0
  | 8 => if s.core.image.isSome then s.core.imageHash else 0
  | 9 => digest (leBytes 1 (b2n s.sec.dbgOwner) ++ leBytes 1 (b2n s.sec.dbgVendor))
  | _ => digest (levelBytes s)

/-- The lowest usable owner slot, from which the key-encryption key is derived (R445, R453). -/
def lowestOwner (f : Fuses) : Option Nat := [0, 1].find? fun k => (usableKey f 1 k).isSome

end Sys2Proof.Machine
end

