-- ==== Sys2Proof/Machine/MatrixEngine.lean ====
section
/-!
DEFINITION. The matrix operation MM as a function of its payload and of the bytes of its operands (R99-R115): its
checks, the size of each operand, the value and the encoding of each output, and the cycle model.
-/

namespace Sys2Proof.Machine

/-- A field of a 64-byte descriptor or command: bits `[hi:lo]` of the word at byte offset `off`. -/
def dfield (raw off hi lo : Nat) : Nat := bits raw (8 * off + hi) (8 * off + lo)

/-- The payload of MM (R100), decoded. -/
structure MMOp where
  aFmt : Nat
  bFmt : Nat
  outFmt : Nat
  aScaled : Bool
  bScaled : Bool
  transA : Bool
  transB : Bool
  bForm : Nat
  bN : Nat
  accIn : Bool
  noskip : Bool
  outRound : Nat
  m : Nat
  n : Nat
  k : Nat
  batch : Nat
  aStride : Nat
  bStride : Nat
  deriving DecidableEq, Repr

def MMOp.ofRaw (raw : Nat) : MMOp where
  aFmt := dfield raw 0x28 31 28
  bFmt := dfield raw 0x28 27 24
  outFmt := dfield raw 0x28 23 20
  aScaled := bit raw (8 * 0x28 + 19)
  bScaled := bit raw (8 * 0x28 + 18)
  transA := bit raw (8 * 0x28 + 17)
  transB := bit raw (8 * 0x28 + 16)
  bForm := dfield raw 0x28 15 14
  bN := dfield raw 0x28 13 12
  accIn := bit raw (8 * 0x28 + 11)
  noskip := bit raw (8 * 0x28 + 10)
  outRound := dfield raw 0x28 9 8
  m := dfield raw 0x2C 31 16
  n := dfield raw 0x2C 15 0
  k := dfield raw 0x30 31 16
  batch := dfield raw 0x30 15 0
  aStride := dfield raw 0x34 31 16
  bStride := dfield raw 0x34 15 0

/-- An FP8 or INT8 operand is carried in groups when the operation says scaled; the 4-bit and 6-bit formats always. -/
def carriedInGroups (f : Nat) (scaled : Bool) : Bool := fmtGrouped f || (decide (5 ≤ f ∧ f ≤ 7) && scaled)

def MMOp.aGrouped (p : MMOp) : Bool := carriedInGroups p.aFmt p.aScaled
def MMOp.bGrouped (p : MMOp) : Bool := carriedInGroups p.bFmt p.bScaled
def MMOp.hasN8 (p : MMOp) : Bool := p.bForm % 2 == 1
def MMOp.hasMap (p : MMOp) : Bool := p.bForm / 2 == 1

/-- N of the N:8 form, 0 for a dense one (R100, R110). -/
def MMOp.n8 (p : MMOp) : Nat := if p.hasN8 then (if p.bN = 0 then 4 else if p.bN = 1 then 2 else 1) else 0

def MMOp.bShape (p : MMOp) : BShape := ⟨p.bFmt, p.bGrouped, p.transB, p.n8, p.hasMap, p.k, p.n⟩

/-- The reserved bits of MM's payload (R100, R518). -/
def mmReserved (raw : Nat) : Bool := dfield raw 0x28 7 0 != 0 || dfield raw 0x38 63 0 != 0

/-- The ILLEGAL_OP conditions of R101 and R518. -/
def MMOp.illegal (p : MMOp) (raw : Nat) : Bool :=
  mmReserved raw || (p.hasN8 && p.bN == 3) || decide (2 ≤ p.outRound)
  || p.m == 0 || p.n == 0 || p.k == 0 || p.batch == 0 || decide (4096 < p.batch)
  || p.aFmt == 0 || p.bFmt == 0 || decide (11 < p.aFmt) || decide (11 < p.bFmt)
  || (p.aFmt == 10) != (p.bFmt == 10) || (p.aFmt == 11) != (p.bFmt == 11)
  || (if p.aFmt = 11 then p.outFmt != 11 else !([5, 6, 8, 9, 10].contains p.outFmt))
  || (p.transA && p.aGrouped) || (p.transB && p.bGrouped)
  || (p.transB && p.bForm != 0)
  || (p.hasN8 && decide (10 ≤ p.bFmt))

/-- Bytes of one entry of A. -/
def MMOp.aEntry (p : MMOp) : Nat :=
  if p.aGrouped then groupedBytes p.aFmt (p.m * ceilDiv p.k 256) else elemBytes p.aFmt (p.m * p.k)

/-- Bytes from the start of A to its end, over every batch entry at its stride (R102, R103). -/
def MMOp.aBytes (p : MMOp) : Nat := (if p.aStride = 0 then 0 else (p.batch - 1) * p.aStride * 256) + p.aEntry

/-- Start of entry `e` of an operand with a batch stride. -/
def entryStart (stride e : Nat) : Nat := e * stride * 256

/-- B fits its slots: every batch entry at its stride (R103). -/
def MMOp.bFits (p : MMOp) (sram : List Host.Cell) (r : Run) : Bool :=
  (List.range (if p.bStride = 0 then 1 else p.batch)).all fun e =>
    let st := entryStart p.bStride e
    decide (st + p.bShape.mapBytes ≤ r.len) && decide (st + p.bShape.bytes sram r st ≤ r.len)

/-- The accumulator format's code: FP32, or FP64 for FP64 operands (R90). -/
def MMOp.accFmt (p : MMOp) : Nat := if p.aFmt = 11 then 11 else 10

/-- Bytes from one entry of C or D to the next: each starts at a 256-byte boundary (R102). -/
def MMOp.entryBytes (p : MMOp) (f : Nat) : Nat := up256 (elemBytes f (p.m * p.n))

/-- Bytes from the start of C or D to its end. -/
def MMOp.outBytes (p : MMOp) (f : Nat) : Nat := (p.batch - 1) * p.entryBytes f + elemBytes f (p.m * p.n)

/-- Batch entries at different places of an operand with a batch stride: one where the stride is 0. -/
def MMOp.entries (p : MMOp) (stride : Nat) : Nat := if stride = 0 then 1 else p.batch

/-- The pieces of A that MM reads: every batch entry, without what lies between them. -/
def MMOp.aPieces (p : MMOp) : List (Nat × Nat) :=
  (List.range (p.entries p.aStride)).flatMap fun e =>
    let st := entryStart p.aStride e
    if p.aGrouped then groupedPieces p.aFmt (p.m * ceilDiv p.k 256) st else [(st, p.aEntry)]

/-- The pieces of B that MM reads. -/
def MMOp.bPieces (p : MMOp) (sram : List Host.Cell) (r : Run) : List (Nat × Nat) :=
  (List.range (p.entries p.bStride)).flatMap fun e => p.bShape.pieces sram r (entryStart p.bStride e)

/-- The pieces of C that MM reads. -/
def MMOp.cPieces (p : MMOp) : List (Nat × Nat) :=
  (List.range p.batch).map fun e => (e * p.entryBytes p.accFmt, elemBytes p.accFmt (p.m * p.n))

/-- Element at row `i` and position `k` of entry `e` of A (R102); none where R83 refuses its table. -/
def MMOp.aElem (p : MMOp) (sram : List Host.Cell) (bk : Books) (r : Run) (e i k : Nat) : Option Num :=
  let st := entryStart p.aStride e
  if p.aGrouped then
    let c := ceilDiv p.k 256
    groupElem sram bk r st p.aFmt (p.m * c) (i * c + k / 256) (k % 256)
  else
    some (decodeElem p.aFmt (elemCode sram r st p.aFmt (if p.transA then k * p.m + i else i * p.k + k)))

/-- Side of an output block (R106): 64, or 32 for FP64. -/
def MMOp.side (p : MMOp) : Nat := if p.aFmt = 11 then 32 else 64

/-- The class of a format (R106): 0 4-bit, 1 8-bit with CB6, 2 16-bit, 3 FP32, 4 FP64. -/
def fmtClass (f : Nat) : Nat :=
  if f = 1 ∨ f = 3 ∨ f = 4 then 0 else if f = 2 ∨ f = 5 ∨ f = 6 ∨ f = 7 then 1 else if f = 8 ∨ f = 9 then 2
  else if f = 10 then 3 else 4

/-- The wider class of the operand pair governs (R106). -/
def MMOp.cls (p : MMOp) : Nat := max (fmtClass p.aFmt) (fmtClass p.bFmt)

/-- Four times the reduction depth d of a class, so that 0.5 and 0.25 are whole. -/
def depth4 (c : Nat) : Nat := nth [32, 16, 8, 2, 1] c

/-- Peak multiply-accumulates per cycle of a class (R106). -/
def peakMacs (c : Nat) : Nat := nth [32768, 16384, 8192, 2048, 256] c

/-- The speed-up of an N:8 form (R110). -/
def MMOp.speed (p : MMOp) : Nat := if p.n8 = 0 then 1 else if p.n8 = 4 then 2 else 4

/-- Step `t` of K is all zero in every row of A that block-row `bm` of entry `e` covers (R115). -/
def MMOp.stepZero (p : MMOp) (sram : List Host.Cell) (bk : Books) (r : Run) (e bm t : Nat) : Bool :=
  (List.range (min p.side (p.m - bm * p.side))).all fun i =>
    (List.range (min 32 (p.k - 32 * t))).all fun q =>
      match p.aElem sram bk r e (bm * p.side + i) (32 * t + q) with
      | some x => x.isZero
      | none => false

/-- Some element that MM reads cannot be decoded: ENGINE_FAULT (R109, R112). R115 does not say whether a group or a run of B that
lies wholly in steps skipped for zero activations is read: here every stored element of B is, whatever A holds (DESIGN CHOICE,
notes/assumptions/97.md). -/
def MMOp.undecodable (p : MMOp) (sram : List Host.Cell) (bk : Books) (ra rb : Run) : Bool :=
  (List.range p.batch).any fun e =>
    (p.aGrouped && (List.range p.m).any fun i => (List.range p.k).any fun k => (p.aElem sram bk ra e i k).isNone)
    || (List.range p.n).any fun j => (List.range p.k).any fun k =>
        p.bShape.elem sram bk rb (entryStart p.bStride e) j k == .bad

/-- One output element (R104, R105): from C's element or +0.0, the products in ascending order of K over the visited
positions, one rounding for each addition. -/
def MMOp.dot (p : MMOp) (sram : List Host.Cell) (bk : Books) (ra rb : Run) (skip : List Nat) (c : Num)
    (e i j : Nat) : Num :=
  (List.range p.k).foldl (fun acc k =>
    if skip.contains (k / 32) then acc
    else
      match p.bShape.elem sram bk rb (entryStart p.bStride e) j k with
      | .value y =>
        match p.aElem sram bk ra e i k with
        | some x => roundIEEE (floatOf p.accFmt) false (acc.add (x.mul y))
        | none => .nan
      | _ => acc) c

/-- K positions of chunk `c` that lie in present bitmap blocks for block-column `bn` of entry `e`, those in `skip`ped
steps left out (R107). -/
def MMOp.positions (p : MMOp) (sram : List Host.Cell) (rb : Run) (skip : List Nat) (e bn c : Nat) : Nat :=
  ((List.range (min 256 (p.k - 256 * c))).filter fun q =>
    let k := 256 * c + q
    p.bShape.present sram rb (entryStart p.bStride e) (k / 128) (bn * p.side / 128) && !skip.contains (k / 32)).length

/-- What MM did: the bytes of each entry of D, and what its counters add (R116). -/
structure MMResult where
  data : List (Nat × List Byte)
  tileCycles : Nat
  skipAct : Nat
  skipBlk : Nat
  minTile : Nat
  nanOut : Nat
  satOut : Nat
  deriving DecidableEq, Repr

/-- MM carried out over its operands: every output element, and the cycle model of R107 over the engine tiles. -/
def MMOp.run (p : MMOp) (sram : List Host.Cell) (bk : Books) (ra rb rc : Run) (noskipAll : Bool) : MMResult :=
  let nbm := ceilDiv p.m p.side
  let nbn := ceilDiv p.n p.side
  let nch := ceilDiv p.k 256
  let skips (e bm : Nat) : List Nat :=
    if p.noskip || noskipAll then []
    else (List.range (ceilDiv p.k 32)).filter fun t => p.stepZero sram bk ra e bm t
  let outs := (List.range p.batch).map fun e =>
    let cs := (List.range p.m).flatMap fun i =>
      let sk := skips e (i / p.side)
      (List.range p.n).map fun j =>
        let c := if p.accIn then
            decodeElem p.accFmt (elemCode sram rc (e * p.entryBytes p.accFmt) p.accFmt (i * p.n + j))
          else Num.zero
        convertTo p.outFmt (p.outRound == 1) (p.dot sram bk ra rb sk c e i j)
    (e * p.entryBytes p.outFmt, cs)
  let tiles := (List.range p.batch).flatMap fun e => (List.range nbm).flatMap fun bm =>
    let sk := skips e bm
    (List.range nbn).flatMap fun bn => (List.range nch).filterMap fun c =>
      let k := p.positions sram rb sk e bn c
      if k = 0 then none else some (ceilDiv (4 * k) (depth4 p.cls * p.speed))
  let absent := (List.range p.batch).foldl (fun a e => a + ((List.range (p.bShape.kb * p.bShape.nb)).filter fun t =>
      !p.bShape.present sram rb (entryStart p.bStride e) (t % p.bShape.kb) (t / p.bShape.kb)).length) 0
  let convs := outs.flatMap Prod.snd
  { data := outs.map fun o => (o.1, o.2.flatMap fun c => leBytes (fmtBits p.outFmt / 8) c.code)
    tileCycles := (tiles.map fun t => max t 8).foldl (· + ·) 0
    skipAct := (List.range p.batch).foldl (fun a e =>
      a + nbn * ((List.range nbm).map fun bm => (skips e bm).length).foldl (· + ·) 0) 0
    skipBlk := absent
    minTile := (tiles.filter fun t => decide (t < 8)).length
    nanOut := (convs.filter fun c => c.nan).length
    satOut := (convs.filter fun c => c.sat).length }

end Sys2Proof.Machine
end

