-- ==== Sys2Proof/Machine/Contexts.lean ====
section
/-!
DEFINITION. Contexts and command queues (R40-R50): the context manager's operations, doorbells, the fetch of commands and
their completion.
-/

namespace Sys2Proof.Machine

/-! ## Descriptors (R42, R65) -/

/-- The 256 bytes of a descriptor, as one little-endian number, field by field (R42). -/
def CtxDesc.ofRaw (r : Nat) : CtxDesc where
  version := dfield r 0x00 31 24
  latency := bit r 23
  detachRun := bit r 22
  scrub := bit r 21
  nextLine := bit r 20
  abandonS := dfield r 0x04 31 16
  fqLog2 := dfield r 0x04 12 8
  cqLog2 := dfield r 0x04 4 0
  cqBase := dfield r 0x08 63 0
  consumedAddr := dfield r 0x10 63 0
  fqBase := dfield r 0x18 63 0
  ptRoot := dfield r 0x20 43 0
  phaseTable := dfield r 0x28 63 0
  streamLimit := dfield r 0x30 17 0
  borrowHoldUs := dfield r 0x34 15 0
  energyBudget := dfield r 0x38 63 0
  cellSet := dfield r 0x40 319 0
  borrowSet := dfield r 0x68 319 0

/-- One phase table entry (R65). -/
def PhaseEntry.ofRaw (r : Nat) : PhaseEntry where
  valid := bit r 31
  prefOp := dfield r 0x00 27 24
  ceil := dfield r 0x04 25 16
  guar := dfield r 0x04 9 0
  mapAddr := dfield r 0x08 63 0
  mapId := dfield r 0x10 31 0

/-- A valid entry with a reserved bit set breaks R65. -/
def phaseBad (r : Nat) : Bool :=
  bit r 31 && (dfield r 0x00 30 28 != 0 || dfield r 0x00 23 0 != 0 || dfield r 0x04 31 26 != 0
    || dfield r 0x04 15 10 != 0 || dfield r 0x14 95 0 != 0)

/-- The entries of a phase table's bytes; none where one breaks R65. -/
def phasesOf (bytes : List Byte) : Option (List PhaseEntry) :=
  let raws := (List.range (bytes.length / 32)).map fun i => leNat ((bytes.drop (32 * i)).take 32)
  if raws.any phaseBad then none else some (raws.map PhaseEntry.ofRaw)

/-- A field of the descriptor is out of range, a reserved bit is set, or an address is unaligned (R42, R43). -/
def descBad (r : Nat) (d : CtxDesc) : Bool :=
  !(d.version = 2 || d.version = 3) || dfield r 0x00 19 0 != 0 || dfield r 0x04 15 13 != 0 || dfield r 0x04 7 5 != 0
    || !(decide (4 ≤ d.fqLog2 ∧ d.fqLog2 ≤ 16)) || !(decide (6 ≤ d.cqLog2 ∧ d.cqLog2 ≤ 16))
    || dfield r 0x20 63 44 != 0 || dfield r 0x30 31 18 != 0 || dfield r 0x34 31 16 != 0
    || decide (1000 < d.borrowHoldUs) || dfield r 0x90 895 0 != 0
    || d.cqBase % 4096 != 0 || d.consumedAddr % 8 != 0 || d.fqBase % 4096 != 0
    || decide (poolBytes ≤ d.ptRoot * 4096) || (!d.latency && d.borrowSet != 0)

/-! ## Clearing -/

/-- A register of a partition back at its reset value (R217, R44). -/
def regToReset (s : State) (idx a : Nat) : State :=
  { s with regs := tdel s.regs (regKey idx a) }

/-- DESTROY returns a partition's registers to their reset values (R217). -/
def resetPartition (s : State) (p : Nat) : State :=
  let regs := [Reg.SLU_SHARE_CTL, Reg.SLU_BURST, Reg.SLU_INTERVAL, Reg.SLU_STATUS, Reg.SLU_UNITS_LO, Reg.SLU_UNITS_HI,
    Reg.SLU_CEIL_CYC, Reg.SLU_GUAR_MISS, Reg.SLU_PIN_CTL]
  let s := regs.foldl (fun s r => regToReset s p (hub Pg.SLU r)) s
  [0, 1, 2, 3].foldl (fun s k =>
    regToReset (regToReset s (k * 64 + p) (hub Pg.SLU Reg.SLU_PIN_BASE)) (k * 64 + p) (hub Pg.SLU Reg.SLU_PIN_SIZE)) s

/-- An invalidation reaches the units: of the walks of its context in flight there, those of its range lose their results (R292). -/
def staleWalks (s : State) (v : Inval) : State :=
  setWalks s (s.xlt.walks.map fun j =>
    if j.stage = .running ∧ j.req.ctx = v.ctx ∧ v.waiting.contains j.req.unit ∧ inRange v.va v.bytes (j.va / 4096 * 4096) 4096 then
      { j with stale := true } else j)

/-- The invalidations under way are `l`; up to 16 are in flight, and those that now begin count their bound from now (R293, R295). -/
def setInvals (s : State) (l : List Inval) : State :=
  let begun := (s.xlt.invals.take 16).map (·.number)
  let fresh := (l.take 16).filter fun v => !begun.contains v.number
  let now := (l.take 16).map fun v => if begun.contains v.number then v else { v with began := s.cic.count }
  fresh.foldl staleWalks { s with xlt := { s.xlt with invals := now ++ l.drop 16 } }

/-- A context's cached translations dropped in every unit (R293: RESET and DESTROY invalidate the whole space). -/
def dropTranslations (s : State) (ctx : Nat) : State :=
  let s := (xltUnits.filter fun u => !s.xlt.fenced.contains u && !s.offline u).foldl (fun s u =>
    count (dropRange s u ctx 0 0) (xltReg u Reg.XLT_INV) 1) s
  let s := (tkeys s.xlt.tlb).foldl (fun s u => setTlb s u ((tlbOf s u).filter fun t => !(t.host && t.ctx == ctx))) s
  let s := setInvals s (s.xlt.invals.filter fun v => v.ctx != ctx || v.cmd.isNone)
  let s := setWalks s (s.xlt.walks.filter fun j => j.req.ctx != ctx)
  xltUnits.foldl startWalks (setAts s (s.xlt.atsWait.filter fun w => w.req.ctx != ctx))

/-- A context's key slot zeroised, EMPTY, and its key-map entries set to NONE (R454). -/
def zeroiseSlot (s : State) (k : Nat) : State :=
  let s := s.setSlot k KeySlot.empty
  { s with sec := { s.sec with keyMap := s.sec.keyMap.filter fun p => p.2 != k } }

/-- A match unit without requests of a cell. -/
def dropMatch (s : State) (cell : Nat) : State :=
  let d := cellDie cell
  let m := s.mtu d
  let keep (r : Option MatchReq) : Option MatchReq := r.filter fun q => q.pos != cellPos cell
  s.setMtu d { m with running := keep m.running, waiting := keep m.waiting }

/-- A borrowed cell is cleared and begins to go back to its owner (R72): the borrower's streams with an endpoint on it
are destroyed (R181); with a spill record the restore begins, else the cell is idle and free. -/
def beginReturn (s : State) (cell : Nat) : State :=
  let x := s.cell cell
  match x.runner with
  | none => s
  | some b =>
    let mine := (streamsOf s b).filter fun i =>
      let st := s.stream i
      (st.src.kind = Kind.CELL && endCell s b st.src = cell) || (st.snk.kind = Kind.CELL && endCell s b st.snk = cell)
    let s := mine.foldl destroyStream s
    let s := dropMatch s cell
    let x := s.cell cell
    s.setCell cell
      { x with img := CellImg.idle, runner := none, borrowed := false, haltedAt := none, returnNow := false, startCmd := none, startHead := [],
               startMask := 0, startEntries := [], move := if x.saved.isSome then .restoring else .steady }

/-- A cell as its context is reset or destroyed (R44, R73): contents cleared, a spill record discarded, a borrowed cell
sent back. -/
def clearCellOf (s : State) (ctx cell : Nat) : State :=
  let x := s.cell cell
  let s := { s with held := s.held.filter fun h => !(h.cell = cell && x.runner = some ctx) }
  if (x.saved.map Prod.fst) = some ctx then
    s.setCell cell { x with saved := none, move := if x.move = .restoring then .steady else x.move }
  else if x.move = .spilling ctx then s.setCell cell { x with move := .steady }
  else if x.runner = some ctx ∧ x.borrowed then beginReturn s cell
  else if x.runner = some ctx then
    (dropMatch s cell).setCell cell { x with img := CellImg.idle, runner := none, haltedAt := none }
  else if x.runner = none ∧ bit (s.ctx ctx).desc.cellSet cell then s.setCell cell { x with img := CellImg.idle }
  else s

/-- What RESET and DESTROY share once the cells have stopped (R44): cells stopped and cleared, streams destroyed, queues restarted at zero, the
context in phase 0, its translations, tags, held records and waiting host writes dropped (R292, R333). -/
def clearContext (s : State) (ctx : Nat) : State :=
  let s := (List.range 320).foldl (fun s c =>
    let x := s.cell c
    if x.runner = some ctx then s.setCell c { x with img := x.img.cease } else s) s
  let s := (streamsOf s ctx).foldl destroyStream s
  let s := (List.range 320).foldl (fun s c => clearCellOf s ctx c) s
  let s := dropTranslations s ctx
  let s := { s with
    str := { s.str with reshards := s.str.reshards.filter fun r => r.ctx != ctx }
    lnk := { s.lnk with colls := s.lnk.colls.filter fun c => c.ctx != ctx }
    host := { s.host with
      waiting := s.host.waiting.filter fun w => w.ctx != ctx
      unread := s.host.unread.filter fun w => w.who != AccWho.queue ctx } }
  let c := s.ctx ctx
  sendQueued <| s.setCtx ctx
    { c with producer := 0, consumer := 0, halted := false, dbBad := false, err := 0, cmds := [], fqProduced := 0, fqWaits := [],
             fqConsumed := 0, fqQueueFull := false, fqNorec := false, fqRespBad := false, fqConsBad := false,
             fqUnmapped := false, tags := [], fqHeld := [], norec := [], priOut := 0, nextPhases := none, phase := 0,
             barrier := none, holdUntil := none, window := false, completedThrough := 0, ran := [], countDue := none,
             ending := 0 }

/-- The guest's module trained: its 64 lanes are recorded where the record does not say so (R18, R20;
notes/assumptions/31.md). -/
def trainGuest (s : State) : State :=
  let x := s.iface 20
  if !x.present then s.setIface 20 { x with st := 3 }
  else
    let s := if x.recorded = some 64 then s else trainCommit s 20 64 []
    s.setIface 20 { x with recorded := some 64, width := 64, st := 0 }

/-- The guest die enabled, where a policy enables it and nothing waits (R28, R40, R457); it is a caching agent where a window
lets it cache (R32, R237). -/
def enableGuest (s : State) : State :=
  match s.sec.policy with
  | some p =>
    if p.guestEn ∧ !s.sec.guestIso ∧ !(s.ctx 63).live then
      let caches := p.windows.any (fun w => decide (0 < w.size) && bit w.perm 2)
      let s := { s with coh := { s.coh with
        enabled := s.coh.enabled.filter (· != 0x21) ++ (if caches then [0x21] else []) } }
      let s := trainGuest s
      { s with sec := { s.sec with guestOn := (s.iface 20).present, guestWait := false } }
    else s
  | none => s

/-- A context's overflow policy set to drop (R156). -/
def clearPolicy (s : State) (ctx : Nat) : State :=
  setFld s 0 (hub Pg.ROUTE (Reg.ROUTE_POLICY0 + 4 * (ctx / 16))) (2 * (ctx % 16) + 1) (2 * (ctx % 16)) 0

/-- A context's host requests carry no PASID (R298). -/
def clearPasid (s : State) (ctx : Nat) : State := setFld s ctx (hub Pg.XLC Reg.XLC_PASID) 31 31 0

/-- DESTROY's effect (R44, R156, R217, R335, R409, R454). -/
def destroyContext (s : State) (ctx : Nat) : State :=
  let s := clearContext s ctx
  let s := clearPolicy (zeroiseSlot (resetPartition s ctx) ctx) ctx
  let s := wr64 s ctx (hub Pg.PWR Reg.PWR_CTX_BUDGET_LO) 0
  let s := (clearPasid s ctx).setCtx ctx Ctx.idle
  if ctx = 63 ∧ s.sec.guestWait then enableGuest s else s

/-! ## The cells of a context stop (R43, R44) -/

/-- A cell's contents as RESET and DESTROY stop it: as an aborting CELL_STOP does, with the operations left that complete by
themselves. One that waits for a stream, for an owner's answer or for another cell ends with its context
(notes/assumptions/87.md). -/
def CellImg.windDown (i : CellImg) : CellImg :=
  { i.stopWith (i.abort.ops.filter fun o =>
      o.stage = .executed || (o.stage = .fired && [0x00, 0x02, 0x03, 0x10, 0x40, 0x41, 0x42, 0x43].contains (bits o.raw 31 24)))
    with phaseWait := false }

/-- Every cell of a context stopped; one whose clock stands still stops where it is. -/
def stopCells (s : State) (ctx : Nat) : State :=
  (List.range 320).foldl (fun s c =>
    let x := s.cell c
    if x.runner = some ctx then s.setCell c { x with img := if clockStopped s (8 + cellDie c) 1 0 then x.img.cease else x.img.windDown } else s) s

/-- The context's cells have stopped. -/
def cellsQuiet (s : State) (ctx : Nat) : Bool :=
  (List.range 320).all fun c => (s.cell c).runner != some ctx || (s.cell c).img.ops.isEmpty

/-- What DESTROY (2) or RESET (3) does once the cells have stopped (R44). -/
def endContext (s : State) (ctx kind : Nat) : State :=
  if kind = 2 then destroyContext s ctx else applyShare (clearContext s ctx) ctx

/-! ## The context manager (R43, R44) -/

/-- CTXM_RESULT set. -/
def ctxmResult (s : State) (code : Nat) : State := wr s 0 (hub Pg.CTXM Reg.CTXM_RESULT) code

/-- The result codes (R43, R336, R377, R450, R460). -/
abbrev CtxmRes.ID_LIVE : Nat := 1
abbrev CtxmRes.ID_RESERVED : Nat := 2
abbrev CtxmRes.BAD_DESC : Nat := 3
abbrev CtxmRes.CELL_TAKEN : Nat := 4
abbrev CtxmRes.BORROW_TAKEN : Nat := 5
abbrev CtxmRes.CELL_ABSENT : Nat := 6
abbrev CtxmRes.NOT_LIVE : Nat := 7
abbrev CtxmRes.UNCLAIMED : Nat := 8
abbrev CtxmRes.MIRROR_RESERVED : Nat := 9
abbrev CtxmRes.QUARANTINED : Nat := 10
abbrev CtxmRes.ENTROPY : Nat := 11

/-- The union of a set of the live contexts that meet a condition. -/
def unionSets (s : State) (p : Nat → Ctx → Bool) (f : CtxDesc → Nat) : Nat :=
  ((List.range 64).filter fun i => (s.ctx i).live && p i (s.ctx i)).foldl (fun a i => a ||| f (s.ctx i).desc) 0

/-- A cell that is not there for CREATE: on an offline cell die, or fenced (R18, R43, R476). -/
def cellAbsent (s : State) (c : Nat) : Bool := s.offline (8 + cellDie c) || (s.cell c).fenced

/-- A context id is reserved for the guest (R40). -/
def guestReserves (s : State) (ctx : Nat) : Bool := ctx = 63 && (s.sec.guestOn || s.sec.guestWait)

/-- A context id that the secondary of a mirror pair reserves, as does a primary that yielded (R378, R386). -/
def mirrorReserves (s : State) (ctx : Nat) : Bool :=
  s.mir.st != 0 && (!s.mir.primary || s.mir.st == 5) && bit (rd64 s 0 (hub Pg.MIR Reg.MIR_CTX_LO)) ctx

/-- Cells in the CELL_SETs of mirrored contexts, which a secondary keeps free (R378). -/
def mirrorCells (s : State) : Nat :=
  if s.mir.st = 0 ∨ s.mir.primary then 0
  else (tkeys s.mir.ctxs).foldl (fun a i =>
    match tget (fun _ => none) s.mir.ctxs i with
    | some m => a ||| (CtxDesc.ofRaw (leNat m.desc)).cellSet
    | none => a) s.mir.cells

/-- The phase table that a descriptor names, read through the new context's own tables. The descriptor gives no count of entries
and R65 allows 1 to 16: that CREATE reads 16, 512 bytes, is the model's choice (notes/assumptions/93.md). A table that cannot be
read leaves the single phase 0 (notes/assumptions/14.md). -/
def createPhases (s : State) (ctx addr : Nat) : State × Option (List PhaseEntry) :=
  if addr = 0 then (s, some [])
  else
    match translateRange s (cmdUnit ctx) ctx false (pagesOf addr 512) with
    | (s, .ok segs) => let r := readSegs s ctx segs; (r.1, phasesOf r.2)
    | (s, _) => (s, some [])

/-- CREATE's result code for a descriptor, apart from its phase table. -/
def createCode (s : State) (ctx addr raw : Nat) (d : CtxDesc) : Nat :=
  let taken := unionSets s (fun _ _ => true) CtxDesc.cellSet ||| mirrorCells s
  let latOwned := unionSets s (fun _ c => c.desc.latency) CtxDesc.cellSet
  let latBorrow := unionSets s (fun _ c => c.desc.latency) CtxDesc.borrowSet
  if (s.ctx ctx).live then CtxmRes.ID_LIVE
  else if guestReserves s ctx then CtxmRes.ID_RESERVED
  else if s.sec.dike ≠ 0 then CtxmRes.QUARANTINED
  else if mirrorReserves s ctx then CtxmRes.MIRROR_RESERVED
  else if s.sec.entropyBad then CtxmRes.ENTROPY
  else if addr % 256 ≠ 0 ∨ poolBytes < addr + 256 ∨ descBad raw d then CtxmRes.BAD_DESC
  else if d.cellSet &&& taken ≠ 0 then CtxmRes.CELL_TAKEN
  else if d.borrowSet &&& (latOwned ||| latBorrow ||| d.cellSet) ≠ 0 ∨ (d.latency ∧ d.cellSet &&& latBorrow ≠ 0) then
    CtxmRes.BORROW_TAKEN
  else if (bitList (d.cellSet ||| d.borrowSet) 320).any (cellAbsent s) then CtxmRes.CELL_ABSENT
  else 0

/-- CREATE (R42, R43): the context is live, with a fresh key and re-attach token, its energy budget loaded and, for a
latency context, every channel pinned (R221, R335, R410, R453). -/
def createContext (s : State) (ctx : Nat) : State :=
  let addr := rd64 s 0 (hub Pg.CTXM Reg.CTXM_DESC_LO)
  let raw := devLE s addr 256
  let d := CtxDesc.ofRaw raw
  let code := createCode s ctx addr raw d
  if code ≠ 0 then ctxmResult s code
  else
    let new : Ctx := { Ctx.idle with live := true, desc := d, claimed := true, token := s.sec.nextKey + 1, tokenReady := true }
    match createPhases (s.setCtx ctx new) ctx d.phaseTable with
    | (_, none) => ctxmResult s CtxmRes.BAD_DESC
    | (t, some ph) =>
      let t := applyShare (clearPasid (clearPolicy (t.setCtx ctx { new with phases := ph }) ctx) ctx) ctx
      let t := t.setSlot ctx { st := 1, key := s.sec.nextKey, fromBlob := false }
      let t := { t with sec := { t.sec with nextKey := s.sec.nextKey + 2 } }
      let t := wr64 t ctx (hub Pg.PWR Reg.PWR_CTX_BUDGET_LO) d.energyBudget
      let t := if d.latency then setFld t ctx (hub Pg.SLU Reg.SLU_PIN_CTL) 0 0 1 else t
      ctxmResult t 0

/-- An operation other than CREATE: refused for a context that is not live, and, through a host port, for an unclaimed
one unless it is DESTROY (R43, R336). -/
def ctxmOp (s : State) (src : Source) (ctx : Nat) (destroy : Bool) (f : State → State) : State :=
  let host : Bool := match src with
    | .host _ => true
    | _ => false
  if !(s.ctx ctx).live then ctxmResult s CtxmRes.NOT_LIVE
  else if host ∧ !(s.ctx ctx).claimed ∧ !destroy then ctxmResult s CtxmRes.UNCLAIMED
  else f s

/-- The cells of a context have stopped: DESTROY (2) or RESET (3) answers, a scrub (4) is logged (R43, R338). -/
def finishEnd (s : State) (ctx kind : Nat) : State :=
  if kind = 4 then secEvent (destroyContext s ctx) Sev.SCRUB ctx 0 0 true else ctxmResult (endContext s ctx kind) 0

/-- A DESTROY, RESET or scrub that waits finishes once its context's cells have stopped (R43, R338). -/
def endIfQuiet (s : State) (ctx : Nat) : State :=
  let k := (s.ctx ctx).ending
  if k = 0 ∨ !cellsQuiet s ctx then s else finishEnd s ctx k

/-- DESTROY (2), RESET (3) or scrub (4) of a context: its cells stop, and what follows waits for them (R43, R44, R338). Its commands
are gone. -/
def beginEnd (s : State) (ctx kind : Nat) : State :=
  let s := stopCells s ctx
  if cellsQuiet s ctx then finishEnd s ctx kind
  else s.setCtx ctx { s.ctx ctx with ending := kind, cmds := [], barrier := none }

/-- CTXM_CMD's address. -/
abbrev ctxmCmd : Nat := hub Pg.CTXM Reg.CTXM_CMD

/-- The operation and id of CTXM_CMD as written with GO. -/
def ctxmWrite (s : State) (op id : Nat) : State := setFld (setFld s 0 ctxmCmd 13 8 id) 0 ctxmCmd 3 0 op

/-- An operation of CTXM_CMD (R43, R44): 1 CREATE, 2 DESTROY, 3 RESET, 4 PAUSE, 5 RESUME; other values fail with
BAD_DESC. -/
def ctxmGo (s : State) (src : Source) (op id : Nat) : State :=
  let s := ctxmWrite s op id
  match op with
  | 1 => createContext s id
  | 2 => ctxmOp s src id true fun s => beginEnd s id 2
  | 3 => ctxmOp s src id false fun s => beginEnd s id 3
  | 4 => ctxmOp s src id false fun s => ctxmResult (s.setCtx id { s.ctx id with paused := true }) 0
  | 5 => ctxmOp s src id false fun s => ctxmResult (budgetCheck (s.setCtx id { s.ctx id with paused := false }) id) 0
  | _ => ctxmResult s CtxmRes.BAD_DESC

/-- CREATE (R43). -/
def execCreate (src : Source) (id : Nat) (s : State) : Host.Outcome State Fault Refusal :=
  run (okSource src && okCtx id) (viaReg s src ctxmCmd (ctxmGo s src 1 id))

/-- DESTROY (R44). -/
def execDestroy (src : Source) (id : Nat) (s : State) : Host.Outcome State Fault Refusal :=
  run (okSource src && okCtx id) (viaReg s src ctxmCmd (ctxmGo s src 2 id))

/-- RESET (R44): the context stays live with its descriptor and its phase table. -/
def execReset (src : Source) (id : Nat) (s : State) : Host.Outcome State Fault Refusal :=
  run (okSource src && okCtx id) (viaReg s src ctxmCmd (ctxmGo s src 3 id))

/-- PAUSE (R44). -/
def execPause (src : Source) (id : Nat) (s : State) : Host.Outcome State Fault Refusal :=
  run (okSource src && okCtx id) (viaReg s src ctxmCmd (ctxmGo s src 4 id))

/-- RESUME (R44): a context whose energy budget is still reached is paused again (R410). -/
def execResume (src : Source) (id : Nat) (s : State) : Host.Outcome State Fault Refusal :=
  run (okSource src && okCtx id) (viaReg s src ctxmCmd (ctxmGo s src 5 id))

/-- A producer count written to a live context's doorbell; `cdb` where CDB rang it. -/
def ringDoorbell (s : State) (ctx value : Nat) (cdb : Bool) : State :=
  let c := s.ctx ctx
  let v := value % 2 ^ 32
  let step := (v + 2 ^ 32 - c.producer) % 2 ^ 32
  let room := 2 ^ c.desc.cqLog2 - (c.producer + 2 ^ 32 - c.consumer) % 2 ^ 32
  if step = 0 then s
  else if step ≤ room then s.setCtx ctx { c with producer := v }
  else
    let s := s.setCtx ctx { c with dbBad := true }
    raiseError s { sev := 2, type := Err.DOORBELL_BAD, die := cmdUnit ctx, inst := ctx, ctx := some ctx,
                   detail := [v, c.producer, c.consumer, b2n cdb] }

/-- A doorbell write through BAR4 (R46, R336): ignored with DB_BAD while a host's context is unclaimed; a context that is
not live has no doorbell to ring. -/
def doorbell (s : State) (src : Source) (ctx value : Nat) : State :=
  let c := s.ctx ctx
  let host : Bool := match src with
    | .host _ => true
    | _ => false
  if !c.live then s
  else if host ∧ !c.claimed then
    let s := s.setCtx ctx { c with dbBad := true }
    raiseError s { sev := 2, type := Err.DOORBELL_BAD, die := cmdUnit ctx, inst := ctx, ctx := some ctx,
                   detail := [value % 2 ^ 32, c.producer, c.consumer, 0] }
  else ringDoorbell s ctx value false

/-- CQ_DOORBELL (R46). -/
def execCqDoorbell (src : Source) (ctx value : Nat) (s : State) : Host.Outcome State Fault Refusal :=
  run (okSource src && okCtx ctx) (viaReg s src (dbAddr ctx Reg.CQ_DOORBELL) (doorbell s src ctx value))

/-! ## Commands (R45-R50, R517) -/

/-- Field of a command's 64 bytes. -/
def Cmd.f (c : Cmd) (off hi lo : Nat) : Nat := dfield c.raw off hi lo
def Cmd.opcode (c : Cmd) : Nat := c.f 0 7 0
def Cmd.stamped (c : Cmd) : Bool := bit c.raw 9
def Cmd.barrier (c : Cmd) : Bool := bit c.raw 10
def Cmd.flagOnDone (c : Cmd) : Bool := bit c.raw 11
def Cmd.irqOnDone (c : Cmd) : Bool := bit c.raw 12
def Cmd.seq (c : Cmd) : Nat := c.f 0x04 31 0
def Cmd.stamp (c : Cmd) : Nat := c.f 0x08 63 0
def Cmd.doneAddr (c : Cmd) : Nat := c.f 0x10 63 0
def Cmd.doneValue (c : Cmd) : Nat := c.f 0x18 63 0

/-- Opcodes that R47 and R179 assign. -/
def assignedOpcode (o : Nat) : Bool :=
  [0x00, 0x01, 0x02, 0x03, 0x04, 0x05, 0x06, 0x08, 0x09, 0x0A, 0x0B, 0x0C, 0x10, 0x11, 0x18].contains o

/-- Code of a failure that the common layout shows (R47, R163, R517): 0 for none. -/
def Cmd.commonCode (c : Cmd) : Nat :=
  if !assignedOpcode c.opcode then CmdErr.BAD_OPCODE
  else if c.f 0 31 13 ≠ 0 ∨ c.f 0 8 8 ≠ 0 ∨ (c.flagOnDone ∧ c.doneAddr % 8 ≠ 0) ∨ (c.stamped ∧ bit c.stamp 63) then
    CmdErr.BAD_FIELD
  else 0

/-- Commands of a context issued and not complete (R46, R48). -/
def Ctx.inFlight (c : Ctx) : Nat := (c.cmds.filter fun x => !(x.stage = .fetched) || (x.tested && x.stamped)).length

/-- COMMAND_FETCH (R45): the next command in ring order is read from the ring through the context's translation, the
consumer count moves on and is written to CONSUMED_ADDR. A halted queue, an empty ring, a queue with 16 commands that are not
complete and a count that is still to be written (R286) fetch nothing. One that ran before the queue was halted is passed over
(R50). -/
def fetchNext (s : State) (ctx : Nat) : State :=
  let c := s.ctx ctx
  if !c.live ∨ c.halted ∨ c.producer = c.consumer ∨ 16 ≤ c.cmds.length ∨ c.countDue.isSome ∨ c.ending ≠ 0 then s
  else if c.ran.contains c.consumer then
    let next := (c.consumer + 1) % 2 ^ 32
    consumedWrite (s.setCtx ctx (pruneRan { c with consumer := next })) ctx 0 c.desc.consumedAddr next
  else
    let slot := c.consumer % 2 ^ c.desc.cqLog2
    match fetchRead s ctx (c.desc.cqBase + 64 * slot) with
    | (s, none) => s
    | (s, some bytes) =>
      let cmd : Cmd :=
        { index := c.consumer, raw := leNat bytes, stage := .fetched, tested := false, waits := 0, base := 0, flagged := false, begun := 0,
          ended := 0 }
      let c := s.ctx ctx
      let next := (c.consumer + 1) % 2 ^ 32
      let s := s.setCtx ctx { c with cmds := c.cmds ++ [cmd], consumer := next }
      consumedWrite s ctx cmd.seq c.desc.consumedAddr next

/-- A command of the context stalls in translation: it holds the queue (R286). -/
def queueStalled (s : State) (ctx : Nat) : Bool :=
  let c := s.ctx ctx
  let mine (r : Requester) : Bool := r.source == 2 && r.ctx == ctx && r.track != collTrack && r.track != fqTrack
  c.tags.any (fun t => mine t.req) || c.norec.any mine || (s.xlt.walks.any fun j => mine j.req && !j.prefetch)
    || s.xlt.atsWait.any fun w => mine w.req

/-- The oldest command that has not issued. -/
def nextUnissued (c : Ctx) : Option Cmd := c.cmds.find? fun x => x.stage = .fetched

/-- The next command of a queue may issue, as far as its context and its command processor go (R44, R158, R286). -/
def queueRuns (s : State) (ctx : Nat) : Bool :=
  let c := s.ctx ctx
  c.live && !c.paused && dieLoaded s (cmdUnit ctx) && !s.boot.warmBusy && !s.boot.fatal && !queueStalled s ctx && c.countDue.isNone

/-- A command whose common layout shows it to be bad fails when its turn to issue has come (R47, R48, R50). -/
def failHead (s : State) (ctx : Nat) : State :=
  match nextUnissued (s.ctx ctx) with
  | some cmd => if queueRuns s ctx ∧ cmd.commonCode ≠ 0 then haltQueue s ctx cmd.index cmd.commonCode else s
  | none => s

/-- A count that is due written, the next command fetched, and a bad one failed. -/
def fetchCommand (s : State) (ctx : Nat) : State := failHead (fetchNext (retryCount s ctx) ctx) ctx

/-- COMMAND_FETCH (R45). -/
def execCommandFetch (ctx : Nat) (s : State) : Host.Outcome State Fault Refusal :=
  run (okCtx ctx) (if s.boot.warmBusy ∨ s.boot.fatal then s else fetchCommand s ctx)

/-- CQ_RESUME (R50): a halted queue goes on, past the failed command or at it. -/
def resumeQueue (s : State) (ctx value : Nat) : State :=
  let c := s.ctx ctx
  if !c.halted then s
  else
    let next := if bit value 0 then (c.consumer + 1) % 2 ^ 32 else c.consumer
    let s := s.setCtx ctx { c with halted := false, err := 0, consumer := next }
    if bit value 0 then consumedWrite s ctx 0 c.desc.consumedAddr next else s

/-- CQ_RESUME (R50). -/
def execCqResume (src : Source) (ctx value : Nat) (s : State) : Host.Outcome State Fault Refusal :=
  run (okSource src && okCtx ctx) (viaReg s src (dbAddr ctx Reg.CQ_RESUME) (resumeQueue s ctx value))

/-- A command leaves the queue as complete, and its vector is raised. -/
def leaveQueue (s : State) (ctx index : Nat) (irq : Bool) : State :=
  let c := s.ctx ctx
  let c := pruneRan { c with
    cmds := c.cmds.filter (·.index != index)
    ran := if c.ran.contains index then c.ran else c.ran ++ [index] }
  let s := s.setCtx ctx { c with completedThrough := oldestOpen c }
  if irq then raiseCtxVector s ctx 0 else s

/-- A command that is carried out completes (R48): its done flag is written and its vector raised, unless it is an XFER
that ended with a status other than OK (R190). It stays where the flag's write stalls, and while the partner has not
acknowledged the mirror copies of what it wrote, or of the flag (R380). -/
def completeCommand (s : State) (ctx index : Nat) : State :=
  match (s.ctx ctx).cmds.find? fun x => x.index = index && x.stage = .performed with
  | none => s
  | some cmd =>
    let speaks : Bool := !(cmd.opcode == 0x0A && cmd.waits != 0)
    if copiesOpen s (s.ctx ctx).copies then s
    else if !cmd.flagOnDone ∨ !speaks ∨ cmd.flagged then leaveQueue s ctx index (cmd.irqOnDone && speaks)
    else
      match cmdWrite s ctx cmd.seq cmd.doneAddr (leBytes 8 cmd.doneValue) with
      | (s, false) => s
      | (s, true) =>
        if copiesOpen s (s.ctx ctx).copies then
          s.setCtx ctx { s.ctx ctx with cmds := (s.ctx ctx).cmds.map fun x => if x.index = index then { x with flagged := true } else x }
        else leaveQueue s ctx index cmd.irqOnDone

/-- COMMAND_COMPLETE (R48). -/
def execCommandComplete (ctx index : Nat) (s : State) : Host.Outcome State Fault Refusal :=
  run (okCtx ctx) (completeCommand s ctx index)

end Sys2Proof.Machine
end

