-- ==== Sys2Proof/Machine/Dike.lean ====
section
/-!
DEFINITION. The Dike (19_security_and_dike.md): effective levels, security quarantine, key erase and the effect of a trip
(R457-R462).
-/

namespace Sys2Proof.Machine

/-- Register of the Dike page. -/
abbrev dkReg (off : Nat) : Nat := hub Pg.DK off

/-- The effective level of a sensor: the larger of the policy's and the floor's (R457). -/
def dikeLevel (s : State) (sensor : Nat) : Nat :=
  max (nth s.sec.fuses.floors sensor) ((s.sec.policy.map fun p => nth p.levels sensor).getD 0)

/-! ## Quarantine (R459) -/

/-- Everything that agents hold is invalidated without write-back, and full coherence is at an end (R459). -/
def dropCaches (s : State) : State :=
  { endFull s with coh := { (endFull s).coh with
      dir := [], lines := [], txns := [], waiting := [], flc := [], pocket := [], prefetches := [], hostOwn := [], offers := [] } }

/-- Every hart parked, the core image dropped and its range open again; measurement 8 changes where an image ran (R315, R447,
R460). -/
def parkHarts (s : State) : State :=
  let t := { s with core := { s.core with harts := [], image := none } }
  if s.core.image.isSome then measureChanged t 8 else t

/-- The pool written with zero data and valid check symbols (R222, R459). -/
def zeroPool (s : State) : State :=
  { s with
    mem := memClear s.mem 0 poolBytes
    poison := s.poison.filter fun p => decide (poolBytes ≤ p.1 * 32)
    keyTag := s.keyTag.filter fun p => decide (poolBytes ≤ p.1 * 32) }

/-- Every key slot zeroised and EMPTY, and the key map without an entry (R454, R460). -/
def zeroiseAll (s : State) : State := { s with sec := { s.sec with slots := [], keyMap := [] } }

/-- Security quarantine, steps 1 to 4 of R459. -/
def quarantine (s : State) : State :=
  let s := abortCells s
  let s := { s with
    str := { s.str with packets := [], reshards := [], early := [] }
    lnk := { s.lnk with colls := [] }
    held := [] }
  let s := parkHarts (dropCaches s)
  let s := ((List.range 64).filter fun i => (s.ctx i).live).foldl destroyContext s
  let s := zeroPool (zeroiseAll s)
  let s := { s with mir := { s.mir with ctxs := [], waiting := [], acks := [], replies := [] } }
  { s with sec := { s.sec with dike := max 1 s.sec.dike } }

/-! ## Key erase (R460, R462) -/

/-- Commits of a type are queued or run. -/
def typePending (s : State) (type : Nat) : Bool :=
  s.pld.queue.any (fun c => c.type = type) || (s.pld.running.map fun r => decide (r.c.type = type)).getD false

/-- PENDING_ERASE's commit (R421, R460). -/
def markerCommit (e : Erase) : Commit :=
  { prio := 0, type := 0x51, key := 0, version := 1, tomb := false, data := markerData e }

/-- SPDM sessions end (R460). -/
def endSessions (s : State) : State :=
  { s with host := { s.host with sessions := [] } }

/-- Steps 1 and 2 of a key erase at `level`: slots unusable, sessions ended, the marker queued. A second trip at a higher
level writes a new marker, and the steps go on from where they stand (R462). -/
def eraseBegin (s : State) (level sensor : Nat) : State :=
  let s := endSessions (zeroiseAll s)
  let s := { s with sec := { s.sec with dike := if s.sec.dike = 3 then 3 else 2 } }
  match s.sec.erase with
  | some e =>
    if e.level < level then
      let e := { e with level := level, sensor := sensor }
      queueCommit { s with sec := { s.sec with erase := some e } } (markerCommit e)
    else s
  | none =>
    let e : Erase := { step := 2, level := level, sensor := sensor, blocks := blobBlocks s }
    queueCommit { s with sec := { s.sec with erase := some e } } (markerCommit e)

/-- The state with the erase in progress changed. -/
def setErase (s : State) (f : Erase → Erase) : State := { s with sec := { s.sec with erase := s.sec.erase.map f } }

/-- Blobs that are to be tombstoned: those stored and those on their way. -/
def blobKeys (s : State) : List Nat :=
  (keysOf s 3 ++ ((s.pld.queue ++ (s.pld.running.map (·.c)).toList).filter fun c => c.type = 3).map (·.key)).eraseDups

/-- Step 3, with the marker committed: every slot zeroised, every KEY_BLOB tombstoned. The blocks are those that the marker
lists. -/
def eraseTombs (s : State) : State :=
  let s := setErase (zeroiseAll s) fun e => { e with step := 3, blocks := blobBlocks s }
  (blobKeys s).foldl (fun s k =>
    queueCommit s { prio := 3, type := 3, key := k, version := 1, tomb := true, data := [] }) s

/-- Step 4 begins: the current values of the listed blocks are queued again, KEY_BLOB left out; a block in which a blob was
committed since the marker is listed too. -/
def eraseCopies (s : State) (e : Erase) : State :=
  let late := blobBlocks { s with pld := { s.pld with records := s.pld.records.filter fun r => !r.tomb } }
  let e := { e with blocks := e.blocks ++ late.filter fun k => !e.blocks.contains k }
  e.blocks.foldl (fun s k =>
    let b := blk s k
    let s := if b.st = .opened then setBlk s k { b with st := .full } else s
    queueCopies s k 6 3) (setErase s fun _ => { e with step := 4 })

/-- Step 4 in one bank: the first listed block whose copies are committed begins to be erased; blocks of a bank out of
service are passed over. -/
def eraseNext (s : State) (bank : Nat) : State :=
  match s.sec.erase with
  | none => s
  | some e =>
    if !bankUp s bank then setErase s fun e => { e with blocks := e.blocks.filter fun k => k / 512 != bank }
    else
      match e.blocks.find? fun k => k / 512 = bank with
      | none => s
      | some k => if (blk s k).st = .erasing ∨ copiesLeft s k then s else beginErase s k

/-- Steps 5 and 6: RETIRED is blown at level 3, and the marker tombstoned. -/
def eraseLast (s : State) (e : Erase) : State :=
  let s := setErase s fun e => { e with step := 6 }
  let s := if e.level = 3 then { s with sec := { s.sec with fuses := { s.sec.fuses with retired := true } } } else s
  queueCommit s { prio := 0, type := 0x51, key := 0, version := 1, tomb := true, data := [] }

/-- The erase has ended: STATE reads quarantined, or retired at level 3. A trip at level 3 since step 5 goes through it first
(R462). -/
def eraseEnd (s : State) (e : Erase) : State :=
  if e.level = 3 ∧ !s.sec.fuses.retired then eraseLast s e
  else raiseInt { s with sec := { s.sec with erase := none, dike := if e.level = 3 then 3 else 1 } } (dkReg 0) 1

/-- A step of the erase at number `n` goes on where what it waits for is done. -/
def eraseStep (s : State) (n : Nat) (ready : State → Bool) (f : State → Erase → State) : State :=
  match s.sec.erase with
  | some e => if e.step = n ∧ ready s then f s e else s
  | none => s

/-- A key erase goes on as far as it can (R460). -/
def eraseAdvance (s : State) : State :=
  let s := eraseStep s 2 (fun s => !typePending s 0x51) fun s _ => eraseTombs s
  let s := eraseStep s 3 (fun s => !typePending s 3) eraseCopies
  let s := eraseStep s 4 (fun _ => true) fun s _ => eraseNext (eraseNext s 0) 1
  let s := eraseStep s 4 (fun s => (s.sec.erase.map fun e => e.blocks.isEmpty).getD false) eraseLast
  eraseStep s 6 (fun s => !typePending s 0x51) eraseEnd

/-! ## Trips (R458, R459, R461) -/

/-- What a trip leaves on the Dike page: latched, counted, last; and its security event (R463, R466). -/
def tripNoted (s : State) (sensor level : Nat) : State :=
  let s := setFld s 0 (dkReg Reg.DK_STATUS) sensor sensor 1
  let s := countFld s sensor (dkReg Reg.DK_SENSOR) 15 0 1
  let s := setFld (setFld s 0 (dkReg Reg.DK_LAST) 31 29 sensor) 0 (dkReg Reg.DK_LAST) 28 27 level
  let s := wr64 s 0 (dkReg Reg.DK_LAST_CNT_LO) s.cic.count
  let s := secEvent s Sev.TRIP sensor level 0 (decide (1 ≤ level))
  raiseInt s (dkReg 0) 0

/-- The effect of a trip at its level (R459). -/
def tripEffect (s : State) (sensor level : Nat) : State :=
  if level = 0 then raiseError s { sev := 0, type := Err.DIKE_EVENT, die := 0, inst := sensor }
  else
    let s := quarantine s
    let s := if 2 ≤ level then eraseBegin s level sensor else s
    raiseError s { sev := 3, type := Err.DIKE_ALARM, die := 0, inst := sensor }

/-- A trip. One at level 1 or above in boot stage 1 is latched, and takes effect when the hub firmware runs (R461). -/
def trip (s : State) (sensor level : Nat) : State :=
  let s := tripNoted s sensor level
  if 1 ≤ level ∧ s.boot.stage = 1 then
    { s with sec := { s.sec with latchedBoot := match s.sec.latchedBoot with
        | some old => some (if dikeLevel s old < level then sensor else old)
        | none => some sensor } }
  else tripEffect s sensor level

/-- DIKE_TRIP (R459). The Dike senses from the first ROM instruction on (R458). -/
def execDikeTrip (sensor : Nat) (s : State) : Host.Outcome State Fault Refusal :=
  run (okSensor sensor) (if s.sec.armed then trip s sensor (dikeLevel s sensor) else s)

end Sys2Proof.Machine
end

