-- ==== Sys2Proof/Machine/SymbolCode.lean ====
section
/-!
DEFINITION. The symbol code of R207: a Reed-Solomon code over GF(2^8), 32 data symbols and 4 check symbols, and what its
decoder finds in a word. The poison of R209 is an error of all bits in check symbols 32 and 33.
-/

namespace Sys2Proof.Machine

/-- Sum in GF(2^8). -/
abbrev gfAdd (a b : Nat) : Nat := a ^^^ b

/-- α times an element: the field polynomial is x^8 + x^4 + x^3 + x^2 + 1. -/
def gfDouble (a : Nat) : Nat := if a < 128 then 2 * a else (2 * a) ^^^ 0x11D

/-- Product in GF(2^8), bit by bit of the second factor. -/
def gfMul (a b : Nat) : Nat :=
  ((List.range 8).foldl (fun p i => (if b.testBit i then gfAdd p.1 p.2 else p.1, gfDouble p.2)) ((0, a) : Nat × Nat)).1

/-- α^k. -/
def gfPow (k : Nat) : Nat := (List.range k).foldl (fun a _ => gfDouble a) 1

/-- A polynomial times x + r, coefficients highest first. -/
def gfTimesRoot (p : List Nat) (r : Nat) : List Nat := List.zipWith gfAdd (p ++ [0]) (0 :: p.map (gfMul r))

/-- The generator polynomial, with roots α^0 to α^3, coefficients highest first (R207). -/
def gfGenerator : List Nat := (List.range 4).foldl (fun p i => gfTimesRoot p (gfPow i)) [1]

/-- The check symbols of 32 data symbols: the remainder of the data, symbol 0 highest, by the generator
(notes/assumptions/106.md). -/
def checkSymbols (data : List Nat) : List Nat :=
  data.foldl (fun r x =>
    let f := gfAdd x (r.headD 0)
    List.zipWith gfAdd (r.drop 1 ++ [0]) (gfGenerator.drop 1 |>.map (gfMul f))) [0, 0, 0, 0]

/-- The 36 symbols of a code word; those of a poisoned one have symbols 32 and 33 complemented (R209). -/
def symbolWord (data : List Nat) (poisoned : Bool) : List Nat :=
  let c := checkSymbols data
  data ++ (if poisoned then (c.take 2).map (gfAdd 0xFF) ++ c.drop 2 else c)

/-- A word received: each error adds to its symbol. -/
def withErrors (w : List Nat) (errs : List (Nat × Nat)) : List Nat :=
  w.zipIdx.map fun p => (errs.filter (·.1 = p.2)).foldl (fun a e => gfAdd a (e.2 % 256)) p.1

/-- The four syndromes of a word: its value, symbol 0 highest, at each root. -/
def syndromes (w : List Nat) : List Nat := (List.range 4).map fun i => w.foldl (fun a x => gfAdd (gfMul a (gfPow i)) x) 0

/-- The syndromes of an error in one symbol. -/
def symbolSyndromes (j e : Nat) : List Nat := (List.range 4).map fun i => gfMul e (gfPow (i * (35 - j)))

/-- The syndromes of the poison (R209). -/
def poisonSyndromes : List Nat := List.zipWith gfAdd (symbolSyndromes 32 0xFF) (symbolSyndromes 33 0xFF)

/-- What the decoder finds in a word: nothing, the poison alone, one symbol in error, or more (R207-R209). -/
def decodeWord (w : List Nat) : Finding :=
  let s := syndromes w
  if s = [0, 0, 0, 0] then .clean
  else if s = poisonSyndromes then .poisoned
  else match (List.range 36).find? fun j => s = symbolSyndromes j (s.headD 0) with
    | some j => .corrected j
    | none => .uncorrectable

/-- The data of a word as the decoder passes it on: one symbol corrected, else as it came. -/
def decodedData (w : List Nat) : List Nat :=
  match decodeWord w with
  | .corrected j => (w.take 32).zipIdx.map fun p => if p.2 = j then gfAdd p.1 ((syndromes w).headD 0) else p.1
  | _ => w.take 32

end Sys2Proof.Machine
end

