-- ==== Sys2Proof/Machine/Memory.lean ====
section
/-!
DEFINITION. The HBM controllers at work: sluices and service (R213-R218), checks (R207, R208), patrol scrub and row remap (R208-R212),
quiet steps (R220, R221), the traffic generators (R219, R224), self-refresh (R334), and the retirement of floor-cache ways
(R234-R236).
-/

namespace Sys2Proof.Machine

/-! ## Places -/

/-- Device-physical address of an offset of a channel: the inverse of R205 for the pool share, else the channel's own
reserved offset (R204). -/
def chanAddr (chan off : Nat) : Nat :=
  if 2137882624 ≤ off then reservedAddr chan off
  else
    let hi := off / 1024 * 2 ^ 18
    let ch := chan % 32
    hi + (chan / 64 ^^^ bits hi 27 26) * 2 ^ 16 + bits off 9 8 * 2 ^ 14 + (ch / 16 ^^^ bits hi 25 25) * 2 ^ 13
      + (chan / 32 % 2 ^^^ bits hi 24 24) * 2 ^ 12 + (ch % 16 ^^^ bits hi 23 20) * 2 ^ 8 + off % 256

/-- Memory-health register of a channel: its stack's page, copy of the channel (R225). -/
def hbmcFld (s : State) (chan off hi lo : Nat) : Nat := fld s (chan % 32) (hbmcReg (chan / 32) off) hi lo

/-- The state with a memory-health field set. -/
def setHbmc (s : State) (chan off hi lo v : Nat) : State := setFld s (chan % 32) (hbmcReg (chan / 32) off) hi lo v

/-- A memory-health counter advanced. -/
def cntHbmc (s : State) (chan off hi lo n : Nat) : State := countFld s (chan % 32) (hbmcReg (chan / 32) off) hi lo n

/-- A floor has a cell that is spilling or restoring (R69, R221). -/
def spillingOn (s : State) (f : Nat) : Bool :=
  (tkeys s.cells).any fun c => cellFloor c = f && (s.cell c).move != .steady

/-! ## The maintenance sluice (R213, R216) -/

/-- A floor's maintenance sluice. -/
def maintAt (s : State) (f : Nat) : Maint := s.hbm.maint.getD f Maint.idle

/-- The state with a floor's maintenance sluice set. -/
def setMaint (s : State) (f : Nat) (m : Maint) : State := { s with hbm := { s.hbm with maint := s.hbm.maint.set f m } }

/-- Maintenance allowance of a floor, in units. -/
def maintLeft (s : State) (f : Nat) : Nat := (maintAt s f).left

/-- Units of maintenance work charged: what the interval's share does not hold, the next ones pay (notes/assumptions/107.md). -/
def chargeMaint (s : State) (f n : Nat) : State :=
  let m := maintAt s f
  setMaint s f { m with left := m.left - n, owed := m.owed + (n - m.left) }

/-- A write that passes the floor cache by (R229): charged to the maintenance sluice; a cached line that it touches is
invalidated, and a pocket line (R232). -/
def bypassWrite (s : State) (chan a : Nat) : State :=
  dropPocket (flcDropLine (chargeMaint s (chan / 64) 1) (a / 64)) (a / 64)

/-! ## Row remap (R211, R212) -/

/-- The HBM_REMAP record of a channel: a count, then row [31:12] and spare [11:0] of each remap (R424). -/
def remapCommit (s : State) (chan : Nat) : State :=
  let l := (s.chan chan).remap
  queueCommit s
    { prio := 4, type := 0x0022, key := chan, version := 1, tomb := false,
      data := leBytes 4 l.length ++ l.flatMap fun p => leBytes 4 (p.1 * 4096 + p.2) }

/-- Device-physical 4 KiB pages that hold a granule of a row of 2 KiB, as page numbers (R212). -/
def rowPages (chan row : Nat) : List Nat :=
  (List.range 8).foldl (fun l i =>
    let off := row * 2048 + 256 * i
    let p := chanAddr chan off / 4096
    if 2137882624 ≤ off ∨ l.contains p then l else l ++ [p]) []

/-- Spare rows that a channel has used. -/
def sparesUsed (c : Chan) : Nat := c.remap.foldl (fun a p => max a (p.2 + 1)) 0

/-- A row that meets R211: it is remapped to the next free spare, or reported where none is free (R212). -/
def remapRow (s : State) (chan row : Nat) : State :=
  let c := s.chan chan
  let used := sparesUsed c
  if used < 2016 then
    let s := s.setChan chan
      { c with remap := c.remap.filter (·.1 != row) ++ [(row, used)], rowErrs := c.rowErrs.filter (·.1 != row) }
    -- the copy reads and writes the row's eight granules (R211, R213, R229)
    let s := chargeMaint s (chan / 64) 16
    let s := (List.range 8).foldl (fun s i =>
      let off := row * 2048 + 256 * i
      if 2137882624 ≤ off then s
      else (linesOf (chanAddr chan off) 256).foldl (fun s l => dropPocket (flcDropLine s l) l) s) s
    remapCommit s chan
  else
    raiseError s { sev := 0, type := Err.ROW_SPARE_EXHAUSTED, die := 24 + chan / 32, inst := chan % 32,
                   detail := rowPages chan row }

/-- A corrected symbol in a word of a channel: the corrective write is in the controller's queue, so in HBM (R228); it is counted,
reported, counted towards its row or attributed to a pin (R208, R211). -/
def correctedAt (s : State) (chan off symbol : Nat) (ctx : Option Nat) : State :=
  let s := cntHbmc (bypassWrite s chan (chanAddr chan off)) chan Reg.HBMC_CE_CNT 31 0 1
  let s := raiseError s { sev := 0, type := Err.MEM_CORRECTED, die := 24 + chan / 32, inst := chan % 32, ctx := ctx, space := 1,
                          addr := chanAddr chan off, detail := [off] }
  let row := off / 2048
  let c := s.chan chan
  let suspect := hbmcFld s chan Reg.HBMC_LANE 31 31
  if suspect = 1 ∧ hbmcFld s chan Reg.HBMC_LANE 30 24 / 2 = symbol then s
  else
    let syms := if c.symRows.contains (row, symbol) then c.symRows else c.symRows ++ [(row, symbol)]
    if suspect = 0 ∧ 64 < (syms.filter (·.2 = symbol)).length then
      -- which of the symbol's two pins fails, the code does not say
      let pin := 2 * symbol + s.freeBits 0 1
      let s := setHbmc s.useFree chan Reg.HBMC_LANE 31 31 1
      let s := setHbmc s chan Reg.HBMC_LANE 30 24 pin
      s.setChan chan { s.chan chan with symRows := syms, quiet := (s.chan chan).quiet ++ [⟨2, s.cic.count, false⟩] }
    else
      let now := powerMinutes s
      let errs := c.rowErrs.filter (fun p => now < p.2 + 1440) ++ [(row, now)]
      let s := s.setChan chan { c with symRows := syms, rowErrs := errs }
      if 3 ≤ (errs.filter (·.1 = row)).length then remapRow s chan row else s

/-- An uncorrectable word of a channel: counted, reported once, rewritten poisoned, its row remapped (R208, R211, R486). -/
def uncorrectableAt (s : State) (chan off : Nat) (ctx : Option Nat) : State :=
  let s := cntHbmc s chan Reg.HBMC_UE_CNT 31 0 1
  let a := chanAddr chan off
  let s := raiseError s { sev := 1, type := Err.MEM_POISON, die := 24 + chan / 32, inst := chan % 32, ctx := ctx, space := 1,
                          addr := a, detail := [off] }
  remapRow (bypassWrite (poisonWord s a) chan a) chan (off / 2048)

/-- The check corrected one symbol of a word read from a stack. -/
def corrects : Finding → Bool
  | .corrected _ => true
  | _ => false

/-- The check found a word read from a stack uncorrectable or poisoned. -/
def spoils : Finding → Bool
  | .uncorrectable | .poisoned => true
  | _ => false

/-- The code word stored at an address (R207, R209): its bytes as symbols, with their check symbols. -/
def codeWord (s : State) (a : Nat) : List Nat :=
  symbolWord ((memBytes s.mem a 32).map (·.toNat)) (tget (fun _ => false) s.poison (a / 32))

/-- A finding decoded: that of a word read with symbol errors is its decoder's (R207). -/
def resolve (s : State) (a : Nat) : Finding → Finding
  | .raw errs => decodeWord (withErrors (codeWord s a) errs)
  | f => f

/-- Bytes that a read of the word at an address passes on (R207): a word with symbol errors as its decoder leaves it. -/
def readData (s : State) (a : Nat) : Finding → List Byte
  | .raw errs => (decodedData (withErrors (codeWord s a) errs)).map (BitVec.ofNat 8)
  | _ => memBytes s.mem a 32

/-- A read of a code word at a channel offset, with what the check finds (R208). A word that stands poisoned reads so,
whatever further symbol fails (R209). A corrective write writes what the decoder made of the word. -/
def hbmCheck (s : State) (chan off : Nat) (found : Finding) (ctx : Option Nat) : State :=
  let a := chanAddr chan off
  if hbmPoison s a then cntHbmc s chan Reg.HBMC_UE_CNT 31 0 1
  else
    match resolve s a found with
    | .corrected sym =>
      if sym < 36 then correctedAt { s with mem := memStore s.mem a (readData s a found) } chan off sym ctx else s
    | .uncorrectable => uncorrectableAt s chan off ctx
    | .poisoned => cntHbmc s chan Reg.HBMC_UE_CNT 31 0 1
    | .clean | .cacheCorrected _ _ | .cacheBad _ _ | .raw _ => s

/-! ## Floor-cache ways (R234-R236) -/

/-- The FLC_RETIRE value of a floor: 64 maps of retired ways, then the corrected-error counts (notes/assumptions/22.md). -/
def retireData (s : State) (f : Nat) : List Byte :=
  (List.range 64).flatMap (fun g => leBytes 2 (retiredWays s f g))
    ++ (List.range 1024).flatMap fun i => leBytes 1 (tget (fun _ => []) s.coh.wayErrs (1024 * f + i)).length

/-- The FLC_RETIRE record of a floor queued. -/
def retireCommit (s : State) (f : Nat) : State :=
  queueCommit s { prio := 4, type := 0x0023, key := f, version := 1, tomb := false, data := retireData s f }

/-- A way of a set group retires (R235): it is invalidated, and the retirement committed; with more than four ways of the
group the floor is degraded (R236). -/
def retireWay (s : State) (f g w : Nat) : State :=
  let old := retiredWays s f g
  if bit old w then s
  else
    let new := old + 2 ^ w
    let s := { s with coh := { s.coh with
      retired := tset (fun _ => 0) s.coh.retired (64 * f + g) new
      flc := s.coh.flc.filter fun p => !(p.1 % 16 == w && p.1 / 16 / 32768 == f && p.1 / 16 % 32768 / 512 == g) } }
    let s := paramChange (raiseInt (retireCommit s f) (flcReg f 0) 1)
    if popCount old 16 ≤ 4 ∧ 4 < popCount new 16 then
      raiseError (raiseInt s (flcReg f 0) 2)
        { sev := 0, type := Err.FLOOR_CACHE_DEGRADED, die := 2 + f, inst := g, detail := [f, g] }
    else s

/-- What a check of a word served from the floor cache finds (R208, R234). The request and its data, which go on corrected or
poisoned, are their owner's: the row names neither (notes/assumptions/108.md). -/
def flcCheck (s : State) (f : Nat) (found : Finding) : State :=
  match found with
  | .cacheCorrected g w =>
    if 64 ≤ g ∨ 16 ≤ w then s
    else
      let k := (64 * f + g) * 16 + w
      let now := powerMinutes s
      let l := (tget (fun _ => []) s.coh.wayErrs k).filter (fun m => now < m + 1440) ++ [now]
      let s := { s with coh := { s.coh with wayErrs := tset (fun _ => []) s.coh.wayErrs k l } }
      let s := raiseError s { sev := 0, type := Err.MEM_CORRECTED, die := 2 + f, inst := g }
      if 8 ≤ l.length then retireWay s f g w else s
  | .cacheBad g w => if 64 ≤ g ∨ 16 ≤ w then s else retireWay s f g w
  | _ => s

/-! ## Service (R213-R216, R218) -/

/-- Channel and channel offset of a request: of the pool (R205), or a reserved offset's (R204). -/
def reqChan (a : Nat) : Nat := if a < 2 ^ 40 then chanOf a else (a - 2 ^ 40) / 2 ^ 31
def reqOffset (a : Nat) : Nat := if a < 2 ^ 40 then chanOffset a else (a - 2 ^ 40) % 2 ^ 31

/-- An address that a request may name: the pool, or a reserved offset where the path reaches those (R204). -/
def reaches (r : MemReq) : Bool :=
  decide (r.addr < poolBytes) ||
    ((r.who == .spill || r.who == .maint) && decide (2 ^ 40 ≤ r.addr ∧ r.addr < 2 ^ 40 + 2 ^ 39 ∧ 2137882624 ≤ reqOffset r.addr))

/-- Requests of a list that a floor's controllers can serve: of its own channels, trained and not held by a quiet step. -/
def servable (s : State) (f : Nat) (l : List MemReq) : List MemReq :=
  l.filter fun r =>
    let c := reqChan r.addr
    reaches r && c / 64 == f && (s.chan c).trained && (s.chan c).held.isNone && !clockStopped s (2 + f) 4 (c / 32)

/-- The tier of R215 to which a request belongs now: 0 spill and restore, 1 to 3 the tiers a to c; 4 where it waits. -/
def tierOf (s : State) (f : Nat) (r : MemReq) : Nat :=
  match partOf s r.who with
  | some p => tierAt s f p
  | none => if r.who = .spill then 0 else if 0 < maintLeft s f then 1 else 4

/-- The sluice of a request charged for its service from tier `t`: a unit, and one more for the read of a merging write
(R207, R215). -/
def chargeUnit (s : State) (f : Nat) (r : MemReq) (t : Nat) : State :=
  let n := if r.merge then 2 else 1
  match partOf s r.who with
  | some p => chargePart s f p t n
  | none => if r.who = .spill then s else chargeMaint s f n

/-- Weight of a request's sluice within a tier (R215): its guarantee, of the maintenance sluice its share, in 1/1,024. -/
def tierWeight (s : State) (r : MemReq) : Nat :=
  max 1 (match partOf s r.who with
    | some p => effGuar s p
    | none => maintShare s * 1024 / 1000)

/-- Where a request's sluice stands in its tier: what it was given, by its weight, and no less than where the tier stands
(notes/assumptions/107.md). -/
def startTag (s : State) (f t : Nat) (r : MemReq) : Nat :=
  let own := match partOf s r.who with
    | some p => nth (sluiceAt s f p).tags (t - 1)
    | none => (maintAt s f).tag
  max own (nth s.hbm.vtime (3 * f + t - 1))

/-- A service counted in the order of its tier. -/
def noteService (s : State) (f t : Nat) (r : MemReq) : State :=
  if t = 0 then s
  else
    let at_ := startTag s f t r
    let next := at_ + 2 ^ 20 / tierWeight s r
    let s := { s with hbm := { s.hbm with vtime := s.hbm.vtime.set (3 * f + t - 1) at_ } }
    match partOf s r.who with
    | some p =>
      let x := sluiceAt s f p
      setSluice s f p { x with tags := x.tags.set (t - 1) next }
    | none => setMaint s f { maintAt s f with tag := next }

/-- What the waiting requests show of their sluices (R218, R223): a request that waits at its ceiling, and tier-a demand that is
not served yet; a sluice with no request waiting has none. -/
def noteWaiting (s : State) (f : Nat) (l : List MemReq) : State :=
  let parts := l.filterMap fun r => partOf s r.who
  (List.range 64).foldl (fun s p =>
    let x := sluiceAt s f p
    let waits := parts.contains p
    setSluice s f p { x with capped := x.capped || (waits && !capOpen s f p), missed := waits && decide (0 < x.aLeft) }) s

/-- Requests of the first tier that has one, and of them those whose sluice has had the least of it, by its weight (R215,
R218). -/
def candidates (s : State) (f : Nat) (l : List MemReq) : Nat × List MemReq :=
  let best := l.foldl (fun a r => min a (tierOf s f r)) 4
  let cand := l.filter fun r => tierOf s f r = best
  if best = 0 then (0, cand)
  else
    let least := (argMin id (cand.map (startTag s f best))).getD 0
    (best, cand.filter fun r => startTag s f best r = least)

/-- MEMORY_UNIT_SERVE (R215): the first tier with a request is served one unit, in proportion to the weights of its sluices; which
of the requests that stand alike comes next is a free value (notes/assumptions/2.md, 107.md). The check of a word read, also
for a merging write, follows. A read that hits the floor cache is not charged (R213). -/
def serveUnit (s : State) (f : Nat) (reqs : List MemReq) (found : Finding) : State :=
  match found with
  | .cacheCorrected _ _ | .cacheBad _ _ => flcCheck s f found
  | _ =>
    let l := servable s f reqs
    let (best, cand) := candidates s f l
    match cand[s.freeBits 0 32 % cand.length]? with
    | none => noteWaiting s f l
    | some r =>
      if best = 4 then noteWaiting s f l
      else
        let s := noteService (chargeUnit s.useFree f r best) f best r
        let c := reqChan r.addr
        let s := s.setChan c { s.chan c with asleep := false }
        let s := noteWaiting s f (l.erase r)
        let ctx := (partOf s r.who).filter fun p => (s.ctx p).live
        if r.write ∧ !r.merge then s else hbmCheck s c (reqOffset (r.addr / 32 * 32)) found ctx

/-- MEMORY_UNIT_SERVE. -/
def execMemoryUnitServe (floor : Nat) (reqs : List MemReq) (found : Finding) (s : State) :
    Host.Outcome State Fault Refusal := run (okFloor floor) (serveUnit s floor reqs found)

/-- Refill interval of a partition, in ticks (R223). -/
def sluInterval (s : State) (p : Nat) : Nat := max 8 (fld s p (slu Reg.SLU_INTERVAL) 15 0)

/-- A partition's refill (R215), its fraction kept in eighths of a unit; the interval's marks are counted (R218, R223). -/
def refillPart (s : State) (f p : Nat) : State :=
  let x := sluiceAt s f p
  if s.cic.count < x.nextAt then s
  else
    let iv := sluInterval s p
    let r8 := effGuar s p * iv + x.carry
    let r := r8 / 8
    let burst := max 1 (fld s p (slu Reg.SLU_BURST) 23 0)
    let level := min (x.level + r) (max burst r)
    let s := if x.capped then countFld s p (slu Reg.SLU_CEIL_CYC) 31 0 1 else s
    let s := if x.missed then setFld (countFld s p (slu Reg.SLU_GUAR_MISS) 31 0 1) p (slu Reg.SLU_STATUS) 28 28 1 else s
    setSluice s f p
      { level := level, carry := r8 % 8, aLeft := min level r, capLeft := effCeil s p * iv, nextAt := s.cic.count + iv,
        capped := false, missed := false, tags := x.tags }

/-- The maintenance sluice's refill: every 125 ticks its share of the floor's 128 units a tick (R214, R216), of which what is owed
is paid. -/
def refillMaint (s : State) (f : Nat) : State :=
  let m := maintAt s f
  if s.cic.count < m.nextAt then s
  else
    let r := 16 * maintShare s
    setMaint s f { m with left := r - m.owed, owed := m.owed - r, nextAt := s.cic.count + 125 }

/-- SLUICE_REFILL. -/
def execSluiceRefill (floor part : Nat) (s : State) : Host.Outcome State Fault Refusal :=
  run (okFloor floor && okPart part) (if part = 64 then refillMaint s floor else refillPart s floor part)

/-! ## Patrol scrub (R210) -/

/-- First granule of the spill region and first above it: the scrub leaves it out (R204, R210). -/
abbrev spillFrom : Nat := 0x7F6D8000 / 256
abbrev spillTo : Nat := 0x7FC00000 / 256

/-- Granules of a channel. -/
abbrev chanGranules : Nat := 2 ^ 31 / 256

/-- PATROL_SCRUB: the granule at the patrol position is read, past the floor cache and within the maintenance share (R216, R229);
each word with a finding is handled as on a read, and a stack's pass is complete when all its channels have come to the
end. -/
def scrubOne (s : State) (chan : Nat) (found : List (Nat × Finding)) : State :=
  let c := s.chan chan
  if !c.trained ∨ c.held.isSome ∨ maintLeft s (chan / 64) = 0 then s
  else
    let off := c.scrubAt * 256
    let s := chargeMaint s (chan / 64) 1
    let s := (found.filter (·.1 < 8)).foldl (fun s p => hbmCheck s chan (off + 32 * p.1) p.2 none) s
    let c := s.chan chan
    let next := c.scrubAt + 1
    if next = chanGranules then
      let s := s.setChan chan { c with scrubAt := 0, symRows := [], passes := c.passes + 1 }
      let all := (List.range 32).map fun k => (s.chan (chan / 32 * 32 + k)).passes
      setFld s 0 (hbmcReg (chan / 32) Reg.HBMC_SCRUB_CTL) 15 0 (min 65535 (all.foldl min (c.passes + 1)))
    else s.setChan chan { c with scrubAt := if next = spillFrom then spillTo else next }

/-- PATROL_SCRUB. -/
def execPatrolScrub (chan : Nat) (found : List (Nat × Finding)) (s : State) : Host.Outcome State Fault Refusal :=
  run (okChan chan) (scrubOne s chan found)

/-! ## Quiet steps (R220, R221) -/

/-- A latency context whose window is open pins the channel (R221). -/
def pinnedNow (s : State) (chan : Nat) : Bool :=
  (List.range 64).any fun c =>
    (s.ctx c).live && (s.ctx c).window
      && (fld s c (slu Reg.SLU_PIN_CTL) 0 0 = 1
        || [0, 1, 2, 3].any fun k =>
          let base := rd s (k * 64 + c) (slu Reg.SLU_PIN_BASE) * 4096
          let units := fld s (k * 64 + c) (slu Reg.SLU_PIN_SIZE) 23 0 * 16
          (List.range (min units (2 ^ 20))).any fun g => chanOf (base + 256 * g) = chan)

/-- A quiet step that is due waits on its channel. -/
def dueQuiet (s : State) (chan kind : Nat) : State :=
  let c := s.chan chan
  if c.quiet.any (·.kind = kind) then s
  else s.setChan chan { c with quiet := c.quiet ++ [⟨kind, s.cic.count, false⟩] }

/-- A quiet step's row: the step comes due and holds its channel where R221 lets it; on the held channel it completes
(notes/assumptions/23.md). A step that may not run stays due. -/
def quietStep (s : State) (chan kind : Nat) (done : State → State) : State :=
  let c := s.chan chan
  if !c.trained then s
  else if c.held = some kind then
    let s := s.setChan chan { c with held := none, quiet := c.quiet.filter (·.kind != kind) }
    let s := cntHbmc s chan Reg.HBMC_CAL 15 0 1
    done { s with hbm := { s.hbm with quietOn := none, quietAt := s.cic.count + 125000 } }
  else
    let s := dueQuiet s chan kind
    if s.hbm.quietOn.isSome ∨ s.cic.count < s.hbm.quietAt ∨ spillingOn s (chan / 64) ∨ pinnedNow s chan then s
    else
      let s := s.setChan chan { s.chan chan with held := some kind, asleep := false }
      { s with hbm := { s.hbm with quietOn := some chan } }

/-- WRITE_DATA_RECAL (R220). -/
def execWriteDataRecal (chan : Nat) (s : State) : Host.Outcome State Fault Refusal :=
  run (okChan chan) (quietStep s chan 0 id)

/-- VREF_RECAL (R220). -/
def execVrefRecal (chan : Nat) (s : State) : Host.Outcome State Fault Refusal := run (okChan chan) (quietStep s chan 1 id)

/-- The HBM_TRAIN value of a channel: training values, number of repaired lanes, their pins (notes/assumptions/22.md). -/
def trainData (values : Nat) (lanes : List Nat) : List Byte :=
  leBytes 4 values ++ leBytes 4 lanes.length ++ lanes.map (BitVec.ofNat 8)

/-- A channel's training values and lane-repair map set, and shown. -/
def setLanes (s : State) (chan values : Nat) (lanes : List Nat) : State :=
  setHbmc (s.setChan chan { s.chan chan with values := values, lanes := lanes }) chan Reg.HBMC_LANE 7 0 (min lanes.length 255)

/-- The HBM_TRAIN record of a channel queued. -/
def trainRecord (s : State) (chan : Nat) : State :=
  let c := s.chan chan
  queueCommit s { prio := 4, type := 0x0021, key := chan, version := 1, tomb := false, data := trainData c.values c.lanes }

/-- A lane repaired: in the channel's map, no longer suspect, recorded in the store (R211). -/
def laneDone (chan : Nat) (s : State) : State :=
  let c := s.chan chan
  let pin := hbmcFld s chan Reg.HBMC_LANE 30 24
  trainRecord (setLanes (setHbmc s chan Reg.HBMC_LANE 31 31 0) chan c.values (c.lanes.filter (· != pin) ++ [pin])) chan

/-- LANE_REPAIR (R211, R220): of a channel with a pin attributed; a repair that fails leaves it correcting, and due. -/
def execLaneRepair (chan : Nat) (ok : Bool) (s : State) : Host.Outcome State Fault Refusal :=
  run (okChan chan)
    (if hbmcFld s chan Reg.HBMC_LANE 31 31 = 0 then s
     else quietStep s chan 2 fun s => if ok then laneDone chan s else dueQuiet s chan 2)

/-- READ_TIMING_TRIM (R220): from the test area, with no hold; its reads are charged to the maintenance share, which bounds them
(R216). -/
def execReadTimingTrim (chan : Nat) (s : State) : Host.Outcome State Fault Refusal :=
  run (okChan chan) (if (s.chan chan).trained ∧ 0 < maintLeft s (chan / 64) then chargeMaint s (chan / 64) 1 else s)

/-- CAL_OVERDUE (R221): a step that has been due for more than 60 s is reported once; a recalibration then runs the channel
with a widened preamble. -/
def overdue (s : State) (chan : Nat) : State :=
  let c := s.chan chan
  let late (q : Quiet) : Bool := !q.overdue && decide (q.due + 7500000000 < s.cic.count)
  if c.quiet.any late then
    let s := s.setChan chan { c with quiet := c.quiet.map fun q => if late q then { q with overdue := true } else q }
    raiseError s { sev := 0, type := Err.CAL_OVERDUE, die := 24 + chan / 32, inst := chan % 32 }
  else s

/-- CAL_OVERDUE. -/
def execCalOverdue (chan : Nat) (s : State) : Host.Outcome State Fault Refusal := run (okChan chan) (overdue s chan)

/-- DEADLINE_WINDOW_CLOSE (R221): BORROW_HOLD_US after all the context's cells have halted. -/
def closeWindow (s : State) (ctx : Nat) : State :=
  let c := s.ctx ctx
  let busy := (List.range 320).any fun p =>
    let x := s.cell p
    (x.runner = some ctx && x.img.started && !x.img.halted) || x.move == .spilling ctx
  match c.holdUntil with
  | some t => if c.window ∧ !busy ∧ t ≤ s.cic.count then s.setCtx ctx { c with window := false, holdUntil := none } else s
  | none => s

/-- DEADLINE_WINDOW_CLOSE. -/
def execDeadlineWindowClose (ctx : Nat) (s : State) : Host.Outcome State Fault Refusal := run (okCtx ctx) (closeWindow s ctx)

/-! ## Traffic generators (R219, R224) -/

/-- A traffic-generator register of the channel that TGEN_CHAN_SEL shows. -/
def tgenSel (s : State) (k : Nat) : Nat := fld s 0 (tgenReg k Reg.TGEN_CHAN_SEL) 4 0

/-- The run of a channel, if one is set up. -/
def runAt (s : State) (c : Nat) : Option TgenRun := tget (fun _ => none) s.hbm.runs c

/-- The state with a channel's run set. -/
def setRun (s : State) (c : Nat) (r : Option TgenRun) : State :=
  { s with hbm := { s.hbm with runs := tset (fun _ => none) s.hbm.runs c r } }

/-- TGEN_STATUS set. -/
def tgenStatus (s : State) (k c st refuse passes : Nat) : State :=
  wr s c (tgenReg k Reg.TGEN_STATUS) (st * 2 ^ 28 + refuse * 2 ^ 24 + passes)

/-- A run's range breaks the table of R219: it is unaligned or empty, leaves the channel, meets the spill region, or, for a
mode with a pattern, leaves the test area. -/
def tgenBadRange (mode off n : Nat) : Bool :=
  off % 256 != 0 || n % 256 != 0 || n == 0 || decide (2 ^ 31 < off + n)
    || (if mode = 0 then decide (off < 0x7FC00000 ∧ 0x7F6D8000 < off + n)
        else decide (off < 0x7FC00000 ∨ 0x7FC10000 < off + n))

/-- TGEN_CTL written with GO. -/
def tgenStart (s : State) (k value : Nat) : State :=
  let c := tgenSel s k
  let chan := 32 * k + c
  let a := tgenReg k Reg.TGEN_CTL
  let keep := fld s c a 31 31
  let s := wr s c a (writeFields (PageKind.tgen.at_ Reg.TGEN_CTL) false (rd s c a) value)
  if (runAt s chan).isSome ∨ keep = 1 ∨ !(s.chan chan).trained ∨ !dieLoaded s (24 + k) then s
  else
    let mode := bits value 26 24
    let pat := bits value 23 20
    let off := rd s c (tgenReg k Reg.TGEN_OFFSET)
    let n := rd s c (tgenReg k Reg.TGEN_LENGTH)
    let stamp := rd64 s c (tgenReg k Reg.TGEN_STAMP_LO)
    if tgenBadRange mode off n then tgenStatus s k c 4 1 0
    else if 2 < mode ∨ 5 < pat ∨ (bit value 29 ∧ bit stamp 63) then tgenStatus s k c 4 2 0
    else
      let waits : Bool := bit value 29 && decide (replica s (Rep.stack k) < stamp)
      let s := if bit value 29 then lateStamp s (Rep.stack k) stamp else s
      let s := setRun s chan (some
        { mode := mode, pattern := pat, passes := max 1 (bits value 15 0), offset := off, bytes := n,
          user := rd s c (tgenReg k Reg.TGEN_USER), stamp := if bit value 29 then some stamp else none, abort := false })
      setFld (tgenStatus s k c (if waits then 1 else 2) 0 0) c a 31 31 1

/-- TGEN_GO. -/
def execTgenGo (src : Source) (stack value : Nat) (s : State) : Host.Outcome State Fault Refusal :=
  run (okSource src && okStack stack) (viaReg s src (tgenReg stack Reg.TGEN_CTL) (tgenStart s stack value))

/-- TGEN_ABORT: the selected channel's run ends at the next granule. -/
def tgenStop (s : State) (k : Nat) : State :=
  let chan := 32 * k + tgenSel s k
  match runAt s chan with
  | some r => setRun s chan (some { r with abort := true })
  | none => s

/-- TGEN_ABORT. -/
def execTgenAbort (src : Source) (stack : Nat) (s : State) : Host.Outcome State Fault Refusal :=
  run (okSource src && okStack stack) (viaReg s src (tgenReg stack Reg.TGEN_CTL) (tgenStop s stack))

/-- The pattern of a run at a position of its range: zeros, ones and the user word as named; the layout of PRBS-31, walking ones
and address as data is not given, and is the same for every run over a range (Config.tgenByte). -/
def patternByte (r : TgenRun) (i : Nat) : Byte :=
  match r.pattern with
  | 2 => 0
  | 3 => 0xFF
  | 5 => BitVec.ofNat 8 (r.user / 2 ^ (8 * (i % 4)))
  | _ => Config.tgenByte r.pattern r.offset i

/-- `n` bytes of a run's pattern from a position on. -/
def patternBytes (r : TgenRun) (i n : Nat) : List Byte := (List.range n).map fun k => patternByte r (i + k)

/-- Positions of the words among a run's first `n` bytes that differ from its pattern as HBM holds them. -/
def differing (s : State) (chan : Nat) (r : TgenRun) (n : Nat) : List Nat :=
  ((List.range (n / 32)).map (32 * ·)).filter fun i => hbmBytes s (chanAddr chan (r.offset + i)) 32 != patternBytes r i 32

/-- Positions of the words with symbol errors that were read and do not match the pattern, where what HBM holds does. -/
def misread (s : State) (chan : Nat) (r : TgenRun) (found : List (Nat × Finding)) : List Nat :=
  (found.map fun p => (p.1 / 32 * 32 - r.offset, p.2)).filterMap fun p =>
    let a := chanAddr chan (r.offset + p.1)
    if hbmBytes s a 32 = patternBytes r p.1 32 ∧ readData s a p.2 ≠ patternBytes r p.1 32 then some p.1 else none

/-- Granules that a run has read, and those it has written: all of them in each complete pass (R219). -/
def tgenUnits (r : TgenRun) (passes granules : Nat) : Nat :=
  let n := passes * (r.bytes / 256) + granules
  if r.mode = 1 then n + passes * (r.bytes / 256) else n

/-- TGEN_RUN_END (R219, R224): the run has written its pattern, has compared what HBM holds with it in each pass, and has found
code errors, which count under R208 and R211; its traffic is charged to the maintenance sluice (R213). An aborted one ends
with the granule it was at. -/
def tgenEnd (s : State) (k c : Nat) (o : TgenObs) : State :=
  let chan := 32 * k + c
  match runAt s chan with
  | none => s
  | some r =>
    let early : Bool := match r.stamp with
      | some v => decide (replica s (Rep.stack k) < v)
      | none => false
    if early ∧ !r.abort then s
    else
      let a (off : Nat) : Nat := tgenReg k off
      let s := setRun s chan none
      let passes := if early then 0 else if r.abort then min o.passes r.passes else r.passes
      let part := if r.abort ∧ !early ∧ passes < r.passes then min o.granules (r.bytes / 256) else 0
      let written := if r.mode ≠ 1 then 0 else if passes = 0 then 256 * part else r.bytes
      let s := hbmWrite s (chanAddr chan r.offset) (patternBytes r 0 written)
      let s := chargeMaint s (k / 2) (tgenUnits r passes part)
      let s := tgenStatus s k c (if r.abort then 5 else 3) 0 (min passes 65535)
      let s := setFld s c (a Reg.TGEN_CTL) 31 31 0
      if early then raiseInt s (a 0) 0
      else
        let found := o.found.filter fun p => decide (r.offset ≤ p.1 ∧ p.1 < r.offset + r.bytes)
        let kinds := found.map fun p => (p.1, resolve s (chanAddr chan (p.1 / 32 * 32)) p.2)
        let corr := (kinds.filter fun p => corrects p.2).length
        let bad := (kinds.filter fun p => spoils p.2).length
        let whole := if r.mode = 0 ∨ passes = 0 then [] else differing s chan r r.bytes
        let last := if r.mode = 2 then differing s chan r (256 * part) else []
        let once := if r.mode = 0 then [] else misread s chan r found
        let miss := passes * whole.length + last.length + once.length
        let errs := (whole ++ last ++ once).map (r.offset + ·) ++ (kinds.filter fun p => corrects p.2 || spoils p.2).map (·.1 / 32 * 32)
        let s := countFld s c (a Reg.TGEN_MISMATCH) 31 0 miss
        let s := countFld s c (a Reg.TGEN_CODE_ERR) 31 16 bad
        let s := countFld s c (a Reg.TGEN_CODE_ERR) 15 0 corr
        let s := wr s c (a Reg.TGEN_FIRST_ERR) ((argMin id errs).getD 0)
        let s := found.foldl (fun s p => hbmCheck s chan (p.1 / 32 * 32) p.2 none) s
        raiseInt s (a 0) 0

/-- TGEN_RUN_END. -/
def execTgenRunEnd (stack chan : Nat) (o : TgenObs) (s : State) : Host.Outcome State Fault Refusal :=
  run (okStack stack && okStackChan chan) (tgenEnd s stack chan o)

/-! ## Self-refresh (R334) -/

/-- SELF_REFRESH_ENTRY: while the device is host-detached, a stack with no request for 1 ms sleeps until its next request. -/
def sleepStack (s : State) (k : Nat) : State :=
  if s.host.attach ≠ 2 then s
  else (List.range 32).foldl (fun s c =>
    let x := s.chan (32 * k + c)
    if x.trained ∧ x.held.isNone then s.setChan (32 * k + c) { x with asleep := true } else s) s

/-- SELF_REFRESH_ENTRY. -/
def execSelfRefreshEntry (stack : Nat) (s : State) : Host.Outcome State Fault Refusal := run (okStack stack) (sleepStack s stack)

end Sys2Proof.Machine
end

