-- ==== Sys2Proof/Machine/Polder.lean ====
section
/-!
DEFINITION. The rows of the Polder store (18_polder_store.md): commits, block erases, log flushes, the commit of power-on
minutes (R167), and the mailbox commands of R437.
-/

namespace Sys2Proof.Machine

/-! ## Commits (R420, R421, R427) -/

/-- What follows a commit, an erase or a discarded commit: compaction in each bank, and a key erase in progress. -/
def afterStore (s : State) : State := eraseAdvance (compactUrge (compactStart (compactStart (compactEnd s) 0) 1))

/-- A mailbox command whose commit falls away ends with a result. -/
def mbxLost (s : State) (c : Commit) (result : Nat) : State :=
  match s.pld.busy with
  | some _ => if c.mbx then mbxEnd s result else mbxAfter s c
  | none => s

/-- Commits can be made: the store is read, its clock runs, the package is not in ROM service and has its rails. -/
def storeRuns (s : State) : Bool :=
  s.pld.st != 0 && !clockStopped s 0 10 0 && !s.boot.romService && !s.boot.railDown

/-- COMMIT_START: the next commit is taken and begins in bank A; one that R433 or R434 rules out is discarded and counted. -/
def commitStart (s : State) : State :=
  if s.pld.running.isSome ∨ !storeRuns s then s
  else
    match nextCommit s with
    | none => s
    | some (i, c) =>
      let s := { s with pld := { s.pld with queue := s.pld.queue.eraseIdx i } }
      if s.pld.st = 3 then afterStore (mbxLost (lostCommit s) c MbxRes.UNAVAILABLE)
      else if versionAhead s c then afterStore (mbxLost (sayAhead (lostCommit s)) c MbxRes.AHEAD)
      else
        match prepare s c with
        | none => afterStore (mbxAfter s c)
        | some c => { s with pld := { s.pld with running := some ⟨c, 0, seqNext s.pld.seq, 0, s.cic.count⟩ } }

/-- COMMIT_START (R421). -/
def execCommitStart (s : State) : Host.Outcome State Fault Refusal := .next (commitStart s)

/-- The open block of a bank retired (R431), and what follows from it. -/
def retireOpen (s : State) (bank : Nat) : State :=
  match (journal bank).find? fun k => (blk s k).st = .opened with
  | some k => bankCheck (wornCheck (retireBlk s k))
  | none => s

/-- The record is in both banks: the next fragment begins, or the commit ends; a bank whose copy is weak retires the block
(R431). -/
def commitDone (s : State) (r : Running) (weak : List Nat) : State :=
  let s := weak.foldl (fun s b => if bankUp s b then retireOpen s b else s) (placeRec s r.c r.frag r.seq)
  if r.frag + 1 < r.c.frags then { s with pld := { s.pld with running := some ⟨r.c, r.frag + 1, seqNext r.seq, 0, s.cic.count⟩ } }
  else afterStore (mbxAfter { s with pld := { s.pld with running := none } } r.c)

/-- A copy failed in a bank: its pages stay torn, and the record is written again from the next free page; a repeated failure
retires the bank's open block (R420, R431). Bank B is begun once bank A's copy is committed. -/
def commitFailed (s : State) (r : Running) (bank : Nat) : State :=
  let x := r.c.record s r.frag r.seq
  if !bankUp s bank ∨ heldIn s bank x then s
  else
    let s := if bank = 1 then writeCopy s 0 x else s
    let s := (takePages s bank (recPages x.data.length)).1
    if bit r.tries bank then
      afterStore (retireOpen { s with pld := { s.pld with running := some { r with tries := r.tries - 2 ^ bank } } } bank)
    else { s with pld := { s.pld with running := some { r with tries := r.tries + 2 ^ bank } } }

/-- COMMIT_COMPLETE: the record is programmed and verified in each bank in service, or its copy in a bank failed. -/
def commitComplete (s : State) (ok : Bool) (banks : List Nat) : State :=
  match s.pld.running, ok with
  | none, _ => s
  | some r, true => commitDone s r banks
  | some r, false => (banks.head?.map (commitFailed s r)).getD s

/-- COMMIT_COMPLETE (R420). -/
def execCommitComplete (ok : Bool) (banks : List Nat) (s : State) : Host.Outcome State Fault Refusal :=
  run (banks.all okBank) (commitComplete s ok banks)

/-- A block's erase ends (R427): it is erased once more; one that failed, that is retired or whose ERASE_COUNT has reached
100,000 leaves service (R431). -/
def eraseEnded (s : State) (k : Nat) (ok : Bool) : State :=
  let b := blk s k
  if !(b.st = .erasing) then s
  else
    let s :=
      if !ok then setBlk s k { b with st := .retired, dead := true }
      else
        let gone := b.dead || decide (100000 ≤ b.erases + 1)
        let s := setBlk s k { b with st := if gone then .retired else .erased, erases := b.erases + 1, page := 1, dead := gone }
        let s := if k / 512 = 0 then
            { s with pld := { s.pld with
                eraseTimes := (s.pld.eraseTimes.filter fun t => powerMinutes s ≤ t + 10080) ++ [powerMinutes s] } }
          else s
        setErase s fun e => { e with blocks := e.blocks.filter (· != k) }
    afterStore (bankCheck (wornCheck s))

/-- BLOCK_ERASE_END (R427). -/
def execBlockEraseEnd (bank block : Nat) (ok : Bool) (s : State) : Host.Outcome State Fault Refusal :=
  run (okBank bank) (if 4 ≤ block ∧ block < 512 then eraseEnded s (512 * bank + block) ok else s)

/-! ## Logs and counts (R167, R429) -/

/-- ERR_SUMMARY queued where it has changed (R424). -/
def flushSummary (s : State) (prio : Nat) : State :=
  if !s.pld.summaryDirty then s
  else
    queueCommit { s with pld := { s.pld with summaryDirty := false } }
      { prio := prio, type := 0x40, key := 0, version := 1, tomb := false, data := summaryData s }

/-- Held log events committed (R429). -/
def flushLogs (s : State) : State :=
  flushSummary (flushSecLog { s with pld := { s.pld with logAt := bootMinutes s } } 6 66) 6

/-- Log records committed where the erase rate allows it: at 200 or more, full records alone (R429). -/
def flushWithin (s : State) : State :=
  if 200 ≤ eraseRate s then flushSecLog s 6 (s.pld.held.length / 63) else flushLogs s

/-- LOG_FLUSH: the log every 60 power-on minutes, ERR_SUMMARY within 10 minutes of a change; at an erase rate of 200 or more
only full records (R424, R429). -/
def logFlush (s : State) : State :=
  if 200 ≤ eraseRate s ∨ s.pld.logAt + 60 ≤ bootMinutes s then flushWithin s else flushSummary s 6

/-- LOG_FLUSH. -/
def execLogFlush (s : State) : Host.Outcome State Fault Refusal := .next (logFlush s)

/-- Lifetime package energy in joules (R409). -/
def lifeJoules (s : State) : Nat := (s.pwr.life + s.pwr.energy / 1000000) / 1000

/-- A floor's corrected-error counts committed where they have changed (R424). -/
def wayCounts (s : State) (f : Nat) : State :=
  let none_ := (List.range 1024).all fun i => (tget (fun _ => []) s.coh.wayErrs (1024 * f + i)).isEmpty
  if none_ ∨ storeVal s 0x23 f = some (retireData s f) then s else retireCommit s f

/-- POWER_MIN and LIFE_ENERGY queued, and the way counts that changed (R167, R409, R424). -/
def commitMinutes (s : State) : State :=
  let m := powerMinutes s
  let s := { s with cic := { s.cic with minutes := m, committedAt := bootMinutes s } }
  let s := queueCommit s { prio := 5, type := 0x11, key := 0, version := 1, tomb := false, data := leBytes 8 m }
  let s := queueCommit s { prio := 5, type := 0x12, key := 0, version := 1, tomb := false, data := leBytes 8 (lifeJoules s) }
  [0, 1, 2, 3].foldl wayCounts s

/-- POWER_MIN_COMMIT: after every 60 minutes of a boot (R167). -/
def execPowerMinCommit (s : State) : Host.Outcome State Fault Refusal :=
  .next (if s.cic.committedAt + 60 ≤ bootMinutes s then commitMinutes s else s)

/-! ## Mailbox commands (R437) -/

/-- A mailbox row: GO written with its OP. In ROM service only READ, LIST and LOG_READ are answered (R444). -/
def mbxRow (src : Source) (op : Nat) (f : State → State) (s : State) : Host.Outcome State Fault Refusal :=
  run (okSource src)
    (if s.boot.romService ∧ 3 < op then s else viaReg s src (pldReg Reg.PLD_MBX_CMD) (mbxGo s src op f))

/-- A value whose VERSION is ahead of the firmware (R434). -/
def valueAhead (s : State) (f : List PldRec) : Bool := f.any fun r => decide (knownVersion s r.type < r.version)

/-- READ: a record of a reserved type is ignored (R424). -/
def mbxRead (s : State) : State :=
  let t := mbxType s
  if t = 3 then mbxEnd s MbxRes.DENIED
  else if !storeTypes.contains t then mbxEnd s MbxRes.ABSENT
  else if s.pld.st = 3 then mbxEnd s MbxRes.UNAVAILABLE
  else
    match currentVal s t (mbxKey s) with
    | none => mbxEnd s MbxRes.ABSENT
    | some f =>
      if valueAhead s f then mbxEnd (sayAhead s) MbxRes.AHEAD
      else
        match f.find? fun r => r.frag = mbxArg2 s % 16 with
        | none => mbxEnd s MbxRes.ABSENT
        | some r => mbxEnd (mbxReturn s r.data r.version r.fragLast r.seq) MbxRes.OK

/-- READ (R437). -/
def execPldRead (src : Source) (s : State) : Host.Outcome State Fault Refusal := mbxRow src 1 mbxRead s

/-- An entry of LIST: KEY, VERSION, fragments, SEQ of the last fragment. -/
def listEntry (s : State) (type key : Nat) : List Byte :=
  let f := (currentVal s type key).getD []
  leBytes 2 key ++ leBytes 1 ((f.head?.map (·.version)).getD 0) ++ leBytes 1 f.length
    ++ leBytes 4 ((f.getLast?.map (·.seq)).getD 0)

/-- LIST. -/
def mbxList (s : State) : State :=
  if s.pld.st = 3 then mbxEnd s MbxRes.UNAVAILABLE
  else
    let t := mbxType s
    let ks := ((rising (if storeTypes.contains t then keysOf s t else [])).filter fun k => mbxKey s ≤ k).take 255
    mbxEnd (mbxReturn s (ks.flatMap (listEntry s t) ++ leBytes 4 ks.length) 0 false 0) MbxRes.OK

/-- LIST (R437). -/
def execPldList (src : Source) (s : State) : Host.Outcome State Fault Refusal := mbxRow src 2 mbxList s

/-- The valid SEC_LOG record with the lowest SEQ above `q` (R437), compared under R419. -/
def nextLog (s : State) (q : Nat) : Option PldRec :=
  let l := (seenRecs s).filter fun r => r.type = 0x50 && seqNewer r.seq q && !r.tomb
  l.foldl (fun b r => match b with
    | none => some r
    | some x => if seqNewer x.seq r.seq then some r else some x) none

/-- LOG_READ: the record as it stands in its pages, whole. -/
def mbxLogRead (s : State) : State :=
  if mbxType s ≠ 0x50 then mbxEnd s MbxRes.BAD_ARG
  else if s.pld.st = 3 then mbxEnd s MbxRes.UNAVAILABLE
  else
    match nextLog s (mbxArg2 s) with
    | none => mbxEnd s MbxRes.ABSENT
    | some r => mbxEnd (mbxReturn s r.image r.version r.fragLast r.seq) MbxRes.OK

/-- LOG_READ (R437). -/
def execLogRead (src : Source) (s : State) : Host.Outcome State Fault Refusal := mbxRow src 3 mbxLogRead s

/-- An ACTION record's commit (R424, R425). -/
def actionCommit (key : Nat) (tomb : Bool) (data : List Byte) : Commit :=
  { prio := 4, type := 0x60, key := key, version := 1, tomb := tomb, data := data }

/-- REQ_SWEEP: interfaces in bits 0-20 of the buffer. -/
def mbxSweep (s : State) : State := mbxCommit s (actionCommit 0 false (leBytes 4 (leNat (mbxBuf s 4) % 2 ^ 21)))

/-- REQ_SWEEP (R437). -/
def execReqSweep (src : Source) (s : State) : Host.Outcome State Fault Refusal := mbxRow src 4 mbxSweep s

/-- REQ_HBM_TRAIN: channels in 256 bits of the buffer. -/
def mbxTrain (s : State) : State := mbxCommit s (actionCommit 1 false (mbxBuf s 32))

/-- REQ_HBM_TRAIN (R437). -/
def execReqHbmTrain (src : Source) (s : State) : Host.Outcome State Fault Refusal := mbxRow src 5 mbxTrain s

/-- REQ_WAY_CLEAR: the floor in KEY, its set groups in 64 bits of the buffer. -/
def mbxWays (s : State) : State :=
  if 4 ≤ mbxKey s then mbxEnd s MbxRes.BAD_ARG
  else mbxCommit s (actionCommit 2 false (leBytes 4 (mbxKey s) ++ mbxBuf s 8))

/-- REQ_WAY_CLEAR (R437). -/
def execReqWayClear (src : Source) (s : State) : Host.Outcome State Fault Refusal := mbxRow src 6 mbxWays s

/-- CANCEL: an ACTION is tombstoned. -/
def mbxCancel (s : State) : State :=
  if 3 ≤ mbxKey s then mbxEnd s MbxRes.BAD_ARG else mbxCommit s (actionCommit (mbxKey s) true [])

/-- CANCEL (R437). -/
def execPldCancel (src : Source) (s : State) : Host.Outcome State Fault Refusal := mbxRow src 7 mbxCancel s

/-- NOTE_WRITE: up to 256 bytes under KEY 0-15. -/
def mbxNote (s : State) : State :=
  let n := mbxArg2 s % 65536
  if 16 ≤ mbxKey s ∨ 256 < n then mbxEnd s MbxRes.BAD_ARG
  else mbxCommit s { prio := 5, type := 0x70, key := mbxKey s, version := 1, tomb := false, data := mbxBuf s n }

/-- NOTE_WRITE (R437). -/
def execNoteWrite (src : Source) (s : State) : Host.Outcome State Fault Refusal := mbxRow src 8 mbxNote s

/-- SYNC: refused within 60 s of the previous one; else it ends when nothing is left to commit. -/
def mbxSync (s : State) : State :=
  let soon : Bool := match s.pld.syncAt with
    | some t => decide (s.cic.count < t + 7500000000)
    | none => false
  if soon then mbxEnd s MbxRes.LIMIT
  else if s.pld.st = 3 then mbxEnd s MbxRes.UNAVAILABLE
  else
    let s := commitMinutes (flushLogs { s with pld := { s.pld with syncAt := some s.cic.count } })
    { s with pld := { s.pld with busy := s.pld.busy.map fun b => { b with type := 0xFFFF } } }

/-- SYNC (R437). -/
def execPldSync (src : Source) (s : State) : Host.Outcome State Fault Refusal := mbxRow src 9 mbxSync s

end Sys2Proof.Machine
end

