-- ==== Sys2Proof/Machine/Security.lean ====
section
/-!
DEFINITION. The rows of security (19_security_and_dike.md): the mailbox security commands of R465, SPDM, the random source,
and the levee's treatment of guest requests (R29, R30).
-/

namespace Sys2Proof.Machine

/-- Staged bytes, as many as ARG2 says. -/
def staged (s : State) : List Byte := memBytes s.sec.staging 0 (mbxArg2 s)

/-- A staged command: LENGTH beyond the staging area is BAD_ARG (R465). -/
def withStaged (s : State) (f : State → List Byte → State) : State :=
  if 32768 < mbxArg2 s then mbxEnd s MbxRes.BAD_ARG else f s (staged s)

/-- A command marked host/hart is refused over I3C (R465). -/
def notI3c (s : State) (src : Source) (f : State → State) : State := if overI3c src then mbxEnd s MbxRes.DENIED else f s

/-- The state with the fuses changed. -/
def setFuses (s : State) (f : Fuses → Fuses) : State := { s with sec := { s.sec with fuses := f s.sec.fuses } }

/-! ## Staging and policy (R456, R457) -/

/-- STAGE. -/
def mbxStage (s : State) : State :=
  let o := mbxArg2 s
  if o % 2048 ≠ 0 ∨ 32768 ≤ o then mbxEnd s MbxRes.BAD_ARG
  else mbxEnd { s with sec := { s.sec with staging := memStore s.sec.staging o (mbxBuf s 2048) } } MbxRes.OK

/-- STAGE (R465). -/
def execStage (src : Source) (s : State) : Host.Outcome State Fault Refusal := mbxRow src 0x10 mbxStage s

/-- A guest window of a policy (R456). -/
def guestWinOf (b : List Byte) (w : Nat) : GuestWin :=
  let perm := leNat (part b (0x30 + 24 * w) 8)
  { base := leNat (part b (0x20 + 24 * w) 8) / 4096 * 4096
    size := leNat (part b (0x28 + 24 * w) 8) / 4096 * 4096
    ctx := bits perm 13 8
    perm := bits perm 2 0 }

/-- A policy's 224 bytes (R456). -/
def policyBody (b : List Byte) : Policy :=
  let l := imgWord b 0
  let c := imgWord b 4
  { levels := (List.range 7).map fun n => bits l (2 * n + 1) (2 * n)
    guestEn := bit c 0
    dbgOwner := bit c 1
    dbgVendor := bit c 2
    pages := imgWord b 8
    windows := (List.range 8).map (guestWinOf b)
    hash := digest b }

/-- A policy comes into force (R457): the guest is enabled, waits for context 63, or is isolated as R30 describes. -/
def applyPolicy (s : State) (p : Policy) : State :=
  let s := measureChanged (measureChanged { s with sec := { s.sec with policy := some p } } 7) 10
  if p.guestEn then
    if (s.ctx 63).live then { s with sec := { s.sec with guestWait := true } } else enableGuest s
  else
    let s := { s with sec := { s.sec with guestWait := false } }
    if s.sec.guestOn then isolateGuest s else s

/-- A staged owner policy under R442; its body is 224 bytes (R456). -/
def policyCheck (s : State) (img : List Byte) : Nat :=
  if imageCheck s img 3 = 0 ∧ imgLen img ≠ 224 then MbxRes.BAD_FORMAT else imageCheck s img 3

/-- POLICY_LOAD: verified under R442, then applied; during quarantine as well (R462). -/
def mbxPolicy (s : State) : State :=
  withStaged s fun s img =>
    let r := policyCheck s img
    let s := imageNoted s img 3 r
    if r ≠ 0 then mbxEnd s r else mbxEnd (applyPolicy s (policyBody (imgBody img))) MbxRes.OK

/-- POLICY_LOAD (R457). -/
def execPolicyLoad (src : Source) (s : State) : Host.Outcome State Fault Refusal := mbxRow src 0x11 mbxPolicy s

/-! ## Keys (R452, R453) -/

/-- 2 MiB granules of the pool (R204, R452). -/
abbrev poolGranules : Nat := poolBytes / 2 ^ 21

/-- Key-map entries of a range set, and the range invalidated in every floor cache and pocket (R230, R452). -/
def setKeyMap (s : State) (slot first n : Nat) : State :=
  let inside (g : Nat) : Bool := decide (first ≤ g ∧ g < first + n)
  let m := s.sec.keyMap.filter fun p => !inside p.1
  let m := if slot = 0x7F then m else tsetAll (fun _ => 0x7F) m ((List.range n).map fun i => (first + i, slot))
  let s := { s with sec := { s.sec with keyMap := m } }
  { s with coh := { s.coh with
      flc := s.coh.flc.filter fun p => !((p.2.map fun b => inside (b.block / 8192)).getD false)
      pocket := s.coh.pocket.filter fun p => !inside (p.2 / 32768)
      prefetches := s.coh.prefetches.filter fun p => !inside (p.line / 32768) } }

/-- KEY_MAP. -/
def mbxKeyMap (src : Source) (s : State) : State :=
  notI3c s src fun s =>
    let k := mbxKey s
    let first := leNat (mbxBuf s 4)
    let n := leNat ((mbxBuf s 8).drop 4)
    if !(k = 0x7F ∨ (k < 64 ∧ (s.slot k).st = 1)) ∨ poolGranules < first + n then mbxEnd s MbxRes.BAD_ARG
    else mbxEnd (setKeyMap s k first n) MbxRes.OK

/-- KEY_MAP (R452). -/
def execKeyMap (src : Source) (s : State) : Host.Outcome State Fault Refusal := mbxRow src 0x12 (mbxKeyMap src) s

/-- A KEY_BLOB's payload: the key's number, which stands for the wrapped key, and the owner slot under which it is wrapped
(R453; notes/assumptions/22.md). -/
def blobData (key owner : Nat) : List Byte := leBytes 64 key ++ leBytes 8 (owner + 1)

/-- The key-encryption key can be used (R453, R464). -/
def kekOf (s : State) : Option Nat := if s.sec.kekOff then none else s.sec.kek

/-- KEY_WRAP. -/
def mbxKeyWrap (src : Source) (s : State) : State :=
  notI3c s src fun s =>
    let k := mbxKey s
    if 64 ≤ k ∨ !((s.slot k).st = 1) ∨ 256 ≤ mbxArg2 s then mbxEnd s MbxRes.BAD_ARG
    else
      match kekOf s with
      | none => mbxEnd (secEvent s Sev.KEY 0x13 0 MbxRes.KEY_BAD true) MbxRes.KEY_BAD
      | some o =>
        mbxCommit (secEvent s Sev.KEY 0x13 0 0 true)
          { prio := 3, type := 3, key := mbxArg2 s, version := 1, tomb := false, data := blobData (s.slot k).key o }

/-- KEY_WRAP (R453). -/
def execKeyWrap (src : Source) (s : State) : Host.Outcome State Fault Refusal := mbxRow src 0x13 (mbxKeyWrap src) s

/-- The key number of a blob, where it unwraps under the key-encryption key (R445, R453). -/
def unwrapBlob (s : State) (blob : Nat) : Option Nat :=
  match kekOf s, storeVal s 3 blob with
  | some o, some d => if leNat (d.drop 64) = o + 1 then some (leNat (d.take 64)) else none
  | _, _ => none

/-- KEY_LOAD. -/
def mbxKeyLoad (src : Source) (s : State) : State :=
  notI3c s src fun s =>
    let k := mbxKey s
    if 64 ≤ k ∨ !(s.ctx k).live ∨ 256 ≤ mbxArg2 s then mbxEnd s MbxRes.BAD_ARG
    else if s.pld.st = 3 then mbxEnd s MbxRes.UNAVAILABLE
    else if (storeVal s 3 (mbxArg2 s)).isNone then mbxEnd s MbxRes.ABSENT
    else
      match unwrapBlob s (mbxArg2 s) with
      | none => mbxEnd (secEvent s Sev.KEY 0x14 0 MbxRes.KEY_BAD true) MbxRes.KEY_BAD
      | some key => mbxEnd (secEvent (s.setSlot k { st := 1, key := key, fromBlob := true }) Sev.KEY 0x14 0 0 true) MbxRes.OK

/-- KEY_LOAD (R453). -/
def execKeyLoad (src : Source) (s : State) : Host.Outcome State Fault Refusal := mbxRow src 0x14 (mbxKeyLoad src) s

/-! ## Debug (R464) -/

/-- The 64 bytes of a nonce. -/
def nonceBytes (n : Nat) : List Byte := (List.range 16).flatMap fun i => leBytes 4 (Config.randomWord n i)

/-- DEBUG_CHALLENGE. -/
def mbxChallenge (s : State) : State :=
  let level := mbxArg2 s
  if !(level = 1 ∨ level = 2) then mbxEnd s MbxRes.BAD_ARG
  else if s.sec.entropyBad then mbxEnd (secEvent s Sev.DEBUG 0x15 level MbxRes.UNAVAILABLE true) MbxRes.UNAVAILABLE
  else
    let n := s.sec.nextKey
    let s := { s with sec := { s.sec with nextKey := n + 1, nonce := some (n, level, s.cic.count + 7500000000) } }
    let s := secEvent s Sev.DEBUG 0x15 level 0 true
    mbxEnd (mbxReturn s (nonceBytes n) 0 false 0) MbxRes.OK

/-- DEBUG_CHALLENGE (R464). -/
def execDebugChallenge (src : Source) (s : State) : Host.Outcome State Fault Refusal := mbxRow src 0x15 mbxChallenge s

/-- The Device Serial Number: the first eight bytes of FACTORY_ID, zero where it is absent (R424). -/
def serialBytes (s : State) : List Byte := (((storeVal s 1 0).getD []) ++ List.replicate 8 0).take 8

/-- Debug at a level is permitted by the policy in force and not blocked by DEBUG_DISABLE (R439, R464). -/
def debugPermitted (s : State) (level : Nat) : Bool :=
  match s.sec.policy with
  | some p => (if level = 1 then p.dbgOwner else p.dbgVendor) && !bit s.sec.fuses.debugDisable (level - 1)
  | none => false

/-- Result of a staged response: nonce, level, serial number, then the signature block (notes/assumptions/22.md). -/
def unlockResult (s : State) (l : List Byte) : Nat :=
  if s.sec.dike ≠ 0 then MbxRes.DENIED
  else
    match s.sec.nonce with
    | none => MbxRes.EXPIRED
    | some (n, level, until_) =>
      if until_ ≤ s.cic.count then MbxRes.EXPIRED
      else if l.length < 76 + sigBytes then MbxRes.BAD_FORMAT
      else if part l 0 64 ≠ nonceBytes n then MbxRes.EXPIRED
      else if imgWord l 64 ≠ level ∨ part l 68 8 ≠ serialBytes s then MbxRes.BAD_ARG
      else if !debugPermitted s level then MbxRes.DENIED
      else if !signedBy s.sec.fuses (if level = 1 then 1 else 0) none (sigBlock l 76) then MbxRes.KEY_BAD
      else if !sigOk (sigBlock l 76) (part l 0 76) then MbxRes.SIG_BAD
      else 0

/-- An unlock that is accepted: owner debug; or, after a quarantine and with the key-encryption key disabled, vendor debug
(R459, R464). -/
def unlock (s : State) (level : Nat) : State :=
  let s := { s with sec := { s.sec with nonce := none } }
  if level = 1 then measureChanged { s with sec := { s.sec with dbgOwner := true } } 9
  else
    let s := quarantine s
    let s := { s with sec := { s.sec with kekOff := true, dbgVendor := true } }
    measureChanged (raiseError s { sev := 3, type := Err.DIKE_ALARM, die := 0, inst := 0 }) 9

/-- DEBUG_UNLOCK. -/
def mbxUnlock (s : State) : State :=
  withStaged s fun s l =>
    let r := unlockResult s l
    let level := (s.sec.nonce.map fun p => p.2.1).getD 0
    let s := if r = 0 then unlock s level else s
    mbxEnd (secEvent s Sev.DEBUG 0x16 level r true) r

/-- DEBUG_UNLOCK (R464). -/
def execDebugUnlock (src : Source) (s : State) : Host.Outcome State Fault Refusal := mbxRow src 0x16 mbxUnlock s

/-! ## Owners and fuses (R443, R445) -/

/-- The lowest owner slot that is not blown. -/
def freeOwner (f : Fuses) : Option Nat := [0, 1].find? fun k => (f.ownerKeys.getD k none).isNone

/-- Result of an enrolment: both public keys, then, where an owner slot is blown, a signature block (R445). -/
def enrolResult (s : State) (l : List Byte) : Nat :=
  let f := s.sec.fuses
  let first := (f.ownerKeys.all (·.isNone))
  match freeOwner f with
  | none => MbxRes.DENIED
  | some k =>
    if l.length < 1984 + (if first then 0 else sigBytes) then MbxRes.BAD_FORMAT
    else if first then 0
    else if !signedBy f 1 (some k) (sigBlock l 1984) then MbxRes.KEY_BAD
    else if !sigOk (sigBlock l 1984) (part l 0 1984) then MbxRes.SIG_BAD
    else 0

/-- OWNER_ENROLL: the lowest owner slot not yet blown takes the staged keys. -/
def mbxEnrol (s : State) : State :=
  withStaged s fun s l =>
    let r := enrolResult s l
    let s := if r ≠ 0 then s
      else setFuses s fun f =>
        { f with ownerKeys := f.ownerKeys.set ((freeOwner f).getD 2) (some (keyHash (part l 0 32) (part l 32 1952))) }
    mbxEnd (secEvent s Sev.ENROL 0x17 0 r true) r

/-- OWNER_ENROLL (R445). -/
def execOwnerEnroll (src : Source) (s : State) : Host.Outcome State Fault Refusal := mbxRow src 0x17 mbxEnrol s

/-- Result of a revocation: the slot, then a signature block by another usable owner slot (R445). -/
def revokeResult (s : State) (l : List Byte) : Nat :=
  let f := s.sec.fuses
  let k := imgWord l 0
  if l.length < 4 + sigBytes then MbxRes.BAD_FORMAT
  else if (usableKey f 1 k).isNone then MbxRes.BAD_ARG
  else if !signedBy f 1 (some k) (sigBlock l 4) then MbxRes.KEY_BAD
  else if !sigOk (sigBlock l 4) (part l 0 4) then MbxRes.SIG_BAD
  else 0

/-- OWNER_REVOKE. -/
def mbxRevoke (s : State) : State :=
  withStaged s fun s l =>
    let r := revokeResult s l
    let s := if r ≠ 0 then s else setFuses s fun f => { f with ownerRevoke := setBits f.ownerRevoke (imgWord l 0) (imgWord l 0) 1 }
    mbxEnd (secEvent s Sev.REVOKE 0x18 0 r true) r

/-- OWNER_REVOKE (R445). -/
def execOwnerRevoke (src : Source) (s : State) : Host.Outcome State Fault Refusal := mbxRow src 0x18 mbxRevoke s

/-- CERT_INSTALL: the body holds the length of the Ed25519 chain, that chain, and the ML-DSA-65 chain
(notes/assumptions/22.md). -/
def mbxCert (s : State) : State :=
  withStaged s fun s img =>
    let r := imageCheck s img 4
    let s := secEvent (imageNoted s img 4 r) Sev.CERT 0x19 0 r true
    if r ≠ 0 then mbxEnd s r
    else if s.pld.st = 3 then mbxEnd (lostCommit s) MbxRes.UNAVAILABLE
    else
      let b := imgBody img
      let n := imgWord b 0
      let c (k : Nat) (d : List Byte) : Commit := { prio := 3, type := 2, key := k, version := 1, tomb := false, data := d }
      mbxCommit (queueCommit s (c 0 (part b 4 n))) (c 1 (b.drop (4 + n)))

/-- CERT_INSTALL (R465). -/
def execCertInstall (src : Source) (s : State) : Host.Outcome State Fault Refusal := mbxRow src 0x19 mbxCert s

/-- The fuse count of a class set. -/
def setSvn (f : Fuses) (cls v : Nat) : Fuses :=
  if cls = 1 then { f with svnHub := v } else if cls = 2 then { f with svnCore := v } else { f with svnPolicy := v }

/-- SVN_FUSE: a count rises to min(SVN, ROLLBACK). -/
def mbxSvn (s : State) : State :=
  let cls := mbxKey s
  if cls = 0 ∨ 3 < cls then mbxEnd s MbxRes.BAD_ARG
  else
    let v := max (fuseSvn s.sec.fuses cls) (min (mbxArg2 s) (rollbackOf s cls))
    mbxEnd (secEvent (setFuses s fun f => setSvn f cls v) Sev.FUSE 0x1A 0 0 true) MbxRes.OK

/-- SVN_FUSE (R443). -/
def execSvnFuse (src : Source) (s : State) : Host.Outcome State Fault Refusal := mbxRow src 0x1A mbxSvn s

/-- DIKE_FLOOR: an owner-signed image of class 0x03 whose LEVELS only raise floors. -/
def mbxFloor (s : State) : State :=
  withStaged s fun s img =>
    let r := policyCheck s img
    let s := imageNoted s img 3 r
    if r ≠ 0 then mbxEnd s r
    else
      let l := (policyBody (imgBody img)).levels
      if (List.range 7).any fun n => decide (nth l n < nth s.sec.fuses.floors n) then mbxEnd s MbxRes.BAD_ARG
      else
        let s := setFuses s fun f => { f with floors := l }
        mbxEnd (measureChanged (secEvent s Sev.FUSE 0x1B 0 0 true) 10) MbxRes.OK

/-- DIKE_FLOOR (R465). -/
def execDikeFloor (src : Source) (s : State) : Host.Outcome State Fault Refusal := mbxRow src 0x1B mbxFloor s

/-- DIKE_TEST: a sensor's event at level 0. -/
def mbxDikeTest (s : State) : State :=
  if 7 ≤ mbxKey s then mbxEnd s MbxRes.BAD_ARG else mbxEnd (trip s (mbxKey s) 0) MbxRes.OK

/-- DIKE_TEST (R465). -/
def execDikeTest (src : Source) (s : State) : Host.Outcome State Fault Refusal := mbxRow src 0x1C mbxDikeTest s

/-! ## SPDM (R448, R449) -/

/-- Codes of the requests that the responder supports, whose answers are the codes less 0x80 (R448;
notes/assumptions/30.md). -/
def spdmSupported (code : Nat) : Bool :=
  [0x81, 0x82, 0x83, 0x84, 0xE0, 0xE1, 0xE3, 0xE4, 0xE5, 0xE8, 0xE9, 0xEC, 0xFE].contains code

/-- An answer that carries bytes. -/
def answerWith (code : Nat) (l : List Byte) : Out := .answer (code :: l.map (·.toNat))

/-- Answer to a request outside a session: GET_DIGESTS, GET_CERTIFICATE and CHALLENGE need slot 0, the Ed25519 chain (R424,
R448). -/
def spdmPlain (s : State) (code : Nat) : Out :=
  match (if s.sec.identity then storeVal s 2 0 else none) with
  | none => if !spdmSupported code ∨ [0x81, 0x82, 0x83].contains code then .answer [0x7F] else .answer [code - 0x80]
  | some chain =>
    if code = 0x81 then .answer [0x01, digest chain]
    else if code = 0x82 then answerWith 0x02 chain
    else .answer [if spdmSupported code then code - 0x80 else 0x7F]

/-- Both certificate chains are held, so that a session can end in attestation (R424). -/
def certsHeld (s : State) : Bool := (storeVal s 2 0).isSome && (storeVal s 2 1).isSome && s.sec.identity

/-- A session's progress changed; ATTESTED is set once a session through a host port has met all conditions (R449). -/
def sessionStep (s : State) (n : Nat) (f : Spdm → Spdm) : State :=
  let l := s.host.sessions.map fun x => if x.id = n then f x else x
  let done := l.any fun x => x.viaHost && x.meas && x.sig
  { s with host := { s.host with sessions := l, attested := s.host.attested || (done && certsHeld s) } }

/-- The number of a new session: the lowest that is free. -/
def freeSession (s : State) : Nat := ((List.range 4).find? fun i => !(s.host.sessions.any (·.id = i))).getD 4

/-- An SPDM request answered. One in a session that is not open is answered with an error. -/
def spdm (s : State) (port : Option Nat) (m : SpdmMsg) : State :=
  let there : Bool := match port with
    | some p => (s.port p).inService
    | none => true
  let isOpen (n : Nat) : Bool := s.host.sessions.any (·.id = n)
  if !there ∨ s.boot.stage < 2 ∨ s.boot.romService then s
  else
    match m with
    | .finish =>
      if 4 ≤ s.host.sessions.length then s.emit (.answer [0x7F])
      else
        let x : Spdm := { id := freeSession s, viaHost := port.isSome, meas := false, sig := false }
        { s with host := { s.host with sessions := s.host.sessions ++ [x] } }.emit (.answer [0x65])
    | .measurementsAll n =>
      if isOpen n then (sessionStep s n fun x => { x with meas := true }).emit (.answer (0x60 :: (List.range 10).map fun i => measurement s (i + 1))) else s.emit (.answer [0x7F])
    | .mlSignature n =>
      if isOpen n then (sessionStep s n fun x => { x with sig := true }).emit (.answer [0x7E]) else s.emit (.answer [0x7F])
    | .mlChain n =>
      match storeVal s 2 1 with
      | some chain => if isOpen n ∧ s.sec.identity then s.emit (answerWith 0x7E chain) else s.emit (.answer [0x7F])
      | none => s.emit (.answer [0x7F])
    | .endSession n =>
      if isOpen n then
        { s with host := { s.host with sessions := s.host.sessions.filter (·.id != n) } }.emit (.answer [0x6C])
      else s.emit (.answer [0x7F])
    | .other c => s.emit (spdmPlain s c)

/-- SPDM_REQUEST (R448): over a host port, or over I3C. -/
def execSpdmRequest (port : Option Nat) (m : SpdmMsg) (s : State) : Host.Outcome State Fault Refusal :=
  run ((port.map okPort).getD true) (spdm s port m)

/-! ## The random source (R450) -/

/-- ENTROPY_FAIL: the source refuses requests until the next warm device reset. -/
def entropyFails (s : State) : State :=
  if s.sec.entropyBad then s
  else
    raiseError { s with sec := { s.sec with entropyBad := true } } { sev := 2, type := Err.ENTROPY_FAIL, die := 0, inst := 0 }

/-- ENTROPY_FAIL. -/
def execEntropyFail (s : State) : Host.Outcome State Fault Refusal := .next (entropyFails s)

/-! ## The levee (R29, R30) -/

/-- GUEST_REQUEST: passed where it lies wholly inside a window that permits it. -/
def guestAccess (s : State) (g : GuestReq) : State :=
  let n := if g.write then g.data.length else g.bytes
  if !guestUp s then s
  else if !guestPasses s g.addr n (if g.write then 2 else 1) then leveeBlock s g.write g.addr
  else if g.write then portWrite s 98 g.addr g.data none true
  else
    let s := settle s (linesOf g.addr n)
    let s := readRange s g.addr n true (some 63)
    s.emit (.readData (devBytes s g.addr n) (devPoison s g.addr n))

/-- GUEST_REQUEST (R29). -/
def execGuestRequest (g : GuestReq) (s : State) : Host.Outcome State Fault Refusal := .next (guestAccess s g)

end Sys2Proof.Machine
end

