-- ==== Sys2Proof/Machine/Boot.lean ====
section
/-!
DEFINITION. Boot stages 1 and 2, cold resets, rail failures and orderly power-down (R26, R166, R422-R436, R444, R461,
R468-R472, R508-R510).
-/

namespace Sys2Proof.Machine

/-! ## Stages (R468, R470, R492) -/

/-- Register of the package inventory page, and of the boot and error page. -/
abbrev pkgReg (off : Nat) : Nat := hub Pg.PKG off
abbrev rstReg (off : Nat) : Nat := hub Pg.RST off

/-- A stage completed: it is shown, with the time it took. -/
def stageDone (s : State) (n : Nat) : State :=
  let ms := (s.cic.count - s.boot.stageAt) / 125000
  { s with boot := { s.boot with stage := n, stageAt := s.cic.count, stageMs := min 65535 ms } }

/-- Boot goes on after stage `n`: it was reached, boot has not stopped, and every rail is up. -/
def atStage (s : State) (n : Nat) : Bool := s.boot.stage == n && !s.boot.stopped && !s.boot.railDown && !s.boot.romService

/-- Boot stops at a stage with a code and the dies concerned (R26, R444, R470). -/
def bootStop (s : State) (stage code dieA dieB : Nat) : State :=
  let s := { s with boot := { s.boot with stage := stage, stopped := true } }
  let s := wr s 0 (pkgReg Reg.PKG_BOOT_REFUSE) (code * 2 ^ 24 + dieA * 2 ^ 16 + dieB * 2 ^ 8 + 1)
  raiseError (s.emit (.i3cReport code)) { sev := 3, type := Err.BOOT_REFUSE, die := 0, inst := 0 }

/-! ## Stage 1: the ROM (R442-R446, R509) -/

/-- Boot stops in ROM service (R444). -/
def romStop (s : State) (code : Nat) : State :=
  let s := { s with boot := { s.boot with romService := true } }
  bootStop s 1 code 0 0

/-- The candidates checked in their order, up to the first that passes; with their results. -/
def romCheck (s : State) : List (List Byte) → State × Option (List Byte) × List Nat
  | [] => (s, none, [])
  | img :: l =>
    let r := imageCheck s img 1
    if r = 0 then (imageNoted s img 1 0, some img, [])
    else
      let (s, ok, rs) := romCheck (imageNoted s img 1 r) l
      (s, ok, r :: rs)

/-- ROM_STAGE: the Dike is armed; a rail not up, a blown RETIRED fuse and no bundle stop boot; else the bundle at index 0,
then that at index 1, is verified, the UDS closed and the firmware started. -/
def romStage (s : State) (bundles : List (List Byte)) (rail : Option Nat) : State :=
  if !atStage s 1 ∨ s.sec.udsClosed then s
  else
    let s := { s with sec := { s.sec with armed := true } }
    match rail with
    | some r => romStop (s.emit (.i3cReport (0x35 + 0x100 * (r + 1)))) 0x35
    | none =>
      if s.sec.fuses.retired then romStop s 0x33
      else if bundles.isEmpty then romStop s 0x32
      else
        match romCheck s (bundles.take 2) with
        | (s, some img, _) =>
          { s with sec := { s.sec with
              identity := true, udsClosed := true, kek := lowestOwner s.sec.fuses, bundle := bundleDigests (imgBody img) } }
        | (s, none, rs) => romStop s (if rs.contains MbxRes.ROLLBACK then 0x31 else 0x30)

/-- ROM_STAGE (R444). -/
def execRomStage (bundles : List (List Byte)) (rail : Option Nat) (s : State) : Host.Outcome State Fault Refusal :=
  .next (romStage s bundles rail)

/-! ## Stage 2: the store's view (R426, R433, R434) -/

/-- FULL of RST_STAGE: a full scan, a full sweep or a full training runs. -/
def fullBoot (s : State) : State := { s with boot := { s.boot with full := true } }

/-- The banks read: those that cannot be are out of service; a VERSION ahead is reported, a block that reads badly is retired
(R431), and blocks left in disorder are queued for erase. -/
def openStore (s : State) (o : StoreObs) : State :=
  let s := { s with pld := { s.pld with
    st := 1, bankA := true, bankB := true
    blind := (if o.lostA then [0] else []) ++ (if o.lostB then [1] else [])
    known := o.known.foldl (fun t p => tset (fun _ => 1) t p.1 (max 1 p.2)) [] } }
  let s := if o.lostA then loseBank s 0 else s
  let s := bankCheck (if o.lostB then loseBank s 1 else s)
  let s := if o.noIndex ∨ (storeVal s 0xF0 0).isNone then fullBoot (setFld s 0 (pldReg Reg.PLD_STATUS) 26 26 1) else s
  let s := o.weak.foldl (fun s k => if 4 ≤ k % 512 ∧ k < 1024 ∧ bankUp s (k / 512) then retireBlk s k else s) s
  let s := if (seenRecs s).any fun r => storeTypes.contains r.type && decide (knownVersion s r.type < r.version)
      && ((currentRecs s r.type r.key).getD []).contains r then sayAhead s else s
  bankCheck (wornCheck (o.broken.foldl (fun s k =>
    if 4 ≤ k % 512 ∧ k < 1024 ∧ (blk s k).st ≠ .retired ∧ bankUp s (k / 512) then beginErase s k else s) s))

/-- The boot number committed, and put on what was raised before (R166). -/
def bootNumber (s : State) : State :=
  let n := (leNat ((storeVal s 0x10 0).getD []) + 1) % 2 ^ 32
  let c : Commit := { prio := 1, type := 0x10, key := 0, version := knownVersion s 0x10, tomb := false, data := leBytes 4 n }
  let n := if s.pld.st = 3 ∨ versionAhead s c then 0xFFFFFFFF else n
  let s := commitNow s c
  { s with
    boot := { s.boot with bootNum := n }
    err := { s.err with held := s.err.held.map fun r => { r with boot := n }, stamped := true }
    pld := { s.pld with held := s.pld.held.map fun e => e.set 4 n } }

/-- What the hub reads of the store for itself: power-on minutes, lifetime energy, error counts (R167, R409, R424). -/
def restoreCounts (s : State) : State :=
  let num (t : Nat) : Nat := leNat ((storeVal s t 0).getD [])
  let sum := (storeVal s 0x40 0).getD []
  let recs := sum.drop 512
  let counts := (List.range 128).foldl (fun t i =>
    tset (fun _ => 0) t i (tget (fun _ => 0) t i + leNat ((sum.drop (4 * i)).take 4))) s.pld.errSummary
  { s with
    cic := { s.cic with minutes := num 0x11 }
    pwr := { s.pwr with life := num 0x12 * 1000 }
    pld := { s.pld with
      errSummary := counts
      fatalRecs :=
        let l := (List.range (recs.length / 64)).map (fun i => (recs.drop (64 * i)).take 64) ++ s.pld.fatalRecs
        l.drop (l.length - 8) } }

/-! ## Stage 2: the Dike (R459, R461) -/

/-- A trip latched in stage 1: quarantine, and at level 2 or 3 the marker, the first commit of the boot. -/
def latchedTrip (s : State) : State :=
  match s.sec.latchedBoot with
  | none => s
  | some d =>
    let level := dikeLevel s d
    let s := quarantine s
    if level < 2 then s
    else
      let e : Erase := { step := 2, level := level, sensor := d, blocks := blobBlocks s }
      commitNow { s with sec := { s.sec with erase := some e, dike := 2 } } (markerCommit e)

/-- The trip's record, once the boot number is committed. -/
def latchedAlarm (s : State) : State :=
  match s.sec.latchedBoot with
  | none => s
  | some d =>
    let s := { s with sec := { s.sec with latchedBoot := none } }
    raiseError s { sev := 3, type := Err.DIKE_ALARM, die := 0, inst := d }

/-- A listed block emptied and erased: its current values but KEY_BLOB are copied out first (R460, step 4). -/
def replayBlock (s : State) (k : Nat) : State :=
  if !bankUp s (k / 512) ∨ (blk s k).dead then s
  else
    let b := blk s k
    let s := if b.st = .opened then setBlk s k { b with st := .full } else s
    let s := (valuesIn s (k / 512) (k % 512)).foldl (fun s p =>
      if p.1 = 3 then s
      else commitNow s { prio := 6, type := p.1, key := p.2, version := 1, tomb := false, data := [], copy := some k }) s
    eraseEnded (beginErase s k) k true

/-- PENDING_ERASE carried out: steps 3 to 6 of R460 repeated; a block that cannot be erased stops boot (R461). -/
def replayErase (s : State) (stuck : List Nat) : State :=
  match storeVal s 0x51 0 with
  | none => { s with sec := { s.sec with erase := none, dike := if s.sec.dike = 2 then 1 else s.sec.dike } }
  | some d =>
    let level := leNat (d.take 4)
    let blocks := (List.range ((d.length - 8) / 2)).map fun i => leNat ((d.drop (8 + 2 * i)).take 2)
    let s := { s with sec := { s.sec with erase := none } }
    let s := (keysOf s 3).foldl (fun s k =>
      commitNow s { prio := 3, type := 3, key := k, version := 1, tomb := true, data := [] }) (zeroiseAll s)
    if blocks.any fun k => stuck.contains k then
      bootStop { s with boot := { s.boot with romService := true } } 2 0x34 0 0
    else
      let s := blocks.foldl replayBlock s
      let s := if level = 3 then { s with sec := { s.sec with fuses := { s.sec.fuses with retired := true } } } else s
      let s := commitNow s { prio := 0, type := 0x51, key := 0, version := 1, tomb := true, data := [] }
      let st := if level = 3 then 3 else if s.sec.dike = 2 then 1 else s.sec.dike
      raiseInt { s with sec := { s.sec with dike := st } } (dkReg 0) 1

/-! ## Stage 2: feature words and dies (R25-R27, R435) -/

/-- Package feature level: the AND of bits 15:0 of every word (R25). -/
def featureLevel (s : State) : Nat := dieCodes.foldl (fun a d => a &&& (s.feature d % 65536)) 0xFFFF

/-- STEPPING of a die. -/
def stepping (s : State) (d : Nat) : Nat := bits (s.feature d) 23 16

/-- Steppings listed for a die's type (R5). -/
def listed (d : Nat) : List Nat :=
  if d = 0 then [0xA1, 0xA2] else if d = 1 then [0xB0] else if d ≤ 5 then [0xA1] else if d ≤ 15 then [0xA1, 0xB0]
  else if d ≤ 19 then [0xA1] else [0xB0]

/-- Cell dies. -/
def cellCodes : List Nat := [8, 9, 10, 11, 12, 13, 14, 15]

/-- The first condition of R26 that holds at stage 2: its code and the dies. -/
def refusal (s : State) : Option (Nat × Nat × Nat) :=
  let lvl := featureLevel s
  let odd := cellCodes.find? fun d => stepping s d != stepping s 8
  let pair := [8, 10, 12, 14].find? fun d => stepping s d != stepping s (d + 1)
  match dieCodes.find? fun d => !(listed d).contains (stepping s d) with
  | some d => some (0x23, d, d)
  | none =>
    match odd, bit lvl 2, pair with
    | some d, false, _ => some (0x21, 8, d)
    | _, _, some d => some (0x22, d, d + 1)
    | _, _, none =>
      if bit lvl 0 then none
      else
        let d := (dieCodes.find? fun d => !bit (s.feature d) 0).getD 0
        some (0x24, d, d)

/-- Interfaces of a die (R17, R18). -/
def ifacesOf (d : Nat) : List Nat :=
  if d = 0 then [14, 15] else if d = 1 then [12, 13]
  else if d = 2 then [0, 3, 4, 5, 12, 16] else if d = 3 then [0, 1, 6, 7, 13, 17]
  else if d = 4 then [2, 3, 8, 9, 14, 18] else if d = 5 then [1, 2, 10, 11, 15, 19]
  else if 8 ≤ d ∧ d ≤ 15 then [d - 4] else if 16 ≤ d ∧ d ≤ 19 then [d] else []

/-- Records that belong to a die (R435): types and keys. -/
def recordsOf (d : Nat) : List (Nat × Nat) :=
  let chans (k : Nat) : List Nat := (List.range 32).map (32 * k + ·)
  [(0x30, d), (0x31, d), (0x32, d)] ++ ((ifacesOf d).map fun i => (0x20, i))
    ++ (if 2 ≤ d ∧ d ≤ 5 then (0x23, d - 2) :: ((chans (2 * (d - 2)) ++ chans (2 * (d - 2) + 1)).map fun c => (0x21, c)) else [])
    ++ (if 24 ≤ d then (chans (d - 24)).flatMap fun c => [(0x21, c), (0x22, c)] else [])
    ++ (if 16 ≤ d ∧ d ≤ 19 then (List.range 24).map fun i => (0x24, 24 * (d - 16) + i) else [])

/-- A value taken out of the store at once, where it has one. -/
def tombNow (s : State) (type key : Nat) : State :=
  if (currentVal s type key).isNone then s
  else commitNow s { prio := 5, type := type, key := key, version := 1, tomb := true, data := [] }

/-- Dies compared with STEP_INVENTORY: what belonged to a die that was replaced is tombstoned, and the inventory committed
anew (R435). Without FACTORY_ID no die is treated as replaced (R424). -/
def compareDies (s : State) : State :=
  let now := inventoryData s
  match storeVal s 0x41 0 with
  | none => commitNow s { prio := 5, type := 0x41, key := 0, version := 1, tomb := false, data := now }
  | some old =>
    if old = now then s
    else
      let gone := if (storeVal s 1 0).isNone then [] else (dieCodes.zipIdx.filter fun p => (old.drop (12 * p.2 + 4)).take 8 != leBytes 8 (dieId s p.1)).map (·.1)
      let s := gone.foldl (fun s d => (recordsOf d).foldl (fun s p => tombNow s p.1 p.2) s) s
      commitNow s { prio := 5, type := 0x41, key := 0, version := 1, tomb := false, data := now }

/-! ## Stage 2: the rest (R422, R425, R434, R388, R508) -/

/-- Values below the firmware's VERSION are committed at it (R434); a converted payload is the payload as it was
(notes/assumptions/22.md). -/
def migrate (s : State) (known : List (Nat × Nat)) : State :=
  known.foldl (fun s p =>
    (keysOf s p.1).foldl (fun s k =>
      let f := (currentVal s p.1 k).getD []
      if f.all fun r => decide (p.2 ≤ r.version) then s
      else commitNow s { prio := 5, type := p.1, key := k, version := p.2, tomb := false, data := f.flatMap (·.data) }) s) s

/-- The hold-up time measured (R422). -/
def measureHoldup (s : State) (us : Nat) : State :=
  let s := setFld s 0 (pldReg Reg.PLD_HOLDUP) 15 0 (min us 65535)
  if us < 3000 then raiseError s { sev := 0, type := Err.HOLDUP_WEAK, die := 0, inst := 0 } else s

/-- ACTION records scheduled for the stages they concern (R425). -/
def readActions (s : State) : State :=
  let train := leNat ((storeVal s 0x60 1).getD [])
  { s with boot := { s.boot with
      actSweep := leNat ((storeVal s 0x60 0).getD [])
      actTrain := (List.range 256).filter fun c => bit train c } }

/-- The current records that one bank alone holds are queued to be copied into the other with their SEQ, while both are in service
(R426, step 5). -/
def mendBanks (s : State) : State :=
  if s.pld.bankA ∧ s.pld.bankB then
    s.pld.records.foldl (fun s r =>
      if (lonely s r.seq).isSome && ((currentRecs s r.type r.key).getD []).contains r then
        queueCommit s
          { prio := 5, type := r.type, key := r.key, version := r.version, tomb := r.tomb, data := [], mend := some r.seq }
      else s) s
  else s

/-- A rail failure latched before this boot is reported (R508). -/
def reportRail (s : State) : State :=
  match s.boot.latchedRail with
  | some r => raiseError s { sev := 3, type := Err.RAIL_FAIL, die := 0, inst := r, detail := [r] }
  | none => s

/-- A device that powers up paired takes its role: as primary it is yielded, as secondary in the state that FORM gives one;
it has no bitmap (R377, R388; notes/assumptions/28.md). -/
def restoreMirror (s : State) : State :=
  match storeVal s 0x42 0 with
  | none => s
  | some d =>
    let word (i : Nat) : Nat := leNat ((d.drop (4 * i)).take 4)
    let primary : Bool := word 1 != 0
    let s := wr s 0 (hub Pg.MIR Reg.MIR_PARTNER) (2 ^ 31 + word 0 % 2 ^ 20)
    { s with mir := { s.mir with st := if primary then 5 else 2, primary := primary, epoch := word 2, hasMap := false } }

/-- The mailbox command that waited for the store, its work begun (R436). -/
def mbxResume (s : State) : State :=
  match s.pld.busy with
  | none => s
  | some b =>
    let src : Source := if b.src = 0 then .host 0 else if b.src = 1 then .hart 0 else .i3c
    match b.op with
    | 1 => mbxRead s | 2 => mbxList s | 3 => mbxLogRead s | 4 => mbxSweep s | 5 => mbxTrain s | 6 => mbxWays s
    | 7 => mbxCancel s | 8 => mbxNote s | 9 => mbxSync s | 0x10 => mbxStage s | 0x11 => mbxPolicy s
    | 0x12 => mbxKeyMap src s | 0x13 => mbxKeyWrap src s | 0x14 => mbxKeyLoad src s | 0x15 => mbxChallenge s
    | 0x16 => mbxUnlock s | 0x17 => mbxEnrol s | 0x18 => mbxRevoke s | 0x19 => mbxCert s | 0x1A => mbxSvn s
    | 0x1B => mbxFloor s | 0x1C => mbxDikeTest s | _ => mbxEnd s MbxRes.BAD_OP

/-- What stage 2 does once no refusal stands. -/
def hubServices (s : State) (o : StoreObs) : State :=
  let s := readActions (migrate (compareDies s) o.known)
  let s := restoreMirror (reportRail (measureHoldup (mendBanks s) o.holdup))
  mbxResume (stageDone s 2)

/-- HUB_FIRMWARE_STAGE (R468): the store read, a latched trip handed over, the boot number committed, a pending erase
carried out, the package feature level set or boot refused, dies compared, the hold-up measured. -/
def hubStage (s : State) (o : StoreObs) : State :=
  if !atStage s 1 ∨ !s.sec.udsClosed then s
  else
    let s := bootNumber (latchedTrip (openStore s o))
    let s := replayErase (latchedAlarm (restoreCounts s)) o.stuck
    let s := if s.pld.heldNow then flushSecLog s 4 66 else flushSecLog s 6 (s.pld.held.length / 63)
    if s.boot.stopped then s
    else
      let lvl := featureLevel s
      let s := setFld { s with boot := { s.boot with level := lvl } } 0 (pkgReg Reg.PKG_FEATURE) 15 0 lvl
      match refusal s with
      | some (code, a, b) => bootStop s 2 code a b
      | none => hubServices s o

/-- HUB_FIRMWARE_STAGE. -/
def execHubFirmwareStage (o : StoreObs) (s : State) : Host.Outcome State Fault Refusal := .next (hubStage s o)

/-! ## Cold reset (R471, R472) -/

/-- The record that is being committed, completed (R422, R472). -/
def finishRecord (s : State) : State :=
  match s.pld.running with
  | some r => placeRec s r.c r.frag r.seq
  | none => s

/-- What the store keeps where the rest of the package does not: records, blocks, the last SEQ and its erases. -/
def keptStore (p : PldSys) : PldSys :=
  { PldSys.factory with records := p.records, blocks := p.blocks, seq := p.seq, eraseTimes := p.eraseTimes }

/-- The package after a cold reset: the store and the fuses are kept (R471). The model's own queue, record of outputs and
numbers of free values and keys go on. -/
def coldState (s : State) (rail : Option Nat) : State :=
  let t := State.afterCold s.sec.fuses (keptStore (finishRecord s).pld) rail
  { t with pending := s.pending, out := s.out, free := s.free, sec := { t.sec with nextKey := s.sec.nextKey } }

/-- A cold reset with its cause: 2 the package reset input, 3 RST_CMD (R492). -/
def coldReset (s : State) (cause : Nat) : State :=
  setFld (coldState s (if s.boot.railDown then s.boot.latchedRail else none)) 0 (rstReg Reg.RST_CAUSE) 31 28 cause

/-- PKG_RST_N (R471, R513). -/
def execPkgRstN (s : State) : Host.Outcome State Fault Refusal := .next (coldReset s 2)

/-! ## Rail failure (R422, R508) -/

/-- Microseconds that the rest of a running value takes at the most, from now: two copies of (43 × pages + 10) for each fragment,
less what the record under way has had (R420). -/
def restUs (s : State) (r : Running) : Nat :=
  let us (k : Nat) : Nat := 2 * (43 * recPages (if r.c.tomb then 0 else (fragData r.c.data k).length) + 10)
  (((List.range r.c.frags).drop (r.frag + 1)).map us).foldl (· + ·) (us r.frag - (s.cic.count - r.since) / 125)

/-- The running value when a rail fails: on hold-up the whole of it where it ends within 1.5 ms, else the record under way (R422).
Without hold-up a record cut short in bank A is torn there, and one cut short in bank B is in bank A alone (R423). -/
def finishOnHoldup (s : State) (o : HoldObs) : State :=
  match s.pld.running, o with
  | none, _ => s
  | some r, .held => if 1500 < restUs s r then finishRecord s else placeAll r.c (r.c.frags - r.frag) r.frag r.seq s
  | some r, .cut bank =>
    let x := r.c.record s r.frag r.seq
    let s := if bank = 0 then s else writeCopy s 0 x
    if bankUp s bank ∧ !heldIn s bank x then (takePages s bank (recPages x.data.length)).1 else s

/-- RAIL_FAILURE (R508): every die but the hub is held in reset, the commit finishes, and the hub waits for a cold reset; the
rail is latched where the hub's and the store's rails stay up. -/
def railFailure (s : State) (rail : Nat) (hubUp : Bool) (o : HoldObs) : State :=
  if s.boot.railDown then s
  else
    let p := keptStore (finishOnHoldup s o).pld
    let t := State.afterCold s.sec.fuses p none
    { t with
      pending := s.pending, out := s.out, free := s.free
      regs := s.regs.filter fun q => decide (q.1 % 2 ^ 27 < 0x200000)
      cic := s.cic, err := s.err, pwr := s.pwr
      sec := { t.sec with nextKey := s.sec.nextKey, armed := s.sec.armed }
      boot := { s.boot with railDown := true, latchedRail := if hubUp then some rail else none } }

/-- RAIL_FAILURE. -/
def execRailFailure (rail : Nat) (o : RailObs) (s : State) : Host.Outcome State Fault Refusal :=
  run (okHoldObs o.hold) (railFailure s rail o.hubUp o.hold)

/-! ## Orderly power-down (R273, R412, R510) -/

/-- Step 1: with every store buffer drained, lines in M are written back, stacks put in self-refresh, minutes, energy and logs
committed (R273). -/
def powerDown (s : State) : State :=
  let s := endDrain s (List.range 96)
  let s := (List.range 256).foldl (fun s c => s.setChan c { s.chan c with asleep := (s.chan c).trained }) s
  flushWithin (commitMinutes { s with pwr := { s.pwr with pdReq := true }, boot := { s.boot with drainUntil := none } })

/-- The power manager drains every store buffer, and waits for those that do not drain yet (R273). -/
def powerDrain (s : State) : State :=
  let s := (List.range 96).foldl drainHart s
  if buffersLeft s (List.range 96) then { s with pwr := { s.pwr with pdReq := true }, boot := { s.boot with drainUntil := some 0 } }
  else powerDown s

/-- PD_REQ_N: the input is a level, so the row may come again: PD_DONE is asserted once everything is committed and no key
erase runs; a warm device reset completes first (R510, R516). -/
def pdRequest (s : State) : State :=
  if s.boot.warmBusy ∨ s.boot.railDown then s
  else
    let s := if s.pwr.pdReq ∧ s.boot.drainUntil.isNone then s else powerDrain s
    if s.boot.drainUntil.isNone ∧ drained s ∧ s.sec.erase.isNone then { s with pwr := { s.pwr with pdDone := true } } else s

/-- PD_REQ_N (R510). -/
def execPdReqN (s : State) : Host.Outcome State Fault Refusal := .next (pdRequest s)

end Sys2Proof.Machine
end

