-- ==== Sys2Proof/Machine/MatchUnit.lean ====
section
/-!
DEFINITION. The requests of the match unit as functions of their payloads and operands (06_routing_and_match.md): match
lists and list sets, TOPK, MERGE, INTERSECT and DISPATCH.
-/

namespace Sys2Proof.Machine

/-- The fault codes of R64. -/
abbrev FaultCode.illegalOp : Nat := 0x01
abbrev FaultCode.badBinding : Nat := 0x02
abbrev FaultCode.tokenOverflow : Nat := 0x03
abbrev FaultCode.sramUncorrected : Nat := 0x04
abbrev FaultCode.phaseMismatch : Nat := 0x05
abbrev FaultCode.phaseUndefined : Nat := 0x06
abbrev FaultCode.engineFault : Nat := 0x07

/-- What a request wrote and what the unit's counters add: output port, byte offset and bytes; cycles (R142) and the
DISPATCH sums (R155). -/
structure MatchResult where
  outs : List (Nat × Nat × List Byte)
  cycles : Nat
  nan : Nat
  placed : Nat
  alternate : Nat
  deferred : Nat
  dropped : Nat
  lost : Nat
  deriving DecidableEq, Repr

/-- A fault code, or a result. -/
abbrev MatchAnswer := Except Nat MatchResult

/-- Whether a piece of an input port is poisoned: port, byte offset in its run, length. -/
abbrev Bad := Nat → Nat → Nat → Bool

/-- A scored key: score, key. -/
structure Scored where
  score : Num
  key : Nat
  deriving DecidableEq, Repr

/-- `a` ranks before `b` (R146): the earlier of two that tie comes first by the stability of the sort. -/
def ranksBefore (smallest : Bool) (a b : Scored) : Bool :=
  let c := a.score.cmp b.score
  if smallest then decide (c < 0) || (decide (c = 0) && decide (a.key < b.key))
  else decide (0 < c) || (decide (c = 0) && decide (a.key < b.key))

/-- Stable insertion: before the first element that `x` comes before. -/
def insertBy {α : Type} (lt : α → α → Bool) (x : α) : List α → List α
  | [] => [x]
  | y :: ys => if lt x y then x :: y :: ys else y :: insertBy lt x ys

/-- Stable insertion sort. -/
def sortBy {α : Type} (lt : α → α → Bool) (l : List α) : List α := l.foldl (fun acc x => insertBy lt x acc) []

/-- The ranked non-NaN elements. -/
def ranked (smallest : Bool) (l : List Scored) : List Scored :=
  sortBy (ranksBefore smallest) (l.filter fun x => !x.score.isNan)

/-- NaN scores in a list. -/
def nanCount (l : List Scored) : Nat := (l.filter fun x => x.score.isNan).length

/-- An FP32 value's four bytes. -/
def fp32Bytes (x : Num) : List Byte := leBytes 4 (convertTo 10 false x).code

/-- A match list's bytes (R144). -/
def matchListBytes (order examined nan : Nat) (l : List Scored) : List Byte :=
  leBytes 4 l.length ++ leBytes 4 order ++ leBytes 4 examined ++ leBytes 4 nan ++ List.replicate 48 0
    ++ l.flatMap fun x => fp32Bytes x.score ++ leBytes 4 x.key

/-- The match list at byte `st` of a run (R144). -/
def readMatchList (sram : List Host.Cell) (r : Run) (st : Nat) : List Scored :=
  (List.range (r.le sram st 4)).map fun j =>
    ⟨decodeFloat fmtFP32 false (r.le sram (st + 64 + 8 * j) 4), r.le sram (st + 68 + 8 * j) 4⟩

/-- Bytes of a match list of `n` entries. -/
def matchListSize (n : Nat) : Nat := 64 + 8 * n

/-- The starts and counts of `n` lists from byte `st`: each later list starts at the 256-byte unit after the end of the
one before (R145). -/
def listStarts (sram : List Host.Cell) (r : Run) : Nat → Nat → List (Nat × Nat)
  | _, 0 => []
  | st, n + 1 =>
    let c := r.le sram st 4
    (st, c) :: listStarts sram r (up256 (st + matchListSize c)) n

/-- The entries of some list are poisoned. -/
def listsBad (bad : Bad) (ls : List (Nat × Nat)) : Bool := ls.any fun p => bad 0 (p.1 + 64) (8 * p.2)

/-- A list set (R145): its lists with their weights, or the fault that it gives; a poisoned word is one (R141) before anything that
is worked out from it. -/
def readListSet (sram : List Host.Cell) (r : Run) (bad : Bad) (weighted : Bool) : Except Nat (List (Num × List Scored)) :=
  let n := r.le sram 0 4
  if bad 0 0 4 then .error FaultCode.sramUncorrected
  else if n = 0 ∨ 64 < n then .error FaultCode.engineFault
  else if r.len < 512 then .error FaultCode.badBinding
  else
    let ls := listStarts sram r 512 n
    if ls.any fun p => bad 0 p.1 4 then .error FaultCode.sramUncorrected
    else if 65536 < (ls.map Prod.snd).foldl (· + ·) 0 then .error FaultCode.engineFault
    else if ls.any fun p => decide (r.len < p.1 + matchListSize p.2) then .error FaultCode.badBinding
    else if listsBad bad ls || (weighted && bad 0 256 (4 * n)) then .error FaultCode.sramUncorrected
    else .ok (ls.zipIdx.map fun (p, i) =>
      (decodeFloat fmtFP32 false (r.le sram (256 + 4 * i) 4), readMatchList sram r p.1))

/-! ## TOPK -/

/-- TOPK (R147, R148): bindings IN0, IN1, OUT0, OUT1 with their VALID bits. -/
def runTopk (raw : Nat) (sram : List Host.Cell) (bad : Bad) (r0 r1 ro : Run) (v0 v1 vo0 vo1 : Bool) : MatchAnswer :=
  let kind := dfield raw 0x28 31 30
  let fmt := dfield raw 0x28 29 26
  let order := dfield raw 0x28 25 25
  let smallest := bit raw (8 * 0x28 + 24)
  let k := dfield raw 0x28 8 0
  let n := dfield raw 0x2C 16 0
  let base := dfield raw 0x30 31 0
  if dfield raw 0x28 23 9 ≠ 0 ∨ dfield raw 0x2C 31 17 ≠ 0 ∨ dfield raw 0x34 95 0 ≠ 0 ∨ k = 0 ∨ 256 < k
      ∨ (kind < 2 ∧ (¬[8, 9, 10].contains fmt ∨ n = 0 ∨ 65536 < n)) ∨ (2 ≤ kind ∧ fmt ≠ 10) then
    .error FaultCode.illegalOp
  else if !v0 || v1 != (kind == 1) || !vo0 || vo1 || decide (ro.len < matchListSize k) then
    .error FaultCode.badBinding
  else
    let answer (l : List Scored) (lists : Nat) : MatchAnswer :=
      let top := (ranked smallest l).take k
      let out := if order = 1 then sortBy (fun a b => decide (a.key < b.key)) top else top
      .ok ⟨[(0, 0, matchListBytes order l.length (nanCount l) out)],
        32 + lists + ceilDiv l.length 64 + ceilDiv k 8, nanCount l, 0, 0, 0, 0, 0⟩
    if kind = 3 then
      match readListSet sram r0 bad false with
      | .error e => .error e
      | .ok ls => answer (ls.flatMap Prod.snd) ls.length
    else if kind = 2 then
      let c := r0.le sram 0 4
      if bad 0 0 4 then .error FaultCode.sramUncorrected
      else if 65536 < c then .error FaultCode.engineFault
      else if r0.len < matchListSize c then .error FaultCode.badBinding
      else if bad 0 64 (8 * c) then .error FaultCode.sramUncorrected
      else answer (readMatchList sram r0 0) 0
    else if r0.len < elemBytes fmt n ∨ (kind = 1 ∧ r1.len < 4 * n) then .error FaultCode.badBinding
    else if bad 0 0 (elemBytes fmt n) || (kind == 1 && bad 1 0 (4 * n)) then .error FaultCode.sramUncorrected
    else
      answer ((List.range n).map fun i =>
        ⟨decodeElem fmt (elemCode sram r0 0 fmt i),
         if kind = 1 then r1.le sram (4 * i) 4 else (base + i) % 2 ^ 32⟩) 0

/-! ## MERGE and INTERSECT -/

/-- Every key of a list is above its predecessor (R150). -/
def keysAscend (l : List Scored) : Bool := ascending (l.map Scored.key)

/-- The larger or smaller contribution under R146; equal values keep the first. -/
def extreme (smallest : Bool) (a b : Num) : Num :=
  if a.isNan || b.isNan then .nan else if (if smallest then b.lt a else a.lt b) then b else a

/-- Contributions of one key combined in ascending list order (R150). -/
def combine (how : Nat) : List Num → Num
  | [] => Num.zero
  | x :: xs =>
    if how = 3 then x
    else if how = 0 then xs.foldl (fun a y => round32 (a.add y)) x
    else xs.foldl (fun a y => extreme (how == 2) a y) x

/-- MERGE, or INTERSECT when `all` (R149, R150). -/
def runMerge (all : Bool) (raw : Nat) (sram : List Host.Cell) (bad : Bad) (r0 ro : Run) (v0 vo0 vo1 : Bool) : MatchAnswer :=
  let how := dfield raw 0x28 31 30
  if dfield raw 0x28 29 0 ≠ 0 ∨ dfield raw 0x2C 159 0 ≠ 0 then .error FaultCode.illegalOp
  else if !v0 || !vo0 || vo1 then .error FaultCode.badBinding
  else
    match readListSet sram r0 bad true with
    | .error e => .error e
    | .ok ls =>
      let total := (ls.map fun p => p.2.length).foldl (· + ·) 0
      if all && decide (ls.length < 2) then .error FaultCode.illegalOp
      else if ro.len < matchListSize total then .error FaultCode.badBinding
      else if ls.any fun p => !keysAscend p.2 then .error FaultCode.engineFault
      else
        let parts := ls.flatMap fun p => p.2.map fun x => (⟨round32 (p.1.mul x.score), x.key⟩ : Scored)
        let keys := sortBy (fun a b => decide (a < b)) (parts.map Scored.key).eraseDups
        let out := keys.filterMap fun k =>
          let mine := parts.filter fun x => x.key == k
          if all && mine.length != ls.length then none else some ⟨combine how (mine.map Scored.score), k⟩
        let nans := nanCount (ls.flatMap Prod.snd)
        .ok ⟨[(0, 0, matchListBytes 1 total nans out)], 32 + ls.length + ceilDiv total 64, nans, 0, 0, 0, 0, 0⟩

/-! ## DISPATCH -/

/-- An entry of an overflow list (R154). -/
structure OverEnt where
  token : Nat
  expert : Nat
  age : Nat
  dropped : Bool
  gate : Nat
  deriving DecidableEq, Repr

/-- A placement: token with its carried bit, and gate bits. -/
structure PlacedTok where
  expert : Nat
  token : Nat
  gate : Nat
  deriving DecidableEq, Repr

/-- The state of the dispatch procedure of R152. -/
structure DispAcc where
  placed : List PlacedTok
  ovr : List OverEnt
  alternate : Nat
  carried : Nat
  steps : Nat
  deriving DecidableEq, Repr

structure DispOp where
  fmt : Nat
  choices : Nat
  alt : Nat
  maxAge : Nat
  experts : Nat
  tokens : Nat
  cap : Nat
  tokenBase : Nat
  deriving DecidableEq, Repr

def DispOp.ofRaw (raw : Nat) : DispOp where
  fmt := dfield raw 0x28 31 28
  choices := dfield raw 0x28 27 24
  alt := dfield raw 0x28 23 20
  maxAge := dfield raw 0x28 19 16
  experts := dfield raw 0x2C 31 16
  tokens := dfield raw 0x2C 15 0
  cap := dfield raw 0x30 15 0
  tokenBase := dfield raw 0x34 30 0

/-- Tokens placed in an expert so far. -/
def DispAcc.count (a : DispAcc) (e : Nat) : Nat := (a.placed.filter fun p => p.expert == e).length

/-- The carry-in pass of R152. -/
def carryStep (p : DispOp) (policy : Nat) (a : DispAcc) (c : OverEnt) : DispAcc :=
  if c.dropped then a
  else if a.count c.expert < p.cap then
    { a with placed := a.placed ++ [⟨c.expert, c.token % 2 ^ 31 + 2 ^ 31, c.gate⟩], carried := a.carried + 1
             steps := a.steps + 1 }
  else if policy = 2 ∧ c.age < p.maxAge then
    { a with ovr := a.ovr ++ [⟨c.token, c.expert, c.age + 1, false, c.gate⟩], steps := a.steps + 1 }
  else { a with ovr := a.ovr ++ [⟨c.token, c.expert, c.age, true, c.gate⟩], steps := a.steps + 1 }

/-- One (token, choice) step of R152; `rank` holds the token's experts in rank order with their scores. -/
def choiceStep (p : DispOp) (policy : Nat) (rank : List Scored) (tok r : Nat) (a : DispAcc) : DispAcc :=
  match rank[r]? with
  | none => a
  | some e =>
    let a := { a with steps := a.steps + 1 }
    let gate (x : Scored) : Nat := (convertTo 10 false x.score).code
    if a.count e.key < p.cap then { a with placed := a.placed ++ [⟨e.key, tok, gate e⟩] }
    else
      let alts := if policy = 1 then (rank.drop p.choices).take p.alt else []
      let free := alts.find? fun x => decide (a.count x.key < p.cap)
        && !(a.placed.any fun q => q.expert == x.key && q.token % 2 ^ 31 == tok)
      match free with
      | some x => { a with placed := a.placed ++ [⟨x.key, tok, gate x⟩], alternate := a.alternate + 1 }
      | none =>
        if policy = 2 then { a with ovr := a.ovr ++ [⟨tok, e.key, 1, false, gate e⟩] }
        else { a with ovr := a.ovr ++ [⟨tok, e.key, 0, true, gate e⟩] }

/-- DISPATCH (R151-R154) under a context's overflow policy (R156). -/
def runDispatch (raw policy : Nat) (sram : List Host.Cell) (bad : Bad) (r0 r1 ro0 ro1 : Run) (v0 v1 vo0 vo1 : Bool) : MatchAnswer :=
  let p := DispOp.ofRaw raw
  let table := up256 (64 + 8 * p.experts)
  let unit := up256 (8 * p.cap)
  if dfield raw 0x28 15 0 ≠ 0 ∨ dfield raw 0x30 31 16 ≠ 0 ∨ dfield raw 0x34 31 31 ≠ 0 ∨ dfield raw 0x38 63 0 ≠ 0
      ∨ ¬[8, 9, 10].contains p.fmt ∨ p.choices = 0 ∨ 8 < p.choices ∨ 8 < p.alt ∨ p.experts < 2 ∨ 256 < p.experts
      ∨ p.tokens = 0 ∨ 4096 < p.tokens ∨ p.cap = 0 ∨ 4096 < p.cap ∨ p.experts < p.choices
      ∨ 65536 < p.tokens * p.experts ∨ 12288 < p.tokens * (p.choices + p.alt) ∨ policy = 3
      ∨ (policy = 2 ∧ p.maxAge = 0) then .error FaultCode.illegalOp
  else if !v0 || !vo0 || (policy == 2 && !vo1) || decide (ro0.len < table + p.experts * unit)
      || decide (r0.len < elemBytes p.fmt (p.tokens * p.experts)) then .error FaultCode.badBinding
  else
    let nCarry := if v1 then r1.le sram 0 4 else 0
    let carry : List OverEnt := (List.range nCarry).map fun j =>
      let o := 64 + 16 * j
      ⟨r1.le sram o 4 % 2 ^ 31, r1.le sram (o + 4) 2, r1.le sram (o + 6) 1, r1.le sram (o + 7) 1 == 1,
       r1.le sram (o + 8) 4⟩
    if v1 && bad 1 0 4 then .error FaultCode.sramUncorrected
    else if 4096 < nCarry then .error FaultCode.engineFault
    else if v1 && decide (r1.len < 64 + 16 * nCarry) then .error FaultCode.badBinding
    else if bad 0 0 (elemBytes p.fmt (p.tokens * p.experts)) || (v1 && bad 1 64 (16 * nCarry)) then
      .error FaultCode.sramUncorrected
    else if carry.any fun c => decide (p.experts ≤ c.expert) then .error FaultCode.engineFault
    else
      let row (t : Nat) : List Scored := (List.range p.experts).map fun e =>
        ⟨decodeElem p.fmt (elemCode sram r0 0 p.fmt (t * p.experts + e)), e⟩
      let ranks := (List.range p.tokens).map fun t => ranked false (row t)
      let a0 := carry.foldl (carryStep p policy) ⟨[], [], 0, 0, 0⟩
      let a := (List.range p.choices).foldl (fun a r =>
        ranks.zipIdx.foldl (fun a (rank, t) => choiceStep p policy rank ((p.tokenBase + t) % 2 ^ 31) r a) a) a0
      let room := if vo1 then (ro1.len - 64) / 16 else a.ovr.length
      let lost := (a.ovr.drop room)
      let deferred := ((a.ovr.take room).filter fun o => !o.dropped).length
      let droppedN := (a.ovr.filter fun o => o.dropped).length + (lost.filter fun o => !o.dropped).length
      let nanRows := ((List.range p.tokens).filter fun t => decide (0 < nanCount (row t))).length
      let nanAll := (List.range p.tokens).foldl (fun n t => n + nanCount (row t)) 0
      let header := leBytes 4 a.placed.length ++ leBytes 4 a.alternate ++ leBytes 4 a.carried ++ leBytes 4 deferred
        ++ leBytes 4 droppedN ++ leBytes 4 lost.length ++ leBytes 4 nanRows ++ List.replicate 36 0
        ++ (List.range p.experts).flatMap fun e =>
            leBytes 4 (a.count e) ++ leBytes 4 (a.ovr.filter fun o => o.expert == e).length
      let lists := (List.range p.experts).map fun e =>
        let mine := a.placed.filter fun q => q.expert == e
        (0, table + e * unit, (mine.flatMap fun q => leBytes 4 q.token ++ leBytes 4 q.gate)
          ++ (List.replicate (p.cap - mine.length) (leBytes 4 0xFFFFFFFF ++ leBytes 4 0)).flatten)
      let ovr := a.ovr.take room
      let overOut := if vo1 then
          [(1, 0, leBytes 4 ovr.length ++ List.replicate 60 0 ++ ovr.flatMap fun o =>
            leBytes 4 o.token ++ leBytes 2 o.expert ++ leBytes 1 o.age ++ leBytes 1 (b2n o.dropped)
              ++ leBytes 4 o.gate ++ List.replicate 4 0)]
        else []
      .ok ⟨(0, 0, header) :: lists ++ overOut,
        32 + ceilDiv (p.tokens * p.experts) 64 + ceilDiv a.steps 32, nanAll, a.placed.length, a.alternate, deferred,
        droppedN, lost.length⟩

end Sys2Proof.Machine
end

