-- ==== Sys2Proof/Machine/Commands.lean ====
section
/-!
DEFINITION. The commands of a queue that concern cells, phase tables, waits, invalidations and code-book tables (R47-R50,
R65, R68-R70, R85, R294, R517). A command's row issues the queue's next command where it is of that opcode and may issue,
and carries out whatever of it can be carried out now; sent again, it carries on (notes/assumptions/16.md).
-/

namespace Sys2Proof.Machine

/-! ## Issue (R48, R161, R164) -/

/-- A command changed. -/
def mapCmd (s : State) (ctx index : Nat) (f : Cmd → Cmd) : State :=
  let c := s.ctx ctx
  s.setCtx ctx { c with cmds := c.cmds.map fun x => if x.index = index then f x else x }

/-- The queue's next command issues where it has opcode `op` and nothing holds it: the context is not paused, no command
stalls, the stamp is reached, a BARRIER finds no earlier command that is not complete. -/
def issueNext (s : State) (ctx op : Nat) : State :=
  let c := s.ctx ctx
  match nextUnissued c with
  | none => s
  | some cmd =>
    if cmd.opcode ≠ op ∨ !queueRuns s ctx ∨ cmd.commonCode ≠ 0 then s
    else
      let u := Rep.cmd ctx
      let s := if cmd.stamped ∧ !cmd.tested then lateStamp s u cmd.stamp else s
      let s := mapCmd s ctx cmd.index fun x => { x with tested := true }
      if cmd.stamped ∧ replica s u < cmd.stamp then s
      else if cmd.barrier ∧ c.cmds.any (fun x => ringBefore x.index cmd.index) then s
      else
        mapCmd s ctx cmd.index fun x => { x with stage := .issued, base := if cmd.stamped then cmd.stamp else replica s u }

/-- A command row (notes/assumptions/16.md): a bad command whose turn has come fails; the next command issues if it can, and the
first issued command of the opcode that can go on goes on. -/
def runCmd (s : State) (ctx op : Nat) (f : State → Cmd → Option State) : State :=
  let s := issueNext (failHead (retryCount s ctx) ctx) ctx op
  (((s.ctx ctx).cmds.filter fun x => x.stage = .issued && x.opcode = op).findSome? (f s)).getD s

/-- A command row's outcome. -/
def cmdRow (ctx op : Nat) (f : State → Cmd → Option State) (s : State) : Host.Outcome State Fault Refusal :=
  run (okCtx ctx) (runCmd s ctx op f)

/-- A command fails (R50). -/
def failCmd (s : State) (ctx : Nat) (cmd : Cmd) (code : Nat) : Option State := some (haltQueue s ctx cmd.index code)

/-- A command is carried out. -/
def doneCmd (s : State) (ctx : Nat) (cmd : Cmd) : Option State := some (setStage s ctx cmd.index .performed)

/-- Words of the payload that must be zero (R517): byte offsets of u32 words. -/
def Cmd.zeros (c : Cmd) (offs : List Nat) : Bool := offs.all fun o => c.f o 31 0 = 0

/-- NOP (R47): completes when it is issued. -/
def nopCmd (ctx : Nat) (s : State) (cmd : Cmd) : Option State :=
  if !cmd.zeros [0x20, 0x24, 0x28, 0x2C, 0x30, 0x34, 0x38, 0x3C] then failCmd s ctx cmd CmdErr.BAD_FIELD
  else doneCmd s ctx cmd

/-- NOP (R47). -/
def execNop (ctx : Nat) (s : State) : Host.Outcome State Fault Refusal := cmdRow ctx 0x00 (nopCmd ctx) s

/-! ## Cells named by a command (R41, R49, R68) -/

/-- The logical cells that a command names lie within the context's (R50). -/
def cellRangeOk (s : State) (ctx : Nat) (cmd : Cmd) : Bool :=
  decide (cmdFirst cmd.raw + cmdCount cmd.raw ≤ (logicalCells (s.ctx ctx)).length)

/-- How a named cell stands to a command of a context. -/
inductive CellAt where
  | ready
  /-- Borrowed away, being returned or about to be (R72), being spilled for this context (R49), or on a die whose clock has
  stopped (R36) or whose replicas are not loaded (R158). -/
  | waits
  /-- In the borrow set and not held: a command that needs the cell takes it (R68). -/
  | takes
  deriving DecidableEq, Repr

/-- How cell `p` stands to a context (R36, R49, R68, R72, R73). -/
def cellAt (s : State) (ctx p : Nat) : CellAt :=
  let x := s.cell p
  if cellClockStopped s p ∨ !dieLoaded s (8 + cellDie p) then .waits
  else if bit (s.ctx ctx).desc.cellSet p then
    if x.move = .steady ∧ (x.runner = some ctx ∨ x.runner = none) ∧ (x.saved.map Prod.fst) ≠ some ctx then .ready else .waits
  else if x.runner = some ctx then (if x.returnNow then .waits else .ready)
  else if x.move = .spilling ctx then .waits
  else .takes

/-- A program of the context runs in the cell (R49). -/
def runningIn (s : State) (ctx p : Nat) : Bool :=
  let x := s.cell p
  x.runner = some ctx && x.img.started && !x.img.halted

/-- Preemption begins (R68, R70 steps 1 and 2; R73: a restore is abandoned): the sequencer stops arming. A cell with
nothing started is taken with no spill and comes cleared. A preemption during a thermal emergency is counted (R412). -/
def takeCell (s : State) (ctx p : Nat) : State :=
  let x := s.cell p
  let busy := x.move = .restoring ∨ (x.runner.isSome ∧ x.img.started)
  if busy then
    let s := if s.pwr.emergency then countFld s 0 (hub Pg.PWR Reg.PWR_EMERG_PREEMPT) 31 0 1 else s
    s.setCell p { x with move := .spilling ctx }
  else
    (dropMatch s p).setCell p
      { x with img := CellImg.idle, runner := some ctx, borrowed := true, saved := none, haltedAt := none, returnNow := false }

/-- A command acts on the cells it names, each once: `f` answers none where the cell must wait. -/
def eachCell (ctx : Nat) (cmd : Cmd) (f : State → Nat → Nat → Option State) (s : State) : State :=
  (List.range (cmdCount cmd.raw)).foldl (fun s pos =>
    let lc := cmdFirst cmd.raw + pos
    match (s.ctx ctx).cmds.find? fun x => x.index = cmd.index && x.stage = .issued with
    | none => s
    | some now =>
      if bit now.begun pos then s
      else
        match physOf s ctx lc with
        | none => s
        | some p =>
          match f s p lc with
          | some t => mapCmd t ctx cmd.index fun x => { x with begun := x.begun ||| 2 ^ pos }
          | none =>
            if cellAt s ctx p = .takes ∧ cmd.opcode ≠ 3 then takeCell s ctx p else s) s

/-- A command that is carried out once it has acted on every cell. -/
def settleBegun (ctx : Nat) (cmd : Cmd) (s : State) : State :=
  match (s.ctx ctx).cmds.find? fun x => x.index = cmd.index && x.stage = .issued with
  | none => s
  | some now => if now.begun = 2 ^ cmdCount cmd.raw - 1 then setStage s ctx cmd.index .performed else s

/-! ## CELL_LOAD (R47, R52) -/

/-- An image in program memory: 64-byte entries from index 0 (R52). -/
def loadProgram (i : CellImg) (bytes : List Byte) : CellImg :=
  { i with
    prog := (List.range (bytes.length / 64)).foldl (fun m k =>
      tset (fun _ => 0) m k (leNat ((bytes.drop (64 * k)).take 64))) i.prog
    faultCode := 0
    faultTrack := 0
    faultDesc := 0
    faultEngine := 0 }

/-- CELL_LOAD on one cell. -/
def loadCell (ctx : Nat) (bytes : List Byte) (s : State) (p _lc : Nat) : Option State :=
  if cellAt s ctx p ≠ .ready ∨ runningIn s ctx p then none
  else
    let x := s.cell p
    some (s.setCell p
      { x with img := loadProgram x.img bytes, runner := some ctx,
               haltedAt := if x.borrowed then some s.cic.count else x.haltedAt })

/-- CELL_LOAD. -/
def cellLoadCmd (ctx : Nat) (s : State) (cmd : Cmd) : Option State :=
  let len := cmd.f 0x24 16 0
  if cmd.f 0x24 31 17 ≠ 0 ∨ !cmd.zeros [0x30, 0x34, 0x38, 0x3C] ∨ len % 64 ≠ 0 ∨ 65536 < len then
    failCmd s ctx cmd CmdErr.BAD_FIELD
  else if !cellRangeOk s ctx cmd then failCmd s ctx cmd CmdErr.CELL_RANGE
  else
    match cmdRead s ctx cmd.seq (cmd.f 0x28 63 0) len with
    | (s, none) => some s
    | (s, some bytes) => some (settleBegun ctx cmd (eachCell ctx cmd (loadCell ctx bytes) s))

/-- CELL_LOAD (R47). -/
def execCellLoad (ctx : Nat) (s : State) : Host.Outcome State Fault Refusal := cmdRow ctx 0x01 (cellLoadCmd ctx) s

/-! ## CELL_START (R47, R68, R163) -/

/-- A track put at a descriptor: its firings remaining are the descriptor's REPEAT (R53). -/
def Track.at_ (t : Track) (i : CellImg) (d : Nat) : Track :=
  { t with desc := d, left := dfield (tget (fun _ => 0) i.prog d) 0x04 31 16, armed := false, first := true, skip := false,
           held := false, tested := false }

/-- A program started in a cell (R47, R136): start header, arguments, tracks, stamp base, every predicate cleared. -/
def startProgram (i : CellImg) (head : List Byte) (mask : Nat) (entries : List Nat) (base : Nat) (by_ : Option (Nat × Nat)) :
    CellImg :=
  let i := i.store 0 head []
  { i with
    tracks := (List.range 8).map fun t => if bit mask t then { Track.idle.at_ i (nth entries t) with active := true } else Track.idle
    preds := 0
    stampBase := base
    ops := []
    started := true
    cmd := by_
    stopping := false
    halted := mask % 256 = 0
    phaseWait := false
    faultCode := 0
    faultTrack := 0
    faultDesc := 0
    faultEngine := 0 }

/-- Start header and argument block (R47): the header's four values stand as u32 words in the order in which R47 names
them (notes/assumptions/17.md). -/
def startHeader (lc count ctx phase : Nat) (args : List Byte) : List Byte :=
  leBytes 4 lc ++ leBytes 4 count ++ leBytes 4 ctx ++ leBytes 4 phase ++ List.replicate 48 0 ++ args

/-- The program that a CELL_START left at a cell starts (R47, R70 step 6). -/
def startCell (s : State) (p ctx : Nat) : State :=
  let x := s.cell p
  let i := startProgram x.img x.startHead x.startMask x.startEntries x.startBase x.startCmd
  let s := s.setCell p { x with img := i, runner := some ctx, startHead := [], startCmd := none, haltedAt := none }
  if i.halted then programHalted s p ctx else s

/-- CELL_START on one cell: a cell that is ready starts; one that is taken by a spill starts when the spill is complete
(R70). -/
def startOne (ctx : Nat) (cmd : Cmd) (args : List Byte) (s : State) (p lc : Nat) : Option State :=
  let head := startHeader lc (cmdCount cmd.raw) ctx (s.ctx ctx).phase args
  let put (s : State) : State :=
    s.setCell p
      { s.cell p with startHead := head, startMask := cmd.f 0x24 7 0,
                      startEntries := (List.range 8).map fun t => cmd.f (0x28 + 2 * t) 15 0, startBase := cmd.base,
                      startCmd := some (ctx, cmd.index) }
  match cellAt s ctx p with
  | .ready => if runningIn s ctx p then none else some (startCell (put s) p ctx)
  | .waits => none
  | .takes =>
    let s := takeCell s ctx p
    if (s.cell p).runner = some ctx then some (startCell (put s) p ctx) else some (put s)

/-- A latency context pins a channel (R221): all of them, or those that hold a byte of one of its four ranges. -/
def pins (s : State) (ctx chan : Nat) : Bool :=
  fld s ctx (hub Pg.SLU Reg.SLU_PIN_CTL) 0 0 = 1
    || [0, 1, 2, 3].any fun k =>
      let base := rd s (k * 64 + ctx) (hub Pg.SLU Reg.SLU_PIN_BASE) * 4096
      let units := fld s (k * 64 + ctx) (hub Pg.SLU Reg.SLU_PIN_SIZE) 23 0 * 16
      (List.range (min units (2 ^ 20))).any fun g => chanOf (base + 256 * g) = chan

/-- A quiet step on a channel is abandoned (R221): the channel is free, the step stays due, and 1 ms passes before the next. -/
def abandonQuiet (s : State) (chan : Nat) : State :=
  let s := s.setChan chan { s.chan chan with held := none }
  { s with hbm := { s.hbm with quietOn := none, quietAt := s.cic.count + 125000 } }

/-- A latency context's deadline window opens, as one of its CELL_START commands issues (R221). -/
def openWindow (s : State) (ctx : Nat) : State :=
  if !(s.ctx ctx).desc.latency then s
  else
    let s := s.setCtx ctx { s.ctx ctx with window := true, holdUntil := none }
    match s.hbm.quietOn with
    | some c => if pins s ctx c then abandonQuiet s c else s
    | none => s

/-- CELL_START. -/
def cellStartCmd (ctx : Nat) (s : State) (cmd : Cmd) : Option State :=
  let alen := cmd.f 0x24 28 16
  if cmd.f 0x24 31 29 ≠ 0 ∨ cmd.f 0x24 15 8 ≠ 0 ∨ 4032 < alen then failCmd s ctx cmd CmdErr.BAD_FIELD
  else if !cellRangeOk s ctx cmd then failCmd s ctx cmd CmdErr.CELL_RANGE
  else if cmdCount cmd.raw = 0 then doneCmd s ctx cmd
  else if cmd.begun = 2 ^ cmdCount cmd.raw - 1 then none
  else
    match cmdRead (openWindow s ctx) ctx cmd.seq (cmd.f 0x38 63 0) alen with
    | (s, none) => some s
    | (s, some args) => some (settleCmd (eachCell ctx cmd (startOne ctx cmd args) s) ctx cmd.index)

/-- CELL_START (R47). -/
def execCellStart (ctx : Nat) (s : State) : Host.Outcome State Fault Refusal := cmdRow ctx 0x02 (cellStartCmd ctx) s

/-! ## CELL_STOP (R47, R72, R164) -/

/-- Arming stopped in a cell: armed descriptors never fire (R164); with nothing in flight the program has halted. -/
def CellImg.stop (i : CellImg) : CellImg := i.stopWith i.ops

/-- CELL_STOP on one cell: a program with nothing in flight halts; with ABORT the engines' work is discarded too, and a borrowed
cell goes back at once, or as soon as the operations that are left have completed (R72). -/
def stopOne (ctx : Nat) (abort : Bool) (s : State) (p _lc : Nat) : Option State :=
  match cellAt s ctx p with
  | .waits => none
  | .takes => some s
  | .ready =>
    let x := s.cell p
    if x.runner ≠ some ctx then some s
    else
      let i := if abort then x.img.abort else x.img.stop
      let t :=
        if runningIn s ctx p then
          let t := s.setCell p { s.cell p with img := i }
          if i.halted then programHalted t p ctx else t
        else s
      some (if !abort ∨ !x.borrowed then t
        else if runningIn t ctx p then t.setCell p { t.cell p with returnNow := true }
        else beginReturn t p)

/-- CELL_STOP: it is complete when every named cell has halted. -/
def cellStopCmd (ctx : Nat) (s : State) (cmd : Cmd) : Option State :=
  if cmd.f 0x24 31 1 ≠ 0 ∨ !cmd.zeros [0x28, 0x2C, 0x30, 0x34, 0x38, 0x3C] then failCmd s ctx cmd CmdErr.BAD_FIELD
  else if !cellRangeOk s ctx cmd then failCmd s ctx cmd CmdErr.CELL_RANGE
  else if cmdCount cmd.raw = 0 then doneCmd s ctx cmd
  else if cmd.begun = 2 ^ cmdCount cmd.raw - 1 then none
  else
    let s := eachCell ctx cmd (stopOne ctx (cmd.f 0x24 0 0 = 1)) s
    let s := (List.range (cmdCount cmd.raw)).foldl (fun s pos =>
      match physOf s ctx (cmdFirst cmd.raw + pos) with
      | none => s
      | some p =>
        let begun := ((s.ctx ctx).cmds.find? (·.index = cmd.index)).any fun x => bit x.begun pos
        if begun ∧ !runningIn s ctx p then
          noteHalt s ctx p (if (s.cell p).runner = some ctx then (s.cell p).img.cmd else none) false
        else s) s
    some s

/-- CELL_STOP (R47). -/
def execCellStop (ctx : Nat) (s : State) : Host.Outcome State Fault Refusal := cmdRow ctx 0x03 (cellStopCmd ctx) s

/-! ## PHASE_TABLE, WAIT, INVALIDATE -/

/-- PHASE_TABLE (R65): the table is copied; it takes effect at the next PHASE. -/
def phaseTableCmd (ctx : Nat) (s : State) (cmd : Cmd) : Option State :=
  let n := cmd.f 0x20 4 0
  if cmd.f 0x20 31 5 ≠ 0 ∨ n = 0 ∨ 16 < n ∨ !cmd.zeros [0x24, 0x30, 0x34, 0x38, 0x3C] then
    failCmd s ctx cmd CmdErr.BAD_FIELD
  else
    match cmdRead s ctx cmd.seq (cmd.f 0x28 63 0) (32 * n) with
    | (s, none) => some s
    | (s, some bytes) =>
      match phasesOf bytes with
      | none => failCmd s ctx cmd CmdErr.BAD_FIELD
      | some ph => doneCmd (s.setCtx ctx { s.ctx ctx with nextPhases := some ph }) ctx cmd

/-- PHASE_TABLE (R65). -/
def execPhaseTable (ctx : Nat) (s : State) : Host.Outcome State Fault Refusal := cmdRow ctx 0x04 (phaseTableCmd ctx) s

/-- The comparison of a WAIT (R47). -/
def waitHolds (cmp mem v : Nat) : Bool :=
  if cmp = 0 then mem = v else if cmp = 1 then mem != v else if cmp = 2 then decide (v ≤ mem) else decide (mem < v)

/-- A WAIT evaluated (R47). -/
def waitCmd (ctx : Nat) (s : State) (cmd : Cmd) : Option State :=
  if cmd.f 0x20 31 2 ≠ 0 ∨ !cmd.zeros [0x24, 0x38, 0x3C] ∨ cmd.f 0x28 2 0 ≠ 0 then failCmd s ctx cmd CmdErr.BAD_FIELD
  else
    match cmdRead s ctx cmd.seq (cmd.f 0x28 63 0) 8 with
    | (s, none) => some s
    | (s, some bytes) =>
      if waitHolds (cmd.f 0x20 1 0) (leNat bytes) (cmd.f 0x30 63 0) then doneCmd s ctx cmd else some s

/-- WAIT (R47). -/
def execWait (ctx : Nat) (s : State) : Host.Outcome State Fault Refusal := cmdRow ctx 0x05 (waitCmd ctx) s

/-- WAIT_EVALUATE (R47): a WAIT that is issued is evaluated again. -/
def execWaitEvaluate (ctx index : Nat) (s : State) : Host.Outcome State Fault Refusal :=
  run (okCtx ctx)
    (match (s.ctx ctx).cmds.find? fun x => x.index = index && x.stage = .issued && x.opcode = 5 with
     | some cmd => (waitCmd ctx s cmd).getD s
     | none => s)

/-- A range invalidation, for every unit that is there and not fenced (R293, R294). Up to 16 are in flight; a further one
waits, and begins when it is among the first 16. -/
def beginInval (s : State) (ctx va bytes : Nat) (cmd : Option Nat) : State :=
  let v : Inval :=
    { number := s.xlt.nextInval, ctx := ctx, va := va, bytes := bytes, cmd := cmd,
      waiting := xltUnits.filter fun u => !s.xlt.fenced.contains u && !s.offline u, began := s.cic.count, failed := false, port := 0 }
  setInvals { s with xlt := { s.xlt with nextInval := v.number + 1 } } (s.xlt.invals ++ [v])

/-- INVALIDATE (R294). -/
def invalidateCmd (ctx : Nat) (s : State) (cmd : Cmd) : Option State :=
  if !cmd.zeros [0x20, 0x24, 0x38, 0x3C] ∨ cmd.f 0x28 11 0 ≠ 0 then failCmd s ctx cmd CmdErr.BAD_FIELD
  else if cmd.waits ≠ 0 then none
  else
    let s := setWaits s ctx cmd.index 1
    some (beginInval s ctx (cmd.f 0x28 63 0) (cmd.f 0x30 63 0 * 4096) (some cmd.index))

/-- INVALIDATE (R294). -/
def execInvalidate (ctx : Nat) (s : State) : Host.Outcome State Fault Refusal := cmdRow ctx 0x06 (invalidateCmd ctx) s

/-! ## Code-book tables (R82, R85, R87) -/

/-- A table image loaded into a slot: all 64 entries of a CB6 slot, 16 of a CB4 slot, the rest reading zero (R84). -/
def Books.load (b : Books) (slot kind : Nat) (image : List Byte) : Books :=
  { entries := (List.range 64).foldl (fun m i =>
      tset (fun _ => 0) m (64 * slot + i) (if kind = 1 ∨ i < 16 then (image.getD i 0).toNat else 0)) b.entries
    valid := b.valid ||| 2 ^ slot
    kind := if kind = 1 then b.kind ||| 2 ^ slot else setBits b.kind slot slot 0 }

/-- Consecutive images loaded from a first slot on. -/
def Books.loadAll (b : Books) (first n kind : Nat) (bytes : List Byte) : Books :=
  (List.range n).foldl (fun b k => b.load (first + k) kind ((bytes.drop (64 * k)).take 64)) b

/-- The image of a slot. -/
def Books.image (b : Books) (slot : Nat) : List Byte := (List.range 64).map fun i => BitVec.ofNat 8 (b.entry slot i)

/-- The slot trailer (R84). -/
def Books.trailer (b : Books) : List Byte := leBytes 8 b.valid ++ leBytes 8 b.kind ++ List.replicate 48 0

/-- The images of consecutive slots, then the slot trailer. -/
def Books.images (b : Books) (first n : Nat) : List Byte := ((List.range n).flatMap fun k => b.image (first + k)) ++ b.trailer

/-- An operation that decodes through code-book tables: a matrix operation, or a MOVE that converts a grouped format (R87, R96). -/
def readsBooks (raw : Nat) : Bool :=
  bits raw 31 24 / 16 == 2
    || (bits raw 31 24 == 0x10 && fmtGrouped (bits raw 327 324) && bits raw 327 324 != bits raw 323 320)

/-- A MOVE, matrix or vector operation fired on a cell that a table write waits for has not been carried out (R87). -/
def enginesBusy (i : CellImg) : Bool :=
  i.ops.any fun o => (readsBooks o.raw || bits o.raw 31 24 / 16 = 3) && !(o.stage = .executed)

/-- CB_TABLE_LOAD (R85, R87). -/
def cbLoadCmd (ctx : Nat) (s : State) (cmd : Cmd) : Option State :=
  let n := cmd.f 0x24 14 8
  let first := cmd.f 0x24 5 0
  if cmd.f 0x24 31 17 ≠ 0 ∨ cmd.f 0x24 15 15 ≠ 0 ∨ cmd.f 0x24 7 6 ≠ 0 ∨ !cmd.zeros [0x30, 0x34, 0x38, 0x3C] ∨ n = 0
      ∨ 64 < first + n then
    failCmd s ctx cmd CmdErr.BAD_FIELD
  else if !cellRangeOk s ctx cmd then failCmd s ctx cmd CmdErr.CELL_RANGE
  else
    match cmdRead s ctx cmd.seq (cmd.f 0x28 63 0) (64 * n) with
    | (s, none) => some s
    | (s, some bytes) =>
      some (settleBegun ctx cmd (eachCell ctx cmd (fun s p _ =>
        let x := s.cell p
        if cellAt s ctx p ≠ .ready ∨ enginesBusy x.img then none
        else some (s.setCell p { x with img := { x.img with books := x.img.books.loadAll first n (cmd.f 0x24 16 16) bytes } })) s))

/-- CB_TABLE_LOAD (R85). -/
def execCbTableLoad (ctx : Nat) (s : State) : Host.Outcome State Fault Refusal := cmdRow ctx 0x10 (cbLoadCmd ctx) s

/-- CB_TABLE_STORE (R85). -/
def cbStoreCmd (ctx : Nat) (s : State) (cmd : Cmd) : Option State :=
  let n := cmd.f 0x24 14 8
  let first := cmd.f 0x24 5 0
  if cmd.f 0x24 31 15 ≠ 0 ∨ cmd.f 0x24 7 6 ≠ 0 ∨ !cmd.zeros [0x30, 0x34, 0x38, 0x3C] ∨ cmdCount cmd.raw ≠ 1 ∨ n = 0
      ∨ 64 < first + n then
    failCmd s ctx cmd CmdErr.BAD_FIELD
  else
    match physOf s ctx (cmdFirst cmd.raw) with
    | none => failCmd s ctx cmd CmdErr.CELL_RANGE
    | some p =>
      match cellAt s ctx p with
      | .waits => none
      | .takes => some (takeCell s ctx p)
      | .ready =>
        match cmdWrite s ctx cmd.seq (cmd.f 0x28 63 0) ((s.cell p).img.books.images first n) with
        | (s, false) => some s
        | (s, true) => doneCmd s ctx cmd

/-- CB_TABLE_STORE (R85). -/
def execCbTableStore (ctx : Nat) (s : State) : Host.Outcome State Fault Refusal := cmdRow ctx 0x11 (cbStoreCmd ctx) s

end Sys2Proof.Machine
end

