-- ==== Sys2Proof/Machine/VectorEngine.lean ====
section
/-!
DEFINITION. The vector engine's operations as functions of their payloads and operands (05_vector_engine.md and
R86-R95): ELEM and its element programs, the curve tables, and CB_ENCODE.
-/

namespace Sys2Proof.Machine

/-! ## Element programs -/

/-- The payload of ELEM (R119). -/
structure ElemOp where
  inFmt : List Nat
  outFmt : List Nat
  inMode : List Nat
  outMode : List Nat
  prog : Nat
  rows : Nat
  count : Nat
  deriving DecidableEq, Repr

def ElemOp.ofRaw (raw : Nat) : ElemOp where
  inFmt := [dfield raw 0x28 31 28, dfield raw 0x28 27 24, dfield raw 0x28 23 20, dfield raw 0x28 19 16]
  outFmt := [dfield raw 0x28 15 12, dfield raw 0x28 11 8]
  inMode := [dfield raw 0x2C 31 30, dfield raw 0x2C 29 28, dfield raw 0x2C 27 26, dfield raw 0x2C 25 24]
  outMode := [dfield raw 0x2C 23 22, dfield raw 0x2C 21 20]
  prog := dfield raw 0x2C 9 0
  rows := dfield raw 0x30 31 16
  count := dfield raw 0x30 14 0

/-- The bits ELEM's payload reserves (R119). -/
def elemReserved (raw : Nat) : Bool :=
  dfield raw 0x28 7 0 != 0 || dfield raw 0x2C 19 10 != 0 || dfield raw 0x30 15 15 != 0 || dfield raw 0x34 95 0 != 0

/-- An instruction word of an element program (R122). -/
structure EInstr where
  op : Nat
  qp : Nat
  qn : Bool
  d : Nat
  a : Nat
  b : Nat
  c : Nat
  rsv : Nat
  deriving DecidableEq, Repr

def EInstr.ofWord (w : Nat) : EInstr where
  op := bits w 31 26
  qp := bits w 25 23
  qn := bit w 22
  d := bits w 21 17
  a := bits w 16 12
  b := bits w 11 7
  c := bits w 6 2
  rsv := bits w 1 0

/-- Program-memory entry `i` of a cell as one number of 512 bits; an entry never loaded reads 0. -/
def progEntry (prog : Table Nat) (i : Nat) : Nat := tget (fun _ => 0) prog i

/-- An element program (R121): its header and its instruction words. -/
structure EProg where
  lw : Nat
  f16 : Bool
  len : Nat
  preload : Nat
  /-- The reserved bits of the header are zero and its fields in range. -/
  ok : Bool
  consts : List Nat
  code : List EInstr
  deriving DecidableEq, Repr

def EProg.read (prog : Table Nat) (at_ : Nat) : EProg :=
  let h := progEntry prog at_
  let len := dfield h 0 22 16
  { lw := dfield h 0 31 30
    f16 := bit h 29
    len := len
    preload := dfield h 0 13 0
    ok := dfield h 0 28 23 == 0 && dfield h 0 15 14 == 0 && dfield h 4 31 0 == 0 && decide (dfield h 0 31 30 < 3)
      && (!bit h 29 || dfield h 0 31 30 == 0) && decide (1 ≤ len) && decide (len ≤ 64)
      && decide (at_ + ceilDiv len 16 ≤ 1023)
    consts := (List.range 14).map fun k => dfield h (8 + 4 * k) 31 0
    code := (List.range len).map fun i => EInstr.ofWord (dfield (progEntry prog (at_ + 1 + i / 16)) (4 * (i % 16)) 31 0) }

/-- The format code of the lane arithmetic (R117). -/
def EProg.fmt (p : EProg) : Nat := if p.lw = 0 then (if p.f16 then 9 else 8) else if p.lw = 1 then 10 else 11

/-- Lanes at a lane width (R117). -/
def EProg.lanes (p : EProg) : Nat := nth [256, 128, 64] p.lw

/-- Weight of an instruction slot at a lane width (R135). -/
def EProg.weight (p : EProg) : Nat := nth [1, 2, 4] p.lw

/-- Executable instructions: LEN less the SWEEP markers (R133). -/
def EProg.exec (p : EProg) : List EInstr := p.code.filter fun i => i.op != 0x3F

/-- The sweeps of a program (R127). -/
def sweepsOf : List EInstr → List (List EInstr)
  | [] => [[]]
  | i :: is =>
    if i.op = 0x3F then [] :: sweepsOf is
    else match sweepsOf is with
      | [] => [[i]]
      | s :: ss => (i :: s) :: ss

/-- Which source fields an instruction uses: A, B and C (R124); none for a code that R124 does not list. -/
def sourcesOf (op : Nat) : Option (Bool × Bool × Bool) :=
  if [0x00, 0x12, 0x3F].contains op then some (false, false, false)
  else if [0x08, 0x09, 0x0A, 0x0D, 0x0E, 0x0F, 0x1B, 0x20, 0x21, 0x22, 0x23, 0x28, 0x29, 0x2A].contains op then
    some (true, false, false)
  else if [0x04, 0x05].contains op then some (true, true, true)
  else if (1 ≤ op ∧ op ≤ 0x11) ∨ (0x14 ≤ op ∧ op ≤ 0x1A) then some (true, true, false)
  else none

/-- A reserved OP, non-zero reserved bits, or a non-zero source field that it does not use (R129). -/
def EInstr.malformed (i : EInstr) : Bool :=
  i.rsv != 0 ||
  match sourcesOf i.op with
  | none => true
  | some (ua, ub, uc) =>
    (!ua && i.a != 0) || (!ub && i.b != 0) || (!uc && i.c != 0) || (i.op == 0x21 && decide (2 ≤ i.d))

/-- The ports that an instruction writes: ST and STS name OUT D[0]. -/
def EInstr.outPort (i : EInstr) : Option Nat := if i.op = 0x21 ∨ i.op = 0x23 then some (i.d % 2) else none

/-- The ILLEGAL_OP conditions of R129 and R119, for the ports that are VALID. -/
def ElemOp.illegal (p : ElemOp) (raw : Nat) (pr : EProg) (inV outV : List Bool) : Bool :=
  let sw := sweepsOf pr.code
  elemReserved raw || !pr.ok || pr.code.any EInstr.malformed
  || decide (4 < sw.length) || sw.tail.any List.isEmpty
  || (pr.code.any fun i => i.op == 0x20 && !(inV.getD (i.a % 4) false))
  || (pr.code.any fun i => match i.outPort with
      | none => false
      | some o => !(outV.getD o false) || (nth p.outMode o != (if i.op = 0x21 then 0 else 2)))
  || ([0, 1].any fun o => decide (1 < (pr.code.filter fun i => i.outPort == some o).length))
  || p.rows == 0 || decide (4096 < p.rows) || p.count == 0 || decide (16384 < p.count)
  || ((List.range 4).any fun i =>
        nth p.inMode i == 3
        || if inV.getD i false then nth p.inFmt i == 0 || decide (11 < nth p.inFmt i) else nth p.inFmt i != 0)
  || ((List.range 2).any fun o =>
        !([0, 2].contains (nth p.outMode o))
        || if outV.getD o false then !([5, 6, 7, 8, 9, 10, 11].contains (nth p.outFmt o)) else nth p.outFmt o != 0)

/-- Elements of a port by its mode (R120). -/
def portElems (mode rows count : Nat) : Nat := if mode = 0 then rows * count else if mode = 1 then count else rows

/-- Groups of a grouped input port (R120; a grouped row-scalar port is one row of ROWS elements, DEDUCED,
notes/assumptions/20.md). -/
def portGroups (mode rows count : Nat) : Nat :=
  if mode = 0 then rows * ceilDiv count 256 else if mode = 1 then ceilDiv count 256 else ceilDiv rows 256

/-- Bytes of a port. -/
def portBytes (f mode rows count : Nat) : Nat :=
  if fmtGrouped f then groupedBytes f (portGroups mode rows count) else elemBytes f (portElems mode rows count)

/-- The element an LD reads at a row and a position (R120); none where its table is refused. -/
def ElemOp.input (p : ElemOp) (sram : List Host.Cell) (bk : Books) (r : Run) (port row pos : Nat) : Option Num :=
  let f := nth p.inFmt port
  let mode := nth p.inMode port
  let row' := if mode = 0 then row else 0
  let i := if mode = 2 then row else pos
  if fmtGrouped f then
    let perRow := if mode = 2 then ceilDiv p.rows 256 else ceilDiv p.count 256
    groupElem sram bk r 0 f (portGroups mode p.rows p.count) (row' * perRow + i / 256) (i % 256)
  else some (decodeElem f (elemCode sram r 0 f (if mode = 0 then row * p.count + pos else i)))

/-- The bytes of its port that an LD reads at a row and a position. -/
def ElemOp.inputSpans (p : ElemOp) (port row pos : Nat) : List (Nat × Nat) :=
  let f := nth p.inFmt port
  let mode := nth p.inMode port
  let row' := if mode = 0 then row else 0
  let i := if mode = 2 then row else pos
  if fmtGrouped f then
    let perRow := if mode = 2 then ceilDiv p.rows 256 else ceilDiv p.count 256
    groupElemSpans 0 f (portGroups mode p.rows p.count) (row' * perRow + i / 256) (i % 256)
  else [elemSpan 0 f (if mode = 0 then row * p.count + pos else i)]

/-! ## Curve tables (R130, R131) -/

/-- Byte `i` of curve table `t`; zero until it is loaded (R132). -/
def curveByte (cv : Table Nat) (t i : Nat) : Nat := tget (fun _ => 0) cv (4096 * t + i)

/-- The 32-bit word at byte `i` of curve table `t`. -/
def curveWord (cv : Table Nat) (t i : Nat) : Nat :=
  curveByte cv t i + 256 * curveByte cv t (i + 1) + 65536 * curveByte cv t (i + 2) + 16777216 * curveByte cv t (i + 3)

/-- A segment index clamped to 0-255, and whether it was clamped. -/
def clampSeg (i : Int) : Nat × Bool := if i < 0 then (0, true) else if 255 < i then (255, true) else (i.toNat, false)

/-- The segment of an argument (R131): the segment index and whether it was clamped. An infinite argument takes the
segment its side clamps to (DEDUCED, notes/assumptions/20.md); an index that is NaN takes a free one. -/
def curveSegment (cv : Table Nat) (t : Nat) (x : Num) : Nat × Bool :=
  if bit (curveByte cv t 2048) 0 then
    match x with
    | .fin false m e =>
      if m = 0 then (0, false)
      else
        let l := floorLog2 m e
        let top := if 5 ≤ bitLen m then m / 2 ^ (bitLen m - 5) % 16 else m * 2 ^ (5 - bitLen m) % 16
        clampSeg (16 * (l - toSigned 32 (curveWord cv t 2060)) + top)
    | .inf false => (255, true)
    | _ => (0, false)
  else
    match (x.sub (decodeFloat fmtFP32 false (curveWord cv t 2052))).mul
        (decodeFloat fmtFP32 false (curveWord cv t 2056)) with
    | .fin n m e => clampSeg (floorInt n m e)
    | .inf n => if n then (0, true) else (255, true)
    | .nan =>
      let f := Config.curveIndex (curveWord cv t 2052) (curveWord cv t 2056) (convertTo 11 false x).code
      (f % 256, bit f 8)

/-- CRV at x (R131): the exact result before the one rounding, and whether the index was clamped. -/
def curveEval (cv : Table Nat) (t : Nat) (x : Num) : Num × Bool :=
  let odd := bit (curveByte cv t 2048) 1
  let arg := if odd then x.abs else x
  if x.isNan then (.nan, false)
  else
    let (i, clamped) := curveSegment cv t arg
    let slope := decodeFloat fmtFP32 false (curveWord cv t (8 * i))
    let icpt := decodeFloat fmtFP32 false (curveWord cv t (8 * i + 4))
    let v := match arg with
      | .inf _ => if slope.isZero then icpt else (slope.mul arg).add icpt
      | _ => (slope.mul arg).add icpt
    (if odd && x.sign then v.neg else v, clamped)

/-! ## Running an element program -/

/-- One lane: its element registers and its predicate registers as a bit set (R123). -/
structure Lane where
  e : List Num
  q : Nat
  deriving DecidableEq, Repr

/-- What a program has produced so far and what its counters add (R135). -/
structure ElemAcc where
  lanes : List Lane
  /-- Row scalars s0-s7 (R123). -/
  s : List Num
  /-- The value and the position that RAMX has found so far in the row, for each row scalar. -/
  best : List (Option (Num × Nat))
  /-- Bytes written to the output ports: port, byte offset, bytes. -/
  outs : List (Nat × Nat × List Byte)
  laneOps : Nat
  tail : Nat
  clamp : Nat
  nan : Nat
  sat : Nat
  /-- Cell fault of the first load that failed, 0 for none (R134): SRAM_UNCORRECTED for a poisoned word, ENGINE_FAULT for a group
  whose table R83 refuses. -/
  bad : Nat
  deriving DecidableEq, Repr

/-- The operands an element program runs over. -/
structure ElemEnv where
  op : ElemOp
  prog : EProg
  sram : List Host.Cell
  poison : Table Bool
  books : Books
  curves : Table Nat
  inRuns : List Run
  deriving DecidableEq, Repr

def ElemEnv.inRun (v : ElemEnv) (i : Nat) : Run := v.inRuns.getD i ⟨0, 0, 0, 0⟩

def Lane.reg (l : Lane) (i : Nat) : Num := l.e.getD i Num.zero

/-- Predicate `q i`; q0 reads as true (R123). -/
def Lane.pred (l : Lane) (i : Nat) : Bool := i = 0 || bit l.q i

/-- The instruction runs in the lane (R126). -/
def Lane.enabled (l : Lane) (i : EInstr) : Bool := l.pred i.qp != i.qn

/-- A result rounded once to the lane format (R125). -/
def EProg.round (p : EProg) (x : Num) : Num := roundIEEE (floatOf p.fmt) false x

/-- SCB's scaling: `⌊b⌋` clamped to [-2048, 2047] (R124); a NaN gives NaN (DEDUCED, notes/assumptions/20.md). -/
def scaleBy (a b : Num) : Num :=
  match b with
  | .nan => .nan
  | .inf n => a.shl (if n then -2048 else 2047)
  | .fin n m e => a.shl (max (-2048) (min 2047 (floorInt n m e)))

/-- The value an arithmetic instruction writes to eD before rounding, and whether a curve index was clamped; none for
an instruction that writes no element register. -/
def arith (v : ElemEnv) (i : EInstr) (l : Lane) (pos : Nat) (s : List Num) : Option (Num × Bool) :=
  let a := l.reg i.a
  let b := l.reg i.b
  let c := l.reg i.c
  match i.op with
  | 0x01 => some (a.add b, false)
  | 0x02 => some (a.sub b, false)
  | 0x03 => some (a.mul b, false)
  | 0x04 => some ((a.mul b).add c, false)
  | 0x05 => some ((a.mul b).sub c, false)
  | 0x06 => some (a.max b, false)
  | 0x07 => some (a.min b, false)
  | 0x08 => some (a.abs, false)
  | 0x09 => some (a.neg, false)
  | 0x0A => some (a, false)
  | 0x0C => some (a.div b, false)
  | 0x0D => some (a.sqrt, false)
  | 0x0E => some (a.rsqrt, false)
  | 0x0F => some ((match a with
      | .fin n m e => if m = 0 then a else
          let f := floorInt n m e
          if f = 0 then .fin n 0 0 else Num.ofInt f
      | _ => a), false)
  | 0x10 => some (scaleBy a b, false)
  | 0x11 => some (curveEval v.curves (i.b % 8) a)
  | 0x12 => some (Num.ofInt pos, false)
  | 0x22 => some (s.getD (i.a % 8) Num.zero, false)
  | _ => none

/-- The bit a predicate instruction writes; none for the others. -/
def predValue (i : EInstr) (l : Lane) : Option Bool :=
  let a := l.reg i.a
  let b := l.reg i.b
  match i.op with
  | 0x14 => some (a.eq b)
  | 0x15 => some (a.lt b)
  | 0x16 => some (a.le b)
  | 0x17 => some (a.isNan || b.isNan)
  | 0x18 => some (l.pred (i.a % 8) && l.pred (i.b % 8))
  | 0x19 => some (l.pred (i.a % 8) || l.pred (i.b % 8))
  | 0x1A => some (l.pred (i.a % 8) != l.pred (i.b % 8))
  | 0x1B => some (!l.pred (i.a % 8))
  | _ => none

/-- The lane with predicate `i` written; writes to q0 are ignored (R123). -/
def Lane.setPred (l : Lane) (i : Nat) (x : Bool) : Lane := if i = 0 then l else { l with q := setBits l.q i i (b2n x) }

/-- One instruction in one active lane at a row and position: the lane after it, and what it adds. -/
def laneStep (v : ElemEnv) (i : EInstr) (row pos : Nat) (acc : ElemAcc) (l : Lane) : Lane × ElemAcc :=
  let en := l.enabled i
  if i.op = 0x0B then ({ l with e := l.e.set i.d (if en then l.reg i.a else l.reg i.b) }, acc)
  else if i.op = 0x21 then
    let f := nth v.op.outFmt (i.d % 2)
    let cv := if en then convertTo f false (l.reg i.a) else ⟨0, false, false⟩
    let off := (row * v.op.count + pos) * (fmtBits f / 8)
    (l, { acc with outs := acc.outs ++ [(i.d % 2, off, leBytes (fmtBits f / 8) cv.code)]
                   nan := acc.nan + b2n cv.nan, sat := acc.sat + b2n cv.sat })
  else if !en then (l, acc)
  else if i.op = 0x20 then
    if (v.op.inputSpans (i.a % 4) row pos).any ((v.inRun (i.a % 4)).piecePoisoned v.poison) then
      (l, { acc with bad := if acc.bad = 0 then 4 else acc.bad })
    else
    match v.op.input v.sram v.books (v.inRun (i.a % 4)) (i.a % 4) row pos with
    | none => (l, { acc with bad := if acc.bad = 0 then 7 else acc.bad })
    | some x =>
      let cv := convertTo v.prog.fmt false x
      ({ l with e := l.e.set i.d (decodeElem v.prog.fmt cv.code) }, { acc with sat := acc.sat + b2n cv.sat })
  else
    match arith v i l pos acc.s with
    | some (x, cl) => ({ l with e := l.e.set i.d (v.prog.round x) }, { acc with clamp := acc.clamp + b2n cl })
    | none =>
      match predValue i l with
      | some x => (l.setPred (i.d % 8) x, acc)
      | none => (l, acc)

/-- One instruction over the active lanes of a vector, in lane order; inactive lanes keep everything (R126). -/
def vectorStep (v : ElemEnv) (i : EInstr) (row base active : Nat) (acc : ElemAcc) : ElemAcc :=
  let go := acc.lanes.foldl (fun (st : List Lane × ElemAcc × Nat) l =>
    let (done, a, n) := st
    if n < active then
      let (l', a') := laneStep v i row (base + n) a l
      (done ++ [l'], a', n + 1)
    else (done ++ [l], a, n + 1)) ([], acc, 0)
  let lanes := go.1
  let a := go.2.1
  let w := v.prog.weight
  { a with lanes := lanes, laneOps := a.laneOps + active * w, tail := a.tail + (v.prog.lanes - active) * w }

/-- A contribution of a sweep's reductions: instruction, lane, position, value. -/
structure Contrib where
  instr : EInstr
  lane : Nat
  pos : Nat
  value : Num
  deriving DecidableEq, Repr

/-- The contributions one instruction makes on one vector: its active lanes where its predicate holds (R126, R128). -/
def contribsOf (i : EInstr) (base active : Nat) (lanes : List Lane) : List Contrib :=
  if i.op = 0x28 ∨ i.op = 0x29 ∨ i.op = 0x2A then
    (lanes.take active).zipIdx.filterMap fun (l, n) =>
      if l.enabled i then some ⟨i, n, base + n, l.reg i.a⟩ else none
  else []

/-- The accumulator format of RSUM: FP32, or FP64 at lane width 64 (R128). -/
def EProg.sumFmt (p : EProg) : FloatFmt := if p.lw = 2 then fmtFP64 else fmtFP32

/-- Lanes combined by halving (R128): lane `i` adds lane `i + w`. -/
def halve (f : FloatFmt) : Nat → List Num → Num
  | 0, l => l.getD 0 Num.zero
  | k + 1, l =>
    let w := 2 ^ k
    halve f k ((List.range w).map fun i => roundIEEE f false ((l.getD i Num.zero).add (l.getD (i + w) Num.zero)))

/-- RAMX takes `c` before `d`: a NaN before any number, then the larger under R125, then the lower position (R128). -/
def ahead (c d : Num × Nat) : Bool :=
  if c.1.isNan then !d.1.isNan || decide (c.2 < d.2)
  else if d.1.isNan then false
  else if c.1.isZero && d.1.isZero && c.1.sign != d.1.sign then d.1.sign
  else decide (d.1.cmp c.1 < 0) || (decide (c.1.cmp d.1 = 0) && decide (c.2 < d.2))

/-- The contribution that RAMX holds after a list of contributions. -/
def argMax (found : Option (Num × Nat)) (cs : List (Num × Nat)) : Option (Num × Nat) :=
  cs.foldl (fun b c => match b with
    | none => some c
    | some d => some (if ahead c d then c else d)) found

/-- The contributions that a reduction makes to row scalar `d`. -/
def contribsTo (cs : List Contrib) (d op : Nat) : List Contrib :=
  cs.filter fun c => c.instr.d % 8 == d && c.instr.op == op

/-- What RAMX holds for each row scalar at the end of a sweep (R128): it accumulates over the sweeps of the row. -/
def endArgs (cs : List Contrib) (found : List (Option (Num × Nat))) : List (Option (Num × Nat)) :=
  (List.range 8).map fun d => argMax (found.getD d none) ((contribsTo cs d 0x2A).map fun c => (c.value, c.pos))

/-- The row scalars at the end of a sweep (R127, R128). -/
def endSweep (p : EProg) (cs : List Contrib) (args : List (Option (Num × Nat))) (s : List Num) : List Num :=
  (List.range 8).map fun d =>
    let old := s.getD d Num.zero
    let sums := contribsTo cs d 0x28
    let v1 := if sums.isEmpty then old
      else
        let lanes := (List.range p.lanes).map fun n =>
          (sums.filter fun c => c.lane == n).foldl (fun a c => roundIEEE p.sumFmt false (a.add c.value)) Num.zero
        roundIEEE p.sumFmt false (old.add (halve p.sumFmt (Nat.log2 p.lanes) lanes))
    let v2 := (contribsTo cs d 0x29).foldl (fun a c => a.max c.value) v1
    if (contribsTo cs d 0x2A).isEmpty then v2
    else match args.getD d none with
      | none => v2
      | some (_, j) => Num.ofInt j

/-- The row scalars at the start of a row: the identity of the reduction that names each of them, +0.0 or position 0,
and -∞ for a maximum (R127). -/
def identities (p : EProg) : List Num :=
  (List.range 8).map fun d =>
    match p.code.find? fun i => (i.op == 0x28 || i.op == 0x29 || i.op == 0x2A) && i.d % 8 == d with
    | some i => if i.op = 0x29 then .inf true else Num.zero
    | none => Num.zero

/-- One sweep of a row over all its vectors (R127). -/
def runSweep (v : ElemEnv) (row : Nat) (sweep : List EInstr) (acc : ElemAcc) : ElemAcc :=
  let go := (List.range (ceilDiv v.op.count v.prog.lanes)).foldl (fun (st : ElemAcc × List Contrib) n =>
    let base := n * v.prog.lanes
    let active := min v.prog.lanes (v.op.count - base)
    sweep.foldl (fun (st : ElemAcc × List Contrib) i =>
      let cs := contribsOf i base active st.1.lanes
      (vectorStep v i row base active st.1, st.2 ++ cs)) st) (acc, [])
  let args := endArgs go.2 go.1.best
  { go.1 with s := endSweep v.prog go.2 args go.1.s, best := args }

/-- The STS values of a row, written at its end from the row scalars (R127). -/
def storeScalars (v : ElemEnv) (row : Nat) (acc : ElemAcc) : ElemAcc :=
  (v.prog.code.filter fun i => i.op == 0x23).foldl (fun a i =>
    let f := nth v.op.outFmt (i.d % 2)
    let cv := convertTo f false (a.s.getD (i.a % 8) Num.zero)
    { a with outs := a.outs ++ [(i.d % 2, row * (fmtBits f / 8), leBytes (fmtBits f / 8) cv.code)]
             nan := a.nan + b2n cv.nan, sat := a.sat + b2n cv.sat }) acc

/-- The lanes at the start of an ELEM (R123): preloaded constants in every lane, every other register a free value. -/
def startLanes (p : EProg) (use : Nat) : List Lane :=
  (List.range p.lanes).map fun n =>
    { e := (List.range 32).map fun r =>
        if 18 ≤ r ∧ bit p.preload (r - 18) then
          p.round (decodeFloat fmtFP32 false (nth p.consts (r - 18)))
        else decodeElem p.fmt (Config.freeValue use (64 * n + r) % 2 ^ fmtBits p.fmt)
      q := Config.freeValue use (64 * n + 32) % 256 }

/-- ELEM carried out (R119-R128). -/
def runElem (v : ElemEnv) (use : Nat) : ElemAcc :=
  let start : ElemAcc := ⟨startLanes v.prog use, [], [], [], 0, 0, 0, 0, 0, 0⟩
  (List.range v.op.rows).foldl (fun acc row =>
    storeScalars v row
      ((sweepsOf v.prog.code).foldl (fun a sw => runSweep v row sw a) { acc with s := identities v.prog, best := [] })) start

/-- Cycles of ELEM (R133). -/
def elemCycles (p : ElemOp) (pr : EProg) (queued : Bool) : Nat :=
  (if queued then 0 else 16) + p.rows * ceilDiv p.count pr.lanes * pr.exec.length

/-! ## CB_ENCODE (R91-R95) -/

structure EncOp where
  src : Nat
  dst : Nat
  round : Nat
  mode : Nat
  select : Nat
  count : Nat
  seed : Nat
  scale : Nat
  deriving DecidableEq, Repr

def EncOp.ofRaw (raw : Nat) : EncOp where
  src := dfield raw 0x28 31 28
  dst := dfield raw 0x28 27 24
  round := dfield raw 0x28 23 22
  mode := dfield raw 0x28 21 20
  select := dfield raw 0x28 7 0
  count := dfield raw 0x2C 14 0
  seed := dfield raw 0x30 31 0
  scale := dfield raw 0x34 7 0

/-- The ILLEGAL_OP conditions of R91 and R518. -/
def EncOp.illegal (p : EncOp) (raw : Nat) : Bool :=
  dfield raw 0x28 19 8 != 0 || dfield raw 0x2C 31 15 != 0 || dfield raw 0x34 31 8 != 0 || dfield raw 0x38 63 0 != 0
  || !([8, 9, 10].contains p.src) || !([1, 2, 3, 4, 5, 6, 7].contains p.dst) || p.round == 3 || p.mode == 3
  || p.count == 0 || decide (16384 < p.count)

/-- A format written through a table (R93). -/
def EncOp.tabled (p : EncOp) : Bool := decide (p.dst ≤ 4)

/-- The candidates of R93: index or encoding, and value. -/
def EncOp.candidates (p : EncOp) (bk : Books) : List (Nat × Num) :=
  let n := if p.dst = 2 then 64 else if p.tabled then 16 else 256
  ((List.range n).filterMap fun i =>
    (if p.tabled then tableValue bk p.dst p.select i else some (decodeElem p.dst i)).map fun x => (i, x)).filter
    fun c => match c.2 with
      | .fin _ _ _ => true
      | _ => false

/-- The largest magnitude of a list of values; zero for none. -/
def maxMag (l : List Num) : Num :=
  l.foldl (fun a x => match x with
    | .fin _ m e => if a.cmp (.fin false m e) < 0 then .fin false m e else a
    | _ => a) Num.zero

/-- The largest magnitude of the destination (R92). -/
def EncOp.tmax (p : EncOp) (bk : Books) : Num := maxMag ((p.candidates bk).map Prod.snd)

/-- The least integer `s` with `a ÷ 2^s ≤ t`, for positive magnitudes (R92). -/
def noClipScale (ma : Nat) (ea : Int) (mt : Nat) (et : Int) : Int :=
  let s := floorLog2 ma ea - floorLog2 mt et
  if (Num.fin false ma ea).cmp (.fin false mt (et + s)) ≤ 0 then s else s + 1

/-- The block scale byte of a block's source elements (R92, R94); `inside` says that the block holds an element below
COUNT. -/
def EncOp.blockScale (p : EncOp) (bk : Books) (xs : List Num) (inside : Bool) : Nat :=
  if !inside then 0x7F
  else if xs.any fun x => match x with
      | .fin _ _ _ => false
      | _ => true then 0xFF
  else if p.mode = 2 then p.scale
  else
    match maxMag xs, p.tmax bk with
    | .fin _ ma ea, .fin _ mt et =>
      if ma = 0 ∨ mt = 0 then 0x7F
      else
        let s := if p.mode = 0 then floorLog2 ma ea - floorLog2 mt et else noClipScale ma ea mt et
        (max (-127) (min 127 s) + 127).toNat
    | _, _ => 0x7F

/-- The better of two candidates for nearest: smaller distance, then smaller magnitude, then the lower index. -/
def closer (y : Num) (c d : Nat × Num) : Bool :=
  let dc := (c.2.sub y).abs
  let dd := (d.2.sub y).abs
  decide (dc.cmp dd < 0) || (decide (dc.cmp dd = 0) && (decide (c.2.abs.cmp d.2.abs < 0)))

/-- The nearest candidate, the earlier of two that tie in every respect. Around y = 0 a table without a zero entry can hold +c and
-c, which R93's tie clauses leave equal: the lower index is taken (DESIGN CHOICE, notes/assumptions/99.md). -/
def nearest (y : Num) : List (Nat × Num) → Nat × Num
  | [] => (0, Num.zero)
  | c :: cs => cs.foldl (fun b d => if closer y d b then d else b) c

/-- An element chosen for y (R93): the candidate, whether it saturated, and the generator's state after it. -/
def EncOp.choose (p : EncOp) (cands : List (Nat × Num)) (y : Num) (lfsr : Nat) : (Nat × Num) × Bool × Nat :=
  let above := cands.filter fun c => decide (y.cmp c.2 ≤ 0)
  let below := cands.filter fun c => decide (c.2.cmp y ≤ 0)
  let n := nearest y cands
  if above.isEmpty || below.isEmpty then (n, true, lfsr)
  else if p.round = 1 then
    let toward := cands.filter fun c =>
      if y.sign then decide (c.2.cmp Num.zero ≤ 0) && decide (y.cmp c.2 ≤ 0)
      else decide (Num.zero.cmp c.2 ≤ 0) && decide (c.2.cmp y ≤ 0)
    (if toward.isEmpty then n else nearest y toward, false, lfsr)
  else if p.round = 2 then
    let lo := nearest y below
    let hi := nearest y above
    if lo.2.eq y then (lo, false, lfsr)
    else if hi.2.eq y then (hi, false, lfsr)
    else
      let (st, u) := draw lfsr
      let num := ((y.sub lo.2).shl 16)
      let den := hi.2.sub lo.2
      -- u < ⌊65,536 × (y − lo) ÷ (hi − lo)⌋ exactly when (u + 1) × (hi − lo) ≤ 65,536 × (y − lo)
      let pick := decide ((den.mul (Num.ofInt (u + 1))).cmp num ≤ 0)
      (if pick then hi else lo, false, st)
  else (n, false, lfsr)

/-- What CB_ENCODE has written and summed so far. -/
structure EncAcc where
  codes : List Nat
  scales : List Nat
  lfsr : Nat
  counts : List Nat
  sums : List Num
  saturated : Nat
  nanBlocks : Nat
  sqerr : Num
  deriving DecidableEq, Repr

/-- One element of a block under scale byte `sc`; `real` says that it lies below COUNT. -/
def EncOp.element (p : EncOp) (cands : List (Nat × Num)) (sc : Nat) (real : Bool) (acc : EncAcc) (x : Num) : EncAcc :=
  let y := x.shl (127 - (sc : Int))
  let (c, sat, st) := p.choose cands y acc.lfsr
  let dec := scaled c.2 sc
  let err := x.sub dec
  { acc with
    codes := acc.codes ++ [c.1]
    lfsr := st
    counts := if p.tabled then acc.counts.set c.1 (nth acc.counts c.1 + 1) else acc.counts
    sums := if p.tabled && real then
        acc.sums.set c.1 (round32 ((acc.sums.getD c.1 Num.zero).add y)) else acc.sums
    saturated := acc.saturated + b2n (sat && real)
    sqerr := if real then round32 (acc.sqerr.add (err.mul err)) else acc.sqerr }

/-- One block of 32 elements (R92-R94). -/
def EncOp.block (p : EncOp) (bk : Books) (cands : List (Nat × Num)) (xs : Nat → Num) (acc : EncAcc) (b : Nat) : EncAcc :=
  let els := (List.range 32).map fun i => xs (32 * b + i)
  let sc := p.blockScale bk (els.take (p.count - 32 * b)) (decide (32 * b < p.count))
  let acc := { acc with scales := acc.scales ++ [sc] }
  if sc = 0xFF ∧ els.any fun x => match x with
      | .fin _ _ _ => false
      | _ => true then
    { acc with codes := acc.codes ++ List.replicate 32 0, nanBlocks := acc.nanBlocks + 1 }
  else
    els.zipIdx.foldl (fun a (x, i) =>
      p.element cands sc (decide (32 * b + i < p.count)) a x) acc

/-- CB_ENCODE over its source (R91): every block in order. -/
def EncOp.run (p : EncOp) (sram : List Host.Cell) (bk : Books) (r : Run) (seed : Nat) : EncAcc :=
  let xs (i : Nat) : Num := if i < p.count then decodeElem p.src (elemCode sram r 0 p.src i) else Num.zero
  let start : EncAcc := ⟨[], [], if seed % 2 ^ 32 = 0 then 1 else seed % 2 ^ 32, List.replicate 64 0,
    List.replicate 64 Num.zero, 0, 0, Num.zero⟩
  (List.range (ceilDiv p.count 256 * 8)).foldl (fun a b => p.block bk (p.candidates bk) xs a b) start

/-- Element codes packed into bytes (R80). -/
def packCodes (f : Nat) : List Nat → List Byte
  | a :: b :: c :: d :: l =>
    (if fmtBits f = 4 then leBytes 2 (a + 16 * b + 256 * c + 4096 * d)
     else if f = 2 then leBytes 3 (a + 64 * b + 4096 * c + 262144 * d)
     else leBytes 4 (a + 256 * b + 65536 * c + 16777216 * d)) ++ packCodes f l
  | _ => []

/-- The encoded operand: the planes from byte 0 and the metadata from the next 256-byte boundary (R81). SELECT is written
for the table formats and 0 for the others (R91). Bytes between the planes and the metadata are left as they are (DESIGN CHOICE,
notes/assumptions/100.md). -/
def EncOp.output (p : EncOp) (a : EncAcc) : List (Nat × List Byte) :=
  let n := ceilDiv p.count 256
  [(0, packCodes p.dst a.codes),
   (up256 (n * planeBytes p.dst), (List.range n).flatMap fun g =>
      ((List.range 8).map fun b => BitVec.ofNat 8 (nth a.scales (8 * g + b)))
        ++ [BitVec.ofNat 8 (if p.dst ≤ 2 then p.select else 0)] ++ List.replicate 7 0)]

/-- The encode report (R95). -/
def EncOp.report (p : EncOp) (a : EncAcc) : List Byte :=
  let z := List.replicate 256 (0 : Byte)
  (if p.tabled then a.counts.flatMap (leBytes 4) else z)
    ++ (if p.tabled then a.sums.flatMap fun x => leBytes 4 (convertTo 10 false x).code else z)
    ++ leBytes 4 a.saturated ++ leBytes 4 a.nanBlocks ++ leBytes 4 (convertTo 10 false a.sqerr).code
    ++ List.replicate 244 0

end Sys2Proof.Machine
end

