-- ==== Sys2Proof/Machine/Sequencer.lean ====
section
/-!
DEFINITION. The cell's sequencer: arming, firing and completing operation descriptors (R53-R62, R518), the control
operations (R62, R63, R262), and the phase barrier (R65-R67).
-/

namespace Sys2Proof.Machine

/-! ## Descriptors (R61) -/

/-- Descriptor `n` of a cell's program memory. -/
def CellImg.descAt (i : CellImg) (n : Nat) : Nat := tget (fun _ => 0) i.prog n

/-- A binding word (R61). -/
structure Binding where
  valid : Bool
  hold : Bool
  counter : Nat
  count : Nat
  deriving DecidableEq, Repr

/-- Input binding `k`. -/
def inBind (raw k : Nat) : Binding :=
  let w := dfield raw (0x10 + 4 * k) 31 0
  ⟨bit w 31, bit w 30, bits w 29 24, bits w 23 16⟩

/-- Output binding `k`, its counter as a key of the counter table. -/
def outBind (raw k : Nat) : Binding :=
  let w := dfield raw (0x20 + 4 * k) 31 0
  ⟨bit w 31, false, 64 + bits w 29 24, bits w 23 16⟩

/-- The valid bindings, by port. -/
def insOf (raw : Nat) : List (Nat × Binding) := ((List.range 4).map fun k => (k, inBind raw k)).filter (·.2.valid)
def outsOf (raw : Nat) : List (Nat × Binding) := ((List.range 2).map fun k => (k, outBind raw k)).filter (·.2.valid)

/-- Operation code. -/
def opc (raw : Nat) : Nat := bits raw 31 24

/-- The engines (R57): 0 control, 1 move, 2 matrix, 3 vector, 4 match port. -/
def engineOf (raw : Nat) : Nat := if opc raw < 0x10 ∨ 0x50 ≤ opc raw then 0 else opc raw / 16

/-- Operation codes that are assigned (R62, R85, R99, R119, R141, R195). -/
def assignedOpc (o : Nat) : Bool :=
  [0x00, 0x01, 0x02, 0x03, 0x04, 0x05, 0x06, 0x08, 0x09, 0x0A, 0x0B, 0x10, 0x11, 0x12, 0x13, 0x20, 0x30, 0x31, 0x32, 0x3C,
    0x3D, 0x3E, 0x40, 0x41, 0x42, 0x43].contains o

/-- Payload words that must be zero, by byte offset. -/
def zeroWords (raw : Nat) (offs : List Nat) : Bool := offs.all fun o => dfield raw o 31 0 = 0

/-- A breach of R518 in the words that every descriptor has: reserved bits, IRQ 1-3, an OPC that is not assigned. -/
def commonIllegal (raw : Nat) : Bool :=
  !assignedOpc (opc raw) || bit raw 20 || bit raw 10 || decide (1 ≤ bits raw 19 16 ∧ bits raw 19 16 ≤ 3)
    || dfield raw 0x04 15 0 != 0
    || (List.range 4).any (fun k => dfield raw (0x10 + 4 * k) 15 0 != 0)
    || (List.range 2).any (fun k => dfield raw (0x20 + 4 * k) 15 0 != 0 || dfield raw (0x20 + 4 * k) 30 30 != 0)

/-- BIND's KIND or PEER is one that R63 does not have: BAD_BINDING, in place of ILLEGAL_OP (R518). -/
def bindKindBad (raw : Nat) : Bool :=
  opc raw == 0x04 && (decide (2 ≤ dfield raw 0x28 31 30) || dfield raw 0x30 31 30 == 3)

/-- A breach of R518 in the payload of a control or move operation: a word that the payload does not name, or a named field
outside its range. PAIR and HANDLE are named, and free where PEER does not use them (notes/assumptions/89.md). -/
def payloadIllegal (raw : Nat) : Bool :=
  let o := opc raw
  let p (off hi lo : Nat) : Nat := dfield raw off hi lo
  if o = 0x00 ∨ o = 0x01 ∨ o = 0x08 ∨ o = 0x09 ∨ o = 0x0B then !zeroWords raw [0x28, 0x2C, 0x30, 0x34, 0x38, 0x3C]
  else if o = 0x02 then p 0x28 31 10 != 0 || !zeroWords raw [0x2C, 0x30, 0x34, 0x38, 0x3C]
  else if o = 0x03 then
    p 0x28 31 8 != 0 || p 0x28 3 3 != 0 || decide (6 < p 0x28 7 4) || p 0x2C 31 22 != 0 || p 0x2C 1 0 != 0
      || !zeroWords raw [0x34, 0x38, 0x3C]
  else if o = 0x04 then
    p 0x28 23 16 == 0 || p 0x28 15 0 == 0 || decide (16384 < p 0x28 15 0) || p 0x2C 31 22 != 0 || p 0x2C 7 0 != 0
      || decide (2 ^ 22 < p 0x2C 21 0 + p 0x28 23 16 * p 0x28 15 0 * 256) || p 0x30 23 0 != 0
      || p 0x38 31 16 != 0
      || decide (p 0x28 23 16 < p 0x38 15 0) || !zeroWords raw [0x3C]
  else if o = 0x05 then p 0x28 31 4 != 0 || !zeroWords raw [0x2C, 0x30, 0x34, 0x38, 0x3C]
  else if o = 0x06 then p 0x28 2 0 != 0 || p 0x38 31 1 != 0 || !zeroWords raw [0x3C]
  else if o = 0x0A then
    p 0x28 31 6 != 0 || p 0x28 3 2 != 0 || !zeroWords raw [0x2C, 0x30, 0x34, 0x38, 0x3C]
  else if o = 0x10 then p 0x28 31 8 != 0 || !zeroWords raw [0x2C, 0x30, 0x34, 0x38, 0x3C]
  else if o = 0x11 then !zeroWords raw [0x2C, 0x30, 0x34, 0x38, 0x3C]
  else if o = 0x12 then
    p 0x2C 31 31 != 0 || p 0x2C 30 0 == 0 || decide (2 ^ 30 < p 0x2C 30 0) || p 0x30 5 0 != 0 || p 0x38 5 0 != 0
  else if o = 0x13 then
    p 0x28 31 16 != 0 || p 0x28 15 0 == 0 || decide (4096 < p 0x28 15 0) || !zeroWords raw [0x2C, 0x30, 0x34, 0x38, 0x3C]
  else false

/-- MOVE's conversion is none that R96 has. -/
def moveIllegal (raw : Nat) : Bool :=
  let src := dfield raw 0x28 7 4
  let dst := dfield raw 0x28 3 0
  src != dst && (src == 0 || decide (11 < src) || decide (dst < 5 ∨ 11 < dst))

/-- First table and number of tables of CRV_SET and CRV_GET; none where they break R118, R132 or R518. -/
def crvRange (raw : Nat) : Option (Nat × Nat) :=
  let first := dfield raw 0x28 10 8
  let n := dfield raw 0x28 3 0
  if dfield raw 0x28 31 11 ≠ 0 ∨ dfield raw 0x28 7 4 ≠ 0 ∨ !zeroWords raw [0x2C, 0x30, 0x34, 0x38, 0x3C] ∨ n = 0
      ∨ 8 < first + n then none
  else some (first, n)

/-- Code-book slots that no table has (R86): a count of 0, or past slot 63. -/
def slotRangeBad (raw : Nat) : Bool := dfield raw 0x28 14 8 == 0 || decide (64 < dfield raw 0x28 5 0 + dfield raw 0x28 14 8)

/-- CB_SET breaks R86 or R518. -/
def cbSetIllegal (raw : Nat) : Bool :=
  dfield raw 0x28 31 17 != 0 || dfield raw 0x28 15 15 != 0 || dfield raw 0x28 7 6 != 0
    || !zeroWords raw [0x2C, 0x30, 0x34, 0x38, 0x3C] || slotRangeBad raw

/-- CB_GET breaks R86 or R518. -/
def cbGetIllegal (raw : Nat) : Bool :=
  dfield raw 0x28 31 15 != 0 || dfield raw 0x28 7 6 != 0 || !zeroWords raw [0x2C, 0x30, 0x34, 0x38, 0x3C] || slotRangeBad raw

/-- A breach of R518 in the payload of a MOVE, matrix or vector operation, by the operation's own rules (R86, R91, R96, R99, R118,
R119, R129, R132). They are checked as the descriptor fires; the operation's row tests them again, so that it says what an
operation with such a payload does in every state. MM's own rule (R101) is checked as it issues to the engine; the bits that its
payload reserves are checked here (notes/assumptions/95.md). -/
def engineIllegal (i : CellImg) (raw : Nat) : Bool :=
  let o := opc raw
  if o = 0x10 then moveIllegal raw
  else if o = 0x20 then mmReserved raw
  else if o = 0x30 then
    (ElemOp.ofRaw raw).illegal raw (EProg.read i.prog (dfield raw 0x2C 9 0)) ((List.range 4).map fun k => (inBind raw k).valid)
      ((List.range 2).map fun k => (outBind raw k).valid)
  else if o = 0x31 ∨ o = 0x32 then (crvRange raw).isNone
  else if o = 0x3C then (EncOp.ofRaw raw).illegal raw
  else if o = 0x3D then cbSetIllegal raw
  else if o = 0x3E then cbGetIllegal raw
  else false

/-! ## Releasing and producing slots (R54, R58) -/

/-- Takes at the front of a counter that are done: they are over, in ring order (R58). Their number and their slots. -/
def Counter.ovr (c : Counter) : List Take := c.takes.takeWhile (·.done)

/-- The counter without them. -/
def Counter.settled (c : Counter) : Counter := { c with takes := c.takes.dropWhile (·.done) }

/-- Slots taken and not yet over. -/
def Counter.inUse (c : Counter) : Nat := (c.takes.map (·.count)).foldl (· + ·) 0

/-- First slot of the oldest take. -/
def Counter.oldest (c : Counter) : Nat := if c.slots = 0 then 0 else (c.ptr + c.slots * (c.inUse / c.slots + 1) - c.inUse) % c.slots

/-- Counters of one kind that are a local pair of counter `k` of the other kind (R54): token counters from key 0, credit
counters from key 64. -/
def pairedWith (i : CellImg) (from_ k : Nat) : List Nat :=
  ((List.range 64).map (· + from_)).filter fun q => (i.ctr q).bound && (i.ctr q).peer == 1 && (i.ctr q).pair == k

/-- Slots of a token counter released: credits to its pair, or to the stream that fills it (R54, R182). -/
def releaseToken (s : State) (cell ctx t n : Nat) : State :=
  match imgOf s cell ctx with
  | none => s
  | some i =>
    let c := i.ctr t
    let s := (pairedWith i 64 t).foldl (fun s q => bumpCounter s cell ctx q n) s
    let idx := c.handle % 2 ^ 18
    if c.bound ∧ c.peer = 2 ∧ currentHandle s c.handle ∧ (s.stream idx).ctx = ctx then grantCredits s idx (n * c.size)
    else s

/-- Slots of a credit counter produced: tokens to its pair, or handed over to its stream (R54, R58, R183). `l` are the
takes that are over and `first` the slot of the oldest. Each slot is a hand-over of its own: it returns when its own units are
acknowledged. -/
def produceCredit (s : State) (cell ctx k first : Nat) (l : List Take) : State :=
  match imgOf s cell ctx with
  | none => s
  | some i =>
    let c := i.ctr k
    let n := (l.map (·.count)).foldl (· + ·) 0
    let s := (pairedWith i 0 (k - 64)).foldl (fun s q => bumpCounter s cell ctx q n) s
    let idx := c.handle % 2 ^ 18
    if c.bound ∧ c.peer = 2 ∧ currentHandle s c.handle ∧ (s.stream idx).ctx = ctx then
      let hands := (l.foldl (fun (p : List Hand × Nat) t =>
        (p.1 ++ (List.range t.count).map fun j =>
          (⟨cell, k, t.op, false, c.base + (p.2 + j) % c.slots * c.size * 256, c.size, 0, 0, 0⟩ : Hand), p.2 + t.count)) ([], first)).1
      let x := s.stream idx
      s.setStream idx (x.handOver hands)
    else s

/-- The takes of a counter that are over leave it, with what follows from it. -/
def drainCounter (s : State) (cell ctx k : Nat) : State :=
  match imgOf s cell ctx with
  | none => s
  | some i =>
    let c := i.ctr k
    let l := c.ovr
    if l.isEmpty then s
    else
      let first := c.oldest
      let s := setImg s cell ctx (i.setCtr k c.settled)
      if k < 64 then releaseToken s cell ctx k ((l.map (·.count)).foldl (· + ·) 0) else produceCredit s cell ctx k first l

/-- An operation's takes of a counter are done. -/
def doneTakes (i : CellImg) (k op : Nat) : CellImg :=
  let c := i.ctr k
  i.setCtr k { c with takes := c.takes.map fun t => if t.op = op then { t with done := true } else t }

/-- Slots taken by a firing at one binding (R55). -/
def takeSlots (i : CellImg) (op : Nat) (k : Nat) (b : Binding) : CellImg × Bind :=
  let c := i.ctr k
  let bd : Bind := ⟨k, b.count, c.ptr, b.hold⟩
  if b.hold then (i, bd)
  else
    (i.setCtr k { c with value := c.value - b.count, ptr := (c.ptr + b.count) % max 1 c.slots,
                         takes := c.takes ++ [⟨op, b.count, false⟩] }, bd)

/-- Slots taken at several bindings, in port order. -/
def takeAll (i : CellImg) (op : Nat) : List (Nat × Binding) → CellImg × List (Nat × Bind)
  | [] => (i, [])
  | (p, b) :: l =>
    let (i, bd) := takeSlots i op b.counter b
    let (i, rest) := takeAll i op l
    (i, (p, bd) :: rest)

/-! ## Arming (R53, R55, R59, R60) -/

/-- Debug is unlocked at some level (R464). -/
def debugOpen (s : State) : Bool := s.sec.dbgOwner || s.sec.dbgVendor

/-- The sequencer of a cell may arm and fire: a program runs, nothing has stopped it, the cell is not being spilled, its
context is not paused, its die has its replicas, and debug does not hold it (R44, R70, R74, R158; notes/assumptions/15.md). -/
def mayArm (s : State) (cell : Nat) (dbg : Bool) : Bool :=
  let x := s.cell cell
  match x.runner with
  | none => false
  | some ctx =>
    x.move = .steady && x.img.started && !x.img.halted && !x.img.stopping && !(s.ctx ctx).paused && !s.boot.warmBusy
      && !s.boot.fatal && !cellClockStopped s cell && dieLoaded s (8 + cellDie cell) && (dbg || !(x.dbgHold && debugOpen s))

/-- A track moves on past its current descriptor: it ends at LAST, else goes to NEXT (R53). -/
def Track.advance (t : Track) (i : CellImg) : Track :=
  let raw := i.descAt t.desc
  if bit raw 22 then { t with active := false, armed := false } else t.at_ i (bits raw 9 0)

/-- A track changed. -/
def CellImg.mapTrack (i : CellImg) (n : Nat) (f : Track → Track) : CellImg :=
  { i with tracks := i.tracks.zipIdx.map fun p => if p.2 = n then f p.1 else p.1 }

/-- Track `n`. -/
def CellImg.track (i : CellImg) (n : Nat) : Track := i.tracks.getD n Track.idle

/-- A binding that an armed descriptor may not have (R59; a COUNT of 0 is outside its range). -/
def badBinding (i : CellImg) (b : Binding) : Bool :=
  let c := i.ctr b.counter
  !c.bound || b.count == 0 || decide (c.slots < b.count)

/-- The stamp of a descriptor (R55, R163). -/
def stampOf (i : CellImg) (raw : Nat) : Option Nat :=
  if !bit raw 23 then none
  else
    let v := dfield raw 0x08 63 0
    some (if bit v 63 then (i.stampBase + v % 2 ^ 63) % 2 ^ 64 else v)

/-- A fired operation of the track lets it neither arm nor fire until it completes: HALT (R62), PHASE, a barrier (R66), and the
fences (R262; notes/assumptions/82.md); a SIGNAL while it stalls (R286). -/
def CellImg.heldTrack (i : CellImg) (n : Nat) : Bool :=
  (i.track n).held || i.ops.any fun o => o.track == n
    && ([0x01, 0x05, 0x08, 0x09, 0x0A, 0x0B].contains (opc o.raw) || (opc o.raw == 0x06 && o.stage == .waiting && o.wrote.isNone))

/-- The track has fired a PSET that has not written its predicate: what follows it on the track is armed later, and sees the
new value (R136). -/
def CellImg.psetAhead (i : CellImg) (n : Nat) : Bool :=
  i.ops.any fun o => o.track == n && opc o.raw == 0x03 && o.stage == .fired

/-- A track arms its current descriptor (R53, R60, R136): a false predicate retires it at once, or, with SKIP_CONSUMES,
leaves it to take and release its inputs. -/
def armTrack (s : State) (cell n : Nat) (dbg : Bool) : State :=
  let x := s.cell cell
  let i := x.img
  let t := i.track n
  if !mayArm s cell dbg ∨ !t.active ∨ t.armed ∨ i.heldTrack n ∨ i.psetAhead n then s
  else if 1023 < t.desc then cellFault s cell CellFault.ILLEGAL_OP n (t.desc % 1024)
  else
    let raw := i.descAt t.desc
    let t := { t with left := dfield raw 0x04 31 16, first := true, skip := false, tested := false }
    let off : Bool := bit raw 15 && bit i.preds (bits raw 13 11) == bit raw 14
    if off ∧ !bit raw 21 then
      let s := s.setCell cell { x with img := i.mapTrack n fun _ => t.advance i }
      haltIfDone s cell (x.runner.getD 0)
    else
      let bs := (insOf raw).map Prod.snd ++ (if off then [] else (outsOf raw).map Prod.snd)
      if bs.any (badBinding i) then cellFault s cell CellFault.BAD_BINDING n t.desc
      else
        let s := match (if off then none else stampOf i raw) with
          | some v => lateStamp s (Rep.cell cell) v
          | none => s
        s.setCell cell
          { s.cell cell with
            img := { i.mapTrack n (fun _ => { t with armed := true, armedAt := i.nextArm, skip := off, tested := true }) with
                     nextArm := i.nextArm + 1 } }

/-- DESCRIPTOR_ARM (R53, R60). -/
def execDescriptorArm (cell track : Nat) (s : State) : Host.Outcome State Fault Refusal :=
  run (okCell cell && okTrack track) (armTrack s cell track false)

/-! ## Firing (R55, R57, R60, R518) -/

/-- Tokens or credits that an armed descriptor still lacks. -/
def lacks (i : CellImg) (raw : Nat) (skip : Bool) : Bool :=
  (insOf raw).any (fun b => decide ((i.ctr b.2.counter).value < b.2.count))
    || (!skip && (outsOf raw).any fun b => decide ((i.ctr b.2.counter).value < b.2.count))

/-- Operations that occupy an engine or its issue queue (R55, R520). -/
def onEngine (i : CellImg) (e : Nat) : Nat := (i.ops.filter fun o => o.stage = .fired && engineOf o.raw == e).length

/-- The request of a cell that a match unit's entry names is still the cell's. -/
def matchHeld (s : State) (die : Nat) (q : Option MatchReq) : Bool :=
  match q with
  | none => false
  | some r => (s.cell (40 * die + r.pos)).img.ops.any fun o => o.id = r.op && engineOf o.raw == 4

/-- A cell's match port accepts a firing: the unit's waiting entry is free, and the cell has no request there (R140). -/
def matchAccepts (s : State) (cell : Nat) : Bool :=
  let m := s.mtu (cellDie cell)
  let mine (q : Option MatchReq) : Bool := matchHeld s (cellDie cell) q && (q.map (·.pos)) == some (cellPos cell)
  !matchHeld s (cellDie cell) m.waiting && !mine m.running

/-- A firing of the descriptor would test a counter that has just been updated (R24). -/
def testsFresh (s : State) (cell raw : Nat) (skip : Bool) : Bool :=
  ((insOf raw).map Prod.snd ++ (if skip then [] else (outsOf raw).map Prod.snd)).any fun b =>
    s.boot.fresh.contains (cell, b.counter)

/-- The armed descriptor of a track may fire (R55): not where it tests a counter just updated, with the workaround of R24 in
force. -/
def readyTrack (s : State) (cell : Nat) (t : Track) : Bool :=
  let i := (s.cell cell).img
  let raw := i.descAt t.desc
  t.armed && !lacks i raw t.skip && !testsFresh s cell raw t.skip
    && (t.skip || match stampOf i raw with
        | some v => !t.first || decide (v ≤ replica s (Rep.cell cell))
        | none => true)
    && (t.skip || (if engineOf raw = 4 then matchAccepts s cell else decide (onEngine i (engineOf raw) < 2)))

/-- The counters that a track's armed descriptor tests, with what it asks of each (R55, R60). -/
def CellImg.asks (i : CellImg) (t : Track) : List Binding :=
  (insOf (i.descAt t.desc)).map Prod.snd ++ (if t.skip then [] else (outsOf (i.descAt t.desc)).map Prod.snd)

/-- The tracks whose ready descriptors have been armed longer than that of track `n`, ties to the lower track (R57). -/
def olderReady (s : State) (cell n : Nat) : List Track :=
  let i := (s.cell cell).img
  let t := i.track n
  (i.tracks.zipIdx.filter fun p =>
    p.2 != n && decide (p.1.armedAt < t.armedAt ∨ (p.1.armedAt = t.armedAt ∧ p.2 < n)) && readyTrack s cell p.1).map Prod.fst

/-- Older ready descriptors take precedence (R57): one wants the same engine, or together they leave too little in a counter that
the descriptor tests. -/
def outranked (s : State) (cell n : Nat) : Bool :=
  let i := (s.cell cell).img
  let t := i.track n
  let older := olderReady s cell n
  let taken (k : Nat) : Nat :=
    (((older.flatMap i.asks).filter fun b => b.counter == k && !b.hold).map (·.count)).foldl (· + ·) 0
  (!t.skip && older.any fun a => !a.skip && engineOf (i.descAt a.desc) == engineOf (i.descAt t.desc))
    || (i.asks t).any fun b => decide (0 < taken b.counter ∧ (i.ctr b.counter).value < taken b.counter + b.count)

/-- A cell runs a program of a latency context. -/
def runsLatency (s : State) (cell : Nat) : Bool :=
  match (s.cell cell).runner with
  | some ctx => (s.ctx ctx).desc.latency
  | none => false

/-- Rank of a cell for its die's match unit: latency contexts first, then the rotating order of position (R140). -/
def matchRank (s : State) (cell : Nat) : Nat :=
  (if runsLatency s cell then 0 else 40) + (cellPos cell + 79 - (s.mtu (cellDie cell)).last) % 40

/-- A cell has a match request ready. -/
def matchReady (s : State) (cell : Nat) : Bool :=
  mayArm s cell false && (s.cell cell).img.tracks.zipIdx.any fun p =>
    !(s.cell cell).img.heldTrack p.2 && !p.1.skip && engineOf ((s.cell cell).img.descAt p.1.desc) == 4 && readyTrack s cell p.1

/-- Another cell of the die is granted the match unit first (R140). -/
def matchOutranked (s : State) (cell n : Nat) : Bool :=
  let t := (s.cell cell).img.track n
  !t.skip && engineOf ((s.cell cell).img.descAt t.desc) == 4 && (List.range 40).any fun p =>
    let c := 40 * cellDie cell + p
    c != cell && decide (matchRank s c < matchRank s cell) && matchReady s c

/-! ## Completing (R54, R58, R61) -/

/-! ## Cycles of waiting (R74, R155) -/

/-- What a track's armed descriptor waits for: tokens, credits, its stamp (R55). -/
def trackWaits (s : State) (cell : Nat) (i : CellImg) (t : Track) : Bool × Bool × Bool :=
  let raw := i.descAt t.desc
  let short (l : List (Nat × Binding)) : Bool := l.any fun b => decide ((i.ctr b.2.counter).value < b.2.count)
  if !(t.active && t.armed) then (false, false, false)
  else
    (short (insOf raw), !t.skip && short (outsOf raw),
      t.first && (match stampOf i raw with
        | some v => decide (replica s (Rep.cell cell) < v)
        | none => false))

/-- Cell cycles of a cell's clock in the interval of the count that now ends (R396), in whole cycles; none while it stands. -/
def tickCycles (s : State) (cell : Nat) : Nat :=
  let upTo (n : Nat) : Nat := pointMhz (s.die (8 + cellDie cell)).op * n / 125
  if cellClockStopped s cell then 0 else upTo (s.cic.count + 1) - upTo s.cic.count

/-- The cycles that a cell's tracks have waited for tokens alone, and for credits alone (R74). -/
def addWaits (s : State) (cell : Nat) : State :=
  let i := (s.cell cell).img
  let l := if i.started then i.tracks.map (trackWaits s cell i) else []
  let n := tickCycles s cell
  let s := if l.contains (true, false, false) then count s (cseqReg cell Reg.CSEQ_WAIT_TOKEN_CYC) n else s
  if l.contains (false, true, false) then count s (cseqReg cell Reg.CSEQ_WAIT_CREDIT_CYC) n else s

/-- The cycles that the requests of a cell die have waited for its match unit (R155). -/
def addMatchWaits (s : State) (die : Nat) (cells : List Nat) : State :=
  let m := s.mtu die
  let n := tickCycles s (40 * die)
  let ready := cells.filter fun c => cellDie c == die && matchReady s c
  let waiting (q : MatchReq) : List Nat := [40 * die + q.pos]
  let lat := (ready ++ ((m.waiting.map waiting).getD [])).filter (runsLatency s)
  let since := lat.foldl (fun l c => tset (fun _ => 0) l (cellPos c) (tget (fun _ => 0) m.since (cellPos c) + n)) []
  let t := s.setMtu die { m with since := since }
  if m.waiting.isSome ∧ ready ≠ [] then count t (mtuReg die Reg.MTU_WAIT_CYC) n else t

/-- The counters of cycles in which something waited, brought up to the next count (R74, R155). -/
def addCycles (s : State) : State :=
  let cells := (s.cells.map Prod.fst).filter fun c => (s.cell c).img.started
  let s := cells.foldl addWaits s
  (cells.map cellDie).eraseDups.foldl (fun s d => addMatchWaits s d cells) s

/-- An operation that is carried out completes: its slots are released and produced in ring order, its vector raised; the
program may have halted, and a context that waits for its cells to stop have ended (R44). -/
def completeOp (s : State) (cell ctx id : Nat) : State :=
  match imgOf s cell ctx with
  | none => s
  | some i =>
    match i.ops.find? fun o => o.id = id && o.stage = .executed with
    | none => s
    | some o =>
      let keys := ((o.ins ++ o.outs).filter fun b => !b.2.hold).map fun b => b.2.counter
      let i := { i with ops := i.ops.filter (·.id != id) }
      let i := keys.foldl (fun i k => doneTakes i k id) i
      let s := setImg s cell ctx i
      let s := keys.foldl (fun s k => drainCounter s cell ctx k) s
      let v := bits o.raw 19 16
      let s := if v = 0 then s else raiseCtxVector s ctx v
      endIfQuiet (haltIfDone s cell ctx) ctx

/-- A FENCE with an empty PRED or SUCC: it completes in the cycle it fires (R262). -/
def emptyFence (raw : Nat) : Bool := opc raw == 0x0A && (dfield raw 0x28 5 4 == 0 || dfield raw 0x28 1 0 == 0)

/-- The firing of an armed descriptor that is ready and not outranked. -/
def fireNow (s : State) (cell n ctx : Nat) : State :=
  let x := s.cell cell
  let i := x.img
  let t := i.track n
  let raw := i.descAt t.desc
  let final := t.left = 0
  if t.skip then
    -- R60: inputs taken and released at once
    let id := i.nextOp
    let (i, bds) := takeAll { i with nextOp := id + 1 } id (insOf raw)
    let keys := (bds.filter fun b => !b.2.hold).map fun b => b.2.counter
    let i := keys.foldl (fun i k => doneTakes i k id) i
    let i := i.mapTrack n fun t =>
      { (if final then t.advance i else { t with left := t.left - 1, first := false }) with lastOp := id }
    let s := markCtrs (s.setCell cell { x with img := i }) cell keys
    let s := keys.foldl (fun s k => drainCounter s cell ctx k) s
    haltIfDone s cell ctx
  else if ((insOf raw).map Prod.snd ++ (outsOf raw).map Prod.snd).any (badBinding i) then
    cellFault s cell CellFault.BAD_BINDING n t.desc
  else if bindKindBad raw then cellFault s cell CellFault.BAD_BINDING n t.desc
  else if engineOf raw ≠ 4 ∧ (commonIllegal raw ∨ payloadIllegal raw ∨ engineIllegal i raw) then
    cellFault s cell CellFault.ILLEGAL_OP n t.desc
  else
    let id := i.nextOp
    let e := engineOf raw
    let queued := decide (onEngine i e = 1)
    let (i, bin) := takeAll i id (insOf raw)
    let (i, bout) := takeAll i id (outsOf raw)
    let o : Op :=
      { id := id, track := n, desc := t.desc, raw := raw, ins := bin, outs := bout,
        stage := if emptyFence raw then .executed else .fired, queued := queued,
        at_ := replica s (Rep.cell cell), left := 0, issued := 0,
        wrote := none, target := none,
        word := if opc raw = 0x03 ∧ !i.poisoned (dfield raw 0x2C 21 0) 4 then some (memLE i.sram (dfield raw 0x2C 21 0) 4) else none }
    let i := { i with ops := i.ops ++ [o], nextOp := id + 1 }
    let c := opc raw
    let i := i.mapTrack n fun t =>
      { (if !final then { t with left := t.left - 1, first := false }
         else if c = 0x02 ∧ !bit raw 22 then { t with armed := false, held := true }
         else t.advance i) with lastOp := id }
    let s := markCtrs (s.setCell cell { x with img := i }) cell (((bin ++ bout).filter fun b => !b.2.hold).map fun b => b.2.counter)
    let s := if e ≠ 4 then s
      else s.setMtu (cellDie cell) { s.mtu (cellDie cell) with waiting := some ⟨cellPos cell, id⟩, last := cellPos cell }
    let s := count64 s 0 (cseqReg cell Reg.CSEQ_FIRE_CNT_LO) 1
    if emptyFence raw then completeOp s cell ctx id else s

/-- A track fires where it may. -/
def fireTrack (s : State) (cell n : Nat) (dbg : Bool) : State :=
  let x := s.cell cell
  let t := x.img.track n
  match x.runner with
  | none => s
  | some ctx =>
    if !mayArm s cell dbg ∨ x.img.heldTrack n ∨ !readyTrack s cell t ∨ outranked s cell n ∨ matchOutranked s cell n then s
    else fireNow s cell n ctx

/-- FIRE (R55). -/
def execFire (cell track : Nat) (s : State) : Host.Outcome State Fault Refusal :=
  run (okCell cell && okTrack track) (fireTrack s cell track false)

/-! ## Completing: the row -/

/-- The contexts whose contents a cell holds: its runner's, and its owner's in the spill record (R69, R71). -/
def holdersOf (s : State) (cell : Nat) : List Nat :=
  let x := s.cell cell
  (x.runner.toList) ++ (x.saved.map Prod.fst).toList

/-- OPERATION_COMPLETE: of the program in the cell, else of the one in its spill record (R71). -/
def execOperationComplete (cell op : Nat) (s : State) : Host.Outcome State Fault Refusal :=
  run (okCell cell)
    (match (holdersOf s cell).find? fun ctx =>
        ((imgOf s cell ctx).map fun i => i.ops.any fun o => o.id = op && o.stage = .executed).getD false with
     | some ctx => completeOp s cell ctx op
     | none => s)

/-! ## Operation rows -/

/-- PHASE, SIGNAL and the fences do not hold up what follows them on the control engine (R62). -/
def waitsAside (raw : Nat) : Bool := [0x05, 0x06, 0x08, 0x09, 0x0A, 0x0B].contains (opc raw)

/-- An operation's row acts on a fired operation of its code that has reached the front of its engine's queue. -/
def runOp (s : State) (cell op : Nat) (code : Nat) (f : State → Nat → CellImg → Op → State) : State :=
  let x := s.cell cell
  match x.runner.filter fun _ => !cellClockStopped s cell with
  | none => s
  | some ctx =>
    match x.img.ops.find? fun o => o.id = op && opc o.raw == code && !(o.stage = .executed) with
    | none => s
    | some o =>
      if x.img.ops.any fun p => decide (p.id < o.id) && p.stage = .fired && engineOf p.raw == engineOf o.raw && !waitsAside p.raw then s
      else f s ctx x.img o

/-- An operation row's outcome. -/
def opRow (cell op code : Nat) (f : State → Nat → CellImg → Op → State) (s : State) : Host.Outcome State Fault Refusal :=
  run (okCell cell) (runOp s cell op code f)

/-- An operation faults its cell. -/
def opFault (s : State) (cell : Nat) (o : Op) (code : Nat) : State :=
  match (s.cell cell).runner with
  | none => s
  | some ctx => endIfQuiet (failOp s cell ctx o.id code o.track o.desc) ctx

/-- The operation is carried out. -/
def doneOp (s : State) (cell ctx : Nat) (o : Op) : State := mapOp s cell ctx o.id fun o => { o with stage := .executed }

/-- The operation waits. -/
def waitOp (s : State) (cell ctx : Nat) (o : Op) : State := mapOp s cell ctx o.id fun o => { o with stage := .waiting }

/-- NOP (R62). -/
def execCellNop (cell op : Nat) (s : State) : Host.Outcome State Fault Refusal :=
  opRow cell op 0x00 (fun s ctx _ o => doneOp s cell ctx o) s

/-- HALT (R53, R62): arming stops on every track; it is carried out once every other fired operation has completed. -/
def execHalt (cell op : Nat) (s : State) : Host.Outcome State Fault Refusal :=
  opRow cell op 0x01 (fun s ctx i o =>
    let i := { i with stopping := true, tracks := i.tracks.map fun t => { t with active := false, armed := false } }
    let s := setImg s cell ctx i
    if i.ops.any fun p => p.id != o.id then waitOp s cell ctx o else doneOp s cell ctx o) s

/-- BRANCH (R62, R138): after its final firing the track goes on at TARGET. -/
def execBranch (cell op : Nat) (s : State) : Host.Outcome State Fault Refusal :=
  opRow cell op 0x02 (fun s ctx i o =>
    let t := i.track o.track
    let s := if t.active ∧ t.held ∧ t.desc = o.desc ∧ !(i.ops.any fun p => p.track = o.track && opc p.raw == 2 && decide (o.id < p.id)) then
        setImg s cell ctx (i.mapTrack o.track fun t => t.at_ i (dfield o.raw 0x28 9 0))
      else s
    doneOp s cell ctx o) s

/-- A comparison of PSET (R62). -/
def psetHolds (c w imm : Nat) : Bool :=
  if c = 0 then w == imm else if c = 1 then w != imm else if c = 2 then decide (w < imm) else if c = 3 then decide (imm ≤ w)
  else if c = 4 then decide (toSigned 32 w < toSigned 32 imm) else if c = 5 then decide (toSigned 32 imm ≤ toSigned 32 w)
  else w &&& imm != 0

/-- PSET (R62, R136), on the word that it read when it fired (R137). -/
def execPset (cell op : Nat) (s : State) : Host.Outcome State Fault Refusal :=
  opRow cell op 0x03 (fun s ctx i o =>
    match o.word with
    | none => opFault s cell o CellFault.SRAM_UNCORRECTED
    | some w =>
      let p := dfield o.raw 0x28 2 0
      let v := psetHolds (dfield o.raw 0x28 7 4) w (dfield o.raw 0x30 31 0)
      doneOp (setImg s cell ctx { i with preds := setBits i.preds p p (b2n v) }) cell ctx o) s

/-- The stream that a BIND names is this cell's at this counter (R183). -/
def bindStreamOk (s : State) (ctx cell kind counter handle : Nat) : Bool :=
  let x := s.stream (handle % 2 ^ 18)
  let e := if kind = 0 then x.snk else x.src
  currentHandle s handle && x.ctx == ctx && e.kind == Kind.CELL && e.name == counter
    && e.unit == logicalOf (s.ctx ctx) cell

/-- The lowest track whose armed descriptor has come to ask for more slots than its buffer has, and that descriptor (R59: a
fault is never left to wait). -/
def brokenTrack (i : CellImg) : Option (Nat × Nat) :=
  (i.tracks.zipIdx.find? fun p =>
    let raw := i.descAt p.1.desc
    p.1.armed && ((insOf raw).map Prod.snd ++ (if p.1.skip then [] else (outsOf raw).map Prod.snd)).any (badBinding i)).map
    fun p => (p.2, p.1.desc)

/-- The cell faults where a rebound counter no longer has the slots that an armed descriptor asks for (R59). -/
def faultBroken (s : State) (cell : Nat) : State :=
  match brokenTrack (s.cell cell).img with
  | some (n, d) => cellFault s cell CellFault.BAD_BINDING n d
  | none => s

/-- BIND (R63, R183, R184). It waits while an operation that has not completed holds slots of the counter. -/
def bindOp (cell : Nat) (s : State) (ctx : Nat) (i : CellImg) (o : Op) : State :=
  let f (off hi lo : Nat) : Nat := dfield o.raw off hi lo
  let kind := f 0x28 31 30
  let key := 64 * kind + f 0x28 29 24
  let slots := f 0x28 23 16
  let size := f 0x28 15 0
  let peer := f 0x30 31 30
  let handle := f 0x34 31 0
  let init := f 0x38 15 0
  if bindKindBad o.raw ∨ (peer = 2 ∧ ((kind = 0 ∧ slots * size < 16) ∨ !bindStreamOk s ctx cell kind (f 0x28 29 24) handle)) then
    opFault s cell o CellFault.BAD_BINDING
  else
    let old := i.ctr key
    if old.takes.any fun t => i.ops.any (·.id = t.op) then s
    else
      let s :=
        if old.bound ∧ old.peer = 2 ∧ key < 64 ∧ currentHandle s old.handle then
          s.setStream (old.handle % 2 ^ 18) { s.stream (old.handle % 2 ^ 18) with credits := 0, debt := 0 }
        else s
      let c : Counter :=
        { bound := true, slots := slots, size := size, base := f 0x2C 21 0, peer := peer, pair := f 0x30 29 24,
          handle := handle, value := init, ptr := 0, takes := [], units := 0 }
      let s := markCtrs (setImg s cell ctx (i.setCtr key c)) cell [key]
      let idx := handle % 2 ^ 18
      let s :=
        if peer = 2 ∧ kind = 0 then
          grantCredits (s.setStream idx { s.stream idx with ringAt := init % slots * size * 256 }) idx ((slots - init) * size)
        else s
      faultBroken (doneOp s cell ctx o) cell

/-- BIND. -/
def execBind (cell op : Nat) (s : State) : Host.Outcome State Fault Refusal := opRow cell op 0x04 (bindOp cell) s

/-! ## SIGNAL and the fences (R62, R261, R262, R270, R333) -/

/-- The target of a SIGNAL's write: the home floor of its line, or its host port (R265). -/
def signalTarget (s : State) (segs : List Seg) : Nat :=
  (segs.head?.map fun g => if g.space = 0 then homeFloor g.pa else 4 + (hostPort s 3 g.io).getD 0).getD 0

/-- The target of a SIGNAL that is issued and whose home does not accept the write yet (R269, R380). -/
def signalHeld (s : State) (req : Requester) (va : Nat) : Option Nat :=
  match look s req.unit req.ctx true (pagesOf va 8) with
  | .ok segs => if segsHeld s segs then some (signalTarget s segs) else none
  | _ => none

/-- A SIGNAL's write is made: in host memory it is accepted, and read back where it is not acknowledged early (R256, R263). -/
def signalWrite (s : State) (ctx cell : Nat) (o : Op) (segs : List Seg) (add : Bool) (v : Nat) : State :=
  let old := leNat (segBytes s segs)
  let s := if add ∧ segs.any (·.space = 1) then s.useFree else s
  let s := segWrite s ctx 1 segs (leBytes 8 (if add then (old + v) % 2 ^ 64 else v))
  (segs.filter fun g => g.space = 1).foldl (fun s g =>
    noteWrite s (.cell ctx cell) o.id ((hostPort s 3 g.io).getD 0) g.pa (earlyAck s 1 1 g.pa)) s

/-- A SIGNAL's write is acknowledged: its mirror copies by the partner (R380), and one that is not acknowledged early by its
read-back. -/
def signalAcked (s : State) (ctx cell op : Nat) (copies : List Nat) : Bool :=
  !copiesOpen s copies && !(s.host.unread.any fun w => w.who == .cell ctx cell && w.op == op && !w.early)

/-- SIGNAL (R62): once every earlier operation of its track has completed, a 64-bit store or atomic add through the
context's translation. It stalls on a translation that stalls or a host write that finds no port (R286, R333), goes behind the
cell's own earlier SIGNAL to the same target (R265, R267), and completes when its write is acknowledged. -/
def signalOp (cell : Nat) (s : State) (ctx : Nat) (i : CellImg) (o : Op) : State :=
  if i.ops.any fun p => decide (p.id < o.id) && p.track == o.track then s
  else
    match o.wrote with
    | some l => if signalAcked s ctx cell o.id l then doneOp s cell ctx o else s
    | none =>
      let va := dfield o.raw 0x28 63 0
      let req : Requester :=
        { source := 3, ctx := ctx, unit := 8 + cellDie cell, handle := 0, cell := logicalOf (s.ctx ctx) cell, track := o.track,
          seq := o.desc }
      match tile s req va 8 true with
      | (s, none) => mapOp s cell ctx o.id fun o => { o with stage := .waiting, target := signalHeld s req va }
      | (s, some segs) =>
        let behind := i.ops.any fun p => decide (p.id < o.id) && p.target == some (signalTarget s segs)
        if behind ∨ segs.any fun g => g.space = 1 && (hostPort s 3 g.io).isNone then waitOp s cell ctx o
        else
          let first := s.mir.nextCopy
          let s := signalWrite s ctx cell o segs (dfield o.raw 0x38 0 0 = 1) (dfield o.raw 0x30 63 0)
          let l := copiesFrom s first
          if signalAcked s ctx cell o.id l then doneOp s cell ctx o
          else mapOp s cell ctx o.id fun o => { o with stage := .waiting, wrote := some l, target := none }

/-- SIGNAL. -/
def execSignal (cell op : Nat) (s : State) : Host.Outcome State Fault Refusal := opRow cell op 0x06 (signalOp cell) s

/-- Transfers of an operation of a cell with accesses of the kinds asked for that are not acknowledged (R261): source reads
whose data is not there, sink writes. With `early` a write to another device is acknowledged as it is sent (R256, R263). -/
def xfersOpen (s : State) (ctx cell op : Nat) (early r w : Bool) : Bool :=
  (streamsOf s ctx).any fun i =>
    let x := s.stream i
    x.xfers.any fun t => t.issuer = 2 && t.owner = cell && t.op = op &&
      ((r && (decide (t.sent < t.len) || s.str.packets.any fun p => p.index = i && p.xfer == some t.id && p.fate == 3))
        || (w && decide ((if early && x.snk.kind = Kind.REMOTE then t.sent else t.acked) < t.len)))

/-- A fired operation still has accesses of the kinds asked for (R261). -/
def accessOpen (s : State) (ctx cell : Nat) (early : Bool) (o : Op) (r w : Bool) : Bool :=
  let c := opc o.raw
  if o.stage = .executed then false
  else if c = 0x12 ∨ c = 0x13 then
    if o.stage = .fired ∨ (c = 0x13 ∧ o.issued < dfield o.raw 0x28 15 0) then r || w else xfersOpen s ctx cell o.id early r w
  else if c = 0x11 then w && o.stage = .fired
  else if c = 0x06 then w || (r && dfield o.raw 0x38 0 0 = 1 && o.wrote.isNone)
  else false

/-- Slots that operations fired before `id` handed over and whose sink writes are not acknowledged. -/
def handsOpen (s : State) (ctx cell id : Nat) (early : Bool) : Bool :=
  (streamsOf s ctx).any fun i =>
    let x := s.stream i
    x.hands.any fun h => h.cell == cell && decide (h.op < id) && !(early && x.snk.kind == Kind.REMOTE && decide (h.units ≤ h.sent))

/-- Every access of a kind in PRED of every operation fired earlier on the cell is acknowledged, or, for a DRAIN, performed (R256,
R262). An operation that will hand slots to a stream has its sink writes ahead of it. -/
def fenceMet (s : State) (ctx cell : Nat) (i : CellImg) (o : Op) (r w drain : Bool) : Bool :=
  let early : Bool := !drain && earlyAck s 1 3 0
  let feeds (p : Op) : Bool := p.outs.any fun b => (i.ctr b.2.counter).peer == 2
  let unread := s.host.unread.any fun k => k.who == .cell ctx cell && decide (k.op < o.id) && (drain || !k.early)
  !(i.ops.any fun p => decide (p.id < o.id) && (accessOpen s ctx cell early p r w || (w && feeds p)))
    && !(w && (handsOpen s ctx cell o.id early || unread))

/-- A fence (R262): carried out once its accesses are acknowledged; a DRAIN has those in host memory read back. -/
def fenceOp (cell : Nat) (r w drain : Bool) (s : State) (ctx : Nat) (i : CellImg) (o : Op) : State :=
  if fenceMet s ctx cell i o r w drain then doneOp s cell ctx o
  else
    let s := if drain then readBacks s fun k => k.who == .cell ctx cell && decide (k.op < o.id) else s
    waitOp s cell ctx o

/-- LFENCE (R262). -/
def execLfence (cell op : Nat) (s : State) : Host.Outcome State Fault Refusal :=
  opRow cell op 0x08 (fenceOp cell true false false) s

/-- SFENCE (R262). -/
def execSfence (cell op : Nat) (s : State) : Host.Outcome State Fault Refusal :=
  opRow cell op 0x09 (fenceOp cell false true false) s

/-- FENCE (R262). -/
def execFence (cell op : Nat) (s : State) : Host.Outcome State Fault Refusal :=
  opRow cell op 0x0A (fun s ctx i o => fenceOp cell (dfield o.raw 0x28 5 5 = 1) (dfield o.raw 0x28 4 4 = 1) false s ctx i o) s

/-- DRAIN (R262). -/
def execCellDrain (cell op : Nat) (s : State) : Host.Outcome State Fault Refusal :=
  opRow cell op 0x0B (fenceOp cell true true true) s

/-! ## Phases (R65-R67) -/

/-- Cells in which a context has a program that has not halted, in the cell or in its spill record. -/
def startedCells (s : State) (ctx : Nat) : List Nat :=
  let ids := tkeys s.cells
  ids.filter fun p => match imgOf s p ctx with
    | some i => i.started && !i.halted
    | none => false

/-- Every cell of a list faults with a code, at the PHASE that it waits in. -/
def faultPhase (s : State) (ctx code : Nat) (l : List Nat) : State :=
  l.foldl (fun s p =>
    match imgOf s p ctx with
    | none => s
    | some i =>
      match i.ops.find? fun o => opc o.raw == 5 && o.stage = .waiting with
      | none => s
      | some o => failOp (setImg s p ctx { i with phaseWait := false }) p ctx o.id code o.track o.desc) s

/-- PHASE (R66, R67): the cell arrives at its context's barrier. -/
def phaseOp (cell : Nat) (s : State) (ctx : Nat) (i : CellImg) (o : Op) : State :=
  let c := s.ctx ctx
  let target := dfield o.raw 0x28 3 0
  if o.stage = .waiting then s
  else if (phaseIn (c.nextPhases.getD c.phases) target).isNone then opFault s cell o CellFault.PHASE_UNDEFINED
  else
    match c.barrier with
    | some b =>
      if b.target ≠ target ∧ !b.arrived.isEmpty then
        let s := s.setCtx ctx { c with barrier := none }
        let s := faultPhase s ctx CellFault.PHASE_MISMATCH b.arrived
        opFault s cell o CellFault.PHASE_MISMATCH
      else
        let s := s.setCtx ctx { c with barrier := some { target := target, arrived := b.arrived ++ [cell] } }
        waitOp (setImg s cell ctx { i with phaseWait := true }) cell ctx o
    | none =>
      let s := s.setCtx ctx { c with barrier := some { target := target, arrived := [cell] } }
      waitOp (setImg s cell ctx { i with phaseWait := true }) cell ctx o

/-- PHASE. -/
def execPhase (cell op : Nat) (s : State) : Host.Outcome State Fault Refusal := opRow cell op 0x05 (phaseOp cell) s

/-- A cell waits at the barrier and is not spilled (R66). -/
def arrivedAt (s : State) (ctx p : Nat) : Bool :=
  placeOf s p ctx = some .cell && (s.cell p).move = .steady && (s.cell p).img.phaseWait

/-- The barrier completes (R66 steps 2 to 4): the table and the phase are in force, the sluice share with them (R217), and
the preferred point goes to the power
manager, and PHASE is carried out on every cell. -/
def phaseFinish (s : State) (ctx : Nat) : State :=
  let c := s.ctx ctx
  match c.barrier with
  | none => s
  | some b =>
    let s := s.setCtx ctx
      { c with barrier := none, phase := b.target, phases := c.nextPhases.getD c.phases, nextPhases := none }
    let s := repoint (applyShare s ctx)
    (startedCells s ctx).foldl (fun s p =>
      match imgOf s p ctx with
      | none => s
      | some i =>
        setImg s p ctx
          { i with phaseWait := false
                   ops := i.ops.map fun o => if opc o.raw = 5 ∧ o.stage = .waiting then { o with stage := .executed } else o }) s

/-- A phase change that runs the re-shard engine (R66 step 1): the mapping's identity changes and the new entry names a
layout. -/
def phaseReshards (c : Ctx) (target : Nat) : Bool :=
  match phaseIn (c.nextPhases.getD c.phases) target with
  | some e => target != c.phase && e.mapId != c.entry.mapId && e.mapAddr != 0
  | none => false

end Sys2Proof.Machine
end

