-- ==== Sys2Proof/Machine/Streams.lean ====
section
/-!
DEFINITION. Streams and re-shards: the stream commands (R176-R180), the sending, receiving and acknowledging of packets
(R182-R185, R193, R194), the ends of transfers (R187-R192) and the re-shard engines (R196-R200).
-/

namespace Sys2Proof.Machine

/-! ## STREAM_CREATE (R176-R179) -/

/-- A 24-byte endpoint field read as one number (R177). -/
def Endpoint.ofRaw (kind r : Nat) : Endpoint :=
  let f (off hi lo : Nat) : Nat := dfield r off hi lo
  if kind = Kind.CELL then ⟨kind, f 0 31 16, f 0 5 0, 0, 0, 0, 0⟩
  else if kind = Kind.MEMORY then ⟨kind, 0, 0, f 0 63 0, f 8 63 0, f 0x10 6 0, 0⟩
  else if kind = Kind.HOST then ⟨kind, 0, 0, f 0 63 0, f 8 63 0, f 0x10 1 0, 0⟩
  else if kind = Kind.CORE then ⟨kind, f 0x0C 6 0, 0, f 0 63 0, f 8 31 16, f 8 15 0, f 0x10 63 0⟩
  else ⟨kind, 0, f 4 31 0, f 0 19 0, 0, 0, 0⟩

/-- A bit of an endpoint field that its kind does not name is set (R177). -/
def endpointReserved (kind r : Nat) (source : Bool) : Bool :=
  let f (off hi lo : Nat) : Nat := dfield r off hi lo
  if kind = Kind.CELL then f 0 15 6 != 0 || f 4 159 0 != 0
  else if kind = Kind.MEMORY then f 0x10 63 7 != 0 || (source && f 0x10 6 0 != 0)
  else if kind = Kind.HOST then f 0x10 63 2 != 0
  else if kind = Kind.CORE then f 0x0C 31 7 != 0
  else if kind = Kind.REMOTE then f 0 31 20 != 0 || f 8 127 0 != 0
  else false

/-- An endpoint breaks R177 or R183. -/
def endpointBad (s : State) (ctx : Nat) (e : Endpoint) (source : Bool) : Bool :=
  if e.kind = Kind.CELL then decide ((logicalCells (s.ctx ctx)).length ≤ e.unit)
  else if e.kind = Kind.MEMORY then e.base % 256 != 0 || e.size % 64 != 0 || e.size == 0
  else if e.kind = Kind.HOST then e.base % 4096 != 0 || e.size % 64 != 0 || e.size == 0 || e.opt == 0
  else if e.kind = Kind.CORE then
    e.base % 4096 != 0 || e.size == 0 || decide (4096 < e.size) || e.opt == 0 || decide (16 < e.opt) || decide (95 < e.unit)
      || e.control % 64 != 0 || (!source && decide (e.size * e.opt < 16))
  else e.kind != Kind.REMOTE

/-- The least index never used. Indices that a promotion has taken (R385), and those it took that have been freed since, are
passed over. -/
def nextUnused (s : State) : Nat :=
  (((List.range (s.str.streams.length + s.str.freed.length + 1)).map (· + s.str.unused)).find? fun i =>
    (s.stream i).st = .free && !s.str.freed.contains i).getD s.str.unused

/-- The index that STREAM_CREATE takes (R174): one never used, in ascending order, else the one freed longest ago. -/
def takeIndex (s : State) : Option (Nat × State) :=
  let i := nextUnused s
  if i < 2 ^ 18 then some (i, { s with str := { s.str with unused := i + 1 } })
  else
    match s.str.freed with
    | [] => none
    | i :: l => some (i, { s with str := { s.str with freed := l } })

/-- A stream created from a descriptor: its handle and the status of R179. -/
def createStream (s : State) (ctx raw : Nat) : State × Nat × Nat :=
  let sk := dfield raw 0 31 28
  let nk := dfield raw 0 27 24
  let src := Endpoint.ofRaw sk (dfield raw 0x08 191 0)
  let snk := Endpoint.ofRaw nk (dfield raw 0x20 191 0)
  if (s.ctx ctx).desc.streamLimit ≤ (streamsOf s ctx).length then (s, 0, 1)
  else
    match takeIndex s with
    | none => (s, 0, 2)
    | some (i, t) =>
      if endpointBad s ctx src true ∨ endpointBad s ctx snk false ∨ (sk = Kind.REMOTE ∧ nk = Kind.REMOTE) then (s, 0, 3)
      else
        let x : Stream :=
          { Stream.idle with
            gen := (s.stream i).gen, st := .live, ctx := ctx, src := src, snk := snk, flush := bit raw 23,
            vlane := bits raw 22 20, order := if (s.ctx ctx).desc.version = 2 then 0 else bits raw 19 10,
            home := homeOf s ctx i src snk }
        let t := t.setStream i x
        let t := if sk = Kind.REMOTE ∧ addressable x then grantCredits t i 16 else t
        (t, handleOf t i, 0)

/-- STREAM_CREATE (R179). The result's translation is found first, so that a stall leaves nothing created. -/
def streamCreateCmd (ctx : Nat) (s : State) (cmd : Cmd) : Option State :=
  let res := cmd.f 0x30 63 0
  if !cmd.zeros [0x20, 0x24, 0x38, 0x3C] ∨ res % 8 ≠ 0 then failCmd s ctx cmd CmdErr.BAD_FIELD
  else
    match cmdRead s ctx cmd.seq (cmd.f 0x28 63 0) 64 with
    | (s, none) => some s
    | (s, some bytes) =>
      let raw := leNat bytes
      if bits raw 9 0 ≠ 0 ∨ dfield raw 0x04 31 0 ≠ 0 ∨ dfield raw 0x38 63 0 ≠ 0
          ∨ endpointReserved (dfield raw 0 31 28) (dfield raw 0x08 191 0) true
          ∨ endpointReserved (dfield raw 0 27 24) (dfield raw 0x20 191 0) false then
        failCmd s ctx cmd CmdErr.BAD_FIELD
      else
        match tileAll s (cmdReq ctx cmd.seq) true (tiles64 res 8) with
        | (s, none) => some s
        | (s, some segs) =>
          if noPort s segs then some s
          else
            let (s, h, st) := createStream s ctx raw
            doneCmd (ctxWrite s ctx segs (leBytes 8 (h + st * 2 ^ 32))) ctx cmd

/-- STREAM_CREATE. -/
def execStreamCreate (ctx : Nat) (s : State) : Host.Outcome State Fault Refusal := cmdRow ctx 0x08 (streamCreateCmd ctx) s

/-- A command names a current handle of its context (R179). -/
def ownHandle (s : State) (ctx h : Nat) : Bool := currentHandle s h && (s.stream (h % 2 ^ 18)).ctx == ctx

/-- STREAM_DESTROY (R180): it is carried out when the index is freed. -/
def streamDestroyCmd (ctx : Nat) (s : State) (cmd : Cmd) : Option State :=
  let h := cmd.f 0x20 31 0
  let i := h % 2 ^ 18
  if cmd.begun ≠ 0 then none
  else if !cmd.zeros [0x24, 0x28, 0x2C, 0x30, 0x34, 0x38, 0x3C] ∨ !ownHandle s ctx h then failCmd s ctx cmd CmdErr.BAD_FIELD
  else if (s.stream i).st = .destroying then none
  else
    let s := mapCmd s ctx cmd.index fun x => { x with begun := 1 }
    some (finishDestroy (beginDestroy s i (some (ctx, cmd.index))) i)

/-- STREAM_DESTROY. -/
def execStreamDestroy (ctx : Nat) (s : State) : Host.Outcome State Fault Refusal := cmdRow ctx 0x09 (streamDestroyCmd ctx) s

/-- STREAM_QUERY's record (R179). -/
def queryRecord (s : State) (ctx h : Nat) : List Byte :=
  let i := h % 2 ^ 18
  let x := s.stream i
  let cur := currentHandle s h
  let st := if x.st = .live then 1 else if x.st = .detached then 3 else if x.st = .free then 0 else 2
  let st := if x.st = .destroying then 1 else st
  if cur then
    leBytes 4 h ++ leBytes 1 st ++ leBytes 1 x.lastStatus ++ leBytes 1 x.xfers.length ++ leBytes 1 0
      ++ leBytes 4 x.lastFailSeq ++ leBytes 4 x.credits ++ leBytes 8 x.delivered ++ leBytes 8 0
  else
    leBytes 4 (handleOf s i) ++ leBytes 1 (if x.st != .free && x.ctx != ctx then 4 else st) ++ List.replicate 27 0

/-- STREAM_QUERY (R179). -/
def streamQueryCmd (ctx : Nat) (s : State) (cmd : Cmd) : Option State :=
  let h := cmd.f 0x20 31 0
  if !cmd.zeros [0x24, 0x30, 0x34, 0x38, 0x3C] ∨ bits h 19 18 ≠ 0
      ∨ (currentHandle s h ∧ (s.stream (h % 2 ^ 18)).ctx ≠ ctx) then
    failCmd s ctx cmd CmdErr.BAD_FIELD
  else
    match cmdWrite s ctx cmd.seq (cmd.f 0x28 63 0) (queryRecord s ctx h) with
    | (s, false) => some s
    | (s, true) => doneCmd s ctx cmd

/-- STREAM_QUERY. -/
def execStreamQuery (ctx : Nat) (s : State) : Host.Outcome State Fault Refusal := cmdRow ctx 0x0C (streamQueryCmd ctx) s

/-! ## Transfers (R187-R192) -/

/-- A transfer's ranges run beyond its endpoints, or its stream takes no transfers (R187). -/
def xferRangeBad (x : Stream) (src dst len : Nat) : Bool :=
  !(x.src.kind == Kind.MEMORY || x.src.kind == Kind.HOST) || decide (x.src.size < src + len)
    || ((x.snk.kind == Kind.MEMORY || x.snk.kind == Kind.HOST) && decide (x.snk.size < dst + len))

/-- A transfer put at the end of its stream's list (R189); on a dead, destroyed or detached stream it ends at once (R180,
R192, R194). -/
def issueXfer (s : State) (i : Nat) (t : Xfer) : State :=
  let x := s.stream i
  let id := x.nextXfer
  let s := s.setStream i { x with xfers := x.xfers ++ [{ t with id := id }], nextXfer := id + 1 }
  match x.st with
  | .dead => failXfer s i id XferSt.STALE
  | .destroying => failXfer s i id XferSt.DESTROYED
  | .detached => failXfer s i id XferSt.HOST_DETACHED
  | _ => s

/-- XFER (R179, R187, R188): issued on its stream unless 16 transfers are pending there. Its stamp, which the command processor has
tested, holds the transfer by the stream engine's replica as well (R161; notes/assumptions/102.md). -/
def xferCmd (ctx : Nat) (s : State) (cmd : Cmd) : Option State :=
  let h := cmd.f 0x20 31 0
  let i := h % 2 ^ 18
  let len := cmd.f 0x24 30 0
  let src := cmd.f 0x28 63 0
  let dst := cmd.f 0x30 63 0
  if cmd.begun ≠ 0 then none
  else if !cmd.zeros [0x38, 0x3C] ∨ len = 0 ∨ 2 ^ 30 < len ∨ src % 64 ≠ 0 ∨ dst % 64 ≠ 0 ∨ !ownHandle s ctx h
      ∨ xferRangeBad (s.stream i) src dst (64 * len) then
    failCmd s ctx cmd CmdErr.BAD_FIELD
  else if 16 ≤ (s.stream i).xfers.length then none
  else
    let s := mapCmd s ctx cmd.index fun x => { x with begun := 1 }
    some (issueXfer s i
      { Xfer.idle with
        owner := cmd.index, len := 64 * len, src := src, dst := dst, flush := (s.stream i).flush || cmd.f 0x24 31 31 = 1,
        stamp := if cmd.stamped then some cmd.stamp else none, tested := true, seq := cmd.seq })

/-- XFER. -/
def execXfer (ctx : Nat) (s : State) : Host.Outcome State Fault Refusal := cmdRow ctx 0x0A (xferCmd ctx) s

/-! ## Sending packets (R182, R185) -/

/-- The sink is a cell that is being spilled and the floor's hold buffer has no room for a packet (R71). -/
def holdFull (s : State) (x : Stream) (n : Nat) : Bool :=
  x.snk.kind == Kind.CELL &&
    let c := endCell s x.ctx x.snk
    (match (s.cell c).move with
     | .spilling _ => decide ((s.cell c).runner = some x.ctx)
     | _ => false) && decide (65536 < holdBytes s (cellFloor c) + n)

/-- Units handed over and not sent, of the front hand-overs, up to `n`: source positions with their units, and the
hand-overs after it. -/
def takeHands : List Hand → Nat → List (Hand × Nat) × List Hand
  | [], _ => ([], [])
  | h :: l, n =>
    let k := min n (h.units - h.sent)
    let (a, b) := takeHands l (n - k)
    (if k = 0 then a else (h, k) :: a, { h with sent := h.sent + k } :: b)

/-- Bytes and poisoned words of `k` units of a hand-over of a cell, from the producer's buffer in SRAM. -/
def handData (s : State) (ctx : Nat) (h : Hand) (k : Nat) : Option (List Byte × List Nat) :=
  match imgOf s h.cell ctx with
  | none => none
  | some img =>
    let c := img.ctr h.counter
    some ((ringRanges c.bytes 66 ((h.ptr - c.base + 256 * h.sent) % max 1 c.bytes) (256 * k)).foldl
      (fun (q : List Byte × List Nat) p =>
        (q.1 ++ memBytes img.sram (c.base + p.1) p.2, q.2 ++ (img.poisonWords (c.base + p.1) p.2).map (· + q.1.length / 32)))
      ([], []))

/-- Bytes and poisoned words of a packet of the hand-overs `parts`: of a cell's, each from its buffer; of a core's, `n` bytes of
its ring, translated as one tile (R189, R284). -/
def handsData (s : State) (i : Nat) (parts : List (Hand × Nat)) (n : Nat) : State × Option (List Byte × List Nat) :=
  let x := s.stream i
  if x.src.kind = Kind.CORE then
    let ring := x.src.size * x.src.opt * 256
    let at_ := ((parts.head?.map fun p => p.1.ptr + 256 * p.1.sent).getD 0) % max 1 ring
    match tileAll s (streamReq s i 0 0xFFFF 0) false ((ringRanges ring 66 at_ n).map fun r => (x.src.base + r.1, r.2)) with
    | (s, none) => (s, none)
    | (s, some segs) =>
      let r := readSegs s x.ctx segs
      (r.1, some (r.2, segPoisonWords s 0 segs))
  else
    (s, parts.foldl (fun q p =>
      match q, handData s x.ctx p.1 p.2 with
      | some (d, w), some (d2, w2) => some (d ++ d2, w ++ w2.map (· + d.length / 32))
      | _, _ => none) (some ([], [])))

/-- A packet for another device leaves as messages (R345), marked where it begins and where it ends its transfer (R184). -/
def sendPacket (s : State) (p : Packet) : State :=
  let x := s.stream p.index
  let start := ((p.xfer.bind x.xfer).map fun t => p.dst == t.dst).getD false
  (sendPacketMsg s [] start p.last x.home (streamLane x.vlane) x.snk.base x.order x.snk.name p.dst p.data p.poison).1

/-- Packets of a stream to another device whose host reads are complete leave in the order sent, behind no packet whose reads
are not (R184). -/
def sendReads (s : State) : List Packet → State
  | [] => s
  | p :: l =>
    if p.fate = 3 then s
    else if p.fate ≠ 4 then sendReads s l
    else
      let s := { s with str := { s.str with packets := s.str.packets.map fun q =>
        if q.id = p.id then { q with fate := 0, sentAt := s.cic.count } else q } }
      sendReads (sendPacket s p) l

/-- A packet put on the network: the credits of all of it are spent (R182), a remote one leaves as messages (R345); one for a
device outside the machine partition is dropped, and its transfer ends at once (R362). `segs` is its sink range, where the sink is addressable and on this device. -/
def launch (s : State) (i : Nat) (xfer : Option Nat) (dst : Nat) (segs : Option (List Seg)) (data : List Byte)
    (poison : List Nat) (last : Bool) (fate : Nat) (fromUnit : Option Nat) : State :=
  let x := s.stream i
  let u := ceilDiv data.length 256
  let id := s.str.nextPacket
  let p : Packet :=
    { id := id, handle := if x.snk.kind = Kind.REMOTE then x.snk.name else handleOf s i, dev := (deviceId s).getD 0, index := i,
      xfer := xfer, dst := dst, segs := segs, data := data, poison := poison, last := last, fate := fate,
      sentAt := s.cic.count, fromUnit := fromUnit, copies := [] }
  let s := { s with str := { s.str with packets := s.str.packets ++ [p], nextPacket := id + 1 } }
  let s := if needsCredits x then s.setStream i { x with credits := x.credits - u } else s
  let s := count64 s 0 (steReg x.home Reg.STE_BYTES_LO) data.length
  if x.snk.kind ≠ Kind.REMOTE then s
  else if (deviceId s).isSome ∧ !inBlock s x.snk.base then
    match xfer with
    | some t =>
      failXfer { s with str := { s.str with packets := s.str.packets.filter (·.id != id) } } i t XferSt.UNREACHABLE
    | none => s
  else if fate = 3 then s
  else sendPacket s p

/-- The reads of a packet's source in host memory issued, each to its page's port (R328); the packet's data comes with
their completions. `at_` is the place of the first in the packet. -/
def issueReads (s : State) (i pk at_ : Nat) : List Seg → State
  | [] => s
  | g :: l =>
    let x := s.stream i
    let port := (hostPort s x.src.opt g.io).getD 0
    let op : HostOp :=
      { kind := 3, ctx := x.ctx, addr := g.pa, io := g.io, data := [], port := port, len := g.len, packet := pk, offset := at_ }
    let s := { s with host := { s.host with reads := s.host.reads ++ [op] } }
    issueReads (s.emit (.hostRead port g.pa g.len)) i pk (at_ + g.len) l

/-- Ports of the pieces of a HOST source, as a bit set. -/
def portBits (s : State) (allowed : Nat) (l : List Seg) : Nat :=
  l.foldl (fun a g => a ||| 2 ^ ((hostPort s allowed g.io).getD 0)) 0

/-- Bytes of a packet sent next, of those of a transfer that are left: a packet's units lie in the sink's slots (R182,
R185). -/
def packetBytes (left : Nat) : Nat := min 4096 left

/-- A packet of `n` bytes of a transfer sent, its source and sink ranges translated (R284). -/
def sendRange (s : State) (i : Nat) (t : Xfer) (n : Nat) : State × Bool :=
  let x := s.stream i
  let req := xferReq s i t
  let va := x.src.base + t.src + t.sent
  let last := decide (t.sent + n = t.len)
  let r := if x.src.kind = Kind.HOST then hostTile s req va n false else tile s req va n false
  match r with
  | (s, none) => (s, false)
  | (s, some src) =>
    match sinkTile s req i (t.dst + t.sent) n with
    | (s, none) => (s, false)
    | (s, some snk) =>
      let segs := if addressable x then some snk else none
      if x.src.kind = Kind.HOST then
        if src.any fun g => (hostPort s x.src.opt g.io).isNone then (s, false)
        else
          let pk := s.str.nextPacket
          let m := portBits s x.src.opt src
          let s := s.setStream i ((s.stream i).mapXfer t.id fun t => { t with sent := t.sent + n, srcPorts := t.srcPorts ||| m })
          (issueReads (launch s i (some t.id) (t.dst + t.sent) segs (List.replicate n 0) [] last 3 none) i pk 0 src, true)
      else
        let p := segPoisonWords s 0 src
        let (s, d) := readSegs s x.ctx src
        let s := s.setStream i ((s.stream i).mapXfer t.id fun t => { t with sent := t.sent + n })
        (launch s i (some t.id) (t.dst + t.sent) segs d p last 0 none, true)

/-- While a stream has a transfer in progress, its home unit looks ahead for the eight tiles after the current one (R285): for those not
looked ahead for yet, source range and sink range. -/
def lookAhead (s : State) (i : Nat) : State :=
  let x := s.stream i
  match x.xfers with
  | [] => s
  | t :: _ =>
    let next := t.sent + packetBytes (t.len - t.sent)
    let from_ := max t.ahead next
    let upto := min t.len (next + 8 * 4096)
    if upto ≤ from_ then s
    else
      let req := xferReq s i t
      let s := s.setStream i (x.mapXfer t.id fun t => { t with ahead := upto })
      let s := prefetchRanges s req (x.src.kind = Kind.HOST) false [(x.src.base + t.src + from_, upto - from_)]
      if addressable x then prefetchRanges s req (x.snk.kind = Kind.HOST) true (sinkRanges x (t.dst + from_) (upto - from_)) else s

/-- The next packet of a stream's transfer in progress, where its stamp, its credits and its source allow it (R185, R189). -/
def sendXfer (s : State) (i : Nat) (t : Xfer) : State × Bool :=
  let x := s.stream i
  let u := Rep.stream x.home
  let s := match t.stamp with
    | some v => if t.tested then s else (lateStamp s u v).setStream i (x.mapXfer t.id fun t => { t with tested := true })
    | none => s
  let n := packetBytes (t.len - t.sent)
  if (t.stamp.map fun v => decide (replica s u < v)).getD false ∨ !dieLoaded s (2 + x.home) ∨ n = 0 then (s, false)
  else
    let r := if holdFull s x n ∨ (needsCredits x ∧ x.credits < ceilDiv n 256) then (s, false) else sendRange s i t n
    (lookAhead r.1 i, r.2)

/-- Where the next packet of a window source goes in an addressable sink, which it fills as a ring (R178); the offset that a
packet to another device carries runs on, and its receiver wraps it. -/
def nextRing (x : Stream) (n : Nat) : Nat :=
  if addressable x then (x.ringAt + n) % max 1 x.snk.size else if x.snk.kind = Kind.REMOTE then x.ringAt + n else x.ringAt

/-- The producer's buffer lies in a cell whose clock has stopped: nothing can be read from it (R36). -/
def handStopped (s : State) (ctx : Nat) (h : Hand) : Bool :=
  h.cell != 0xFFFF && cellClockStopped s h.cell && placeOf s h.cell ctx == some .cell

/-- The next packet of a window source: up to 16 units of the slots handed over (R183, R185). -/
def sendHand (s : State) (i : Nat) : State × Bool :=
  let x := s.stream i
  let (parts, rest) := takeHands x.hands 16
  let u := (parts.map Prod.snd).foldl (· + ·) 0
  if u = 0 ∨ holdFull s x (256 * u) ∨ (needsCredits x ∧ x.credits < u) ∨ parts.any (fun p => handStopped s x.ctx p.1) then
    (s, false)
  else
    match handsData s i parts (256 * u) with
    | (s, none) => (s, false)
    | (s, some (d, w)) =>
      match sinkTile s (streamReq s i 0 0xFFFF 0) i x.ringAt d.length with
      | (s, none) => (s, false)
      | (s, some snk) =>
        let dst := if addressable x ∨ x.snk.kind = Kind.REMOTE then x.ringAt else 0
        let s := s.setStream i { s.stream i with hands := rest, ringAt := nextRing x d.length }
        let at_ := (parts.head?.map fun p => p.1.start + p.1.sent).getD 0
        (launch s i none dst (if addressable x then some snk else none) d w false 0 (some at_), true)

/-- One packet of a stream, where it can send one. A stream to another device sends only while the machine partition is active
(R363). -/
def sendOne (s : State) (i : Nat) : State × Bool :=
  let x := s.stream i
  if x.st ≠ .live ∨ (x.snk.kind = Kind.REMOTE ∧ s.lnk.partState ≠ 0) then (s, false)
  else if x.src.kind = Kind.CELL ∨ x.src.kind = Kind.CORE then sendHand s i
  else
    match x.xfers with
    | [] => (s, false)
    | t :: _ => sendXfer s i t

/-- The first stream of a list that can send a packet sends it. -/
def sendFirst (f : Nat) : List Nat → State → State
  | [], s => s
  | i :: l, s =>
    match sendOne s i with
    | (s, true) => { s with str := { s.str with lastServed := s.str.lastServed.set f i } }
    | (s, false) => sendFirst f l s

/-- STREAM_PACKET_SEND (R185): a floor's engine serves its streams in rotating order of index. -/
def execStreamPacketSend (floor : Nat) (s : State) : Host.Outcome State Fault Refusal :=
  let mine := (tkeys s.str.streams).filter fun i => (s.stream i).st = .live && (s.stream i).home == floor
  let last := nth s.str.lastServed floor
  run (okFloor floor)
    (if s.boot.warmBusy ∨ s.boot.fatal ∨ s.offline (2 + floor) then s
     else sendFirst floor ((mine.filter (last < ·)) ++ (mine.filter (· ≤ last))) s)

/-! ## Receiving packets (R184, R193) -/

/-- The mirror copies of a packet's bytes (R380). -/
def setCopies (s : State) (id : Nat) (l : List Nat) : State :=
  { s with str := { s.str with packets := s.str.packets.map fun (k : Packet) => if k.id = id then { k with copies := l } else k } }

/-- A packet of this device reaches its sink: those of one stream in the order sent (R184). -/
def receiveHere (s : State) (id : Nat) : State :=
  match s.str.packets.find? (·.id = id) with
  | none => s
  | some p =>
    let first := (s.str.packets.find? fun q => q.index = p.index && q.onWay).map (·.id)
    if p.fate ≠ 0 ∨ first ≠ some id ∨ (s.stream p.index).snk.kind = Kind.REMOTE then s
    else
      let first_ := s.mir.nextCopy
      match placeData s p.index p.xfer p.dst p.segs p.data p.poison with
      | (s, .waits) => s
      | (s, .done) => setCopies (setFate s id 1) id (copiesFrom s first_)
      | (s, .stale) => setFate (countStale s (sinkFloor s p.index) p.handle p.dev) id 2

/-- A receiving half's window sink has no room for `n` bytes: its sending half has spent credits that a closed slot or a rebound
counter took back (R182-R184), and the message waits. -/
def windowFull (s : State) (i n : Nat) : Bool :=
  let x := s.stream i
  (sinkShape s i).isSome && decide (x.credits - x.debt < ceilDiv n 256)

/-- A message of stream data from another device reaches a receiving half (R178, R184, R193): placed and acknowledged, or
answered with a STALE NACK. -/
def receiveRemote (s : State) (dev sender handle dst : Nat) (data : List Byte) (poison : List Nat) (first last : Bool) : State :=
  let i := handle % 2 ^ 18
  let x := s.stream i
  if currentHandle s handle ∧ x.src.kind = Kind.REMOTE ∧ x.src.base = dev ∧ x.src.name = sender then
    let s := if first then closeSlot s i else s
    if windowFull s i data.length then s
    else
    let first_ := s.mir.nextCopy
    match placeData s i none dst none data poison with
    | (s, .waits) => s
    | (s, .done) =>
      let u := ceilDiv data.length 256
      let y := s.stream i
      let s := s.setStream i { y with delivered := y.delivered + data.length, credits := y.credits - u }
      let s := if last then closeSlot s i else s
      let s := if addressable y then grantCredits s i u else s
      sendAfter s first_ { lane := 7, kind := 2, source := x.home, dst := dev, order := x.order, handle := sender, extra := [], copies := [] }
    | (s, .stale) => (sendMsg (countStale s (sinkFloor s i) handle dev) 3 7 x.home dev x.order sender 0 [] []).1
  else
    (sendMsg (countStale s (if x.st = .free then i % 4 else sinkFloor s i) handle dev) 3 7 x.home dev x.order sender 0 [] []).1

/-- PACKET_RECEIVE (R184). -/
def execPacketReceive (p : Arrival) (s : State) : Host.Outcome State Fault Refusal :=
  match p with
  | .here id => .next (receiveHere s id)
  | .remote dev sender handle dst data poison first last =>
    .next (receiveRemote s (dev % 2 ^ 20) sender handle dst data poison first last)

/-- PACKET_ACK_RECEIVE (R182, R183): a packet placed at its sink, here or on another device, is acknowledged; one in a mirrored
region not before its copies are (R380). -/
def execPacketAckReceive (packet : Nat) (s : State) : Host.Outcome State Fault Refusal :=
  .next (match s.str.packets.find? (·.id = packet) with
    | none => s
    | some p =>
      if (p.fate = 1 ∧ !copiesOpen s p.copies) ∨ (p.fate = 0 ∧ (s.stream p.index).snk.kind = Kind.REMOTE) then finishDestroy (ackPacket s p) p.index else s)

/-- STALE_NACK_RECEIVE (R193, R194): the credits come back, the stream is dead; the SENDs whose slots are concerned fault. -/
def execStaleNackReceive (packet : Nat) (s : State) : Host.Outcome State Fault Refusal :=
  .next (match s.str.packets.find? (·.id = packet) with
    | none => s
    | some p =>
      let x := s.stream p.index
      if p.fate = 2 ∨ (p.fate = 0 ∧ x.snk.kind = Kind.REMOTE) then
        let s := { s with str := { s.str with packets := s.str.packets.filter (·.id != packet) } }
        let s := if needsCredits x then s.setStream p.index { x with credits := x.credits + ceilDiv p.data.length 256 } else s
        let s := count s (steReg x.home Reg.STE_NACK_RX) 1
        finishDestroy (if x.st = .destroying then s else killHands p.ends s p.index) p.index
      else s)

/-! ## Ends of transfers -/

/-- Ports of a bit set. -/
def portsOf (m : Nat) : List Nat := bitList m 2

/-- TRANSFER_END (R190, R191): the first transfer of a stream, all of whose data is performed. Flush before flag reads back
from every port that carried the data of a HOST sink first. -/
def transferEnd (s : State) (i : Nat) : State :=
  let x := s.stream i
  match x.xfers with
  | [] => s
  | t :: _ =>
    if t.acked < t.len ∨ t.readbacks ≠ 0 then s
    else if t.flush ∧ x.snk.kind = Kind.HOST then
      let ps := portsOf t.ports
      let s := s.setStream i (x.mapXfer t.id fun t => { t with flush := false, readbacks := ps.length })
      let s := ps.foldl (fun s p => s.emit (.hostRead p (nth t.lines p) 64)) s
      count s (steReg x.home Reg.STE_FLUSH_CNT) ps.length
    else endXferOk s i t.id

/-- TRANSFER_END. -/
def execTransferEnd (index : Nat) (s : State) : Host.Outcome State Fault Refusal :=
  run (okStream index) (transferEnd s index)

/-- FLUSH_READBACK_DONE (R191, R330): every read-back has completed. -/
def execFlushReadbackDone (index : Nat) (s : State) : Host.Outcome State Fault Refusal :=
  run (okStream index)
    (let x := s.stream index
     match x.xfers with
     | [] => s
     | t :: _ => s.setStream index (x.mapXfer t.id fun t => { t with readbacks := 0 }))

/-- TRANSFER_UNREACHABLE (R190): a packet to another device was not acknowledged within 10 ms. -/
def execTransferUnreachable (index : Nat) (s : State) : Host.Outcome State Fault Refusal :=
  run (okStream index)
    (let x := s.stream index
     match x.xfers with
     | [] => s
     | t :: _ =>
       let old := s.str.packets.any fun p => p.index = index && p.xfer = some t.id && decide (p.sentAt + 1250000 ≤ s.cic.count)
       if x.snk.kind = Kind.REMOTE ∧ old then
         let s := { s with str := { s.str with packets := s.str.packets.filter fun p => !(p.index = index && p.xfer = some t.id) } }
         failXfer s index t.id XferSt.UNREACHABLE
       else s)

/-- CORE_RING_POLL (R182, R183): the engine reads the counts of a CORE endpoint. At a sink, credits are the free slots
less what is on its way or part-filled; at a source, slots newly produced are handed over. A count whose write still stalls is
not read back. -/
def corePoll (s : State) (i : Nat) : State :=
  let x := s.stream i
  let req := streamReq s i 0 0xFFFF 0
  if x.st ≠ .live then s
  else
    let s := writeCounts s i
    let s :=
      if x.snk.kind ≠ Kind.CORE ∨ (s.stream i).prodDue then s
      else
        match coreCount s req x.snk.control with
        | (s, none) => s
        | (s, some prod) =>
          match coreCount s req (x.snk.control + 8) with
          | (s, none) => s
          | (s, some cons) =>
            let x := s.stream i
            let sz := x.snk.opt * 256
            let used := (prod + 2 ^ 64 - cons) % 2 ^ 64
            let fresh := x.delivered = 0 && !(s.str.packets.any fun p => p.index = i)
            let at_ := if fresh then prod % x.snk.size * sz else x.ringAt
            let part := ceilDiv (at_ % sz) 256
            let free := (x.snk.size - used) * x.snk.opt - unitsInFlight s i - part
            let s := s.setStream i { x with coreWritten := prod, ringAt := at_, coreRead := cons }
            if x.src.kind = Kind.REMOTE then grantCredits s i (free - (x.credits - x.debt))
            else s.setStream i { s.stream i with credits := free }
    let x := s.stream i
    if x.src.kind ≠ Kind.CORE ∨ x.consDue then s
    else
      match coreCount s req x.src.control with
      | (s, none) => s
      | (s, some prod) =>
        match coreCount s req (x.src.control + 8) with
        | (s, none) => s
        | (s, some cons) =>
          let x := s.stream i
          let out := ((x.hands.map (·.slots x.src.opt)).foldl (· + ·) 0)
          let new := min x.src.size ((prod + 2 ^ 64 - cons) % 2 ^ 64) - out
          if new = 0 then s.setStream i { x with srcDone := cons }
          else
            let slot (j : Nat) : Hand :=
              { cell := 0xFFFF, counter := 0, op := 0, send := false, ptr := (cons + out + j) % x.src.size * x.src.opt * 256,
                units := x.src.opt, start := 0, sent := 0, acked := 0 }
            let y := { x with srcDone := cons }
            s.setStream i (y.handOver ((List.range new).map slot))

/-- CORE_RING_POLL. -/
def execCoreRingPoll (index : Nat) (s : State) : Host.Outcome State Fault Refusal :=
  run (okStream index) (corePoll s index)

end Sys2Proof.Machine
end

