-- ==== Sys2Proof/Machine/CellOps.lean ====
section
/-!
DEFINITION. The operations of a cell's move, matrix and vector engines and of the match unit (R82-R97, R99-R156, R188,
R195), over the pure results of Formats, MatrixEngine, VectorEngine and MatchUnit.
-/

namespace Sys2Proof.Machine

/-! ## Operands in slots -/

/-- The binding that an operation took at an input or output port. -/
def Op.inAt (o : Op) (k : Nat) : Option Bind := (o.ins.find? (·.1 = k)).map Prod.snd
def Op.outAt (o : Op) (k : Nat) : Option Bind := (o.outs.find? (·.1 = k)).map Prod.snd

/-- The run of slots of a binding (R102). -/
def CellImg.runOf (i : CellImg) (b : Bind) : Run := (i.ctr b.counter).run b.ptr b.count

/-- The run at a port, empty where the port is not bound. -/
def CellImg.inRun (i : CellImg) (o : Op) (k : Nat) : Run := ((o.inAt k).map i.runOf).getD ⟨0, 0, 0, 0⟩
def CellImg.outRun (i : CellImg) (o : Op) (k : Nat) : Run := ((o.outAt k).map i.runOf).getD ⟨0, 0, 0, 0⟩

/-- The pieces of SRAM that `n` bytes of a run from byte `off` occupy. -/
def runSpans (r : Run) (off n : Nat) : List (Nat × Nat) :=
  if r.ring = 0 ∨ n = 0 then []
  else
    let a := (r.first + off) % r.ring
    if a + n ≤ r.ring then [(r.base + a, n)] else [(r.base + a, r.ring - a), (r.base, a + n - r.ring)]

/-- Some word of the pieces of a run is poisoned: byte offsets in the run and lengths. -/
def CellImg.piecesPoisoned (i : CellImg) (r : Run) (ps : List (Nat × Nat)) : Bool :=
  ps.any fun q => (runSpans r q.1 q.2).any fun p => i.poisoned p.1 p.2

/-- Some word of the first `n` bytes of a run is poisoned. -/
def CellImg.runPoisoned (i : CellImg) (r : Run) (n : Nat) : Bool := i.piecesPoisoned r [(0, n)]

/-- Bytes stored in a run from byte `off`. -/
def CellImg.storeRun (i : CellImg) (r : Run) (off : Nat) (data : List Byte) : CellImg :=
  ((runSpans r off data.length).foldl (fun (q : CellImg × List Byte) p =>
    (q.1.store p.1 (q.2.take p.2) [], q.2.drop p.2)) (i, data)).1

/-- An operation's results: the cell's new contents, and the operation carried out. -/
def opWrites (s : State) (cell ctx : Nat) (o : Op) (i : CellImg) : State := doneOp (setImg s cell ctx i) cell ctx o

/-- A matrix or vector operation does not run while its cell is being spilled: the engine has stopped at a tile boundary
(R70). -/
def engineRow (cell op code : Nat) (f : State → Nat → CellImg → Op → State) (s : State) : Host.Outcome State Fault Refusal :=
  opRow cell op code (fun s ctx i o => if (s.cell cell).move = .steady then f s ctx i o else s) s

/-! ## MOVE (R96, R97) -/

/-- Groups of a grouped format that fit in `n` bytes: the largest number (R96). -/
def groupsIn (f n : Nat) : Nat :=
  (List.range (n / (planeBytes f + 16) + 1)).foldl (fun a g => if groupedBytes f g ≤ n ∧ 0 < g then g else a) 0

/-- A converting MOVE: its elements converted, with the elements counted and whether one cannot be decoded. -/
def moveConvert (i : CellImg) (r : Run) (src dst : Nat) : Option (List Byte) :=
  if fmtGrouped src then
    let g := groupsIn src r.len
    ((List.range g).flatMap fun a => (List.range 256).map fun e => (a, e)).foldl (fun acc p =>
      match acc, groupElem i.sram i.books r 0 src g p.1 p.2 with
      | some l, some x => some (l ++ leBytes (fmtBits dst / 8) (convertTo dst false x).code)
      | _, _ => none) (some [])
  else
    some ((List.range (r.len * 8 / fmtBits src)).flatMap fun e =>
      leBytes (fmtBits dst / 8) (convertTo dst false (decodeElem src (elemCode i.sram r 0 src e))).code)

/-- The pieces of IN0 that a MOVE reads: all of it, or the groups that it converts. -/
def movePieces (copy : Bool) (src n : Nat) : List (Nat × Nat) :=
  if !copy && fmtGrouped src then groupedPieces src (groupsIn src n) 0 else [(0, n)]

/-- A table write fired before an operation has not been carried out (R87). -/
def cbSetAhead (i : CellImg) (o : Op) : Bool := i.ops.any fun p => opc p.raw == 0x3D && decide (p.id < o.id) && !(p.stage = .executed)

/-- MOVE: one that converts a code-book format waits for the table writes fired before it (R87). -/
def moveOp (cell : Nat) (s : State) (ctx : Nat) (i : CellImg) (o : Op) : State :=
  let conv := dfield o.raw 0x28 7 0
  let src := conv / 16
  let dst := conv % 16
  let r := i.inRun o 0
  let w := i.outRun o 0
  let copy : Bool := src == dst
  if readsBooks o.raw ∧ cbSetAhead i o then s
  else if moveIllegal o.raw then opFault s cell o CellFault.ILLEGAL_OP
  else if (o.inAt 0).isNone ∨ (o.outAt 0).isNone ∨ (o.outAt 1).isSome ∨ (!copy ∧ fmtGrouped src ∧ groupsIn src r.len = 0) then
    opFault s cell o CellFault.BAD_BINDING
  else
    let n := if copy then r.len
      else (if fmtGrouped src then 256 * groupsIn src r.len else r.len * 8 / fmtBits src) * (fmtBits dst / 8)
    if w.len < n then opFault s cell o CellFault.BAD_BINDING
    else if i.piecesPoisoned r (movePieces copy src r.len) then opFault s cell o CellFault.SRAM_UNCORRECTED
    else if copy then opWrites s cell ctx o (i.storeRun w 0 (r.bytes i.sram r.len))
    else
      match moveConvert i r src dst with
      | none => opFault s cell o CellFault.ENGINE_FAULT
      | some d => opWrites s cell ctx o (i.storeRun w 0 d)

/-- MOVE (R96). -/
def execMove (cell op : Nat) (s : State) : Host.Outcome State Fault Refusal := opRow cell op 0x10 (moveOp cell) s

/-! ## The stream operations (R187, R188, R195) -/

/-- A SEND's or XFER_LIST's IN0 is bound and consumed, and nothing is bound as an output (R195). -/
def streamBindingsOk (o : Op) (needs : Bool) : Bool :=
  o.outs.isEmpty && (!needs || ((o.inAt 0).map fun b => !b.hold).getD false)

/-- SEND: the slots are handed to the stream; the operation is carried out when every unit is acknowledged. -/
def sendOp (cell : Nat) (s : State) (ctx : Nat) (i : CellImg) (o : Op) : State :=
  if o.stage = .waiting then s
  else if !streamBindingsOk o true then opFault s cell o CellFault.BAD_BINDING
  else
    let h := dfield o.raw 0x28 31 0
    let idx := h % 2 ^ 18
    let x := s.stream idx
    if !ownHandle s ctx h ∨ x.src.kind ≠ Kind.CELL ∨ x.src.unit ≠ logicalOf (s.ctx ctx) cell ∨ x.st = .dead
        ∨ x.st = .destroying then
      opFault s cell o CellFault.ENGINE_FAULT
    else
      match o.inAt 0 with
      | none => s
      | some b =>
        let c := i.ctr b.counter
        let hand : Hand :=
          { cell := cell, counter := b.counter, op := o.id, send := true, ptr := c.base + b.ptr * c.size * 256,
            units := b.count * c.size, start := 0, sent := 0, acked := 0 }
        let s := s.setStream idx (x.handOver [hand])
        mapOp s cell ctx o.id fun o => { o with stage := .waiting, left := 1 }

/-- SEND (R195). -/
def execSend (cell op : Nat) (s : State) : Host.Outcome State Fault Refusal := opRow cell op 0x11 (sendOp cell) s

/-- XFER of a cell: the transfer is issued unless 16 are pending on its stream. -/
def cellXferOp (cell : Nat) (s : State) (ctx : Nat) (_i : CellImg) (o : Op) : State :=
  if o.stage = .waiting then s
  else if !streamBindingsOk o false then opFault s cell o CellFault.BAD_BINDING
  else
    let h := dfield o.raw 0x28 31 0
    let idx := h % 2 ^ 18
    let len := 64 * dfield o.raw 0x2C 30 0
    let src := dfield o.raw 0x30 63 0
    let dst := dfield o.raw 0x38 63 0
    if !ownHandle s ctx h ∨ xferRangeBad (s.stream idx) src dst len then opFault s cell o CellFault.ENGINE_FAULT
    else if 16 ≤ (s.stream idx).xfers.length then s
    else
      let s := mapOp s cell ctx o.id fun o => { o with stage := .waiting, left := 1 }
      issueXfer s idx
        { Xfer.idle with
          issuer := 2, owner := cell, op := o.id, len := len, src := src, dst := dst, flush := (s.stream idx).flush, seq := o.desc }

/-- XFER of a cell (R195). -/
def execCellXfer (cell op : Nat) (s : State) : Host.Outcome State Fault Refusal := opRow cell op 0x12 (cellXferOp cell) s

/-- A transfer record breaks R187 or R188, or names a stream that the operation may not use. -/
def recordBad (s : State) (ctx r : Nat) : Bool :=
  let h := dfield r 0 31 0
  let len := dfield r 4 30 0
  dfield r 0x30 31 3 != 0 || dfield r 0x38 63 0 != 0 || dfield r 0x18 63 63 != 0 || len == 0 || decide (2 ^ 30 < len)
    || dfield r 8 5 0 != 0 || dfield r 0x10 5 0 != 0 || (dfield r 0x30 1 1 == 1 && dfield r 0x20 2 0 != 0)
    || !ownHandle s ctx h || xferRangeBad (s.stream (h % 2 ^ 18)) (dfield r 8 63 0) (dfield r 0x10 63 0) (64 * len)

/-- A record whose handle went stale after the list's check: its transfer ends STALE (R188, R190). -/
def staleRecord (s : State) (cell ctx op h seq : Nat) : State :=
  let (tr, d) := opPlace s cell ctx op
  let s := raiseError (raiseCtxVector s ctx 2)
    { sev := 2, type := Err.XFER_FAILED, die := 2 + (s.stream (h % 2 ^ 18)).home, inst := ctx, ctx := some ctx, seq := seq,
      detail := [h, XferSt.STALE, 2, logicalOf (s.ctx ctx) cell] }
  failOp s cell ctx op CellFault.ENGINE_FAULT tr d

/-- Records issued in order, until one's stream has 16 transfers pending (R189). -/
def issueRecords (s : State) (cell ctx op : Nat) : List Nat → State
  | [] => s
  | r :: l =>
    let idx := dfield r 0 17 0
    if !ownHandle s ctx (dfield r 0 31 0) then staleRecord s cell ctx op (dfield r 0 31 0) (dfield r 0x34 31 0)
    else if 16 ≤ (s.stream idx).xfers.length then s
    else
      let s := mapOp s cell ctx op fun o => { o with issued := o.issued + 1 }
      let x := s.stream idx
      let s := issueXfer s idx
        { Xfer.idle with
          issuer := 2, owner := cell, op := op, len := 64 * dfield r 4 30 0, src := dfield r 8 63 0, dst := dfield r 0x10 63 0
          flush := x.flush || dfield r 4 31 31 = 1, stamp := if dfield r 0x30 0 0 = 1 then some (dfield r 0x18 63 0) else none
          flag := if dfield r 0x30 1 1 = 1 then some (dfield r 0x20 63 0, dfield r 0x28 63 0) else none
          irq := dfield r 0x30 2 2 = 1, seq := dfield r 0x34 31 0 }
      issueRecords s cell ctx op l

/-- XFER_LIST: every record is checked before the first is issued (R188). -/
def xferListOp (cell : Nat) (s : State) (ctx : Nat) (i : CellImg) (o : Op) : State :=
  let n := dfield o.raw 0x28 15 0
  let run := i.inRun o 0
  let recs := (List.range n).map fun k => run.le i.sram (64 * k) 64
  if o.stage = .waiting then issueRecords s cell ctx o.id (recs.drop o.issued)
  else if !streamBindingsOk o true ∨ run.len < 64 * n then opFault s cell o CellFault.BAD_BINDING
  else if i.runPoisoned run (64 * n) then opFault s cell o CellFault.SRAM_UNCORRECTED
  else if recs.any (recordBad s ctx) then opFault s cell o CellFault.ENGINE_FAULT
  else
    let s := mapOp s cell ctx o.id fun o => { o with stage := .waiting, left := n }
    issueRecords s cell ctx o.id recs

/-- XFER_LIST (R195). -/
def execXferList (cell op : Nat) (s : State) : Host.Outcome State Fault Refusal := opRow cell op 0x13 (xferListOp cell) s

/-! ## MM (R99-R116) -/

/-- MM's bindings break R99. -/
def mmBindingsBad (p : MMOp) (o : Op) : Bool :=
  (o.inAt 0).isNone || (o.inAt 1).isNone || (o.inAt 2).isSome != p.accIn || (o.outAt 0).isNone || (o.outAt 1).isSome

/-- The counters that a completed MM adds to (R116). -/
def mmCount (s : State) (cell : Nat) (p : MMOp) (queued : Bool) (r : MMResult) : State :=
  let a (off : Nat) : Nat := mxeReg cell off
  let s := count64 s 0 (a Reg.MXE_OP_CNT_LO) 1
  let s := count64 s 0 (a Reg.MXE_BUSY_CYC_LO) (r.tileCycles + if queued then 0 else 56)
  let s := count64 s 0 (a Reg.MXE_MAC_LO) (p.m * p.n * p.k * p.batch)
  let s := count64 s 0 (a Reg.MXE_CAP_MAC_LO) (r.tileCycles * peakMacs p.cls)
  let s := count s (a Reg.MXE_SKIP_ACT) r.skipAct
  let s := count s (a Reg.MXE_SKIP_BLK) r.skipBlk
  let s := count s (a Reg.MXE_MIN_TILE) r.minTile
  let s := count s (a Reg.MXE_NAN_OUT) r.nanOut
  count s (a Reg.MXE_SAT_OUT) r.satOut

/-- MM. Its row is carried out as a whole, so the partial state and the outputs that R108 lets an aborted or faulted MM leave are
none (notes/assumptions/94.md). Where it breaks several rules R101 and R109 do not say which fault is raised: ILLEGAL_OP comes
first, then BAD_BINDING, SRAM_UNCORRECTED and ENGINE_FAULT, whatever word or group the engine would reach first (DESIGN CHOICE,
notes/assumptions/96.md). -/
def mmOp (cell : Nat) (s : State) (ctx : Nat) (i : CellImg) (o : Op) : State :=
  let p := MMOp.ofRaw o.raw
  let ra := i.inRun o 0
  let rb := i.inRun o 1
  let rc := i.inRun o 2
  let w := i.outRun o 0
  if cbSetAhead i o then s
  else if p.illegal o.raw then opFault s cell o CellFault.ILLEGAL_OP
  else if mmBindingsBad p o ∨ ra.len < p.aBytes ∨ !p.bFits i.sram rb ∨ (p.accIn ∧ rc.len < p.outBytes p.accFmt)
      ∨ w.len < p.outBytes p.outFmt then
    opFault s cell o CellFault.BAD_BINDING
  else if i.piecesPoisoned ra p.aPieces ∨ i.piecesPoisoned rb (p.bPieces i.sram rb) ∨ (p.accIn ∧ i.piecesPoisoned rc p.cPieces) then
    opFault s cell o CellFault.SRAM_UNCORRECTED
  else if p.undecodable i.sram i.books ra rb then opFault s cell o CellFault.ENGINE_FAULT
  else
    let r := p.run i.sram i.books ra rb rc (bit (rd s 0 (mxeReg cell Reg.MXE_CTL)) 0)
    mmCount (opWrites s cell ctx o (r.data.foldl (fun i d => i.storeRun w d.1 d.2) i)) cell p o.queued r

/-- MM (R99). -/
def execMm (cell op : Nat) (s : State) : Host.Outcome State Fault Refusal := engineRow cell op 0x20 (mmOp cell) s

/-! ## The vector engine (R86-R95, R117-R135) -/

/-- A vector operation completed in a number of cycles (R133, R135). -/
def vxeCount (s : State) (cell cycles : Nat) (queued : Bool) : State :=
  count64 (count64 s 0 (vxeReg cell Reg.VXE_OP_CNT_LO) 1) 0 (vxeReg cell Reg.VXE_BUSY_CYC_LO) (cycles + if queued then 0 else 16)

/-- ELEM. -/
def elemOp (cell : Nat) (s : State) (ctx : Nat) (i : CellImg) (o : Op) : State :=
  let p := ElemOp.ofRaw o.raw
  let pr := EProg.read i.prog (dfield o.raw 0x2C 9 0)
  let inV := (List.range 4).map fun k => (o.inAt k).isSome
  let outV := (List.range 2).map fun k => (o.outAt k).isSome
  let runs := (List.range 4).map fun k => i.inRun o k
  if p.illegal o.raw pr inV outV then opFault s cell o CellFault.ILLEGAL_OP
  else if ((List.range 4).any fun k => inV.getD k false
        && decide ((i.inRun o k).len < portBytes (nth p.inFmt k) (nth p.inMode k) p.rows p.count))
      ∨ (List.range 2).any fun k => outV.getD k false
        && decide ((i.outRun o k).len < portBytes (nth p.outFmt k) (nth p.outMode k) p.rows p.count) then
    opFault s cell o CellFault.BAD_BINDING
  else
    let r := runElem
      { op := p, prog := pr, sram := i.sram, poison := i.poison, books := i.books, curves := i.curves, inRuns := runs } s.free
    let s := s.useFree
    if r.bad ≠ 0 then opFault s cell o r.bad
    else
      let s := opWrites s cell ctx o (r.outs.foldl (fun i d => i.storeRun (i.outRun o d.1) d.2.1 d.2.2) i)
      let s := vxeCount s cell (elemCycles p pr true) o.queued
      let s := count64 s 0 (vxeReg cell Reg.VXE_LANE_OPS_LO) r.laneOps
      let s := count s (vxeReg cell Reg.VXE_TAIL_LANES) r.tail
      let s := count s (vxeReg cell Reg.VXE_CRV_CLAMP) r.clamp
      let s := count s (vxeReg cell Reg.VXE_NAN_OUT) r.nan
      count s (vxeReg cell Reg.VXE_SAT_OUT) r.sat

/-- ELEM (R119). -/
def execElem (cell op : Nat) (s : State) : Host.Outcome State Fault Refusal := engineRow cell op 0x30 (elemOp cell) s

/-- CRV_SET. -/
def crvSetOp (cell : Nat) (s : State) (ctx : Nat) (i : CellImg) (o : Op) : State :=
  match crvRange o.raw with
  | none => opFault s cell o CellFault.ILLEGAL_OP
  | some (first, n) =>
    let r := i.inRun o 0
    if (o.inAt 0).isNone ∨ r.len < 2304 * n then opFault s cell o CellFault.BAD_BINDING
    else if i.runPoisoned r (2304 * n) then opFault s cell o CellFault.SRAM_UNCORRECTED
    else
      let cv := (List.range n).foldl (fun m t => (List.range 2304).foldl (fun m b =>
        tset (fun _ => 0) m (4096 * (first + t) + b) (r.byte i.sram (2304 * t + b))) m) i.curves
      vxeCount (opWrites s cell ctx o { i with curves := cv }) cell (9 * n) o.queued

/-- CRV_SET (R132). -/
def execCrvSet (cell op : Nat) (s : State) : Host.Outcome State Fault Refusal := engineRow cell op 0x31 (crvSetOp cell) s

/-- CRV_GET. -/
def crvGetOp (cell : Nat) (s : State) (ctx : Nat) (i : CellImg) (o : Op) : State :=
  match crvRange o.raw with
  | none => opFault s cell o CellFault.ILLEGAL_OP
  | some (first, n) =>
    let w := i.outRun o 0
    if (o.outAt 0).isNone ∨ w.len < 2304 * n then opFault s cell o CellFault.BAD_BINDING
    else
      let d := (List.range n).flatMap fun t => (List.range 2304).map fun b => BitVec.ofNat 8 (curveByte i.curves (first + t) b)
      vxeCount (opWrites s cell ctx o (i.storeRun w 0 d)) cell (9 * n) o.queued

/-- CRV_GET (R118). -/
def execCrvGet (cell op : Nat) (s : State) : Host.Outcome State Fault Refusal := engineRow cell op 0x32 (crvGetOp cell) s

/-- CB_ENCODE. -/
def cbEncodeOp (cell : Nat) (s : State) (ctx : Nat) (i : CellImg) (o : Op) : State :=
  let p := EncOp.ofRaw o.raw
  let r := i.inRun o 0
  let w := i.outRun o 0
  let rep := i.outRun o 1
  let groups := ceilDiv p.count 256
  if p.illegal o.raw then opFault s cell o CellFault.ILLEGAL_OP
  else if (o.inAt 0).isNone ∨ (o.outAt 0).isNone ∨ r.len < elemBytes p.src p.count ∨ w.len < groupedBytes p.dst groups
      ∨ ((o.outAt 1).isSome ∧ rep.len < 768) then
    opFault s cell o CellFault.BAD_BINDING
  else if i.runPoisoned r (elemBytes p.src p.count) then opFault s cell o CellFault.SRAM_UNCORRECTED
  else if p.dst ≤ 2 ∧ ((tableValue i.books p.dst p.select 0).isNone ∨ (p.candidates i.books).isEmpty) then
    opFault s cell o CellFault.ENGINE_FAULT
  else
    let a := p.run i.sram i.books r (if p.seed = 0 then o.at_ % 2 ^ 32 else p.seed)
    let j := (p.output a).foldl (fun i d => i.storeRun w d.1 d.2) i
    let j := if (o.outAt 1).isSome then j.storeRun rep 0 (p.report a) else j
    let s := vxeCount (opWrites s cell ctx o j) cell (8 * groups + if (o.outAt 1).isSome then 64 else 0) o.queued
    count s (vxeReg cell Reg.VXE_NAN_OUT) (32 * a.nanBlocks)

/-- CB_ENCODE (R91). -/
def execCbEncode (cell op : Nat) (s : State) : Host.Outcome State Fault Refusal := engineRow cell op 0x3C (cbEncodeOp cell) s

/-- CB_SET: it waits for the matrix operations and the moves fired before it (R87). Bindings beyond those that R86 lists for
CB_ENCODE, CB_SET and CB_GET are tested and consumed as any binding is, and are no fault (DESIGN CHOICE,
notes/assumptions/98.md). -/
def cbSetOp (cell : Nat) (s : State) (ctx : Nat) (i : CellImg) (o : Op) : State :=
  let n := dfield o.raw 0x28 14 8
  let first := dfield o.raw 0x28 5 0
  let r := i.inRun o 0
  if i.ops.any fun p => readsBooks p.raw && decide (p.id < o.id) && !(p.stage = .executed) then s
  else if cbSetIllegal o.raw then opFault s cell o CellFault.ILLEGAL_OP
  else if (o.inAt 0).isNone ∨ r.len < 64 * n then opFault s cell o CellFault.BAD_BINDING
  else if i.runPoisoned r (64 * n) then opFault s cell o CellFault.SRAM_UNCORRECTED
  else
    let b := i.books.loadAll first n (dfield o.raw 0x28 16 16) (r.bytes i.sram (64 * n))
    vxeCount (opWrites s cell ctx o { i with books := b }) cell n o.queued

/-- CB_SET (R86). -/
def execCbSet (cell op : Nat) (s : State) : Host.Outcome State Fault Refusal := engineRow cell op 0x3D (cbSetOp cell) s

/-- CB_GET. -/
def cbGetOp (cell : Nat) (s : State) (ctx : Nat) (i : CellImg) (o : Op) : State :=
  let n := dfield o.raw 0x28 14 8
  let first := dfield o.raw 0x28 5 0
  let w := i.outRun o 0
  if cbGetIllegal o.raw then opFault s cell o CellFault.ILLEGAL_OP
  else if (o.outAt 0).isNone ∨ w.len < 64 * (n + 1) then opFault s cell o CellFault.BAD_BINDING
  else vxeCount (opWrites s cell ctx o (i.storeRun w 0 (i.books.images first n))) cell (n + 1) o.queued

/-- CB_GET (R86). -/
def execCbGet (cell op : Nat) (s : State) : Host.Outcome State Fault Refusal := engineRow cell op 0x3E (cbGetOp cell) s

/-! ## The match unit (R140-R156) -/

/-- A context's overflow policy (R156). -/
def policyOf (s : State) (ctx : Nat) : Nat :=
  fld s 0 (hub Pg.ROUTE (Reg.ROUTE_POLICY0 + 4 * (ctx / 16))) (2 * (ctx % 16) + 1) (2 * (ctx % 16))

/-- A request's answer over the slots of its bindings (R141), its words checked for poison as they are read; `policy` is the one
it began under. -/
def matchAnswer (i : CellImg) (o : Op) (policy : Nat) : MatchAnswer :=
  let r (k : Nat) : Run := i.inRun o k
  let w (k : Nat) : Run := i.outRun o k
  let v (k : Nat) : Bool := (o.inAt k).isSome
  let vo (k : Nat) : Bool := (o.outAt k).isSome
  let bad (k a n : Nat) : Bool := i.piecesPoisoned (r k) [(a, n)]
  if commonIllegal o.raw then .error FaultCode.illegalOp
  else if opc o.raw = 0x40 then runTopk o.raw i.sram bad (r 0) (r 1) (w 0) (v 0) (v 1) (vo 0) (vo 1)
  else if opc o.raw = 0x41 then runMerge false o.raw i.sram bad (r 0) (w 0) (v 0) (vo 0) (vo 1)
  else if opc o.raw = 0x42 then runMerge true o.raw i.sram bad (r 0) (w 0) (v 0) (vo 0) (vo 1)
  else runDispatch o.raw policy i.sram bad (r 0) (r 1) (w 0) (w 1) (v 0) (v 1) (vo 0) (vo 1)

/-- The request that a unit's entry names. -/
def matchOpOf (s : State) (die : Nat) (q : MatchReq) : Option (Nat × Nat × CellImg × Op) :=
  let cell := 40 * die + q.pos
  match (s.cell cell).runner with
  | none => none
  | some ctx =>
    let i := (s.cell cell).img
    (i.ops.find? fun o => o.id = q.op && engineOf o.raw == 4).map fun o => (cell, ctx, i, o)

/-- MATCH_REQUEST_BEGIN (R141): an idle unit takes the waiting request and checks it; one that fails faults its cell, and
the unit goes on. An error that the unit would find as it runs is found here too (notes/assumptions/101.md). -/
def matchBegin (s : State) (die : Nat) : State :=
  let m := s.mtu die
  match (if matchHeld s die m.running then m.running else none), m.waiting with
  | none, some q =>
    match matchOpOf s die q with
    | none => s.setMtu die { m with waiting := none }
    | some (cell, ctx, i, o) =>
      let pol := policyOf s ctx
      match matchAnswer i o pol with
      | .error e => opFault (s.setMtu die { m with waiting := none }) cell o e
      | .ok _ =>
        let waited := min 0xFFFF (max (rd s 0 (mtuReg die Reg.MTU_LAT_WAIT_MAX)) (tget (fun _ => 0) m.since q.pos))
        let s := s.setMtu die { m with running := some q, waiting := none, since := tset (fun _ => 0) m.since q.pos 0 }
        let s := if frozen s .mtu (mtuReg die 0) then s else wr s 0 (mtuReg die Reg.MTU_LAT_WAIT_MAX) waited
        mapOp s cell ctx o.id fun o => { o with left := pol }
  | _, _ => s

/-- MATCH_REQUEST_BEGIN. -/
def execMatchRequestBegin (die : Nat) (s : State) : Host.Outcome State Fault Refusal := run (okCellDie die) (matchBegin s die)

/-- The running request of a cell's unit carried out (R141-R154): its outputs written, the unit free, its work counted. -/
def matchRun (cell : Nat) (s : State) (ctx : Nat) (i : CellImg) (o : Op) : State :=
  let die := cellDie cell
  let m := s.mtu die
  if m.running ≠ some ⟨cellPos cell, o.id⟩ then s
  else
    let s := s.setMtu die { m with running := none }
    match matchAnswer i o o.left with
    | .error e => opFault s cell o e
    | .ok r =>
      let s := opWrites s cell ctx o (r.outs.foldl (fun i d => i.storeRun (i.outRun o d.1) d.2.1 d.2.2) i)
      let a (off : Nat) : Nat := mtuReg die off
      let s := count64 (count64 s 0 (a Reg.MTU_REQ_CNT_LO) 1) 0 (a Reg.MTU_BUSY_CYC_LO) r.cycles
      let s := count (count s (a Reg.MTU_PLACED) r.placed) (a Reg.MTU_ALTERNATE) r.alternate
      let s := count (count s (a Reg.MTU_DEFERRED) r.deferred) (a Reg.MTU_DROPPED) r.dropped
      count (count s (a Reg.MTU_LOST) r.lost) (a Reg.MTU_NAN) r.nan

/-- TOPK (R147, R148). -/
def execTopk (cell op : Nat) (s : State) : Host.Outcome State Fault Refusal := opRow cell op 0x40 (matchRun cell) s

/-- MERGE (R149). -/
def execMerge (cell op : Nat) (s : State) : Host.Outcome State Fault Refusal := opRow cell op 0x41 (matchRun cell) s

/-- INTERSECT (R149). -/
def execIntersect (cell op : Nat) (s : State) : Host.Outcome State Fault Refusal := opRow cell op 0x42 (matchRun cell) s

/-- DISPATCH (R151-R154). -/
def execDispatch (cell op : Nat) (s : State) : Host.Outcome State Fault Refusal := opRow cell op 0x43 (matchRun cell) s

end Sys2Proof.Machine
end

