-- ==== Sys2Proof/Machine/Collectives.lean ====
section
/-!
DEFINITION. The collective engines: the COLL command, the segments of rings and trees, barriers, and the ends of collectives
(R368-R371). How a vector is cut among the members of a ring, and what the root of a broadcast holds, are the model's
(notes/assumptions/26.md).
-/

namespace Sys2Proof.Machine

/-! ## Statuses (R371) and types (R368) -/
abbrev CollSt.OK : Nat := 0
abbrev CollSt.BAD_DESC : Nat := 1
abbrev CollSt.MISMATCH : Nat := 2
abbrev CollSt.UNREACHABLE : Nat := 3
abbrev CollSt.TIMEOUT : Nat := 4
abbrev CollSt.FAULT_FAILED : Nat := 5

abbrev CollOp.ALL_REDUCE : Nat := 1
abbrev CollOp.REDUCE : Nat := 2
abbrev CollOp.ALL_GATHER : Nat := 3
abbrev CollOp.ALL_TO_ALL : Nat := 4
abbrev CollOp.BROADCAST : Nat := 5
abbrev CollOp.BARRIER : Nat := 6

/-- Bytes of an element of a DTYPE. -/
def dtypeBytes (d : Nat) : Nat := nth [4, 2, 1, 1, 1, 4] d

/-- Format code of a floating-point DTYPE (R75). -/
def dtypeFmt (d : Nat) : Nat := nth [Fmt.fp32, Fmt.bf16, Fmt.e4m3, Fmt.e5m2] d

/-- An element as FP32 or INT32 (R369). -/
def widenElem (d c : Nat) : Nat :=
  if d = 4 then ofSigned 32 (toSigned 8 c) else if d = 5 then c else (convertTo Fmt.fp32 false (decodeElem (dtypeFmt d) c)).code

/-- A partial result rounded to DTYPE (R97, R369). -/
def narrowElem (d w : Nat) : Nat :=
  if d = 4 then (convertTo Fmt.int8 false (Num.ofInt (toSigned 32 w))).code
  else if d = 5 then w else (convertTo (dtypeFmt d) false (decodeElem Fmt.fp32 w)).code

/-- One step of a reduction, in FP32 or INT32 (R369): integer sums wrap. -/
def reduceElem (d redop a b : Nat) : Nat :=
  if 4 ≤ d then
    let x := toSigned 32 a
    let y := toSigned 32 b
    ofSigned 32 (if redop = 0 then x + y else if redop = 1 then max x y else min x y)
  else
    let x := decodeElem Fmt.fp32 a
    let y := decodeElem Fmt.fp32 b
    (convertTo Fmt.fp32 false (if redop = 0 then round32 (x.add y) else if redop = 1 then x.max y else x.min y)).code

/-- Elements of `n` bytes each. -/
def elemsOf (n : Nat) (data : List Byte) : List Nat := (chunks n data.length data).map leNat

/-! ## Members (R369) -/

/-- A collective changed. -/
def mapColl (s : State) (g : Nat) (f : Coll → Coll) : State :=
  { s with lnk := { s.lnk with colls := s.lnk.colls.map fun c => if c.group = g then f c else c } }

/-- Bytes of an element on the wire: FP32 or INT32 where WIDE asks for it. -/
def Coll.wire (c : Coll) : Nat := if c.wide then 4 else dtypeBytes c.dtype

/-- Members. -/
def Coll.size (c : Coll) : Nat := c.members.length

/-- The next member in the ring. -/
def Coll.after (c : Coll) : Nat := nth c.members ((c.me + 1) % c.size)

/-- Place in the tree counted from the root, and the member at a place. -/
def Coll.place (c : Coll) (m : Nat) : Nat := (m + c.size - c.root) % c.size
def Coll.atPlace (c : Coll) (p : Nat) : Nat := (p + c.root) % c.size

/-- Parent and children of a member in the tree of fan-out 8. -/
def Coll.parent (c : Coll) : Option Nat := if c.place c.me = 0 then none else some (c.atPlace ((c.place c.me - 1) / 8))
def Coll.children (c : Coll) : List Nat :=
  ((List.range 8).map fun i => 8 * c.place c.me + 1 + i).filterMap fun p => if p < c.size then some (c.atPlace p) else none

/-- A collective engine that takes part (R368): the four share the data by 256-byte unit; a barrier, which has none, is one's. -/
def Coll.onDie (c : Coll) (d : Nat) : Bool := c.op ≠ CollOp.BARRIER || Config.collDie c.group % 4 == d

/-- What a message says of its collective, as KIND-specific words of its header (R345, R371). -/
def Coll.words (c : Coll) : List Nat := [c.op, c.dtype, c.count, c.size]

/-- A member's descriptor agrees with this device's (R371). -/
def Coll.agrees (c : Coll) (g : CollSig) : Bool := c.words == [g.op, g.dtype, g.count, g.members]

/-- Bytes of DST that end the collective on this device. -/
def Coll.total (c : Coll) : Nat :=
  let n := c.count * dtypeBytes c.dtype
  if c.op = CollOp.ALL_GATHER ∨ c.op = CollOp.ALL_TO_ALL then c.size * n else n

/-! ## Reading, writing, sending -/

/-- A byte of a range lies in a poisoned word of the pool. -/
def segPoisonAt (s : State) : List Seg → Nat → Bool
  | [], _ => false
  | g :: l, k => if k < g.len then g.space == 0 && devPoison s (g.pa + k) 1 else segPoisonAt s l (k - g.len)

/-- The word of the pool that holds a byte of a range made poisoned. -/
def poisonByte (s : State) : List Seg → Nat → State
  | [], _ => s
  | g :: l, k =>
    if k < g.len then if g.space = 0 then poisonWord s ((g.pa + k) / 32 * 32) else s else poisonByte s l (k - g.len)

/-- Elements of `e` bytes that lie in poisoned words of their data, and the words that hold such elements (R486). -/
def badElems (e n : Nat) (words : List Nat) : List Nat := (List.range n).filter fun i => words.contains (i * e / 32)
def badWords (e : Nat) (elems : List Nat) : List Nat := (elems.map fun i => i * e / 32).eraseDups

/-- A range read for a collective, with the poisoned 32-byte words of the data. -/
def collRead (s : State) (c : Coll) (va n : Nat) : State × Option (List Byte × List Nat) :=
  match tileAll s (collReq c.ctx c.seq) false (pagesOf va n) with
  | (s, some segs) =>
    let bad (b : Nat) : Bool := decide (b < n) && segPoisonAt s segs b
    let w := (List.range (ceilDiv n 32)).filter fun w => (List.range 32).any fun b => bad (32 * w + b)
    let r := readSegs s c.ctx segs
    (r.1, some (r.2, w))
  | (s, none) => (s, none)

/-- A range written for a collective, poisoned where its data is. -/
def collWrite (s : State) (c : Coll) (va : Nat) (data : List Byte) (poison : List Nat) : State × Bool :=
  match tileAll s (collReq c.ctx c.seq) true (pagesOf va data.length) with
  | (s, some segs) => if noPort s segs then (s, false) else 
      (poison.foldl (fun s w => poisonByte (poisonByte s segs (32 * w)) segs (min (32 * w + 31) (data.length - 1)))
        (ctxWrite s c.ctx segs data), true)
  | (s, none) => (s, false)

/-- Segments of a vector sent to a member on lane 4, at most 14 units each (R345, R348). The offset of each counts elements of `e`
bytes; on the wire an element takes `w`. -/
def sendSegs (s : State) (c : Coll) (w e dst off : Nat) (data : List Byte) (poison : List Nat) : State :=
  ((chunks 3584 data.length data).foldl (fun (p : State × Nat) d =>
    let bad := (poison.filter fun b => p.2 / 32 ≤ b ∧ b < p.2 / 32 + 112).map (· - p.2 / 32)
    ((sendWith c.words p.1 4 4 srcColl dst 0 c.group (off + p.2 / w * e) d bad).1, p.2 + d.length)) (s, 0)).1

/-- Partial results, in the format of the wire; final data, in DTYPE. -/
def collPartial (s : State) (c : Coll) := sendSegs s c c.wire (dtypeBytes c.dtype)
def collFinal (s : State) (c : Coll) := sendSegs s c 1 1

/-- A control message on lane 6: the group and a LAG (R348, R370). -/
def sendArrive (s : State) (c : Coll) (m lag : Nat) : State :=
  (sendWith c.words s 5 6 srcColl (nth c.members m) 0 c.group lag [] []).1

/-! ## Ends (R368, R370, R371) -/

/-- The release record of a token barrier (R370): 256 bytes, whose content is not stated, through a local stream with a CELL
sink. False while the stream has no credit. -/
def sendRelease (s : State) (c : Coll) : State × Bool :=
  let i := c.release % 2 ^ 18
  let x := s.stream i
  if c.op ≠ CollOp.BARRIER ∨ c.release = 0 ∨ !currentHandle s c.release ∨ x.st ≠ .live then (s, true)
  else if x.credits = 0 then (s, false)
  else (launch s.useFree i none 0 none ((List.range 256).map fun k => Config.freeByte s.free k) [] true 0 none, true)

/-- A collective ends: result and LAG written, the record and vector of a failure, the release record, the command carried out,
the sample for the power manager (R368, R370, R405). False where the result's write stalls or the release record waits. -/
def endColl (s : State) (c : Coll) (status : Nat) : State × Bool :=
  let lag := min (s.cic.count - c.began) (2 ^ 32 - 1)
  match tileAll s (collReq c.ctx c.seq) true (pagesOf c.result 8) with
  | (s, none) => (s, false)
  | (s, some segs) =>
    let (t, sent) := if status = 0 then sendRelease s c else (s, true)
    if noPort s segs ∨ !sent ∨ copiesOpen s (s.ctx c.ctx).copies then (s, false)
    else
      let s := ctxWrite t c.ctx segs (leBytes 8 (status + lag * 2 ^ 32))
      let s := { s with lnk := { s.lnk with colls := s.lnk.colls.filter (·.group != c.group) } }
      let s := if status = 0 then s
        else
          let s := raiseError s
            { sev := 2, type := Err.COLL_FAILED, die := 16 + Config.collDie c.group % 4, inst := 0, ctx := some c.ctx, seq := c.seq, detail := [status] }
          raiseCtxVector s c.ctx 2
      let s := if status = 0 ∧ c.group = rd s 0 (hub Pg.PWR Reg.PWR_SHIFT_GROUP) then
          { s with lnk := { s.lnk with lagSample := some (lag, c.lags.set c.me lag), lagAt := s.cic.count } }
        else s
      (setStage s c.ctx c.cmd .performed, true)

/-- A translation fault of a collective answered with failure (R371): its result cannot be kept waiting for a translation that
failed, so only where it can be written is it. -/
def failColl (s : State) (ctx seq : Nat) : State :=
  match s.lnk.colls.find? fun c => c.ctx = ctx && c.seq = seq with
  | none => s
  | some c =>
    match endColl s c CollSt.FAULT_FAILED with
    | (s, true) => s
    | (s, false) => mapColl s c.group fun c => { c with op := 0 }

/-- This device's own part is done: its LAG goes to every member (R370). -/
def finishOwn (s : State) (c : Coll) : State :=
  let lag := min (s.cic.count - c.began) (2 ^ 32 - 1)
  let s := (List.range c.size).foldl (fun s m => if m = c.me ∨ c.op = CollOp.BARRIER then s else sendArrive s c m lag) s
  mapColl s c.group fun c => { c with ended := true, lags := c.lags.set c.me lag }

/-- More of DST written; with all of it written, or nothing to write, the own part is done. -/
def collDone (s : State) (c : Coll) (n : Nat) : State :=
  let c := { c with done := c.done + n }
  let s := mapColl s c.group fun x => { x with done := c.done }
  if c.total ≤ c.done then finishOwn s c else s

/-! ## COLL (R368, R369) -/

/-- A partial vector on the wire. -/
def wireBytes (c : Coll) (ws : List Nat) : List Byte :=
  ws.flatMap fun w => if c.wide then leBytes 4 w else leBytes (dtypeBytes c.dtype) (narrowElem c.dtype w)

/-- Elements of the ring part that member `m` starts: the vector cut evenly. -/
def ringPart (c : Coll) (m : Nat) : Nat × Nat := (m * c.count / c.size, (m + 1) * c.count / c.size)

/-- What a device does as its collective begins (R369); none where it stalls. -/
def startColl (s : State) (c : Coll) : State × Bool :=
  let e := dtypeBytes c.dtype
  let whole := c.count * e
  if c.op = CollOp.BARRIER then
    match c.parent, c.children with
    | some p, [] => (sendArrive s c p 0, true)
    | _, _ => (s, true)
  else if c.op = CollOp.ALL_REDUCE then
    let (a, b) := ringPart c c.me
    match collRead s c (c.src + a * e) ((b - a) * e) with
    | (s, none) => (s, false)
    | (s, some (d, w)) =>
      let s := collPartial s c c.after (a * e) (wireBytes c ((elemsOf e d).map (widenElem c.dtype)))
        (badWords c.wire (badElems e (b - a) w))
      (collDone s c 0, true)
  else
    match collRead s c c.src (if c.op = CollOp.ALL_TO_ALL then c.size * whole else whole) with
    | (s, none) => (s, false)
    | (s, some (d, w)) =>
      if c.op = CollOp.ALL_GATHER then
        match collWrite s c (c.dst + c.me * whole) d w with
        | (s, false) => (s, false)
        | (s, true) => (collDone (collFinal s c c.after (c.me * whole) d w) c whole, true)
      else if c.op = CollOp.ALL_TO_ALL then
        let part (m : Nat) : List Byte := (d.drop (m * whole)).take whole
        let pw (m : Nat) : List Nat :=
          badWords e ((badElems e (c.size * c.count) w).filterMap fun i =>
            if i / max 1 c.count = m then some (i - m * c.count) else none)
        match collWrite s c (c.dst + c.me * whole) (part c.me) (pw c.me) with
        | (s, false) => (s, false)
        | (s, true) =>
          let s := (List.range c.size).foldl (fun s m =>
            if m = c.me then s else collFinal s c (nth c.members m) (c.me * whole) (part m) (pw m)) s
          (collDone s c whole, true)
      else if c.op = CollOp.BROADCAST then
        if c.me ≠ c.root then (s, true)
        else
          match collWrite s c c.dst d w with
          | (s, false) => (s, false)
          | (s, true) =>
            (collDone (c.children.foldl (fun s m => collFinal s c (nth c.members m) 0 d w) s) c whole, true)
      else
        let ws := (elemsOf e d).map (widenElem c.dtype)
        let held := tsetAll (fun _ => 0) [] (ws.zipIdx.map fun p => (p.2, p.1))
        let s := mapColl s c.group fun x => { x with partials := held, bad := badElems e c.count w }
        if !c.children.isEmpty then (s, true)
        else
          match c.parent with
          | some p =>
            (finishOwn (collPartial s c (nth c.members p) 0 (wireBytes c ws) (badWords c.wire (badElems e c.count w))) c, true)
          | none => (s, true)

/-- The collective of a descriptor (R368); none where a field is out of range or this device is not a member. -/
def collOf (s : State) (ctx : Nat) (cmd : Cmd) (raw : Nat) (members : List Nat) : Option Coll :=
  let f (off hi lo : Nat) : Nat := dfield raw off hi lo
  let op := f 0 31 28
  let n := f 0 15 0
  let me := members.idxOf ((deviceId s).getD (2 ^ 20))
  let rel := f 0x28 31 0
  let relOk : Bool := rel == 0 || (ownHandle s ctx rel && (s.stream (rel % 2 ^ 18)).snk.kind == Kind.CELL
    && (s.stream (rel % 2 ^ 18)).src.kind != Kind.REMOTE)
  let rooted : Bool := op == CollOp.REDUCE || op == CollOp.BROADCAST || op == CollOp.BARRIER
  if op = 0 ∨ 6 < op ∨ 5 < f 0 27 24 ∨ 2 < f 0 23 22 ∨ f 0 20 16 ≠ 0 ∨ n < 2 ∨ rooted ∧ n ≤ f 4 15 0 ∨ f 4 31 16 ≠ 0
      ∨ f 0x34 31 0 ≠ 0 ∨ f 0x38 63 0 ≠ 0 ∨ members.length ≤ me ∨ !relOk then none
  else
    some
      { ctx := ctx, cmd := cmd.index, op := op, dtype := f 0 27 24, redop := f 0 23 22, wide := bit raw 21,
        members := members, me := me, root := f 4 15 0, src := f 0x10 63 0, dst := f 0x18 63 0, count := f 0x20 63 0,
        release := rel, result := cmd.f 0x30 63 0, group := f 0x30 31 0, began := s.cic.count,
        deadline := if f 0x2C 31 0 = 0 then none else some (s.cic.count + 125 * f 0x2C 31 0), done := 0,
        seq := cmd.seq, heard := s.cic.count, arrived := [], partials := [], bad := [], lags := List.replicate n 0, ended := false }

/-- A collective that ends at its command: BAD_DESC (R371). -/
def badColl (s : State) (ctx : Nat) (cmd : Cmd) (group : Nat) : State :=
  let c : Coll :=
    { ctx := ctx, cmd := cmd.index, op := 0, dtype := 0, redop := 0, wide := false, members := [], me := 0, root := 0, src := 0,
      dst := 0, count := 0, release := 0, result := cmd.f 0x30 63 0, group := group + 2 ^ 32, began := s.cic.count,
      deadline := none, done := 0, seq := cmd.seq, heard := 0, arrived := [], partials := [], bad := [], lags := [],
      ended := false }
  (endColl s c CollSt.BAD_DESC).1

/-- Every collective engine in service can begin: its replica is loaded and has reached the stamp (R158, R161, R368). -/
def enginesReady (s : State) (cmd : Cmd) : Bool :=
  ((List.range 4).filter fun d => !s.offline (16 + d)).all fun d =>
    dieLoaded s (16 + d) && (!cmd.stamped || decide (cmd.stamp ≤ replica s (Rep.coll d)))

/-- Every member can be sent messages (R362, R363): it lies in this device's block, whose partition is active. -/
def membersInBlock (s : State) (c : Coll) : Bool := s.lnk.partState == 0 && c.members.all (inBlock s)

/-- COLL (R368): the descriptor and the member table are read, and this device's part begins. A group that this device already
runs is not begun again; a member that no message may be sent to ends the collective at once (R362, R371). -/
def collCmd (ctx : Nat) (s : State) (cmd : Cmd) : Option State :=
  if cmd.begun ≠ 0 then none
  else if !cmd.zeros [0x20, 0x24, 0x38, 0x3C] ∨ cmd.f 0x30 2 0 ≠ 0 then failCmd s ctx cmd CmdErr.BAD_FIELD
  else
    match cmdRead s ctx cmd.seq (cmd.f 0x28 63 0) 64 with
    | (s, none) => some s
    | (s, some bytes) =>
      let raw := leNat bytes
      match cmdRead s ctx cmd.seq (dfield raw 0x08 63 0) (4 * dfield raw 0 15 0) with
      | (s, none) => some s
      | (s, some tab) =>
        let members := (elemsOf 4 tab).map (· % 2 ^ 20)
        match collOf s ctx cmd raw members with
        | none => some (badColl s ctx cmd (dfield raw 0x30 31 0))
        | some c =>
          if s.lnk.colls.any (·.group = c.group) then some (badColl s ctx cmd c.group)
          else if !enginesReady s cmd then none
          else if !membersInBlock s c then some (endColl s c CollSt.UNREACHABLE).1
          else
            match startColl { s with lnk := { s.lnk with colls := s.lnk.colls ++ [c] } } c with
            | (s, true) => some (mapCmd s ctx cmd.index fun x => { x with begun := 1 })
            | (t, false) => some { t with lnk := { t.lnk with colls := t.lnk.colls.filter (·.group != c.group) } }

/-- COLL. -/
def execColl (ctx : Nat) (s : State) : Host.Outcome State Fault Refusal := cmdRow ctx 0x18 (collCmd ctx) s

/-! ## Segments (R369, R370) -/

/-- Part of a ring reduction after `hops` devices (R369): this device's input is added; it goes on round the ring, or, complete,
into DST and round as final data. -/
def ringReduce (s : State) (c : Coll) (hops off : Nat) (data : List Byte) (poison : List Nat) : State :=
  let e := dtypeBytes c.dtype
  let inc := (elemsOf c.wire data).map fun w => if c.wide then w else widenElem c.dtype w
  match collRead s c (c.src + off) (inc.length * e) with
  | (s, none) => s
  | (s, some (d, w)) =>
    let bad := badElems e inc.length w ++ badElems c.wire inc.length poison
    let own := (elemsOf e d).map (widenElem c.dtype)
    let sum := (inc.zip own).map fun p => reduceElem c.dtype c.redop p.1 p.2
    if hops + 1 < c.size then collPartial s c c.after off (wireBytes c sum) (badWords c.wire bad)
    else
      let fin := sum.flatMap fun w => leBytes e (narrowElem c.dtype w)
      let w := badWords e bad
      match collWrite s c (c.dst + off) fin w with
      | (s, false) => s
      | (s, true) => collDone (collFinal s c c.after off fin w) c fin.length

/-- A child's partial result in a tree reduction (R369): with every child's in, the sum goes to the parent, or at the root into
DST. -/
def treeReduce (s : State) (c : Coll) (off : Nat) (data : List Byte) (poison : List Nat) : State :=
  let e := dtypeBytes c.dtype
  let inc := (elemsOf c.wire data).map fun w => if c.wide then w else widenElem c.dtype w
  let first := off / e
  let held := inc.zipIdx.foldl (fun m p =>
    tset (fun _ => 0) m (first + p.2) (reduceElem c.dtype c.redop (tget (fun _ => 0) m (first + p.2)) p.1)) c.partials
  let done := c.done + inc.length
  let bad := (c.bad ++ (badElems c.wire inc.length poison).map (· + first)).eraseDups
  let put (s : State) : State := mapColl s c.group fun x => { x with partials := held, bad := bad, done := done }
  if done < c.children.length * c.count then put s
  else
    let all := (List.range c.count).map fun i => tget (fun _ => 0) held i
    match c.parent with
    | some p => finishOwn (collPartial (put s) c (nth c.members p) 0 (wireBytes c all) (badWords c.wire bad)) c
    | none =>
      match collWrite s c c.dst (all.flatMap fun w => leBytes e (narrowElem c.dtype w)) (badWords e bad) with
      | (s, false) => s
      | (s, true) => finishOwn (put s) c

/-- Final data for DST (R369): written, and passed on round the ring or down the tree. -/
def gatherIn (s : State) (c : Coll) (origin off : Nat) (data : List Byte) (poison : List Nat) : State :=
  match collWrite s c (c.dst + off) data poison with
  | (s, false) => s
  | (s, true) =>
    let next := (c.me + 1) % c.size
    let s :=
      if c.op = CollOp.BROADCAST then c.children.foldl (fun s m => collFinal s c (nth c.members m) off data poison) s
      else if c.op = CollOp.ALL_TO_ALL ∨ next = origin then s
      else collFinal s c c.after off data poison
    collDone s c data.length

/-- A barrier arrival from a child, the completion from the parent, or a member's LAG (R370). -/
def arriveIn (s : State) (c : Coll) (m lag : Nat) : State :=
  let c := { c with lags := c.lags.set m lag, arrived := if c.arrived.contains m then c.arrived else c.arrived ++ [m] }
  let s := mapColl s c.group fun x => { x with lags := c.lags, arrived := c.arrived }
  if c.op ≠ CollOp.BARRIER ∨ c.ended then s
  else
    let down (s : State) : State :=
      finishOwn (c.children.foldl (fun s k => sendArrive s c k (min (s.cic.count - c.began) (2 ^ 32 - 1))) s) c
    if c.parent = some m then down s
    else if c.children.all fun k => c.arrived.contains k then
      match c.parent with
      | some p => sendArrive s c p 0
      | none => down s
    else s

/-- A segment or control message of a member (R369-R371): one whose descriptor differs ends the collective MISMATCH. -/
def segmentIn (s : State) (g : Nat) (sig : CollSig) (x : CollSeg) : State :=
  match s.lnk.colls.find? (·.group = g) with
  | none => s
  | some c =>
    if c.op ≠ 0 ∧ !c.agrees sig then (endColl s c CollSt.MISMATCH).1
    else if c.op = 0 ∨ c.ended ∧ c.op ≠ CollOp.ALL_REDUCE ∧ c.op ≠ CollOp.ALL_GATHER then
      match x with
      | .arrive m lag => if m < c.size then arriveIn s c m lag else s
      | _ => s
    else
      let c := { c with heard := s.cic.count }
      let s := mapColl s g fun x => { x with heard := s.cic.count }
      match x with
      | .reduce _ hops off data w =>
        if c.op = CollOp.ALL_REDUCE then ringReduce s c hops off data w
        else if c.op = CollOp.REDUCE then treeReduce s c off data w else s
      | .gather origin off data w =>
        if c.op = CollOp.BARRIER ∨ c.op = CollOp.REDUCE then s else gatherIn s c origin off data w
      | .arrive m lag => if m < c.size then arriveIn s c m lag else s

/-- COLLECTIVE_SEGMENT_RECEIVE. -/
def execCollectiveSegmentReceive (group : Nat) (m : CollMsg) (s : State) : Host.Outcome State Fault Refusal :=
  .next (segmentIn s group m.sig m.seg)

/-- COLLECTIVE_END (R370, R371): OK once the own part is done; MISMATCH or UNREACHABLE as a member is told to differ or to be
out of reach; a collective that a failed access has marked ends FAULT_FAILED. -/
def collEnd (s : State) (g status : Nat) : State :=
  match s.lnk.colls.find? (·.group = g) with
  | none => s
  | some c =>
    if c.op = 0 then (endColl s c CollSt.FAULT_FAILED).1
    else if (status = 0 ∧ c.ended) ∨ status = CollSt.MISMATCH ∨ status = CollSt.UNREACHABLE then (endColl s c status).1
    else s

/-- COLLECTIVE_END. -/
def execCollectiveEnd (group status : Nat) (s : State) : Host.Outcome State Fault Refusal := .next (collEnd s group status)

/-- COLLECTIVE_TIMEOUT (R371): TIMEOUT_US has passed, or no member has been heard for 10 ms. -/
def collTimeout (s : State) (g : Nat) : State :=
  match s.lnk.colls.find? (·.group = g) with
  | none => s
  | some c =>
    if c.ended then s
    else if (c.deadline.map fun t => decide (t ≤ s.cic.count)).getD false then (endColl s c CollSt.TIMEOUT).1
    else if c.heard + 1250000 ≤ s.cic.count then (endColl s c CollSt.UNREACHABLE).1
    else s

/-- COLLECTIVE_TIMEOUT. -/
def execCollectiveTimeout (group : Nat) (s : State) : Host.Outcome State Fault Refusal := .next (collTimeout s group)

end Sys2Proof.Machine
end

