-- ==== Sys2Proof/Machine/Reshard.lean ====
section
/-!
DEFINITION. The re-shard engines (R196-R200): layout descriptors, the pieces that the change of mapping moves, the checks
before anything is sent, and how a re-shard ends. Each of the rows here begins what can begin and sends what can be sent.
-/

namespace Sys2Proof.Machine

/-! Statuses (R199). -/
abbrev RsSt.OK : Nat := 0
abbrev RsSt.SHAPE : Nat := 1
abbrev RsSt.OVERLAP : Nat := 2
abbrev RsSt.TIMEOUT : Nat := 3
abbrev RsSt.FAULT_FAILED : Nat := 4
abbrev RsSt.BAD_LAYOUT : Nat := 5

/-! ## Layouts (R196, R197) -/

/-- A place of a part: device id, kind (0 device memory, 1 cell SRAM), logical cell, address. -/
structure LPlace where
  dev : Nat
  kind : Nat
  cell : Nat
  addr : Nat
  deriving DecidableEq, Repr

/-- A tensor of a mapping; place p × R + r at that position. -/
structure Tensor where
  id : Nat
  rank : Nat
  elem : Nat
  reps : Nat
  dims : List Nat
  splits : List Nat
  places : List LPlace
  deriving DecidableEq, Repr

/-- A layout descriptor read. -/
structure Layout where
  mapId : Nat
  timeout : Nat
  tensors : List Tensor
  deriving DecidableEq, Repr

/-- A re-shard engine as a requester for a context (R277, R287): the unit of its own floor. The layouts are read by the engine of
the command processor's floor, places by that of theirs. -/
def shardReq (ctx seq unit : Nat) : Requester :=
  { source := 1, ctx := ctx, unit := unit, handle := 0, cell := 0xFFFF, track := 0, seq := seq }

/-- The tiles of a range for a re-shard: packets of up to 4 KiB (R198, R284). -/
def tiles4k (va n : Nat) : List (Nat × Nat) := (List.range (ceilDiv n 4096)).map fun i => (va + 4096 * i, min 4096 (n - 4096 * i))

/-- Bytes read through the context's translation; none where it stalls. -/
def shardRead (s : State) (ctx seq va n : Nat) : State × Option (List Byte) :=
  match tileAll s (shardReq ctx seq (cmdUnit ctx)) false (tiles4k va n) with
  | (s, none) => (s, none)
  | (s, some segs) => let r := readSegs s ctx segs; (r.1, some r.2)

/-- Element bytes by ELEM code (R196). -/
def elemSize (e : Nat) : Nat := nth [1, 2, 4, 8, 256] e

/-- A product. -/
def prodOf (l : List Nat) : Nat := l.foldl (· * ·) 1

/-- Parts of a tensor. -/
def Tensor.parts (t : Tensor) : Nat := prodOf t.splits

/-- A tensor entry's fields in range (R196). -/
def Tensor.ok (t : Tensor) : Bool :=
  decide (1 ≤ t.rank ∧ t.rank ≤ 4) && decide (t.elem ≤ 4) && decide (1 ≤ t.reps ∧ t.reps ≤ 4096)
    && (List.range 4).all fun d =>
      decide (1 ≤ nth t.dims d) && (decide (d < t.rank) || nth t.dims d == 1)
        && decide (1 ≤ nth t.splits d ∧ nth t.splits d ≤ 4096 ∧ nth t.splits d ≤ nth t.dims d)

/-- The tensors of a layout, each with its place table; none where a read stalls, an inner none where a field is out of
range (R196, R197, R199). -/
def readTensors (s : State) (ctx seq at_ : Nat) (devs : List Nat) : Nat → Nat → State × Option (Option (List Tensor))
  | 0, _ => (s, some (some []))
  | n + 1, k =>
    match shardRead s ctx seq (at_ + 0x40 + 64 * k) 64 with
    | (s, none) => (s, none)
    | (s, some b) =>
      let r := leNat b
      let t : Tensor :=
        { id := dfield r 0 31 0, rank := dfield r 4 31 28, elem := dfield r 4 27 24, reps := dfield r 4 15 0,
          dims := (List.range 4).map fun d => dfield r (8 + 4 * d) 31 0,
          splits := (List.range 4).map fun d => dfield r (0x18 + 2 * d) 15 0, places := [] }
      if !t.ok then (s, some none)
      else
        match shardRead s ctx seq (dfield r 0x20 63 0) (16 * t.parts * t.reps) with
        | (s, none) => (s, none)
        | (s, some pb) =>
          let raws := (List.range (t.parts * t.reps)).map fun i => leNat ((pb.drop (16 * i)).take 16)
          if raws.any fun p => decide (devs.length ≤ dfield p 0 31 16) || decide (1 < dfield p 0 15 14) || dfield p 8 7 0 != 0 then
            (s, some none)
          else
            let places := raws.map fun p =>
              (⟨nth devs (dfield p 0 31 16), dfield p 0 15 14, dfield p 4 15 0, dfield p 8 63 0⟩ : LPlace)
            match readTensors s ctx seq at_ devs n (k + 1) with
            | (s, some (some l)) => (s, some (some ({ t with places := places } :: l)))
            | r => r

/-- A layout descriptor. -/
def readLayout (s : State) (ctx seq at_ : Nat) : State × Option (Option Layout) :=
  match shardRead s ctx seq at_ 64 with
  | (s, none) => (s, none)
  | (s, some b) =>
    let r := leNat b
    let n := dfield r 4 6 0
    let nd := dfield r 8 15 0
    if n = 0 ∨ 64 < n ∨ nd = 0 then (s, some none)
    else
      match shardRead s ctx seq (dfield r 0x10 63 0) (4 * nd) with
      | (s, none) => (s, none)
      | (s, some db) =>
        let devs := (List.range nd).map fun i => leNat ((db.drop (4 * i)).take 4) % 2 ^ 20
        match readTensors s ctx seq at_ devs n 0 with
        | (s, some (some l)) => (s, some (some ⟨dfield r 0 31 0, dfield r 0x18 31 0, l⟩))
        | (s, some none) => (s, some none)
        | (s, none) => (s, none)

/-! ## Parts and pieces (R197, R198) -/

/-- Coordinates of part `p`. -/
def Tensor.coord (t : Tensor) (p d : Nat) : Nat := p / prodOf (t.splits.drop (d + 1)) % max 1 (nth t.splits d)

/-- First element of part `p` along dimension `d`, and the element after its last. -/
def Tensor.lo (t : Tensor) (p d : Nat) : Nat := t.coord p d * nth t.dims d / max 1 (nth t.splits d)
def Tensor.hi (t : Tensor) (p d : Nat) : Nat := (t.coord p d + 1) * nth t.dims d / max 1 (nth t.splits d)

/-- The box of part `p`: low and high along each dimension. -/
def Tensor.box (t : Tensor) (p : Nat) : List (Nat × Nat) := (List.range 4).map fun d => (t.lo p d, t.hi p d)

/-- Intersection of two boxes, and whether a box is empty. -/
def boxMeet (a b : List (Nat × Nat)) : List (Nat × Nat) := (a.zip b).map fun q => (max q.1.1 q.2.1, min q.1.2 q.2.2)
def boxEmpty (b : List (Nat × Nat)) : Bool := b.any fun q => decide (q.2 ≤ q.1)

/-- Elements of a box. -/
def boxCount (b : List (Nat × Nat)) : Nat := prodOf (b.map fun q => q.2 - q.1)

/-- Position, within the dense row-major part of box `part`, of the element at `at_` (R197). -/
def boxOffset : List (Nat × Nat) → List Nat → Nat → Nat
  | q :: part, x :: at_, acc => boxOffset part at_ (acc * (q.2 - q.1) + (x - q.1))
  | _, _, acc => acc

/-- The contiguous runs of a piece along its fastest dimension (R198). -/
def pieceRuns (t : Tensor) (piece src dst : List (Nat × Nat)) (a b : Nat) : List PieceRun :=
  let e := elemSize t.elem
  let g (d : Nat) : Nat × Nat := piece.getD d (0, 1)
  let n (d : Nat) : Nat := (g d).2 - (g d).1
  (List.range (n 0)).flatMap fun i0 => (List.range (n 1)).flatMap fun i1 => (List.range (n 2)).map fun i2 =>
    let x := [(g 0).1 + i0, (g 1).1 + i1, (g 2).1 + i2, (g 3).1]
    ⟨a + boxOffset src x 0 * e, b + boxOffset dst x 0 * e, n 3 * e⟩

/-- The floor whose engine handles a place: a cell's own; for device memory the manual gives no rule. -/
def placeFloor (s : State) (ctx : Nat) (p : LPlace) : Nat :=
  if p.kind = 1 then ((physOf s ctx p.cell).map cellFloor).getD 0 else Config.pieceFloor p.addr % 4

/-- This device as re-shards know it. -/
def meDev (s : State) : Nat := (deviceId s).getD 0

/-- An old place and a new place of a tensor between which a piece moves (R198). -/
structure Move where
  old : Tensor
  new : Tensor
  p : Nat
  q : Nat
  from_ : LPlace
  to_ : LPlace
  piece : List (Nat × Nat)
  deriving DecidableEq, Repr

/-- The same place with the same bounds in both mappings: its data stays (R198). LCELL says nothing of a place in device
memory. -/
def sameBoth (old new : Tensor) (p q : Nat) (a b : LPlace) : Bool :=
  a.dev == b.dev && a.kind == b.kind && (a.kind != 1 || a.cell == b.cell) && a.addr == b.addr && old.box p == new.box q

/-- Every move of the change between two layouts (R198). -/
def movesOf (old new : Layout) : List Move :=
  old.tensors.flatMap fun t => match new.tensors.find? (·.id = t.id) with
    | none => []
    | some u =>
      t.places.zipIdx.flatMap fun a => u.places.zipIdx.filterMap fun b =>
        let (p, r) := (a.2 / t.reps, a.2 % t.reps)
        let (q, r2) := (b.2 / u.reps, b.2 % u.reps)
        let m := boxMeet (t.box p) (u.box q)
        if r2 % t.reps ≠ r ∨ boxEmpty m ∨ sameBoth t u p q a.1 b.1 then none
        else some ⟨t, u, p, q, a.1, b.1, m⟩

/-- Tensors in both layouts whose shape, rank or ELEM differ (R198). -/
def shapesDiffer (old new : Layout) : Bool :=
  old.tensors.any fun t => match new.tensors.find? (·.id = t.id) with
    | none => false
    | some u => t.rank != u.rank || t.elem != u.elem || t.dims != u.dims

/-- A place's bytes: kind and cell, and the range. -/
def placeRange (t : Tensor) (i : Nat) (p : LPlace) : (Nat × Nat) × Nat × Nat :=
  ((p.kind, if p.kind = 1 then p.cell else 0), p.addr, p.addr + boxCount (t.box (i / t.reps)) * elemSize t.elem)

/-- A new place of this device overlaps an old one of it that does not stay (R199). -/
def overlaps (me : Nat) (old new : Layout) : Bool :=
  new.tensors.any fun u => u.places.zipIdx.any fun b => b.1.dev == me &&
    old.tensors.any fun t => t.places.zipIdx.any fun a =>
      let x := placeRange u b.2 b.1
      let y := placeRange t a.2 a.1
      a.1.dev == me && x.1 == y.1 && decide (x.2.1 < y.2.2 ∧ y.2.1 < x.2.2)
        && !(t.id == u.id && sameBoth t u (a.2 / t.reps) (b.2 / u.reps) a.1 b.1)

/-- A place of this device names a cell beyond the context's, or a place in cell SRAM runs beyond its 4 MiB (R199). -/
def placeBad (s : State) (ctx : Nat) (l : Layout) : Bool :=
  l.tensors.any fun t => t.places.zipIdx.any fun p =>
    p.1.kind == 1 && (decide (2 ^ 22 < (placeRange t p.2 p.1).2.2)
      || (p.1.dev == meDev s && decide ((logicalCells (s.ctx ctx)).length ≤ p.1.cell)))

/-- The new places of this device. -/
def newPlaces (s : State) (ctx : Nat) (l : Layout) : List ShardPlace :=
  l.tensors.flatMap fun t => (t.places.zipIdx.filter fun p => p.1.dev = meDev s).map fun p =>
    let x := (placeRange t p.2 p.1).2
    ⟨p.1.kind, p.1.cell, x.1, x.2 - x.1, placeFloor s ctx p.1⟩

/-! ## Running a re-shard (R198-R200) -/

/-- A re-shard's record changed. -/
def mapShard (s : State) (ctx : Nat) (f : Reshard → Reshard) : State :=
  { s with str := { s.str with reshards := s.str.reshards.map fun r => if r.ctx = ctx then f r else r } }

/-- The registers of the four re-shard pages that show a re-shard (R202). -/
def shardRegs (s : State) (f : State → Nat → State) : State := [0, 1, 2, 3].foldl f s

/-- SEQ that a context's re-shard shows in fault records (R287): its command's; 0 where a PHASE asked for it. -/
def shardSeq (s : State) (ctx : Nat) : Nat :=
  let r := s.str.reshards.find? (·.ctx = ctx)
  ((r.bind (·.cmd)).bind fun idx => ((s.ctx ctx).cmds.find? fun c => c.index = idx).map (·.seq)).getD 0

/-- A floor's re-shard engine as a requester for a context's re-shard. -/
def floorReq (s : State) (ctx floor : Nat) : Requester := shardReq ctx (shardSeq s ctx) (2 + floor)

/-- The bytes of a place, with their poisoned words. -/
def shardFetch (s : State) (ctx kind cell floor addr n : Nat) : State × Option (List Byte × List Nat) :=
  if kind = 1 then
    match (physOf s ctx cell).bind fun p => imgOf s p ctx with
    | none => (s, none)
    | some i => (s, some (memBytes i.sram addr n, i.poisonWords addr n))
  else
    match tileAll s (floorReq s ctx floor) false (tiles4k addr n) with
    | (s, none) => (s, none)
    | (s, some segs) => let r := readSegs s ctx segs; (r.1, some (r.2, segPoisonWords s 0 segs))

/-- Bytes put at a place: a spilled cell takes them in its record (R200). False where it stalls. -/
def shardPut (s : State) (ctx kind cell floor addr : Nat) (data : List Byte) (poison : List Nat) : State × Bool :=
  if kind = 1 then
    match (physOf s ctx cell).bind fun p => inboundWrite s p ctx addr data poison with
    | some t => (t, true)
    | none => (s, false)
  else
    match tileAll s (floorReq s ctx floor) true (tiles4k addr data.length) with
    | (s, none) => (s, false)
    | (s, some segs) => (noteCopies (poisonSegs (segWrite s ctx 3 segs data) poison 0 segs) ctx s.mir.nextCopy, true)

/-- A place holds undefined data (R199): a free value at each byte; what its translation does not reach, no piece has reached. -/
def spoilPlace (s : State) (ctx : Nat) (p : ShardPlace) : State :=
  let free (s : State) (n : Nat) : List Byte := (List.range n).map (Config.freeByte s.free)
  if p.kind = 1 then
    if 2 ^ 22 < p.addr + p.len then s else (shardPut s ctx 1 p.cell p.floor p.addr (free s p.len) []).1.useFree
  else
    (tiles4k p.addr p.len).foldl (fun s r =>
      match look s (2 + p.floor) ctx true (pagesOf r.1 r.2) with
      | .ok segs => if segsHeld s segs then s else (segWrite s ctx 3 segs (free s r.2)).useFree
      | _ => s) s

/-- A re-shard ends with a status (R199): a command's result is written; a phase change completes or faults its cells; with a
status other than OK the new places hold undefined data. It stays where the result's write stalls. -/
def endShard (s : State) (r : Reshard) (status : Nat) : State :=
  let (s, ok) := match r.cmd with
    | some _ => cmdWrite s r.ctx (shardSeq s r.ctx) r.result (leBytes 8 status)
    | none => (s, true)
  if !ok then s
  else
    let s := if status = RsSt.OK then s else r.places.foldl (fun s p => spoilPlace s r.ctx p) s
    let s := { s with str := { s.str with reshards := s.str.reshards.filter fun x => x.ctx != r.ctx } }
    let s := shardRegs s fun s f =>
      let s := setFld (setFld s 0 (rseReg f Reg.RSE_STATUS) 31 28 0) 0 (rseReg f Reg.RSE_STATUS) 7 0 status
      setFld (wr64 s 0 (rseReg f Reg.RSE_AWAIT_LO) 0) 0 (rseReg f Reg.RSE_WAIT_DEV) 19 0 0
    match r.cmd with
    | some idx => setStage s r.ctx idx .performed
    | none =>
      if status = RsSt.OK then phaseFinish s r.ctx
      else
        let s := raiseError s { sev := 2, type := Err.RESHARD_FAILED, die := cmdUnit r.ctx, inst := r.ctx, ctx := some r.ctx,
                                detail := [status, r.mapId] }
        let s := s.setCtx r.ctx { s.ctx r.ctx with barrier := none }
        faultPhase s r.ctx CellFault.ENGINE_FAULT (startedCells s r.ctx)

/-- The packets of a piece, of up to 4 KiB, in order (R284). -/
def Piece.packets (p : Piece) : List PieceRun :=
  p.runs.flatMap fun r => (tiles4k 0 r.len).map fun k => ⟨r.src + k.1, r.dst + k.1, k.2⟩

/-- One packet of a piece sent or, on this device, copied; `final` marks the last of its piece. It names the context and the
place (R198; notes/assumptions/22.md). -/
def sendPart (s : State) (ctx : Nat) (p : Piece) (r : PieceRun) (final : Bool) : State × Bool :=
  match shardFetch s ctx p.srcKind p.srcCell p.floor r.src r.len with
  | (s, none) => (s, false)
  | (s, some (d, w)) =>
    if p.dev = meDev s then shardPut s ctx p.dstKind p.dstCell p.floor r.dst d w
    else
      let go := sendPacketMsg s [ctx, p.dstKind, p.dstCell] false final p.floor 0
      ((go p.dev p.order 0 r.dst d w).1, true)

/-- Piece number `k` of a context's re-shard changed. -/
def mapPiece (s : State) (ctx k : Nat) (f : Piece → Piece) : State :=
  mapShard s ctx fun r => { r with pieces := r.pieces.zipIdx.map fun y => if y.2 = k then f y.1 else y.1 }

/-- The packets of a piece that are left sent in order, until one stalls; with the last of them the piece is sent, and on this device
complete (R198, R202). -/
def sendPiece (s : State) (ctx k : Nat) (p : Piece) : State × Bool :=
  let l := p.packets
  let go := (l.zipIdx.drop p.done).foldl (fun (q : State × Bool) r =>
    if !q.2 then q
    else
      match sendPart q.1 ctx p r.1 (r.2 + 1 == l.length) with
      | (s, true) => (mapPiece s ctx k fun y => { y with done := r.2 + 1 }, true)
      | (s, false) => (s, false)) (s, true)
  if !go.2 then go
  else
    let me := p.dev = meDev s
    let bytes := (p.runs.map (·.len)).foldl (· + ·) 0
    let s := if me then count64 go.1 0 (rseReg p.floor Reg.RSE_SENT_LO) bytes else go.1
    (mapPiece s ctx k fun y => { y with sent := true, acked := me }, true)

/-- Pieces of a re-shard that may be sent: of this device, or whose device is ready (R198). -/
def Reshard.open_ (r : Reshard) (me : Nat) : List (Piece × Nat) :=
  r.pieces.zipIdx.filter fun p => !p.1.sent && (p.1.dev == me || r.ready.contains p.1.dev)

/-- The units look ahead for the eight packets after the current one, each once (R285). -/
def lookPieces (s : State) (ctx : Nat) : State :=
  match s.str.reshards.find? (·.ctx = ctx) with
  | none => s
  | some r =>
    let me := meDev s
    let left := (r.open_ me).flatMap fun p => (p.1.packets.zipIdx.drop p.1.done).map fun q => (p, q)
    ((left.drop 1).take 8).foldl (fun s x =>
      let ((p, k), q, n) := x
      if n < p.ahead then s
      else
        let req := floorReq s ctx p.floor
        let s := mapPiece s ctx k fun y => { y with ahead := n + 1 }
        let s := if p.srcKind = 0 then prefetchRanges s req false false [(q.src, q.len)] else s
        if p.dev = me ∧ p.dstKind = 0 then prefetchRanges s req false true [(q.dst, q.len)] else s) s

/-- Pieces whose device is ready are sent, in order, until one stalls (R198); what comes next is looked ahead for (R285). -/
def sendPieces (s : State) (ctx : Nat) : State :=
  match s.str.reshards.find? (·.ctx = ctx) with
  | none => s
  | some r =>
    lookPieces ((r.open_ (meDev s)).foldl (fun (q : State × Bool) p => if q.2 then sendPiece q.1 ctx p.2 p.1 else q) (s, true)).1 ctx

/-- A re-shard begins (R198, R199): the descriptors are read, the checks made, ready is sent to every device that will send
a piece. -/
def beginShard (s : State) (r : Reshard) : State :=
  let ctx := r.ctx
  let held : Bool := match r.stamp with
    | some v => decide (replica s (Rep.reshard (cmdUnit ctx - 2)) < v)
    | none => false
  if r.begun ∨ held ∨ !dieLoaded s (cmdUnit ctx) then s
  else
    let s := shardRegs s fun s f =>
      setFld (setFld s 0 (rseReg f Reg.RSE_STATUS) 31 28 1) 0 (rseReg f Reg.RSE_STATUS) 27 22 ctx
    match readLayout s ctx (shardSeq s ctx) r.oldAt with
    | (s, none) => s
    | (s, some none) => endShard s r RsSt.BAD_LAYOUT
    | (s, some (some old)) =>
      match readLayout s ctx (shardSeq s ctx) r.newAt with
      | (s, none) => s
      | (s, some none) => endShard s r RsSt.BAD_LAYOUT
      | (s, some (some new)) =>
        let me := meDev s
        let r := { r with places := newPlaces s ctx new }
        if placeBad s ctx old ∨ placeBad s ctx new then endShard s r RsSt.BAD_LAYOUT
        else if shapesDiffer old new then endShard s r RsSt.SHAPE
        else if overlaps me old new then endShard s r RsSt.OVERLAP
        else
          let ms := movesOf old new
          let pieces := (ms.filter fun m => m.from_.dev == me).map fun m =>
            ({ dev := m.to_.dev, srcKind := m.from_.kind, srcCell := m.from_.cell, dstKind := m.to_.kind, dstCell := m.to_.cell,
               runs := pieceRuns m.new m.piece (m.old.box m.p) (m.new.box m.q) m.from_.addr m.to_.addr,
               order := if (s.ctx ctx).desc.version = 2 then 0 else m.new.id % 1024, floor := placeFloor s ctx m.from_, done := 0, ahead := 0, sent := false, acked := false } : Piece)
          let inc := ms.filter fun m => m.to_.dev == me && m.from_.dev != me
          let devs := (inc.map fun m => m.from_.dev).eraseDups
          let size (m : Move) : Nat := boxCount m.piece * elemSize m.new.elem
          let early := (s.str.early.filter fun e => e.1 = ctx).map Prod.snd
          let s := { s with str := { s.str with early := s.str.early.filter fun e => e.1 != ctx } }
          let s := mapShard s ctx fun r =>
            { r with begun := true, places := newPlaces s ctx new, mapId := new.mapId, pieces := pieces, ready := early ++ r.ready,
                     expect := devs.map fun d => (d, (inc.filter fun m => m.from_.dev = d).length),
                     awaitBytes := (inc.map size).foldl (· + ·) 0,
                     deadline := if new.timeout = 0 then none else some (s.cic.count + 125 * new.timeout) }
          let s := shardRegs s fun s f =>
            let s := setFld s 0 (rseReg f Reg.RSE_STATUS) 31 28 2
            let s := wr64 (wr s 0 (rseReg f Reg.RSE_MAP_ID) new.mapId) 0 (rseReg f Reg.RSE_SENT_LO) 0
            wr64 s 0 (rseReg f Reg.RSE_AWAIT_LO) (((inc.filter fun m => placeFloor s ctx m.to_ = f).map size).foldl (· + ·) 0)
          devs.foldl (fun s d => (sendWith [ctx, 0] s 5 7 (cmdUnit ctx - 2) d 0 0 0 [] []).1) s

/-- A re-shard goes on: it begins if it can, sends what it can, and ends OK when every piece has come and every piece sent
is acknowledged. -/
def shardGo (s : State) (ctx : Nat) : State :=
  match s.str.reshards.find? (·.ctx = ctx) with
  | none => s
  | some r =>
    let s := sendPieces (beginShard s r) ctx
    match s.str.reshards.find? (·.ctx = ctx) with
    | none => s
    | some r =>
      if !r.begun then s
      else if (r.pieces.all fun p => p.sent && p.acked) ∧ (r.expect.all fun e => e.2 = 0) ∧ !copiesOpen s (s.ctx ctx).copies then
        endShard s r RsSt.OK
      else
        let unsent := r.pieces.filter (!·.sent)
        let unready := unsent.filter fun p => p.dev != meDev s && !r.ready.contains p.dev
        let st := if unsent.isEmpty then 3 else if unready.length = unsent.length then 4 else 2
        let wait := (unready.head?.map (·.dev)).getD (((r.expect.find? fun e => e.2 ≠ 0).map Prod.fst).getD 0)
        shardRegs s fun s f => setFld (setFld s 0 (rseReg f Reg.RSE_STATUS) 31 28 st) 0 (rseReg f Reg.RSE_WAIT_DEV) 19 0 wait

/-- RESHARD (R179): one re-shard of a context at a time. -/
def reshardCmd (ctx : Nat) (s : State) (cmd : Cmd) : Option State :=
  let res := cmd.f 0x38 63 0
  if cmd.begun ≠ 0 then (if s.str.reshards.any fun r => r.ctx = ctx && r.cmd = some cmd.index then some (shardGo s ctx) else none)
  else if !cmd.zeros [0x20, 0x24] ∨ res % 8 ≠ 0 then failCmd s ctx cmd CmdErr.BAD_FIELD
  else if s.str.reshards.any (·.ctx = ctx) then none
  else
    let s := mapCmd s ctx cmd.index fun x => { x with begun := 1 }
    let r : Reshard :=
      { ctx := ctx, cmd := some cmd.index, mapId := 0, stamp := if cmd.stamped then some cmd.stamp else none,
        oldAt := cmd.f 0x28 63 0, newAt := cmd.f 0x30 63 0, result := res, begun := false, pieces := [], ready := [],
        expect := [], awaitBytes := 0, deadline := none, places := [] }
    some (shardGo { s with str := { s.str with reshards := s.str.reshards ++ [r] } } ctx)

/-- RESHARD. -/
def execReshard (ctx : Nat) (s : State) : Host.Outcome State Fault Refusal := cmdRow ctx 0x0B (reshardCmd ctx) s

/-- RESHARD_READY_RECEIVE (R198): a device's places may be written. One that comes before this device's re-shard is kept. -/
def execReshardReadyReceive (ctx dev : Nat) (s : State) : Host.Outcome State Fault Refusal :=
  run (okCtx ctx)
    (if s.str.reshards.any fun r => r.ctx = ctx && r.begun then
       shardGo (mapShard s ctx fun r => { r with ready := r.ready ++ [dev % 2 ^ 20] }) ctx
     else shardGo { s with str := { s.str with early := s.str.early ++ [(ctx, dev % 2 ^ 20)] } } ctx)

/-- Floor of the new place in which part of a piece arrives. -/
def Reshard.floorAt (r : Reshard) (s : State) (kind cell addr : Nat) : Nat :=
  let here (p : ShardPlace) : Bool :=
    p.kind == kind && (kind != 1 || p.cell == cell) && decide (p.addr ≤ addr ∧ addr < p.addr + p.len)
  ((r.places.find? here).map (·.floor)).getD (placeFloor s r.ctx ⟨meDev s, kind, cell, addr⟩)

/-- RESHARD_PIECE_RECEIVE (R198): part of a piece arrives at a place of this device, or a device acknowledges a piece. -/
def execReshardPieceReceive (ctx : Nat) (e : PieceEvent) (s : State) : Host.Outcome State Fault Refusal :=
  run (okCtx ctx)
    (match s.str.reshards.find? fun r => r.ctx = ctx && r.begun with
     | none => s
     | some r =>
       match e with
       | .piece dev kind cell addr data poison last =>
         let f := r.floorAt s kind cell addr
         let first_ := s.mir.nextCopy
         match shardPut s ctx kind cell f addr data poison with
         | (s, false) => s
         | (s, true) =>
           let s := wr64 s 0 (rseReg f Reg.RSE_AWAIT_LO) (rd64 s 0 (rseReg f Reg.RSE_AWAIT_LO) - data.length)
           let s := mapShard s ctx fun r =>
             { r with awaitBytes := r.awaitBytes - data.length
                      expect := r.expect.map fun x => if last ∧ x.1 = dev then (x.1, x.2 - 1) else x }
           let ack : HeldReply :=
             { lane := 7, kind := 5, source := f, dst := dev, order := 0, handle := 0, extra := [ctx, 1], copies := [] }
           shardGo (if last then sendAfter s first_ ack else s) ctx
       | .ack dev =>
         match r.pieces.zipIdx.find? fun p => p.1.dev = dev && p.1.sent && !p.1.acked with
         | none => s
         | some p =>
           let s := count64 s 0 (rseReg p.1.floor Reg.RSE_SENT_LO) ((p.1.runs.map (·.len)).foldl (· + ·) 0)
           shardGo (mapShard s ctx fun r => { r with pieces := r.pieces.zipIdx.map fun y =>
             if y.2 = p.2 then { y.1 with acked := true } else y.1 }) ctx)

/-- RESHARD_TIMEOUT (R199): TIMEOUT_US has passed since this device began. -/
def execReshardTimeout (ctx : Nat) (s : State) : Host.Outcome State Fault Refusal :=
  run (okCtx ctx)
    (match s.str.reshards.find? (·.ctx = ctx) with
     | none => s
     | some r =>
       match r.deadline with
       | some d => if d ≤ s.cic.count then endShard s r RsSt.TIMEOUT else s
       | none => s)

/-- PHASE_BARRIER_COMPLETE (R66): once every started cell has arrived. A re-shard that the change asks for is begun first
and completes the barrier when it ends (R199). -/
def phaseBarrier (s : State) (ctx : Nat) : State :=
  let c := s.ctx ctx
  match c.barrier with
  | none => s
  | some b =>
    let cells := startedCells s ctx
    if s.str.reshards.any fun r => r.ctx = ctx && r.cmd = none then shardGo s ctx
    else if cells.isEmpty ∨ !(cells.all (arrivedAt s ctx)) ∨ s.str.reshards.any (·.ctx = ctx) then s
    else if phaseReshards c b.target then
      match phaseIn (c.nextPhases.getD c.phases) b.target with
      | none => s
      | some e =>
        let r : Reshard :=
          { ctx := ctx, cmd := none, mapId := e.mapId, stamp := none, oldAt := c.entry.mapAddr, newAt := e.mapAddr,
            result := 0, begun := false, pieces := [], ready := [], expect := [], awaitBytes := 0, deadline := none, places := [] }
        shardGo { s with str := { s.str with reshards := s.str.reshards ++ [r] } } ctx
    else phaseFinish s ctx

/-- PHASE_BARRIER_COMPLETE. -/
def execPhaseBarrierComplete (ctx : Nat) (s : State) : Host.Outcome State Fault Refusal :=
  run (okCtx ctx) (phaseBarrier s ctx)

end Sys2Proof.Machine
end

