-- ==== Sys2Proof/Machine/Translation.lean ====
section
/-!
DEFINITION. The rows of address translation: walks, answers to faults, overflow stores, the host's ATS and PRI answers, and
invalidations (R277-R299), over the translation of Ops.lean.
-/

namespace Sys2Proof.Machine

/-! ## Walks (R277, R284-R286, R292) -/

/-- A requester still makes its access: its transfer or its hand-overs, its re-shard, its collective or command, its SIGNAL, the
cell whose cache fills. -/
def wants (s : State) (r : Requester) : Bool :=
  let i := r.handle % 2 ^ 18
  if r.source = 0 then
    currentHandle s r.handle && (r == streamReq s i 0 0xFFFF 0 || (s.stream i).xfers.any fun t => xferReq s i t == r)
  else if r.source = 1 then s.str.reshards.any (·.ctx = r.ctx)
  else if r.source = 2 ∧ r.track = collTrack then s.lnk.colls.any (·.ctx = r.ctx)
  else if r.source ≠ 3 then true
  else
    match (logicalCells (s.ctx r.ctx))[r.cell]? with
    | none => false
    | some p => ((imgOf s p r.ctx).map fun i => i.ops.any fun o =>
        opc o.raw == 6 && o.stage == .waiting && o.track == r.track && o.desc == r.seq).getD false

/-- The walk of a prefetch ends (R285): one that would fault, or set A or D, is dropped and counted; for a page in host memory the
host's translation is looked ahead for as well. -/
def endPrefetch (s : State) (j : WalkJob) : State :=
  let u := j.req.unit
  let s := walkCounted s u j.req.ctx j.va
  match walkOutcome s j.req.ctx j.va j.write with
  | .leaf t none =>
    let s := keepXlt s u { t with mark := .ahead }
    if t.space = 0 then s else prefetchPage s j.req true j.write ((t.pa + (j.va - t.va)) % 2 ^ 52, j.bytes)
  | _ => count s (xltReg u Reg.XLT_PF_DROP) 1

/-- A walk's result is taken (R280, R281, R286): the translation is kept for its tile, which may proceed, or the tile's fault is reported.
One whose update of A or D is not accepted goes on. -/
def endWalk (s : State) (j : WalkJob) : State :=
  let gone (s : State) : State := setWalks s (s.xlt.walks.filter (·.number != j.number))
  if j.prefetch then endPrefetch (gone s) j
  else
    match walkNow s j.req.unit j.req.ctx j.va j.write with
    | (_, .hold) => s
    | (t, .kept) => gone t
    | (t, .fault c l) => if wants t j.req then raiseFault (gone t) j.req c l j.write j.va j.base j.bytes else gone t

/-- A range invalidation of a walk's page that its unit has still to acknowledge (R292). -/
def invalAhead (s : State) (j : WalkJob) : Bool :=
  s.xlt.invals.any fun v => v.ctx == j.req.ctx && v.waiting.contains j.req.unit && inRange v.va v.bytes (j.va / 4096 * 4096) 4096

/-- A walk in flight ends (R286, R292): a result that an invalidation has made stale is discarded, and the walk is made again once the
unit has acknowledged it. The free slot goes to the next walk. -/
def walkDone (s : State) (number : Nat) : State :=
  match s.xlt.walks.find? fun j => j.number = number && j.stage = .running with
  | none => s
  | some j =>
    let s := if !j.stale then endWalk s j
      else
        let again := { j with stale := false, stage := if invalAhead s j then .redo else .waiting }
        walkCounted (setWalks s (s.xlt.walks.map fun x => if x.number = number then again else x)) j.req.unit j.req.ctx j.va
    startWalks s j.req.unit

/-- Walks whose discarded results need no longer wait for an acknowledgement of their unit are made again (R292). -/
def redoWalks (s : State) (unit : Nat) : State :=
  startWalks (setWalks s (s.xlt.walks.map fun j =>
    if j.req.unit = unit ∧ j.stage = .redo ∧ !invalAhead s j then { j with stage := .waiting } else j)) unit

/-- The fill of a cell die's descriptor read cache as a requester (R277, R287). The manual does not say what SEQ its fault records
show (notes/assumptions/111.md). -/
def fillReq (s : State) (cell ctx track seq : Nat) : Requester :=
  { source := 4, ctx := ctx, unit := 8 + cellDie cell, handle := 0, cell := logicalOf (s.ctx ctx) cell, track := track, seq := seq }

/-- The fill of a line for the program of a cell, as one tile (R284). -/
def fillLine (s : State) (cell track va seq : Nat) : State :=
  match (s.cell cell).runner with
  | none => s
  | some ctx =>
    if (s.ctx ctx).live then (tile s (fillReq s cell ctx track (seq % 2 ^ 32)) (va % 2 ^ 64 / 64 * 64) 64 false).1 else s

/-- TRANSLATION_WALK_DONE (R285, R286). -/
def execTranslationWalkDone (w : WalkObs) (s : State) : Host.Outcome State Fault Refusal :=
  run (okWalkObs w) (match w with
    | .walk number => walkDone s number
    | .fill cell track va seq => fillLine s cell (track % 8) va seq)

/-! ## The end of a failed access (R289) -/

/-- A stream whose current access failed: its transfer ends with a status; a hand-over to an addressable sink makes the stream dead. -/
def failStream (s : State) (handle status : Nat) : State :=
  let i := handle % 2 ^ 18
  let x := s.stream i
  if !currentHandle s handle then s
  else
    match x.xfers.head? with
    | some t => failXfer s i t.id status
    | none =>
      let s := raiseCtxVector s x.ctx 2
      let s := raiseError s
        { sev := 2, type := Err.XFER_FAILED, die := 2 + x.home, inst := x.ctx, ctx := some x.ctx,
          detail := [handle, status, 3, 0xFFFF] }
      let s := killStream s i
      s.setStream i { s.stream i with lastStatus := status }

/-- The command of a context that a command processor's access was for: the one at the consumer count for a fetch, else the
issued one with that SEQ, or one carried out whose done flag it was, or one fetched. -/
def failedCmd (s : State) (r : Requester) : Nat :=
  let c := s.ctx r.ctx
  let mine (st : CmdStage) : Option Cmd := c.cmds.find? fun x => x.stage = st && x.seq == r.seq
  if r.track = fetchTrack then c.consumer
  else ((((mine .issued).or (mine .performed)).or (mine .fetched)).map (·.index)).getD c.consumer

/-- A hart's access that the host does not translate raises an access fault (R305): fetch 1, load 5, store 7. -/
def hartAtsFault (s : State) (r : Requester) (addr : Nat) (write : Bool) : State :=
  let h := s.hart r.track
  s.setHart r.track
    { h with resv := none, defer := false, cause := if write then 7 else if r.seq = 1 then 1 else 5, tval := addr }

/-- An access ends without its translation (R283, R289): a transfer with `status`, the others as FAILURE ends them. A SIGNAL that was
withdrawn (track 8) replays nothing (R292); a fault-queue write leaves its record held (R291). -/
def endAccess (s : State) (r : Requester) (status : Nat) : State :=
  if r.source = 0 then failStream s r.handle status
  else if r.source = 1 then
    match s.str.reshards.find? (·.ctx = r.ctx) with
    | some x => endShard s x RsSt.FAULT_FAILED
    | none => s
  else if r.source = 2 ∧ r.track = collTrack then failColl s r.ctx r.seq
  else if r.source = 2 ∧ r.track = fqTrack then
    fqFaults s r.ctx (fqSlot (s.ctx r.ctx)) (((s.ctx r.ctx).fqHeld.head?.map (·.tag)).getD 0) Cause.NOT_VALID
  else if r.source = 2 then
    let s := if r.track = countTrack then s.setCtx r.ctx { s.ctx r.ctx with countDue := none } else s
    haltQueue s r.ctx (failedCmd s r) CmdErr.FAULT_FAILED
  else if 8 ≤ r.track then s
  else
    match (logicalCells (s.ctx r.ctx))[r.cell]? with
    | none => s
    | some p =>
      if r.source = 4 then cellFaultOf s p r.ctx CellFault.ENGINE_FAULT r.track (r.seq % 1024)
      else
        match (imgOf s p r.ctx).bind fun i => i.ops.find? fun o => opc o.raw == 6 && o.stage == .waiting && o.track == r.track with
        | some o => failOp s p r.ctx o.id CellFault.ENGINE_FAULT r.track (r.seq % 1024)
        | none => s

/-- What an answer of FAILURE ends (R289). -/
def failAccess (s : State) (r : Requester) : State := endAccess s r XferSt.FAULT_FAILED

/-! ## Answers (R288-R291, R297) -/

/-- An entry of a unit's overflow store has become free: the requesters that stalled there without a record, of any context, walk again
with their next attempt (R290). -/
def freeEntry (s : State) (unit : Nat) : State :=
  (tkeys s.ctxs).foldl (fun s i =>
    let c := s.ctx i
    if c.norec.any (·.unit = unit) then s.setCtx i { c with norec := c.norec.filter fun q => q.unit != unit } else s) s

/-- Held records written to the queue while it has room, in the order raised (R290, R291): each frees an entry, and the
requesters of that unit that stalled without a record walk again; `n` bounds their number. -/
def flushFq (s : State) (ctx : Nat) : Nat → State
  | 0 => s
  | n + 1 =>
    let c := s.ctx ctx
    match c.fqHeld with
    | [] => s
    | r :: rest =>
      if c.fqFull then s
      else
        match writeFaultRecord (s.setCtx ctx { c with fqHeld := rest }) ctx r with
        | (s, true) => flushFq (freeEntry s r.req.unit) ctx n
        | (s, false) => s.setCtx ctx { s.ctx ctx with fqHeld := r :: (s.ctx ctx).fqHeld }

/-- The held records of a context tried again. -/
def retryFq (s : State) (ctx : Nat) : State := flushFq s ctx ((s.ctx ctx).fqHeld.length)

/-- FQ_RESP written (R288, R289, R292). -/
def answerTag (s : State) (ctx value : Nat) : State :=
  let c := s.ctx ctx
  if !c.live then s
  else
    match c.tags.find? fun t => t.tag = value % 65536 with
    | none => retryFq (s.setCtx ctx { c with fqRespBad := true }) ctx
    | some t =>
      let s := s.setCtx ctx { c with tags := c.tags.filter (·.tag != t.tag) }
      retryFq (if bit value 31 then failAccess s t.req else s) ctx

/-- FQ_RESP. -/
def execFqResp (src : Source) (ctx value : Nat) (s : State) : Host.Outcome State Fault Refusal :=
  run (okSource src && okCtx ctx) (viaReg s src (dbAddr ctx 0x018) (answerTag s ctx value))

/-- FQ_CONSUMED written (R297). -/
def consumeFq (s : State) (ctx value : Nat) : State :=
  let c := s.ctx ctx
  let v := value % 2 ^ 32
  let step := (v + 2 ^ 32 - c.fqConsumed) % 2 ^ 32
  if !c.live then s
  else if 0 < step ∧ step ≤ (c.fqProduced + 2 ^ 32 - c.fqConsumed) % 2 ^ 32 then
    retryFq (s.setCtx ctx { c with fqConsumed := v }) ctx
  else retryFq (s.setCtx ctx { c with fqConsBad := true }) ctx

/-- FQ_CONSUMED. -/
def execFqConsumed (src : Source) (ctx value : Nat) (s : State) : Host.Outcome State Fault Refusal :=
  run (okSource src && okCtx ctx) (viaReg s src (dbAddr ctx 0x014) (consumeFq s ctx value))

/-- OVERFLOW_RETRY (R290): the requesters that stalled without a record walk again with their next attempt, and one that
still faults takes a freed entry. -/
def execOverflowRetry (ctx : Nat) (s : State) : Host.Outcome State Fault Refusal :=
  run (okCtx ctx) (s.setCtx ctx { s.ctx ctx with norec := [] })

/-! ## ATS and PRI (R282, R283, R305) -/

/-- A tile waits for the host no longer. -/
def dropAts (s : State) (w : AtsWait) : State := setAts s (s.xlt.atsWait.erase w)

/-- A waiting tile's access ends without the host's translation: a hart's faults (R305), a prefetch is dropped and counted (R285), any
other ends (R283). -/
def endAts (s : State) (w : AtsWait) (status : Nat) : State :=
  let s := dropAts s w
  if w.req.source = 5 then hartAtsFault s w.req w.addr w.write
  else if w.req.source = 6 then count s (xltReg w.unit Reg.XLT_PF_DROP) 1
  else if wants s w.req then endAccess s w.req status
  else s

/-- A waiting tile that the host gives no translation, or too little permission: its page request, which waits while 512 are outstanding;
a hart's access and a prefetch make none (R283, R285, R305). -/
def askPage (s : State) (w : AtsWait) : State :=
  if w.req.source = 5 ∨ w.req.source = 6 then endAts s w XferSt.FAULT_FAILED
  else if 512 ≤ priTotal s then setAts s (s.xlt.atsWait.map fun x => if x = w then { x with stage := .queued } else x)
  else sendPage s w

/-- Records held for the host's translation of their queue are tried again (R282). -/
def resumeFq (s : State) (w : AtsWait) : State := if w.req.source = 2 ∧ w.req.track = fqTrack then retryFq s w.req.ctx else s

/-- ATS_TRANSLATION_COMPLETION (R282, R283): the translation is kept with the host's tag, and tiles that it serves wait no longer. -/
def atsDone (s : State) (unit ctx addr : Nat) (r : AtsObs) : State :=
  let mine := s.xlt.atsWait.filter fun w => w.unit = unit && w.req.ctx == ctx && w.addr / 4096 == addr / 4096 && w.stage = .asked
  if mine.isEmpty then s
  else
    match r with
    | .granted pa write =>
      let t : TlbEntry :=
        { ctx := ctx, root := 0, host := true, va := addr / 4096 * 4096, bytes := 4096, space := 0, pa := pa / 4096 * 4096,
          perm := if write then 4 else 0, mark := if mine.all (·.req.source = 6) then .ahead else .demand }
      let s := keepXlt s unit t
      let (ok, short) := mine.partition fun w => write || !w.write
      let s := ok.foldl resumeFq (ok.foldl dropAts s)
      short.foldl askPage s
    | .denied => mine.foldl askPage s

/-- ATS_TRANSLATION_COMPLETION. -/
def execAtsTranslationCompletion (unit ctx addr : Nat) (result : AtsObs) (s : State) : Host.Outcome State Fault Refusal :=
  run (okUnit unit && okCtx ctx) (atsDone s unit ctx addr result)

/-- A page request is answered: one fewer is outstanding, and one that waited goes out (R283). -/
def pageAnswered (s : State) (ctx : Nat) : State := sendQueued (s.setCtx ctx { s.ctx ctx with priOut := (s.ctx ctx).priOut - 1 })

/-- PAGE_REQUEST_RESPONSE (R283): on Success the ATS request is repeated; a failure fails the access. -/
def priDone (s : State) (unit ctx addr : Nat) (ok : Bool) : State :=
  match s.xlt.atsWait.find? fun w => w.unit = unit && w.req.ctx == ctx && w.addr / 4096 == addr / 4096 && w.stage = .paged with
  | none => s
  | some w => if ok then sendAts (pageAnswered s ctx) w else endAts (pageAnswered s ctx) w XferSt.FAULT_FAILED

/-- PAGE_REQUEST_RESPONSE. -/
def execPageRequestResponse (unit ctx addr : Nat) (ok : Bool) (s : State) : Host.Outcome State Fault Refusal :=
  run (okUnit unit && okCtx ctx) (priDone s unit ctx addr ok)

/-- A host-link reset of a port while tiles wait for answers on it: their accesses end HOST_DETACHED, and requests outstanding there are
outstanding no more (R192, R283). A hart's access is tried again, and asks again or faults (R309). -/
def endAtsOf (s : State) (port : Nat) : State :=
  (s.xlt.atsWait.filter fun w => w.port = port && w.stage ≠ .unsent).foldl (fun s w =>
    let s := if w.stage = .paged then pageAnswered s w.req.ctx else s
    if w.req.source = 5 then dropAts s w else endAts s w XferSt.HOST_DETACHED) s

/-- Tiles whose ATS requests waited for a port send them. -/
def sendUnsent (s : State) : State := (s.xlt.atsWait.filter (·.stage = .unsent)).foldl sendAts s

/-! ## Invalidations (R293-R296) -/

/-- A context's re-shard runs on a floor's engine: a piece or a place of it is that floor's. -/
def shardOn (s : State) (c floor : Nat) : Bool :=
  s.str.reshards.any fun r => r.ctx == c && ((r.pieces.any fun p => p.floor == floor) || r.places.any fun p => p.floor == floor)

/-- Contexts with an engine that a unit serves: a floor's command processors, the streams homed there and the re-shards on its engine; a
cell die's cells (R277). -/
def servedBy (s : State) (unit : Nat) : List Nat :=
  (List.range 64).filter fun c =>
    (s.ctx c).live &&
      (if 2 ≤ unit ∧ unit ≤ 5 then
         c % 4 == unit - 2 || shardOn s c (unit - 2) || (streamsOf s c).any fun i => (s.stream i).home == unit - 2
       else decide (8 ≤ unit) && (List.range 40).any fun p => (s.cell (40 * (unit - 8) + p)).runner == some c)

/-- A context failed by the fencing of a unit (R295): its queue halts, its streams homed there and its re-shard end, its cells there
fault. -/
def failContext (s : State) (unit c : Nat) : State :=
  let s := raiseError s { sev := 2, type := Err.XLT_UNIT_FAILED, die := unit, inst := 0, ctx := some c }
  let s := if 2 ≤ unit ∧ unit ≤ 5 then
      let s := if c % 4 = unit - 2 ∧ !(s.ctx c).halted then
          haltQueue s c (((s.ctx c).cmds.head?.map (·.index)).getD (s.ctx c).consumer) CmdErr.INV_FAILED else s
      let s := if shardOn s c (unit - 2) then
          ((s.str.reshards.find? (·.ctx = c)).map fun r => endShard s r RsSt.FAULT_FAILED).getD s else s
      ((streamsOf s c).filter fun i => (s.stream i).home = unit - 2).foldl killStream s
    else s
  if unit < 8 then s
  else (List.range 40).foldl (fun s p =>
    let x := s.cell (40 * (unit - 8) + p)
    if x.runner = some c ∧ x.img.started ∧ !x.img.halted then endProgram s (40 * (unit - 8) + p) c CellFault.ENGINE_FAULT else s) s

/-- What a unit holds and what waits at it dropped: its translations, walks, ATS and page requests. -/
def clearUnit (s : State) (unit : Nat) : State :=
  let t := setTlb s unit []
  let paged := (s.xlt.atsWait.filter fun w => w.unit = unit && w.stage = .paged).map (·.req.ctx)
  paged.foldl pageAnswered { t with xlt := { t.xlt with
    walks := s.xlt.walks.filter fun j => j.req.unit != unit
    atsWait := s.xlt.atsWait.filter fun w => w.unit != unit } }

/-- A unit fenced (R295): it drops its translations and every context that it serves fails. -/
def fenceUnit (s : State) (unit : Nat) : State :=
  if unitFenced s unit then s
  else
    let s := clearUnit { s with xlt := { s.xlt with fenced := s.xlt.fenced ++ [unit] } } unit
    let s := setFld s 0 (hub Pg.XLC Reg.XLC_INV_FAILED) unit unit 1
    let s := raiseInt s (xltReg unit 0) 2
    (servedBy s unit).foldl (fun s c => failContext s unit c) s

/-- An invalidation that every unit has acknowledged completes, unless an earlier one of its source has not (R293, R295). -/
def finishInval (s : State) (v : Inval) : State :=
  let same (w : Inval) : Bool := w.cmd.isSome == v.cmd.isSome && (v.cmd.isNone || w.ctx == v.ctx)
  let first := (s.xlt.invals.find? same).map (·.number)
  match s.xlt.invals.find? (·.number = v.number) with
  | none => s
  | some v =>
    if !v.waiting.isEmpty ∨ first ≠ some v.number then s
    else
      let s := setInvals s (s.xlt.invals.filter (·.number != v.number))
      match v.cmd with
      | some idx => if v.failed then haltQueue s v.ctx idx CmdErr.INV_FAILED else setStage s v.ctx idx .performed
      | none =>
        let a := hub Pg.XLC Reg.XLC_INV_CTL
        setFld (setFld s 0 a 31 31 0) 0 a 27 24 (b2n v.failed)

/-- The invalidations that can complete, in issue order. -/
def finishInvals (s : State) : State := s.xlt.invals.foldl finishInval s

/-- Invalidations as a unit acknowledges one. -/
def unitAcked (unit number : Nat) (l : List Inval) : List Inval :=
  l.map fun v => if v.number = number then { v with waiting := v.waiting.filter (· != unit) } else v

/-- A unit has acknowledged an invalidation: walks that waited for that are made again. -/
def ackInval (s : State) (unit number : Nat) : State :=
  redoWalks { s with xlt := { s.xlt with invals := unitAcked unit number s.xlt.invals } } unit

/-- A packet that has not been placed was translated by a unit through the range of an invalidation (R284, R293). -/
def usesRange (s : State) (unit : Nat) (v : Inval) : Bool :=
  s.str.packets.any fun p =>
    let x := s.stream p.index
    p.onWay && p.segs.isSome && 2 + x.home == unit && x.ctx == v.ctx && x.snk.kind == Kind.MEMORY
      && (sinkRanges x p.dst p.data.length).any fun r => inRange v.va v.bytes r.1 r.2

/-- A packet on its way, or a read of one's source, was translated by a unit to host I/O addresses in a range (R293, R296). -/
def usesHost (s : State) (unit addr bytes : Nat) : Bool :=
  let hit (io n : Nat) : Bool := decide (io < addr + bytes) && decide (addr < io + n)
  s.str.packets.any fun p => 2 + (s.stream p.index).home == unit
    && ((p.onWay && (p.segs.getD []).any fun g => g.space == 1 && hit g.io g.len)
      || s.host.reads.any fun o => o.kind == 3 && o.packet == p.id && hit o.io o.len)

/-- A unit drops its host translations in a range (R296). -/
def dropHost (s : State) (unit addr bytes : Nat) : State :=
  setTlb s unit ((tlbOf s unit).filter fun t => !(t.host && decide (t.va < addr + bytes) && decide (addr < t.va + 4096)))

/-- Host invalidations that every unit has acknowledged are answered, in the order they came (R296). -/
def finishHost (s : State) : State :=
  let done := s.xlt.hostInvals.filter (·.waiting.isEmpty)
  let s := { s with xlt := { s.xlt with hostInvals := s.xlt.hostInvals.filter fun v => !v.waiting.isEmpty } }
  done.foldl (fun s v => if (s.port v.port).inService then s.emit (.atsInvalidateCompletion v.port) else s) s

/-- An acknowledgement of a range invalidation: the unit drops its entries, and acknowledges once every access that used them is
performed (R293). -/
def ackRange (s : State) (unit : Nat) (v : Inval) : State :=
  let s' := dropRange s unit v.ctx v.va v.bytes
  if usesRange s unit v then s' else finishInvals (ackInval (count s' (xltReg unit Reg.XLT_INV) 1) unit v.number)

/-- An acknowledgement of the host's invalidation, by the same rule (R296). -/
def ackHost (s : State) (unit : Nat) (v : Inval) : State :=
  let s' := dropHost s unit v.va v.bytes
  if usesHost s unit v.va v.bytes then s'
  else
    let s' := count s' (xltReg unit Reg.XLT_INV) 1
    finishHost { s' with xlt := { s'.xlt with hostInvals := unitAcked unit v.number s'.xlt.hostInvals } }

/-- INVALIDATION_ACK (R293, R296). -/
def invalAck (s : State) (unit number : Nat) : State :=
  let mine (v : Inval) : Bool := v.number = number && v.waiting.contains unit
  match (s.xlt.invals.take 16).find? mine, s.xlt.hostInvals.find? mine with
  | some v, _ => ackRange s unit v
  | none, some v => ackHost s unit v
  | none, none => s

/-- INVALIDATION_ACK. -/
def execInvalidationAck (unit number : Nat) (s : State) : Host.Outcome State Fault Refusal :=
  run (okUnit unit) (invalAck s unit number)

/-- A silent unit is fenced, which acknowledges every invalidation for it (R295, R296). -/
def silenceUnit (s : State) (unit : Nat) : State :=
  let s := (s.xlt.invals.map (·.number)).foldl (fun s n => ackInval s unit n) (fenceUnit s unit)
  { s with xlt := { s.xlt with hostInvals := s.xlt.hostInvals.map fun v => { v with waiting := v.waiting.filter (· != unit) } } }

/-- INVALIDATION_TIMEOUT (R295, R296): 1 ms after it began, the units that have not acknowledged are fenced, and the invalidation
completes FAILED; the host's is answered. -/
def invalTimeout (s : State) (number : Nat) : State :=
  match (s.xlt.invals.take 16 ++ s.xlt.hostInvals).find? fun v => v.number = number && !v.waiting.isEmpty with
  | none => s
  | some v =>
    if s.cic.count < v.began + 125000 then s
    else
      let s := { s with xlt := { s.xlt with invals := s.xlt.invals.map fun w =>
        if w.number = number then { w with failed := true } else w } }
      finishHost (finishInvals (v.waiting.foldl silenceUnit s))

/-- INVALIDATION_TIMEOUT. -/
def execInvalidationTimeout (number : Nat) (s : State) : Host.Outcome State Fault Refusal := .next (invalTimeout s number)

/-- XLC_INV_GO (R294, R298): for a live context. -/
def xlcGo (s : State) (value : Nat) : State :=
  let a := hub Pg.XLC Reg.XLC_INV_CTL
  let id := bits value 13 8
  if bit (rd s 0 a) 31 then s
  else
    let s := setFld s 0 a 13 8 id
    if !(s.ctx id).live then setFld s 0 a 27 24 2
    else
      let va := rd64 s 0 (hub Pg.XLC Reg.XLC_INV_BASE_LO) / 4096 * 4096
      let n := rd64 s 0 (hub Pg.XLC Reg.XLC_INV_SIZE_LO)
      beginInval (setFld s 0 a 31 31 1) id va (n * 4096) none

/-- XLC_INV_GO. -/
def execXlcInvGo (src : Source) (value : Nat) (s : State) : Host.Outcome State Fault Refusal :=
  run (okSource src) (viaReg s src (hub Pg.XLC Reg.XLC_INV_CTL) (xlcGo s value))

/-- The host's invalidation (R296): carried to every floor die's unit that is there and not fenced; none comes over a port that is
out of service. -/
def hostInval (s : State) (port addr bytes : Nat) : State :=
  let v : Inval :=
    { number := s.xlt.nextInval, ctx := 64, va := addr, bytes := bytes, cmd := none,
      waiting := [2, 3, 4, 5].filter fun u => !s.xlt.fenced.contains u && !s.offline u, began := s.cic.count, failed := false,
      port := port }
  if !(s.port port).inService then s
  else finishHost { s with xlt := { s.xlt with hostInvals := s.xlt.hostInvals ++ [v], nextInval := v.number + 1 } }

/-- ATS_INVALIDATE_REQUEST (R296). -/
def execAtsInvalidateRequest (port addr bytes : Nat) (s : State) : Host.Outcome State Fault Refusal :=
  run (okPort port) (hostInval s port addr bytes)

end Sys2Proof.Machine
end

