-- ==== Sys2Proof/Machine/Host.lean ====
section
/-!
DEFINITION. The host ports and warm re-attach: host-link resets, ports in service, host accesses to BAR2, interrupts, the
coherence modes and the reclaiming of contexts (R318-R341).
-/

namespace Sys2Proof.Machine

/-! ## Coherence modes (R324-R326) -/

/-- FULL_REQ (R325): RESULT 1 OK, 2 REFUSED. -/
def fullReq (s : State) : State :=
  let a := hub Pg.ATT Reg.ATT_COH
  let p := s.port 0
  if p.inService && p.cacheEn && p.memEn && p.biEn && !s.coh.sweeping then
    let en := if s.coh.enabled.contains 0x20 then s.coh.enabled else s.coh.enabled ++ [0x20]
    setFld { s with coh := { s.coh with full := true, enabled := en } } 0 a 31 28 1
  else setFld s 0 a 31 28 2

/-- FULL_REQ. -/
def execFullReq (src : Source) (s : State) : Host.Outcome State Fault Refusal :=
  run (okSource src) (viaReg s src (hub Pg.ATT Reg.ATT_COH) (fullReq s))

/-- ONEWAY_REQ (R326). -/
def execOnewayReq (src : Source) (s : State) : Host.Outcome State Fault Refusal :=
  run (okSource src) (viaReg s src (hub Pg.ATT Reg.ATT_COH) (beginSweep s))

/-- HOME_SWEEP_DONE (R326): no entry names the host any more, and one-way coherence is in force. -/
def execHomeSweepDone (s : State) : Host.Outcome State Fault Refusal :=
  .next (endHostSweep s)

/-! ## Host-link resets (R331-R334) -/

/-- A read of host memory that was outstanding is abandoned: its packet is off the network and its credits return. What a read-back
was to perform is lost with the port (R192; notes/assumptions/110.md). A line asked for
is asked for again on the coherence port there is now, or not granted (R327). -/
def dropRead (s : State) (op : HostOp) : State :=
  if op.kind = 4 then s
  else if op.kind = 5 then
    match txnOf s op.packet with
    | some t => homeRun (askHost s op.packet { t with ask := 0 })
    | none => s
  else match s.str.packets.find? (·.id = op.packet) with
  | none => s
  | some p =>
    let s := { s with str := { s.str with packets := s.str.packets.filter (·.id != p.id) } }
    let x := s.stream p.index
    if needsCredits x then s.setStream p.index { x with credits := x.credits + ceilDiv p.data.length 256 } else s

/-- Ports allowed at each HOST endpoint of a stream, as bit sets (R177, R328). -/
def hostEnds (x : Stream) : List Nat := ([x.src, x.snk].filter (·.kind = Kind.HOST)).map (·.opt)

/-- A transfer uses a port: it has carried data on it, or an endpoint allows no other (R192, R328). -/
def usesPort (x : Stream) (t : Xfer) (p : Nat) : Bool := bit t.ports p || bit t.srcPorts p || (hostEnds x).contains (2 ^ p)

/-- Every HOST endpoint of a stream has an allowed port in service. -/
def hostReady (s : State) (x : Stream) : Bool := (hostEnds x).all fun m => (hostPort s m 0).isSome

/-- The transfers of a stream that use a port end HOST_DETACHED, and the stream is detached (R192, R332). -/
def detachStream (s : State) (p i : Nat) : State :=
  let x := s.stream i
  let l := x.xfers.filter fun t => usesPort x t p
  if x.st = .free ∨ (l.isEmpty ∧ hostReady s x) then s
  else
    let s := l.foldl (fun s t => failXfer s i t.id XferSt.HOST_DETACHED) s
    let y := s.stream i
    if y.st = .live then s.setStream i { y with st := .detached } else s

/-- Detached streams return to live where every endpoint has an allowed port in service (R192, R332). -/
def resumeStreams (s : State) : State :=
  (tkeys s.str.streams).foldl (fun s i =>
    let x := s.stream i
    if x.st = .detached ∧ hostReady s x then s.setStream i { x with st := .live } else s) s

/-- Host lines that device agents hold are invalidated as port 0 leaves service; modified data goes back through port 1, or
is lost (R327). -/
def dropHostLines (s : State) : State :=
  let ls := (tkeys s.coh.dir).filter isHostLine
  let dirty := ls.filter fun l => (modifiedBy s l).isSome
  if (s.port 1).inService then ls.foldl invalidateLine s
  else
    let s := ls.foldl (fun s l =>
      setDir ((holders s l).foldl (fun s g => setLine s g l AgentLine.none_) s) l DirEntry.di) s
    if dirty.isEmpty then s
    else
      let s := countFld s 0 (hpReg 0 Reg.HP_WB_LOST) 31 0 dirty.length
      raiseError s { sev := 2, type := Err.HOST_WB_LOST, die := 0, inst := 0, space := 3, addr := lineAddr (nth dirty 0) }

/-- Seconds before an unclaimed context is scrubbed (R334). -/
def abandonSeconds (c : Ctx) : Nat := if c.desc.abandonS = 0 then 600 else c.desc.abandonS

/-- A live context as the device becomes host-detached (R334, R338): a timer that runs already runs on. -/
def detachCtx (s : State) (c : Ctx) : Ctx :=
  if !c.live then c
  else
    { c with
      paused := c.paused || !c.desc.detachRun
      claimed := false
      tokenFails := if c.claimed then 0 else c.tokenFails
      abandonAt := if c.desc.scrub ∧ c.abandonAt.isNone then some (s.cic.count + 125000000 * abandonSeconds c) else c.abandonAt }

/-- The device becomes host-detached (R334). -/
def hostDetach (s : State) : State :=
  let s := (List.range 64).foldl (fun s i => if (s.ctx i).live then s.setCtx i (detachCtx s (s.ctx i)) else s) s
  let s := { s with host := { s.host with
    attach := 2, attested := false, sessions := s.host.sessions.map fun x => { x with viaHost := false } } }
  let s := (tkeys s.core.harts).foldl (fun s h => s.setHart h { s.hart h with reported := false }) s
  let s := wr64 s 0 (hub Pg.ATT Reg.ATT_DET_CNT_LO) (s.cic.count % 2 ^ 64)
  raiseInt s (hub Pg.ATT 0) 0

/-- A host-link reset of a port (R331, R332). Resets of the function alone leave the data link up. -/
def linkReset (s : State) (p cause : Nat) : State :=
  let old := s.port p
  let keep : Bool := cause = 4 || cause = 5
  let s := s.setPort p { Port.down with up := keep && old.up, speed := if keep then old.speed else 0, width := if keep then old.width else 0 }
  let a := hpReg p Reg.HP_RESETS
  let s := setFld (countFld s 0 a 31 4 1) 0 a 3 0 cause
  let s := raiseInt s (hpReg p 0) 1
  let s := ((tkeys s.str.streams)).foldl (fun s i => detachStream s p i) s
  let lost := s.host.reads.filter (·.port = p)
  let s := { s with host := { s.host with
    reads := s.host.reads.filter (·.port != p), unread := s.host.unread.filter (·.port != p) } }
  let s := endAtsOf (if p = 0 then dropHostLines (beginSweep s) else s) p
  let s := showAll (lost.foldl dropRead s)
  if (s.port (1 - p)).inService then resumeStreams { s with host := { s.host with attach := 1 } }
  else
    if s.host.attach = 2 then { s with host := { s.host with attested := false } } else hostDetach s

/-- HOST_LINK_RESET: cause 1 PERST#, 2 hot or secondary bus reset, 3 DL_Down, 4 function-level reset, 5 CXL reset (R331,
R340). -/
def execHostLinkReset (port cause : Nat) (s : State) : Host.Outcome State Fault Refusal :=
  run (okPort port && decide (1 ≤ cause ∧ cause ≤ 5)) (linkReset s port cause)

/-! ## A port in service (R331-R333) -/

/-- Host writes that waited are issued, in order, while their pages find a port (R333). -/
def flushHost (s : State) : List HostOp → State
  | [] => s
  | w :: l =>
    match hostPort s 3 w.io with
    | some p => flushHost (toHost s p w.addr w.data false) l
    | none => flushHost { s with host := { s.host with waiting := s.host.waiting ++ [w] } } l

/-- A port comes into service: the device leaves the detached state, detached streams with an allowed port return to live, and
what waited goes on (R192, R332, R333). -/
def portUp (s : State) (p : Nat) (o : PortObs) : State :=
  if s.boot.stage < 7 then s
  else
    let s := s.setPort p
      { up := true, memSpace := true, busMaster := true, cacheEn := o.cacheEn, memEn := o.memEn, biEn := o.biEn,
        msixEn := o.msixEn, funcMask := o.funcMask, speed := o.speed, width := o.width }
    let s := { s with host := { s.host with attach := if (s.port (1 - p)).inService then 0 else 1 } }
    let s := resumeStreams s
    let s := flushHost { s with host := { s.host with waiting := [] } } s.host.waiting
    (List.range 64).foldl retryFq (sendUnsent s)

/-- PORT_IN_SERVICE. -/
def execPortInService (port : Nat) (cfg : PortObs) (s : State) : Host.Outcome State Fault Refusal :=
  run (okPort port) (portUp s port cfg)

/-- MSI_X_FUNCTION_MASK_WRITE: a function's own MSI-X Enable and Function Mask (R323). -/
def execMsiXFunctionMaskWrite (port : Nat) (enable mask : Bool) (s : State) : Host.Outcome State Fault Refusal :=
  run (okPort port) (s.setPort port { s.port port with msixEn := enable, funcMask := mask })

/-! ## Interrupts (R313, R322, R323) -/

/-- Address of an MSI-X table entry. -/
def msixEntry (v : Nat) : Nat := 0x20000 + 16 * v

/-- A vector is masked (R323). -/
def vectorMasked (s : State) (v : Nat) : Bool :=
  bit (rd s 0 (msixEntry v + 12)) 0 || ((irqPort s).map fun p => (s.port p).funcMask).getD false

/-- A vector that goes to the host must be held (R323, R336). -/
def vectorHeld (s : State) (v : Nat) : Bool :=
  vectorMasked s v || (irqPort s).isNone || (decide (v < 1024) && (s.ctx (v / 16)).live && !(s.ctx (v / 16)).claimed)

/-- An MSI-X message sent (R322, R323). -/
def sendMsix (s : State) (v : Nat) : State :=
  match irqPort s with
  | none => s
  | some p => s.emit (.msix v p (rd64 s 0 (msixEntry v)) (rd s 0 (msixEntry v + 8)))

/-- One vector delivered: a held one that is no longer held goes first, then the oldest raised: to the hart it was routed to, or to the host
where it was routed to none or that hart is offline (R313, R314, R323). -/
def deliverVector (s : State) : State :=
  match s.host.pba.find? fun v => !vectorHeld s v with
  | some v => sendMsix { s with host := { s.host with pba := s.host.pba.filter (· != v) } } v
  | none =>
    match s.host.vecs with
    | [] => s
    | r :: l =>
      let s := { s with host := { s.host with vecs := l } }
      let up (p : Nat × Nat) : Bool := !bit s.core.offline (p.1 / 4) && !s.core.dieOff
      let v := r.vector
      match r.hart.filter up with
      | some (h, id) =>
        let x := s.hart h
        (s.setHart h { x with irqs := if x.irqs.contains id then x.irqs else x.irqs ++ [id] }).emit (.hartIrq h id)
      | none =>
        if vectorHeld s v then
          { s with host := { s.host with pba := if s.host.pba.contains v then s.host.pba else s.host.pba ++ [v] } }
        else sendMsix s v

/-- VECTOR_DELIVER. -/
def execVectorDeliver (s : State) : Host.Outcome State Fault Refusal := .next (deliverVector s)

/-! ## BAR2 (R320, R324, R474, R488) -/

/-- Data of a read emitted, and counted as sent. -/
def readOut (s : State) (p : Nat) (data : List Byte) (poison : Bool) : State :=
  count64 (s.emit (.readData data poison)) 0 (hpReg p Reg.HP_TX_LO) data.length

/-- Poisoned data, whose bytes carry nothing. -/
def poisonOut (s : State) (p n : Nat) : State := readOut s p (List.replicate n 0) true

/-- Bytes that an access reads, 0 for a write, and those it writes. -/
def accSize : HostAcc → Nat × Nat
  | .read n => (n, 0)
  | .write d _ _ => (0, d.length)
  | .readLine _ => (64, 0)
  | .writeBack _ => (0, 64)

/-- A read as RdC of each line (R228, R251), and its data. -/
def hostRead (s : State) (p off n : Nat) : State :=
  let s := readRange s off n true (partOf s (.port p))
  readOut s p (devBytes s off n) (devPoison s off n)

/-- A host access inside the pool. A read does not pass a posted write of its port that waits. -/
def hostAccess (s : State) (p off : Nat) (a : HostAcc) : State :=
  let line := off / 64
  let cached : Bool := p = 0 && s.coh.full && s.coh.enabled.contains 0x20 && !s.coh.sweeping
  let behind := s.mir.waiting.any fun w => w.from_ = 96 + p
  match a with
  | .read n => if behind then s else hostRead s p off n
  | .write d st relaxed => portWrite s (96 + p) off d st relaxed
  | .readLine own =>
    if cached then
      let s := agentGets s (if own then .rdO else .rdS) 0x20 line none
      let l := agentLine s 0x20 line
      readOut s p l.data (!l.poison.isEmpty)
    else if behind then s
    else hostRead s p (line * 64) 64
  | .writeBack d =>
    let l := agentLine s 0x20 line
    let d := (d ++ List.replicate 64 0).take 64
    if !cached then portWrite s (96 + p) (line * 64) d none false
    else
      let s := if l.st = .m ∨ l.st = .e then setLine s 0x20 line { l with st := .m, data := d, poison := [] } else s
      homeReq s { req := .wb, from_ := 0x20, line := line, data := d, mask := fullMask, stash := none, ctx := none }

/-- HOST_MEM_ACCESS (R320, R321, R324): what the reset or the fatal state leaves of BAR2 comes first (R474, R488), then the
end of the pool. -/
def barAccess (s : State) (p off : Nat) (a : HostAcc) : State :=
  let (r, w) := accSize a
  if !(s.port p).inService ∨ clockStopped s 0 7 p then s
  else
    let s := count64 s 0 (hpReg p Reg.HP_RX_LO) w
    if s.boot.warmBusy ∨ s.boot.fatal ∨ s.sec.dike ≠ 0 then
      let s := if s.boot.warmBusy ∧ !s.boot.reportedReset then
          raiseError { s with boot := { s.boot with reportedReset := true } }
            { sev := 2, type := Err.HOST_DURING_RESET, die := 0, inst := p, space := 1, addr := off }
        else s
      if r = 0 then s else poisonOut s p r
    else if poolBytes < off + r + w then
      let s := countFld s 0 (hpReg p Reg.HP_OOR) 31 0 1
      let s := raiseError s
        { sev := 2, type := Err.HOST_OOR, die := 0, inst := p, space := 1, addr := off, detail := [b2n (r = 0), r + w] }
      if r = 0 then s else poisonOut s p r
    else hostAccess s p off a

/-- HOST_MEM_ACCESS. -/
def execHostMemAccess (port offset : Nat) (a : HostAcc) (s : State) : Host.Outcome State Fault Refusal :=
  run (okPort port && decide (offset < 2 ^ 39)) (barAccess s port offset a)

/-- HOST_SNOOP (R252): a host invalidation is a write without data, a data snoop an RdC; the host sees one answer. -/
def hostSnoop (s : State) (line : Nat) (inv : Bool) : State :=
  let l := hostLineBase + line
  let s := settle s [l]
  let s := if inv then invalidateLine s l else readLine s l false false none
  s.emit (.hostCoh 1 line)

/-- HOST_SNOOP. -/
def execHostSnoop (line : Nat) (invalidate : Bool) (s : State) : Host.Outcome State Fault Refusal :=
  run (okHostLine line) (hostSnoop s line invalidate)

/-- A transfer's read completes: its data, or poison, fill its packet, which goes on once all its reads are complete. -/
def packetRead (s : State) (op : HostOp) (ok : Bool) (d : List Byte) : State :=
  let more := s.host.reads.any fun r => r.kind = 3 && r.packet = op.packet
  let bad := if ok then [] else (List.range (ceilDiv op.len 32)).map (· + op.offset / 32)
  let whole (k : Packet) : Nat := if (s.stream k.index).snk.kind = Kind.REMOTE then 4 else 0
  let s := { s with str := { s.str with packets := s.str.packets.map fun (k : Packet) =>
    if k.id = op.packet then
      { k with data := k.data.take op.offset ++ d ++ k.data.drop (op.offset + op.len), fate := if more then 3 else whole k,
               poison := k.poison ++ bad }
    else k } }
  match s.str.packets.find? fun (k : Packet) => k.id = op.packet with
  | some k => if k.fate = 4 then sendReads s (s.str.packets.filter fun (q : Packet) => q.index = k.index) else s
  | none => s

/-- The host's answer for a line that the home asked for (R252): its data or poison, and the state it grants. -/
def lineRead (s : State) (line : Nat) (ok : Bool) (d : List Byte) (grant : Nat) : State :=
  match txnOf s line with
  | none => s
  | some t =>
    let own := s.coh.hostOwn.filter (· != line)
    let s := { s with coh := { s.coh with hostOwn := if 2 ≤ grant then own ++ [line] else own } }
    homeRun (setTxn s line (some (t.given d (if ok then [] else [0, 1]) grant)))

/-- A read that completes: a line asked for over CXL.cache where the completion grants a state, else a read of CXL.io. -/
def answersRead (p : Nat) (grant : Option Nat) (r : HostOp) : Bool := r.port == p && ((r.kind == 5) == grant.isSome)

/-- HOST_READ_COMPLETION (R252, R329): the oldest such read of the port completes; UR, CA or a time-out gives poison. -/
def readDone (s : State) (p : Nat) (ok : Bool) (data : List Byte) (grant : Option Nat) : State :=
  match s.host.reads.find? (answersRead p grant) with
  | none => s
  | some op =>
    let s := { s with host := { s.host with reads := s.host.reads.erase op } }
    let d := (data ++ List.replicate op.len 0).take op.len
    let s := if op.kind = 5 then lineRead s op.packet ok d (grant.getD 0)
      else if op.kind = 4 then showAll (performed s p op.packet) else packetRead s op ok d
    if ok then count64 s 0 (hpReg p Reg.HP_RX_LO) op.len
    else
      let s := countFld s 0 (hpReg p Reg.HP_CPL_ERR) 31 0 1
      let ctx := if op.kind = 3 then some op.ctx else none
      raiseError s { sev := 2, type := Err.HOST_CPL_ERR, die := 0, inst := p, ctx := ctx, space := 3, addr := op.addr }

/-- HOST_READ_COMPLETION. -/
def execHostReadCompletion (port : Nat) (ok : Bool) (d : HostData) (s : State) : Host.Outcome State Fault Refusal :=
  run (okPort port) (readDone s port ok d.bytes d.grant)

/-! ## Warm re-attach (R335-R339) -/

/-- Word `i` of a context's token (R335). -/
def tokenWord (s : State) (ctx i : Nat) : Nat := Config.randomWord (s.ctx ctx).token i % 2 ^ 32

/-- The token words as ATT_TOKEN0-3 read them for the selected context (R335). -/
def tokenView (s : State) (i : Nat) : Nat :=
  let ctx := fld s 0 (hub Pg.ATT Reg.ATT_SEL) 5 0
  if (s.ctx ctx).tokenReady then tokenWord s ctx i else 0

/-- The words written to ATT_TOKEN0-3 are the context's token (R337). -/
def tokenMatches (s : State) (ctx : Nat) : Bool :=
  [0, 1, 2, 3].all fun i => rd s 0 (hub Pg.ATT (Reg.ATT_TOKEN0 + 4 * i)) == tokenWord s ctx i

/-- A reclaim's result set, and bit 1 raised (R337, R341). -/
def reclaimResult (s : State) (r : Nat) : State :=
  raiseInt (setFld s 0 (hub Pg.ATT Reg.ATT_CMD) 7 4 r) (hub Pg.ATT 0) 1

/-- RECLAIM (R337): 1 OK, 2 BAD_TOKEN, 3 NOT_LIVE, 4 ALREADY, 5 NOT_ATTESTED, 6 LOCKED. A success retires the token and issues
a new one (R335). -/
def reclaim (s : State) : State :=
  let ctx := fld s 0 (hub Pg.ATT Reg.ATT_SEL) 5 0
  let s := setFld s 0 (hub Pg.ATT Reg.ATT_CMD) 3 0 1
  let c := s.ctx ctx
  if !c.live ∨ c.ending = 4 then reclaimResult s 3
  else if c.claimed then reclaimResult s 4
  else if !s.host.attested then reclaimResult s 5
  else if 4 ≤ c.tokenFails then reclaimResult (secEvent s Sev.RECLAIM ctx 0 6 true) 6
  else if tokenMatches s ctx then
    let s := s.setCtx ctx { c with claimed := true, tokenFails := 0, abandonAt := none, token := s.sec.nextKey, tokenReady := true }
    reclaimResult { s with sec := { s.sec with nextKey := s.sec.nextKey + 1 } } 1
  else
    let s := s.setCtx ctx { c with tokenFails := c.tokenFails + 1 }
    reclaimResult (secEvent s Sev.RECLAIM ctx 0 2 true) 2

/-- RECLAIM. -/
def execReclaim (src : Source) (s : State) : Host.Outcome State Fault Refusal :=
  run (okSource src) (viaReg s src (hub Pg.ATT Reg.ATT_CMD) (reclaim s))

/-- ATT_TOKEN_READ (R335): reading ATT_TOKEN3 clears TOKEN_READY. -/
def tokenRead (s : State) : State :=
  let ctx := fld s 0 (hub Pg.ATT Reg.ATT_SEL) 5 0
  let v := tokenView s 3
  (s.setCtx ctx { s.ctx ctx with tokenReady := false }).emit (.readValue v)

/-- ATT_TOKEN_READ. -/
def execAttTokenRead (src : Source) (s : State) : Host.Outcome State Fault Refusal :=
  run (okSource src) (viaReg s src (hub Pg.ATT Reg.ATT_TOKEN3) (tokenRead s))

/-- SCRUB_ON_ABANDON (R338): its timer has expired while it is unclaimed. A context that DESTROY is ending ends so; a RESET of it that
waits fails, for the context is no longer live. -/
def scrub (s : State) (ctx : Nat) : State :=
  let c := s.ctx ctx
  match c.abandonAt with
  | none => s
  | some t =>
    if !c.live ∨ c.claimed ∨ s.cic.count < t ∨ c.ending = 2 ∨ c.ending = 4 then s
    else beginEnd (if c.ending = 3 then ctxmResult s CtxmRes.NOT_LIVE else s) ctx 4

/-- SCRUB_ON_ABANDON. -/
def execScrubOnAbandon (ctx : Nat) (s : State) : Host.Outcome State Fault Refusal := run (okCtx ctx) (scrub s ctx)

end Sys2Proof.Machine
end

