-- ==== Sys2Proof/Machine/Mirror.lean ====
section
/-!
DEFINITION. The mirror pair (16_mirror_pairs.md): forming and ending it, copies and mirror-state messages, heartbeats, the
witness's answers, promotion, rejoining and resynchronisation.
-/

namespace Sys2Proof.Machine

/-- Register of the mirror page. -/
abbrev mirReg (off : Nat) : Nat := hub Pg.MIR off

/-- The state of the pair set; heartbeats are awaited from its forming on (R383); bit 0 of PG_INT_RAW where it changes (R392). -/
def mirSet (s : State) (st : Nat) : State :=
  let t := { s with mir := { s.mir with st := st, hbAt := if s.mir.st = 0 then s.cic.count else s.mir.hbAt } }
  if s.mir.st = st then t else raiseInt t (mirReg 0) 0

/-- RESULT of MIR_CMD written, the operation ended (R377, R392). -/
def mirResult (s : State) (r : Nat) : State :=
  setFld (setFld s 0 (mirReg Reg.MIR_CMD) 31 31 0) 0 (mirReg Reg.MIR_CMD) 27 24 r

/-- Results of MIR_CMD (R377). -/
abbrev MirRes.OK : Nat := 1
abbrev MirRes.MISMATCH : Nat := 2
abbrev MirRes.NO_PARTNER : Nat := 3
abbrev MirRes.BAD_CONFIG : Nat := 4
abbrev MirRes.CONFLICT : Nat := 5
abbrev MirRes.STATE : Nat := 6

/-- The pair's identity queued for commit (R375, R424): partner, role, epoch, in words (notes/assumptions/22.md); a
tombstone once the pair is dissolved. -/
def commitMirrorId (s : State) (tomb : Bool) : State :=
  queueCommit s
    { prio := 2, type := 0x0042, key := 0, version := 1, tomb := tomb,
      data := if tomb then [] else leBytes 4 (partner s) ++ leBytes 4 (b2n s.mir.primary) ++ leBytes 4 s.mir.epoch }

/-! ## What is sent (R379, R382, R383) -/

/-- Words cut into lists of `n`. -/
def wordChunks (n : Nat) : Nat → List Nat → List (List Nat)
  | 0, _ => []
  | k + 1, l => if l.isEmpty then [] else l.take n :: wordChunks n k (l.drop n)

/-- A list of words sent on a twin link, in messages of up to 14 units (R382): the words `pre`, then its own. -/
def sendWords (s : State) (l kind lane : Nat) (pre words : List Nat) : State :=
  (wordChunks 448 (words.length + 1) words).foldl (fun s w =>
    mirSend s l kind lane (ceilDiv (8 * w.length) 256) 0 [] [] (pre ++ w)) s

/-- What the primary sends of a mirrored context (R382), in words (notes/assumptions/28.md): its descriptor, phase in force,
counts, key, and its streams; of one that is not live its number alone. -/
def mirrorWords (s : State) (i : Nat) : List Nat :=
  let c := s.ctx i
  let d := c.desc
  if !c.live then [i]
  else
    [i, d.version, b2n d.latency, b2n d.detachRun, b2n d.scrub, b2n d.nextLine, d.abandonS, d.fqLog2, d.cqLog2, d.cqBase,
      d.consumedAddr, d.fqBase, d.ptRoot, d.phaseTable, d.streamLimit, d.borrowHoldUs, d.energyBudget, d.cellSet, d.borrowSet,
      c.phase, c.producer, c.completedThrough, c.fqProduced, c.fqConsumed, (s.slot i).key]
    ++ (streamsOf s i).flatMap fun k =>
      let x := s.stream k
      [handleOf s k, if x.st = .live then 1 else if x.st = .detached then 3 else 2, x.src.kind, x.src.unit, x.src.name, x.src.base,
        x.src.size, x.src.opt, x.src.control, x.snk.kind, x.snk.unit, x.snk.name, x.snk.base, x.snk.size, x.snk.opt, x.snk.control,
        x.delivered, x.lastSeq, x.lastStatus]

/-- A message of the pair sent on its link: a granule's copy, or a context's state. -/
def putMsg (s : State) (c : MirCopy) : State :=
  match c.ctx with
  | none => putCopy s c
  | some i => sendWords s c.link 7 5 [c.id] (mirrorWords s i)

/-- Copies and mirror-state messages whose link is down are sent again on the link that R379 names, in their order. -/
def moveCopies (s : State) : State :=
  if (twinsUp s).isEmpty then s
  else
    let move (c : MirCopy) : MirCopy := if twinOpen s c.link then c else { c with link := (twinFor s c.granule).getD 96 }
    let go := (s.mir.copies.filter fun c => !twinOpen s c.link).map move
    go.foldl putMsg { s with mir := { s.mir with copies := s.mir.copies.map move } }

/-- A change of a mirrored context's state sent to the partner (R382). -/
def sendState (s : State) (i : Nat) : State :=
  let w := mirrorWords s i
  if tget (fun _ => []) s.mir.sent i = w then s
  else
    let (s, c) := noteCopy { s with mir := { s.mir with sent := tset (fun _ => []) s.mir.sent i w } } (some i) i
    putMsg s c

/-- The primary of a pair sends what has changed of its mirrored contexts: within a tick, so within 10 µs (R382). -/
def sendStates (s : State) : State :=
  if s.mir.st = 0 ∨ 4 ≤ s.mir.st ∨ !s.mir.primary ∨ (twinsUp s).isEmpty then s
  else (bitList (rd64 s 0 (mirReg Reg.MIR_CTX_LO)) 64).foldl sendState s

/-- The count advances by one (R157). A tick is longer than a cell cycle: updated counters may be tested again, but those of a
cell whose clock stands still (R24). The cycles of waiting that end in it are counted (R74, R155). -/
def nextCount (s : State) : State :=
  let t := addCycles s
  { t with
    cic := { t.cic with count := s.cic.count + 1 }
    boot := { t.boot with fresh := s.boot.fresh.filter fun p => cellClockStopped s p.1 } }

/-- CICADA_TICK: the count advances, and what has changed of the mirrored contexts goes to the partner (R157, R382). -/
def execCicadaTick (s : State) : Host.Outcome State Fault Refusal := .next (sendStates (nextCount s))

/-- Key-map entries of the mirrored regions sent to the partner as the pair forms or rejoins (R455). -/
def sendKeyMap (s : State) : State :=
  let l := (tkeys s.sec.keyMap).filter fun g => inMirrorRegion s (g * 2 ^ 21) (2 ^ 21)
  sendWords s ((twinFor s 0).getD 96) 5 5 [] (l.flatMap fun g => [g, tget (fun _ => 0x7F) s.sec.keyMap g])

/-! ## Configuration (R376-R378) -/

/-- The regions in use: base and size in blocks. -/
def mirRegions (s : State) : List (Nat × Nat) :=
  ((List.range 16).map fun r => (fld s r (mirReg Reg.MIR_REG_BASE) 22 0, fld s r (mirReg Reg.MIR_REG_SIZE) 22 0)).filter
    fun p => p.2 != 0

/-- Two regions of a list meet. -/
def regionsMeet : List (Nat × Nat) → Bool
  | [] => false
  | p :: l => (l.any fun q => decide (p.1 < q.1 + q.2 ∧ q.1 < p.1 + p.2)) || regionsMeet l

/-- Every block of the regions, rising. -/
def regionBlocks (l : List (Nat × Nat)) : List Nat :=
  (l.flatMap fun p => (List.range p.2).map (· + p.1)).foldl addDirty []

/-- The contexts that MIR_CTX names. -/
def mirCtxMask (s : State) : Nat := rd64 s 0 (mirReg Reg.MIR_CTX_LO)

/-- BAD_CONFIG (R377): regions that overlap, leave the pool or are too many, the number of twins, a twin whose peer is not
the partner. A twin that is down has no peer to report. -/
def mirBadConfig (s : State) : Bool :=
  let rs := mirRegions s
  let n := (twinLinks s).length
  regionsMeet rs || decide (4194304 < (rs.map Prod.snd).foldl (· + ·) 0)
    || (rs.any fun p => decide (poolBytes < (p.1 + p.2) * 65536)) || decide (n < 4 ∨ 16 < n)
    || !bit (rd s 0 (mirReg Reg.MIR_PARTNER)) 31
    || (twinsUp s).any fun l => (s.link l).peerDev != partner s

/-- MISMATCH (R377): the two devices disagree, or claim the same role. -/
def mirMismatch (s : State) (a : MirAnswer) : Bool :=
  let rs := mirRegions s
  a.primary == bit (rd s 0 (mirReg Reg.MIR_CTL)) 31 || a.async != bit (rd s 0 (mirReg Reg.MIR_CTL)) 30
    || a.ctxs != mirCtxMask s || !(rs.all fun p => a.regions.contains p) || !(a.regions.all fun p => rs.contains p)

/-- CONFLICT on the secondary (R377): a mirrored context is live, or a cell of one is owned. -/
def mirConflict (s : State) (a : MirAnswer) : Bool :=
  (bitList (mirCtxMask s) 64).any (fun i => (s.ctx i).live) || (bitList a.cells 320).any fun c => (ownerOf s c).isSome

/-- Key-map entries that the primary sends: of the mirrored regions only (R455). -/
def takeKeyMap (s : State) (l : List (Nat × Nat)) : State :=
  let l := l.filter fun p => inMirrorRegion s (p.1 * 2 ^ 21) (2 ^ 21)
  { s with sec := { s.sec with keyMap := tsetAll (fun _ => 0x7F) s.sec.keyMap (l.map fun p => (p.1, p.2 % 128)) } }

/-! ## Copies of dirty blocks (R389) -/

/-- In state copying the primary copies the first dirty block, one at a time; with none left the pair is mirrored. -/
def nextBlock (s : State) : State :=
  if s.mir.st ≠ 1 ∨ !s.mir.primary ∨ s.mir.resync.isSome then s
  else
    match s.mir.dirty with
    | [] => mirSet s 2
    | b :: _ =>
      let s := { s with mir := { s.mir with resync := some (b, false) } }
      (List.range 256).foldl (fun s k => sendCopy s (256 * b + k)) s

/-- The block under copy is done once every copy of its granules is acknowledged: its bit is cleared, unless it was written
since its copy began. -/
def blockDone (s : State) : State :=
  match s.mir.resync with
  | none => s
  | some (b, again) =>
    if (dataCopies s).any fun c => c.granule / 256 = b then s
    else
      nextBlock { s with mir := { s.mir with
        resync := none
        dirty := if again then s.mir.dirty else s.mir.dirty.filter (· != b) } }

/-- The primary enters state copying with a dirty bitmap, and sends its key map (R377, R389, R455). -/
def beginCopying (s : State) (dirty : List Nat) : State :=
  let s := sendKeyMap s
  nextBlock (mirSet { s with mir := { s.mir with dirty := dirty, resync := none, witness := false } } 1)

/-! ## Forming and ending (R377, R387, R391) -/

/-- The pair is formed: OK (R375, R377, R455). -/
def formed (s : State) (a : MirAnswer) : State :=
  let prim := bit (rd s 0 (mirReg Reg.MIR_CTL)) 31
  let m : MirSys :=
    { MirSys.start with
      primary := prim, epoch := 1, nextCopy := s.mir.nextCopy, waiting := s.mir.waiting, posts := s.mir.posts,
      cells := if prim then 0 else a.cells }
  let s := commitMirrorId { s with mir := m } false
  let s := if prim then beginCopying s (regionBlocks (mirRegions s))
    else
      let s := mirSet (takeKeyMap s a.keyMap) 2
      { s with mir := { s.mir with peerSt := 1 } }
  mirResult s MirRes.OK

/-- Cells that the mirrored contexts of this device own. -/
def ownCells (s : State) : Nat :=
  (bitList (mirCtxMask s) 64).foldl (fun a i => if (s.ctx i).live then a ||| (s.ctx i).desc.cellSet else a) 0

/-- This device's configuration told to the partner, and whether it finds a conflict (R377), in words
(notes/assumptions/28.md). -/
def tellConfig (s : State) (conflict : Bool) : State :=
  let c := rd s 0 (mirReg Reg.MIR_CTL)
  let words := [b2n (bit c 31), b2n (bit c 30), mirCtxMask s, ownCells s, b2n conflict] ++ (mirRegions s).flatMap fun p => [p.1, p.2]
  mirTell s ((twinFor s 0).getD 96) words

/-- FORM with the partner's answer at hand. -/
def formWith (s : State) (a : MirAnswer) : State :=
  let prim := bit (rd s 0 (mirReg Reg.MIR_CTL)) 31
  if mirMismatch s a then mirResult s MirRes.MISMATCH
  else if prim ∧ a.conflict then mirResult s MirRes.CONFLICT
  else if !prim ∧ mirConflict s a then mirResult (tellConfig s true) MirRes.CONFLICT
  else formed s a

/-- FORM written (R377): its checks, and the exchange where the partner answers; without an answer it waits, and the answer
comes with a later FORM row (notes/assumptions/28.md). -/
def formGo (s : State) (answer : Option MirAnswer) : State :=
  let s := setFld s 0 (mirReg Reg.MIR_CMD) 3 0 1
  if s.mir.forming.isSome then
    match answer with
    | some a => formWith { s with mir := { s.mir with forming := none } } a
    | none => s
  else if s.mir.st ≠ 0 then mirResult s MirRes.STATE
  else if mirBadConfig s then mirResult s MirRes.BAD_CONFIG
  else if (twinsUp s).length < 4 then mirResult s MirRes.NO_PARTNER
  else
    let s := tellConfig s false
    match answer with
    | some a => formWith s a
    | none =>
      let s := setFld (setFld s 0 (mirReg Reg.MIR_CMD) 27 24 0) 0 (mirReg Reg.MIR_CMD) 31 31 1
      { s with mir := { s.mir with forming := some s.cic.count } }

/-- FORM (R377). -/
def execForm (src : Source) (answer : Option MirAnswer) (s : State) : Host.Outcome State Fault Refusal :=
  run (okSource src) (viaReg s src (mirReg Reg.MIR_CMD) (formGo s answer))

/-- FORM_TIMEOUT: 10 s without an answer (R377). -/
def formTimeout (s : State) : State :=
  match s.mir.forming with
  | some t =>
    if t + 1250000000 ≤ s.cic.count then mirResult { s with mir := { s.mir with forming := none } } MirRes.NO_PARTNER else s
  | none => s

/-- FORM_TIMEOUT. -/
def execFormTimeout (s : State) : Host.Outcome State Fault Refusal := .next (formTimeout s)

/-- Writes into the regions that wait are discarded, and the operations of their requesters end with an error (R386). -/
def dropWaits (s : State) : State :=
  let mirrored (w : MirWait) : Bool := inMirrorRegion s w.addr (if w.req.isSome then 64 else w.data.length)
  let s := (s.mir.waiting.filter mirrored).foldl (fun s w =>
    match w.req with
    | some r => s.emit (.writeError r.from_ r.line)
    | none => s) s
  { s with mir := { s.mir with waiting := s.mir.waiting.filter (fun w => !mirrored w), posts := [] } }

/-- Writes whose copies are open are given up with an error, and the copies with them (R386, R387). -/
def failAcks (s : State) : State :=
  let s := s.mir.acks.foldl (fun s a => s.emit (.writeError a.1 a.2.1)) s
  { s with mir := { s.mir with acks := [], replies := [], copies := [], posts := [], resync := none, asyncHeld := false, sent := [] } }

/-- Copies and the acknowledgements that waited for them are given up: the writes are complete (R386, R391). -/
def freeAcks (s : State) : State :=
  let s := s.mir.acks.foldl (fun s a => s.emit (.ack a.1 a.2.1)) s
  sendReplies { s with mir := { s.mir with acks := [], copies := [], posts := [], resync := none, asyncHeld := false, sent := [] } }

/-- Every code word of the regions reads as an undefined value from now on (R391): as written under a key that no slot holds
(R452). -/
def loseRegions (s : State) : State :=
  let tag := s.sec.nextKey + 1
  let words := (mirRegions s).flatMap fun p => (List.range (p.2 * 2048)).map (· + p.1 * 2048)
  let s := { s with keyTag := words.foldl (fun m w => tset (fun _ => 0) m w tag) s.keyTag }
  { s with sec := { s.sec with nextKey := s.sec.nextKey + 1 } }

/-- DISSOLVE (R387, R391): the pair ends. -/
def dissolvePair (s : State) : State :=
  let s := setFld s 0 (mirReg Reg.MIR_CMD) 3 0 2
  if s.mir.forming.isSome then s
  else if s.mir.st = 0 then mirResult s MirRes.STATE
  else
    let undef : Bool := !s.mir.primary && s.mir.peerSt == 1
    let w := s.mir.waiting
    let s := commitMirrorId (freeAcks s) true
    let s := mirSet { s with mir := { MirSys.start with st := s.mir.st, nextCopy := s.mir.nextCopy } } 0
    let s := w.foldl (fun s w => w.make s) s
    mirResult (if undef then loseRegions s else s) MirRes.OK

/-! ## Rejoining (R389) -/

/-- A bitmap joined with another. -/
def joinDirty (a b : List Nat) : List Nat := b.foldl addDirty a

/-- The primary takes the partner back: its bitmap with the partner's, or every block where the partner has none. -/
def rejoinPrimary (s : State) (theirs : Option (List Nat)) : State :=
  let all := regionBlocks (mirRegions s)
  let s := freeAcks { s with mir := { s.mir with dirty := (dataCopies s).foldl (fun d c => addDirty d (c.granule / 256)) s.mir.dirty } }
  beginCopying s (match theirs with
    | some l => joinDirty s.mir.dirty (l.filter all.contains)
    | none => all)

/-- The contexts that MIR_CTX names are destroyed (R386). -/
def destroyMirrored (s : State) : State :=
  (bitList (mirCtxMask s) 64).foldl (fun s i => if (s.ctx i).live then destroyContext s i else s) s

/-- This device becomes the secondary: it sends its dirty bitmap, and the primary's image replaces its own. -/
def rejoinSecondary (s : State) (epoch : Nat) (keyMap : List (Nat × Nat)) : State :=
  let s := dropWaits (destroyMirrored s)
  let s := sendWords s ((twinFor s 0).getD 96) 5 5 [b2n s.mir.hasMap] (s.mir.dirty.length :: s.mir.dirty)
  let s := freeAcks s
  let s := { s with mir := { s.mir with primary := false, epoch := epoch, dirty := [], hasMap := true, witness := false, peerSt := 1 } }
  mirSet (commitMirrorId (takeKeyMap s keyMap) false) 2

/-- DISSOLVE. -/
def execDissolve (src : Source) (s : State) : Host.Outcome State Fault Refusal :=
  run (okSource src) (viaReg s src (mirReg Reg.MIR_CMD) (dissolvePair s))

/-- A heartbeat on every twin link that is up, with the epoch, role, state and lag (R383), and whether a warm device reset follows
(R391). -/
def heartbeats (s : State) (warm : Bool) : State :=
  let s := { s with mir := { s.mir with sentAt := s.cic.count } }
  (twinsUp s).foldl (fun s l => mirTell s l [s.mir.epoch, b2n s.mir.primary, s.mir.st, mirrorLag s, b2n warm]) s

/-- RESYNC (R389): the procedure is started where it has not begun: the heartbeats in which the two devices compare their
epochs go out at once, and what the partner's says decides (notes/assumptions/28.md). -/
def resyncGo (s : State) : State :=
  let s := setFld s 0 (mirReg Reg.MIR_CMD) 3 0 3
  if s.mir.forming.isSome then s
  else if s.mir.st = 0 ∨ s.mir.st = 3 ∨ s.mir.st = 6 then mirResult s MirRes.STATE
  else if s.mir.st = 1 ∨ s.mir.st = 2 then mirResult s MirRes.OK
  else if (twinsUp s).isEmpty then mirResult s MirRes.NO_PARTNER
  else mirResult (heartbeats s false) MirRes.OK

/-- RESYNC. -/
def execResync (src : Source) (s : State) : Host.Outcome State Fault Refusal :=
  run (okSource src) (viaReg s src (mirReg Reg.MIR_CMD) (resyncGo s))

/-! ## What the secondary receives (R379, R382, R455) -/

/-- Numbers of the primary's keys stand apart from this device's own (notes/assumptions/28.md). -/
abbrev peerKey : Nat := 2 ^ 128

/-- A mirror copy applied to HBM as it was stored, and acknowledged. -/
def copyIn (s : State) (id g : Nat) (data : List Byte) (poison : List Nat) (key : Nat) : State :=
  if s.mir.st = 0 ∨ s.lnk.partState ≠ 0 ∨ s.mir.primary ∨ s.mir.st = 5 ∨ s.mir.st = 6 ∨ !inMirrorRegion s (256 * g) 256 ∨ data.length ≠ 256 then s
  else
    let a := 256 * g
    let s := settle s (linesOf a 256)
    let s := (linesOf a 256).foldl (fun s l => dropPocket (invalidateLine s l) l) s
    let s := { s with mem := memStore s.mem a data }
    let s := (List.range 8).foldl (fun s w =>
      { s with
        keyTag := tset (fun _ => 0) s.keyTag (a / 32 + w) (if key = 0 then 0 else peerKey + key)
        poison := tset (fun _ => false) s.poison (a / 32 + w) (poison.contains w) }) s
    let s := (linesOf a 256).foldl (fun s l => loseReservations s (l * 64)) s
    mirTell s ((twinFor s g).getD 96) [id]

/-- MIRROR_COPY_RECEIVE: copy number `copy`, a granule as the primary's HBM holds it, with its poisoned words and the key it is stored under: 0
for none, else 1 + the key's number. -/
def execMirrorCopyReceive (k : MirCopyId) (data : List Byte) (poison : List Nat) (key : Nat) (s : State) :
    Host.Outcome State Fault Refusal :=
  .next (copyIn s k.copy k.granule data poison key)

/-- The state of a mirrored context applied and acknowledged; its slot holds the wrapped key, DISABLED (R382, R455). One that is no
longer live at the primary leaves nothing. -/
def stateIn (s : State) (id ctx : Nat) (m : Option MirState) : State :=
  if s.mir.st = 0 ∨ s.lnk.partState ≠ 0 ∨ s.mir.primary ∨ !bit (mirCtxMask s) ctx then s
  else
  let heard := tset (fun _ => []) s.mir.sent ctx [id]
  let all : Bool := (bitList (mirCtxMask s) 64).all fun i => !(tget (fun _ => []) heard i).isEmpty
  let s := { s with mir := { s.mir with sent := heard, cells := if all then 0 else s.mir.cells } }
  let tell (s : State) : State := mirTell s ((twinFor s ctx).getD 96) [id]
  match m with
  | none => tell ({ s with mir := { s.mir with ctxs := tset (fun _ => none) s.mir.ctxs ctx none } }.setSlot ctx KeySlot.empty)
  | some m =>
    let streams := m.streams.map fun x =>
      ({ handle := x.handle, st := x.st, src := Endpoint.ofRaw x.srcKind (leNat x.src),
         snk := Endpoint.ofRaw x.snkKind (leNat x.snk), delivered := x.delivered, seq := x.seq, status := x.status } : MirStream)
    let c : MirCtx :=
      { desc := m.desc, phase := m.phase % 16, producer := m.producer, completed := m.completed, fqProduced := m.fqProduced,
        fqConsumed := m.fqConsumed, key := m.key, streams := streams }
    let s := { s with mir := { s.mir with ctxs := tset (fun _ => none) s.mir.ctxs ctx (some c) } }
    let s := s.setSlot ctx { st := 2, key := peerKey + m.key, fromBlob := false }
    tell s

/-- MIRROR_STATE_RECEIVE. -/
def execMirrorStateReceive (ctx : Nat) (m : MirStateMsg) (s : State) : Host.Outcome State Fault Refusal :=
  run (okCtx ctx) (stateIn s m.copy ctx m.state)

/-! ## Acknowledgements (R380, R389) -/

/-- A copy acknowledged: writes that waited for it alone are acknowledged, the lag falls, a block under copy may be done,
writes that waited for the lag go on. -/
def copyAck (s : State) (id : Nat) : State :=
  if !(s.mir.copies.any fun c => c.id = id) then s
  else
    let copies := s.mir.copies.filter fun c => c.id != id
    let acks := s.mir.acks.map fun a => (a.1, a.2.1, a.2.2.filter (· != id))
    let done := acks.filter fun a => a.2.2.isEmpty
    let s := { s with mir := { s.mir with
      copies := copies, acks := acks.filter fun a => !a.2.2.isEmpty, asyncHeld := s.mir.asyncHeld && copies.any (·.ctx.isNone) } }
    let s := done.foldl (fun s a => s.emit (.ack a.1 a.2.1)) s
    replayWaits (blockDone (sendReplies s))

/-- MIRROR_ACK_RECEIVE: the partner acknowledges copy number `copy`. -/
def execMirrorAckReceive (copy : Nat) (s : State) : Host.Outcome State Fault Refusal := .next (copyAck s copy)

/-! ## Supervision (R383, R391) -/

/-- The heartbeats, every 100 µs (R383); a security quarantine stops them (R462). -/
def sendHeartbeats (s : State) : State :=
  if s.mir.st = 0 ∨ s.sec.dike ≠ 0 ∨ s.cic.count < s.mir.sentAt + 12500 then s else heartbeats s false

/-- HEARTBEAT_SEND. -/
def execHeartbeatSend (s : State) : Host.Outcome State Fault Refusal := .next (sendHeartbeats s)

/-- A missed heartbeat, 12,500 ticks after the last one or the last miss, or after supervision was taken up again (R383, R391):
counted; the fifth in a row makes a device of a working pair suspect. -/
def missHeartbeat (s : State) : State :=
  if s.mir.st = 0 ∨ s.cic.count < max s.mir.hbAt s.mir.suspended + 12500 then s
  else
    let s := countFld s 0 (mirReg Reg.MIR_HB_MISS) 31 0 1
    let n := s.mir.missed + 1
    let s := { s with mir := { s.mir with missed := n, hbAt := s.cic.count } }
    if n < 5 ∨ !(s.mir.st = 1 ∨ s.mir.st = 2) then s
    else
      let s := mirSet { s with mir := { s.mir with witness := true, resync := none } } 3
      (raiseInt s (mirReg 0) 1).emit (.i3cAlert 0)

/-- MISSED_HEARTBEAT: 100 µs without a heartbeat on any twin link. -/
def execMissedHeartbeat (s : State) : Host.Outcome State Fault Refusal := .next (missHeartbeat s)

/-- Both claim the same epoch as primary (R387). -/
def splitPair (s : State) : State :=
  let s := failAcks (dropWaits s)
  let s := (bitList (mirCtxMask s) 64).foldl (fun s i =>
    if (s.ctx i).live then s.setCtx i { s.ctx i with paused := true } else s) s
  let s := raiseError s { sev := 2, type := Err.MIRROR_SPLIT, die := 0, inst := 0 }
  mirSet { s with mir := { s.mir with witness := false, resync := none } } 6

/-- `b` is a later epoch than `a`, modulo 65,536. -/
def laterEpoch (a b : Nat) : Bool := decide (a ≠ b ∧ (b + 65536 - a) % 65536 < 32768)

/-- A heartbeat: the run of missed ones ends, and after a loss the two devices settle their roles (R387, R389). One that
announces a warm device reset suspends supervision for up to 1 s (R391). -/
def heartbeatIn (s : State) (h : HeartObs) : State :=
  if s.mir.st = 0 ∨ s.lnk.partState ≠ 0 then s
  else if h.warm then { s with mir := { s.mir with missed := 0, hbAt := s.cic.count, suspended := s.cic.count + 125000000 } }
  else
    let s := { s with mir := { s.mir with missed := 0, hbAt := s.cic.count, peerSt := h.st, suspended := 0 } }
    let theirs : Bool := h.primary && h.st != 5
    if s.mir.st = 6 then s
    else if s.mir.st = 5 then (if theirs then rejoinSecondary s h.epoch h.keyMap else s)
    else if s.mir.primary then
      if theirs then
        if h.epoch = s.mir.epoch then splitPair s
        else if laterEpoch s.mir.epoch h.epoch then rejoinSecondary s h.epoch h.keyMap
        else if s.mir.st = 4 then rejoinPrimary s h.dirty
        else s
      else if s.mir.st = 4 then rejoinPrimary s h.dirty
      else s
    else if theirs ∧ (laterEpoch s.mir.epoch h.epoch ∨ h.st = 4 ∨ (s.mir.st = 3 ∧ h.st = 1)) then
      rejoinSecondary s h.epoch h.keyMap
    else if theirs then takeKeyMap s h.keyMap
    else s

/-- HEARTBEAT_RECEIVE. -/
def execHeartbeatReceive (h : HeartObs) (s : State) : Host.Outcome State Fault Refusal := .next (heartbeatIn s h)

/-! ## The witness's answers (R384-R386) -/

/-- A mirrored stream re-created with its handle, where its index is free: live with local endpoints alone, else dead
(R385). -/
def recreateStream (s : State) (ctx : Nat) (m : MirStream) : State :=
  let i := m.handle % 2 ^ 18
  if (s.stream i).st ≠ .free then s
  else
    let away : Bool := [m.src.kind, m.snk.kind].any fun k => k = Kind.HOST || k = Kind.REMOTE
    let x : Stream :=
      { Stream.idle with
        gen := m.handle / 2 ^ 20, st := if away then .dead else .live, ctx := ctx, src := m.src, snk := m.snk,
        home := homeOf s ctx i m.src m.snk, delivered := m.delivered, lastStatus := m.status,
        lastFailSeq := if m.status = 0 then 0 else m.seq, lastSeq := m.seq }
    let s := { s with str := { s.str with freed := s.str.freed.filter (· != i) } }
    s.setStream i x

/-- Step 3 and step 4 of promotion for one context: created as by CREATE from its mirrored descriptor, claimed, paused, with
its key, its counts at the completed-through count, its phase, its streams (R385). -/
def recreate (s : State) (ctx : Nat) : State :=
  match tget (fun _ => none) s.mir.ctxs ctx with
  | none => s
  | some m =>
    let raw := leNat m.desc
    let d := CtxDesc.ofRaw raw
    if createCode s ctx 0 raw d ≠ 0 then s
    else
      let done := m.completed % 2 ^ 32
      let new : Ctx :=
        { Ctx.idle with
          live := true, desc := d, claimed := true, paused := true, token := s.sec.nextKey + 1, tokenReady := true,
          producer := done, consumer := done, completedThrough := done, fqProduced := m.fqProduced, fqConsumed := m.fqConsumed,
          phase := m.phase }
      let s := { s with sec := { s.sec with nextKey := s.sec.nextKey + 2 } }
      let s := s.setSlot ctx { st := 1, key := peerKey + m.key, fromBlob := false }
      match createPhases (s.setCtx ctx new) ctx d.phaseTable with
      | (_, none) => s.setSlot ctx KeySlot.empty
      | (t, some ph) =>
        let t := applyShare (clearPolicy (t.setCtx ctx { new with phases := ph }) ctx) ctx
        let t := wr64 t ctx (hub Pg.PWR Reg.PWR_CTX_BUDGET_LO) d.energyBudget
        let t := if d.latency then setFld t ctx (hub Pg.SLU Reg.SLU_PIN_CTL) 0 0 1 else t
        m.streams.foldl (fun t x => recreateStream t ctx x) t

/-- A secondary promotes itself (R385). -/
def promote (s : State) : State :=
  let m := s.mir
  let s := { s with mir := { m with primary := true, epoch := (m.epoch + 1) % 65536, witness := false, dirty := [],
                                     copies := [], hasMap := true, sent := [], cells := 0 } }
  let s := commitMirrorId s false
  let s := (bitList (mirCtxMask s) 64).foldl recreate s
  mirSet { s with mir := { s.mir with ctxs := [] } } 4

/-- A suspect primary goes on alone: blocks with an open copy are dirty, waiting writes complete (R386). -/
def goSolo (s : State) : State :=
  let dirty := (dataCopies s).foldl (fun d c => addDirty d (c.granule / 256)) s.mir.dirty
  let s := mirSet (freeAcks { s with mir := { s.mir with dirty := dirty, witness := false } }) 4
  replayWaits s

/-- The epoch that an answer must carry (R384). -/
def answerEpoch (s : State) (epoch : Nat) : Bool := decide (epoch % 65536 = (s.mir.epoch + 1) % 65536)

/-- GRANT: only a suspect device acts on it. -/
def grantGo (s : State) (epoch : Nat) : State :=
  if s.mir.st ≠ 3 ∨ !answerEpoch s epoch then s else if s.mir.primary then goSolo s else promote s

/-- GRANT (R384-R386). -/
def execGrant (src : Source) (epoch : Nat) (s : State) : Host.Outcome State Fault Refusal :=
  run (okSource src) (viaReg s src (mirReg Reg.MIR_WITNESS) (grantGo s epoch))

/-- YIELD: a suspect primary destroys its mirrored contexts and keeps its bitmap (R386). -/
def yieldGo (s : State) (epoch : Nat) : State :=
  if s.mir.st ≠ 3 ∨ !answerEpoch s epoch ∨ !s.mir.primary then s
  else
    mirSet (destroyMirrored (failAcks (dropWaits { s with mir := { s.mir with witness := false } }))) 5

/-- YIELD. -/
def execYieldAnswer (src : Source) (epoch : Nat) (s : State) : Host.Outcome State Fault Refusal :=
  run (okSource src) (viaReg s src (mirReg Reg.MIR_WITNESS) (yieldGo s epoch))

end Sys2Proof.Machine
end

