-- ==== Sys2Proof/Machine/Preempt.lean ====
section
/-!
DEFINITION. Preemption of a borrowed cell, its return and restore, the hold buffers, and the debug controls of a
sequencer (R68-R74).
-/

namespace Sys2Proof.Machine

/-! ## Spilling (R70, R71) -/

/-- Contents in which an operation's slots at a binding were not taken, where no later take of the counter stands. -/
def untake (i : CellImg) (op : Nat) (b : Bind) : CellImg :=
  let c := i.ctr b.counter
  match c.takes.getLast? with
  | some t =>
    if t.op = op then
      i.setCtr b.counter
        { c with value := c.value + t.count, ptr := (c.ptr + c.slots - t.count % max 1 c.slots) % max 1 c.slots,
                 takes := c.takes.dropLast }
    else i
  | none => i

/-- An operation's slots are the newest that its counters gave. -/
def newestTakes (i : CellImg) (o : Op) : Bool :=
  (o.ins ++ o.outs).all fun b => b.2.hold || ((i.ctr b.2.counter).takes.getLast?.map (·.op)) == some o.id

/-- A track as it stood before its last firing, of its descriptor (R292). -/
def Track.unfire (t : Track) (o : Op) : Track :=
  if t.armed ∧ t.desc = o.desc ∧ !t.first then { t with left := t.left + 1, held := false }
  else { t with active := true, desc := o.desc, left := 0, armed := true, first := false, skip := false, held := false }

/-- A stalled SIGNAL withdrawn unperformed and saved armed (R292). Where its track has fired another operation since, or another
track has taken slots of its counters since, it stays fired with its slots and is performed after the restore
(notes/assumptions/82.md). -/
def withdraw (i : CellImg) (o : Op) : CellImg :=
  if newestTakes i o ∧ (i.track o.track).lastOp = o.id then
    let i := { i with ops := i.ops.filter (·.id != o.id) }
    let i := (o.ins ++ o.outs).foldl (fun i b => untake i o.id b.2) i
    i.mapTrack o.track fun t => t.unfire o
  else { i with ops := i.ops.map fun x => if x.id = o.id then { x with stage := .fired } else x }

/-- The records of a cell's withdrawn SIGNALs stay outstanding, and an answer replays nothing: their requester is none of
the cell's eight tracks (R292). -/
def orphanSignals (s : State) (cell ctx : Nat) : State :=
  let c := s.ctx ctx
  let mine (q : Requester) : Bool := q.source = 3 && q.cell == logicalOf c cell
  let free (q : Requester) : Requester := if q.ctx = ctx ∧ mine q then { q with track := 8 } else q
  let s := s.setCtx ctx { c with
    tags := c.tags.map fun t => { t with req := free t.req }
    norec := c.norec.filter fun q => !mine q }
  let s := setWalks s (s.xlt.walks.filter fun j => !(j.req.ctx = ctx && mine j.req))
  setAts s (s.xlt.atsWait.map fun w => { w with req := free w.req })

/-- A fired operation that cannot be carried out yet: a SIGNAL behind an operation of its track (R62), a BIND of a counter
whose slots an operation has (R63), an XFER with 16 transfers pending on its stream (R189). -/
def blockedOp (s : State) (i : CellImg) (o : Op) : Bool :=
  let c := opc o.raw
  (c == 0x06 && i.ops.any fun p => decide (p.id < o.id) && p.track == o.track)
    || (c == 0x04 && (i.ctr (64 * dfield o.raw 0x28 31 30 + dfield o.raw 0x28 29 24)).takes.any fun t =>
        i.ops.any (·.id = t.op))
    || (c == 0x10 && readsBooks o.raw && i.ops.any fun p => opc p.raw == 0x3D && decide (p.id < o.id) && !(p.stage = .executed))
    || (c == 0x12 && decide (16 ≤ (s.stream (dfield o.raw 0x28 17 0)).xfers.length))

/-- Move, match and control operations of a cell have completed, but for those that wait for a stream, a barrier or an
earlier operation, and those behind one in their engine (R70 step 3, R71). -/
def quietCell (s : State) (i : CellImg) : Bool :=
  i.ops.all fun o => engineOf o.raw == 2 || engineOf o.raw == 3 || o.stage == .waiting || blockedOp s i o
    || (i.ops.any fun p => decide (p.id < o.id) && p.stage == .fired && engineOf p.raw == engineOf o.raw)

/-- SPILL_COMPLETE (R70 steps 4 to 6): the owner's state stands in the spill record, the cell is cleared and is the
latency context's, and the program of its CELL_START starts. After an abandoned restore the record stands as it is
(R73). -/
def spillDone (s : State) (cell : Nat) : State :=
  let x := s.cell cell
  match x.move with
  | .spilling lat =>
    if !quietCell s x.img then s
    else
      let s := match x.runner with
        | none => s
        | some owner =>
          let sig := x.img.ops.filter fun o => opc o.raw == 0x06 && o.stage == .waiting && o.wrote.isNone
          let i := sig.reverse.foldl withdraw x.img
          (orphanSignals s cell owner).setCell cell { x with saved := some (owner, i) }
      let s := dropMatch s cell
      let y := s.cell cell
      let z := { y with img := CellImg.idle, runner := some lat, borrowed := true, haltedAt := none, returnNow := false }
      let s := s.setCell cell { z with move := .steady }
      if y.startCmd.isSome then startCell s cell lat else s
  | _ => s

/-- SPILL_COMPLETE. -/
def execSpillComplete (cell : Nat) (s : State) : Host.Outcome State Fault Refusal := run (okCell cell) (spillDone s cell)

/-- HOLD_BUFFER_PLACE (R71): the oldest held write of a cell is applied to the spill record, or to the cell once its owner is
back. -/
def holdPlace (s : State) (cell : Nat) : State :=
  let x := s.cell cell
  match s.held.find? fun h => h.cell = cell with
  | none => s
  | some h =>
    let drop (s : State) : State := { s with held := s.held.erase h }
    match x.saved, x.move with
    | some (o, i), _ => drop (s.setCell cell { x with saved := some (o, i.store h.addr h.data h.poison) })
    | none, .steady => drop (s.setCell cell { x with img := x.img.store h.addr h.data h.poison })
    | none, _ => s

/-- HOLD_BUFFER_PLACE. -/
def execHoldBufferPlace (cell : Nat) (s : State) : Host.Outcome State Fault Refusal := run (okCell cell) (holdPlace s cell)

/-! ## Return and restore (R72, R73) -/

/-- BORROW_RETURN: BORROW_HOLD_US after the latency program halted, or at once after an aborting CELL_STOP, the cell is cleared and
its restore begins (R72). -/
def borrowBack (s : State) (cell : Nat) : State :=
  let x := s.cell cell
  match x.runner, x.haltedAt with
  | some lat, some h =>
    if x.borrowed ∧ x.move = .steady ∧ (x.returnNow ∨ h + 125 * (s.ctx lat).desc.borrowHoldUs ≤ s.cic.count) then beginReturn s cell
    else s
  | _, _ => s

/-- BORROW_RETURN. -/
def execBorrowReturn (cell : Nat) (s : State) : Host.Outcome State Fault Refusal := run (okCell cell) (borrowBack s cell)

/-- RESTORE_COMPLETE: the owner's state is back in the cell and its sequencer resumes (R72). It waits for held writes of the
cell, which R71 applies to the record. -/
def restoreDone (s : State) (cell : Nat) : State :=
  let x := s.cell cell
  match x.move, x.saved with
  | .restoring, some (o, i) =>
    if s.held.any fun h => h.cell = cell then s
    else s.setCell cell { x with img := i, runner := some o, borrowed := false, saved := none, move := .steady, haltedAt := none }
  | .restoring, none => s.setCell cell { x with move := .steady }
  | _, _ => s

/-- RESTORE_COMPLETE. -/
def execRestoreComplete (cell : Nat) (s : State) : Host.Outcome State Fault Refusal := run (okCell cell) (restoreDone s cell)

/-! ## Debug controls (R74) -/

/-- The armed descriptor that fires next: the one armed longest, ties to the lower track (R57). R74 says that STEP fires a ready
descriptor, and a descriptor is ready only once it is armed; whether STEP arms one is not said, and here it does not
(notes/assumptions/88.md). -/
def oldestReady (s : State) (cell : Nat) : Option Nat :=
  let i := (s.cell cell).img
  let l := i.tracks.zipIdx.filter fun p => !i.heldTrack p.2 && readyTrack s cell p.1 && !outranked s cell p.2
  (argMin (fun p => p.1.armedAt) l).map Prod.snd

/-- CSEQ_STEP (R74): while DBG_HOLD is 1, and debug is unlocked, one ready descriptor fires. -/
def stepCell (s : State) (cell : Nat) : State :=
  if (s.cell cell).dbgHold ∧ debugOpen s then
    match oldestReady s cell with
    | some n => fireTrack s cell n true
    | none => s
  else s

/-- CSEQ_STEP. -/
def execCseqStep (src : Source) (cell : Nat) (s : State) : Host.Outcome State Fault Refusal :=
  run (okSource src && okCell cell) (viaReg s src (cseqReg cell Reg.CSEQ_CTL) (stepCell s cell))

/-- HALT_REQ stops arming as a CELL_STOP without ABORT does (R74). -/
def haltReq (s : State) (cell : Nat) : State :=
  let x := s.cell cell
  match x.runner with
  | none => s
  | some ctx =>
    if !(x.img.started && !x.img.halted) then s
    else
      let i := x.img.stop
      let s := s.setCell cell { x with img := i }
      if i.halted then programHalted s cell ctx else s

/-- CSEQ_HALT_REQ. -/
def execCseqHaltReq (src : Source) (cell : Nat) (s : State) : Host.Outcome State Fault Refusal :=
  run (okSource src && okCell cell) (viaReg s src (cseqReg cell Reg.CSEQ_CTL) (haltReq s cell))

/-- CSEQ_DBG_HOLD (R74): effective only while debug is unlocked. -/
def execCseqDbgHold (src : Source) (cell : Nat) (hold : Bool) (s : State) : Host.Outcome State Fault Refusal :=
  run (okSource src && okCell cell)
    (viaReg s src (cseqReg cell Reg.CSEQ_CTL)
      (setFld (s.setCell cell { s.cell cell with dbgHold := hold }) 0 (cseqReg cell Reg.CSEQ_CTL) 0 0 (b2n hold)))

end Sys2Proof.Machine
end

