-- ==== Sys2Proof/Machine/Links.lean ====
section
/-!
DEFINITION. The links: flits and their retry, training, egress arbitration, and what becomes of a message that arrives (R342-R362,
R372-R374).
-/

namespace Sys2Proof.Machine

/-! ## Links that go down and come up (R351, R356, R379) -/

/-- Die and port of a link. -/
def linkDie (l : Nat) : Nat := 16 + l / 24
def linkPort (l : Nat) : Nat := l % 24

/-- A link's state set; bit 1 of its page is raised where STATE changes (R372). -/
def setLinkState (s : State) (l st : Nat) : State :=
  let k := s.link l
  let s := s.setLink l { k with state := st }
  if k.state = st then s else raiseInt s (lkReg l 0) 1

/-- The link that carries a message of link `l` in its place, and its ROUTE from there: another of the bundle in the order of
R356; for an uplink what R357 gives among those that still work. -/
def stand (s : State) (l : Nat) (m : LinkMsg) : Egress :=
  let r := linkRole s l
  if r = 7 then egressOff s ((deviceId s).getD 0) m.src m.order m.dst none
  else if 1 ≤ r ∧ r ≤ 6 then
    match (bundleOrder r (l / 24) (l % 24 % 3)).find? (usable s r) with
    | some k => .link k m.route
    | none => .dropped l
  else .dropped l

/-- A message moved from a link that is down to the front of its replacement's queue, or dropped and counted (R356). What a twin
link carried goes to one that is up, but for what the pair itself sends again (R379, R382). -/
def moveMsg (s : State) (l : Nat) (m : LinkMsg) : State :=
  if isTwin s l then
    match (twinsUp s).head? with
    | some k =>
      if m.kind = 6 ∨ m.kind = 7 then s
      else s.setLink k { s.link k with queue := { m with sent := 0 } :: (s.link k).queue }
    | none => s
  else
  match stand s l m with
  | .link k r =>
    let x := s.link k
    s.setLink k { x with queue := { m with sent := 0, route := r } :: x.queue }
  | .dropped _ => countFld s 0 (lkReg l Reg.LK_NOROUTE) 31 0 1

/-- The messages of a link that went down go to others; the last is moved first, so that their order is kept at the front. -/
def moveQueue (s : State) (l : Nat) : State :=
  let q := (s.link l).queue
  let s := s.setLink l { s.link l with queue := [], burst := none, aborts := 0, replay := [], rxBurst := 0, rxUsed := Link.down.rxUsed }
  q.reverse.foldl (fun s m => moveMsg s l m) s

/-- A link that carried traffic is down: its record, its bundle's where no link is left, its messages moved, its copies moved
where it was a twin (R351, R356, R379, R391). -/
def linkLost (s : State) (l : Nat) : State :=
  let r := linkRole s l
  let s := raiseError s { sev := 0, type := Err.LINK_DOWN, die := linkDie l, inst := linkPort l }
  let s := if 1 ≤ r ∧ r ≤ 7 ∧ !bundleUp s r then
      raiseError s { sev := 2, type := Err.LINK_BUNDLE_DOWN, die := linkDie l, inst := linkPort l } else s
  let s := moveQueue s l
  if r ≠ 8 then s
  else
    let up := ((twinLinks s).filter (linkUp s)).length
    let s := if s.mir.st ≠ 0 ∧ 0 < up ∧ up < 4 then
        raiseError s { sev := 0, type := Err.MIRROR_THIN, die := 0, inst := 0 } else s
    moveCopies s

/-- The words of the training table of a link's die (R349, R373). -/
def tableOf (s : State) (l : Nat) : List Nat :=
  (List.range 32).map fun i => rd64 s i (raddr (linkDie l) 2 Reg.LX_TRN_ENTRY_LO)

/-- A link trains from entry 0 (R350, R351). -/
def beginTraining (s : State) (l : Nat) : State :=
  let up := linkUp s l
  let s := setLinkState s l 1
  let s := s.setLink l { s.link l with step := 0, tries := 0, idleUntil := none, lanes := 0, table := tableOf s l }
  if up then linkLost s l else s

/-- The link trains again: not while it is disabled, its die offline, or the boot short of stage 8 (R350, R351). -/
def retrain (s : State) (l : Nat) : State :=
  if (s.link l).state = 4 ∨ s.offline (linkDie l) ∨ s.boot.stage < 8 ∨ s.boot.fatal then s
  else beginTraining (countFld s 0 (lkReg l Reg.LK_RETRY) 31 16 1) l

/-- LINK_RETRAIN: eight resends, loss of FEC lock, a request, the peer (R351). -/
def execLinkRetrain (link _cause : Nat) (s : State) : Host.Outcome State Fault Refusal := run (okLink link) (retrain s link)

/-- LK_RETRAIN (R351, R372). -/
def execLkRetrain (src : Source) (link : Nat) (s : State) : Host.Outcome State Fault Refusal :=
  run (okSource src && okLink link) (viaReg s src (lkReg link Reg.LK_CTL) (retrain s link))

/-- LK_DISABLE (R372): the link is held down, or released and trained. -/
def setDisable (s : State) (l : Nat) (disable : Bool) : State :=
  let s := setFld s 0 (lkReg l Reg.LK_CTL) 0 0 (b2n disable)
  if disable then
    let up := linkUp s l
    let s := setLinkState s l 4
    let s := s.setLink l { s.link l with lanes := 0 }
    if up then linkLost s l else s
  else if (s.link l).state ≠ 4 then s
  else if s.boot.stage < 8 ∨ s.offline (linkDie l) ∨ s.boot.fatal then setLinkState s l 0
  else beginTraining s l

/-- LK_DISABLE. -/
def execLkDisable (src : Source) (link : Nat) (disable : Bool) (s : State) : Host.Outcome State Fault Refusal :=
  run (okSource src && okLink link) (viaReg s src (lkReg link Reg.LK_CTL) (setDisable s link disable))

/-- LX_TRN_DEFAULT (R350, R373): every entry back at its default; ignored while the page is locked. -/
def trnDefault (s : State) (d : Nat) : State :=
  let base := raddr (16 + d) 2 0
  if pageLocked s base then s
  else
    (List.range 32).foldl (fun s i =>
      { s with regs := tdel (tdel s.regs (regKey i (base + Reg.LX_TRN_ENTRY_LO))) (regKey i (base + Reg.LX_TRN_ENTRY_HI)) }) s

/-- LX_TRN_DEFAULT. -/
def execLxTrnDefault (src : Source) (die : Nat) (s : State) : Host.Outcome State Fault Refusal :=
  run (okSource src && okLinkDie die) (viaReg s src (raddr (16 + die) 2 Reg.LX_TRN_CTL) (trnDefault s die))

/-- MCH_DEV_ID_WRITE (R352, R374): a change retrains every link; a locked page keeps the id (R499). -/
def devIdWrite (s : State) (src : Source) (v : Nat) : State :=
  let a := hub Pg.MCH Reg.MCH_DEV_ID
  let l := PageKind.mch.at_ Reg.MCH_DEV_ID
  let old := rd s 0 a
  let locked := pageLocked s a
  let new := writeFields l locked old v
  let s := if changesLocked l locked old v then synd s src a 0x02 else s
  if new = old then s else (List.range 96).foldl retrain (wr s 0 a new)

/-- MCH_DEV_ID_WRITE. -/
def execMchDevIdWrite (src : Source) (value : Nat) (s : State) : Host.Outcome State Fault Refusal :=
  run (okSource src) (viaReg s src (hub Pg.MCH Reg.MCH_DEV_ID) (devIdWrite s src value))

/-! ## Training steps (R349-R352, R376) -/

/-- The direction in which a device of the same pod is this one's neighbour (R343). -/
def neighbourRole (me dev : Nat) : Nat :=
  if devPod me ≠ devPod dev then 0
  else
    let differs (d : Nat) : Bool := devCoord me d != devCoord dev d
    match [0, 1, 2].filter differs with
    | [d] =>
      let n := ringSize d
      if (devCoord me d + 1) % n = devCoord dev d then roleOf d 0
      else if (devCoord dev d + 1) % n = devCoord me d then roleOf d 1
      else 0
    | _ => 0

/-- IDENTITY (R352, R376): the role, and whether the peer is in another machine partition. -/
def identity (s : State) (l : Nat) (p : PeerObs) : State :=
  let k := s.link l
  let other : Bool := p.mpart != s.lnk.mpart || p.epoch != s.lnk.epoch
  let k := { k with peerDev := p.dev % 2 ^ 20, peerPort := p.port % 32, peerSwitch := p.switch, boundary := other }
  match deviceId s with
  | none => s.setLink l { k with role := 0, known := false }
  | some me =>
    let r := if p.switch then 7 else neighbourRole me p.dev
    let s := s.setLink l { k with role := r, known := true }
    if r = 0 ∧ !isTwin s l then raiseError s { sev := 0, type := Err.LINK_MISWIRED, die := linkDie l, inst := linkPort l } else s

/-- Lanes of a link that have not failed. -/
def goodLanes (k : Link) : Nat := 2 - popCount k.badLanes 2

/-- The failed lane of a link recorded in the Polder store (R351, R424): where one of its own has failed and is not recorded. -/
def recordLane (s : State) (l : Nat) : State :=
  let k := s.link l
  if k.badLanes = k.keptBad then s
  else
    let c : Commit := { prio := 4, type := 0x0024, key := l, version := 1, tomb := false, data := leBytes 1 k.badLanes }
    queueCommit (s.setLink l { k with keptBad := k.badLanes }) c

/-- The link is up (R349, R351) on the lesser lane count of the two ends: on one lane it is degraded, and the lane that failed is
recorded (R424). A link with no lane left stays down. -/
def linkComesUp (s : State) (l peerLanes : Nat) : State :=
  let n := if peerLanes = 1 then min 1 (goodLanes (s.link l)) else goodLanes (s.link l)
  if n = 0 then setLinkState s l 0
  else
    let s := s.setLink l { s.link l with lanes := n, tries := 0 }
    let s := setLinkState s l (if n = 1 then 3 else 2)
    let s := if n = 1 then
        recordLane (raiseError s { sev := 0, type := Err.LINK_DEGRADED, die := linkDie l, inst := linkPort l }) l
      else s
    if isTwin s l then moveCopies s else s

/-- FLIT_SYNC (R349): the replay buffer and the sequence numbers are cleared. The first flit takes number 0. -/
def flitSync (k : Link) : Link :=
  { k with replay := [], txSeq := 0, rxSeq := 4095, ackSeq := 4095, rxBurst := 0, rxUsed := Link.down.rxUsed, credits := Link.down.credits,
           contenders := [], lastWinner := 0, aborts := 0 }

/-- The entry that a training runs (R349, R350). -/
def entryOf (k : Link) (i : Nat) : Nat := if k.table.isEmpty then trainDefault i else nth k.table i

/-- What a step does when it has succeeded; false where it fails after all (R349). RESET tries again every lane that is not recorded
as failed; BER_CHECK passes on its counts. -/
def stepEffect (s : State) (l e badLane : Nat) (fec : FecObs) (peer : PeerObs) : State × Bool :=
  let k := s.link l
  let op := bits e 63 56
  if op = 0x01 then (s.setLink l { k with badLanes := k.keptBad }, true)
  else if op = 0x07 then (s, decide (fec.uncorr = 0 ∧ fec.corr ≤ bits e 15 8 * 1024))
  else if op = 0x08 then (identity s l peer, true)
  else if op = 0x09 then (s.setLink l (flitSync k), true)
  else if op = 0x0B then
    let b := if bit k.badLanes (badLane % 2) then k.badLanes else k.badLanes + 2 ^ (badLane % 2)
    (s.setLink l { k with badLanes := b }, decide (b ≠ 3))
  else (s, true)

/-- The next entry: on success NEXT_OK; else another try, and after the last NEXT_FAIL (R349). -/
def stepOn (s : State) (l e : Nat) (ok : Bool) : State :=
  let k := s.link l
  if ok then s.setLink l { k with step := bits e 55 48 % 32, tries := 0 }
  else if k.tries + 1 < max 1 (bits e 39 32) then s.setLink l { k with tries := k.tries + 1 }
  else s.setLink l { k with step := bits e 47 40 % 32, tries := 0 }

/-- DOWN (R349): the lanes stand idle for its milliseconds, then its NEXT_OK runs. An OP that is not listed holds for 100. -/
def holdDown (s : State) (l e : Nat) : State :=
  let ms := if bits e 63 56 = 0x0C then bits e 15 0 else 100
  match (s.link l).idleUntil with
  | none => (setLinkState s l 0).setLink l { (setLinkState s l 0).link l with idleUntil := some (s.cic.count + 125000 * ms) }
  | some t => if s.cic.count < t then s else stepOn (s.setLink l { s.link l with idleUntil := none }) l e true

/-- TRAINING_STEP (R349): one attempt at the entry that runs. -/
def trainStep (s : State) (l : Nat) (ok : Bool) (badLane : Nat) (fec : FecObs) (peer : PeerObs) : State :=
  let k := s.link l
  if k.state ≠ 0 ∧ k.state ≠ 1 ∨ s.boot.stage < 8 ∨ s.boot.fatal ∨ s.offline (linkDie l) then s
  else
    let e := entryOf k k.step
    let op := bits e 63 56
    if op = 0x0A then linkComesUp s l peer.lanes
    else if op = 0 ∨ 0x0C ≤ op then holdDown s l e
    else
      let s := setLinkState s l 1
      let (s, good) := if ok then stepEffect s l e badLane fec peer else (s, false)
      stepOn s l e good

/-- TRAINING_STEP. -/
def execTrainingStep (link : Nat) (ok : Bool) (lanes : LaneObs) (peer : PeerObs) (s : State) :
    Host.Outcome State Fault Refusal := run (okLink link) (trainStep s link ok lanes.bad lanes.fec peer)

/-! ## Flits (R344, R347, R360) -/

/-- Sequence numbers acknowledged by `ack`, counted from the last one acknowledged. -/
def ackedBy (k : Link) (ack : Nat) (f : Flit) : Bool :=
  let n := (ack + 4096 - k.ackSeq) % 4096
  let d := (f.seq + 4096 - k.ackSeq) % 4096
  decide (1 ≤ d ∧ d ≤ n)

/-- An acknowledgement taken: flits leave the replay buffer, and a message of which none is left leaves the queue. One beyond
the flits sent is ignored. -/
def takeAck (k : Link) (ack : Nat) : Link :=
  if (k.txSeq + 4095 - k.ackSeq) % 4096 < (ack + 4096 - k.ackSeq) % 4096 then k
  else
    let r := k.replay.filter fun f => !ackedBy k ack f
    let done (m : LinkMsg) : Bool := m.sent = m.flits && k.replay.any (·.msg = m.id) && !r.any (·.msg = m.id)
    { k with
      ackSeq := ack % 4096
      replay := r
      queue := k.queue.filter fun m => !done m
      burst := k.burst.filter fun m => !(k.queue.any fun q => q.id = m.id && done q) }

/-- Credits returned for a lane (R344, R348): never more than its buffer holds. -/
def takeCredits (k : Link) (vl n : Nat) : Link :=
  { k with credits := k.credits.set vl (min (nth Link.down.credits vl) (nth k.credits vl + n)) }

/-- Flits that leave a lane's receive buffer: their credits go back to the sender (R344, R348). -/
def freeRx (s : State) (l lane n : Nat) : State :=
  let k := s.link l
  let n := min n (nth k.rxUsed lane)
  if n = 0 then s else (s.setLink l { k with rxUsed := k.rxUsed.set lane (nth k.rxUsed lane - n) }).emit (.credits l lane n)

/-- A burst being received is aborted: its flits are discarded, their credits returned (R360). -/
def abortRx (s : State) (l : Nat) : State :=
  let k := s.link l
  if k.rxBurst = 0 then s
  else countFld (freeRx (s.setLink l { k with rxBurst := 0 }) l k.rxLane k.rxBurst) 0 (lkReg l Reg.LK_ABORT) 31 0 1

/-- Every flit after `ack` is sent again; a flit's eighth resend retrains the link (R347, R351). -/
def resend (s : State) (l ack : Nat) : State :=
  let k := takeAck (s.link l) ack
  let k := { k with replay := k.replay.map fun f => { f with resends := f.resends + 1 } }
  let s := countFld (s.setLink l k) 0 (lkReg l Reg.LK_RETRY) 15 0 k.replay.length
  let s := k.replay.foldl (fun s f => s.emit (.flit 2 l f.seq)) s
  if k.replay.any fun f => 8 ≤ f.resends then retrain s l else s

/-- A flit taken in sequence: the burst it belongs to, and its acknowledgement. -/
def acceptFlit (s : State) (l : Nat) (f : FlitObs) : State :=
  let k := s.link l
  let n := if f.type = 2 then k.rxBurst + 1 else 1
  let v := f.vl % 8
  let s := s.setLink l
    { k with rxSeq := f.seq, rxBurst := if f.last ∨ f.type = 3 then 0 else n, rxLane := v, rxUsed := k.rxUsed.set v (nth k.rxUsed v + 1) }
  s.emit (.flit 0 l f.seq)

/-- FEC code words corrected and not correctable under a flit (R372). -/
def fecCount (s : State) (l : Nat) (f : FlitObs) : State :=
  countFld (countFld s 0 (lkReg l Reg.LK_FEC) 15 0 f.fecCorr) 0 (lkReg l Reg.LK_FEC) 31 16 f.fecUncorr

/-- A flit received (R344, R347): a bad CRC or a break in sequence answers NAK; otherwise its acknowledgement and credits are
taken, an abort marker discards the burst, and a message flit is accepted. Reserved types are ignored. -/
def flitIn (s : State) (l : Nat) (f : FlitObs) : State :=
  if !linkUp s l ∨ clockStopped s (linkDie l) 6 (linkPort l) then s
  else if !f.crcOk then (fecCount s l f).emit (.flit 1 l (s.link l).rxSeq)
  else
    let s := fecCount s l f
    let s := if f.type = 0 then s else count64 s 0 (lkReg l Reg.LK_RX_LO) 1
    let k := takeCredits (takeAck (s.link l) (f.ackSeq % 4096)) (f.crVl % 8) (f.crFlits % 256)
    let s := s.setLink l k
    let s := if f.nak then resend s l (f.ackSeq % 4096) else s
    if !linkUp s l ∨ f.type = 0 ∨ 4 < f.type then s
    else if f.type = 4 then abortRx s l
    else if f.seq % 4096 = (k.rxSeq + 1) % 4096 then acceptFlit s l { f with seq := f.seq % 4096 }
    else s.emit (.flit 1 l k.rxSeq)

/-- FLIT_RECEIVE. -/
def execFlitReceive (link : Nat) (f : FlitObs) (s : State) : Host.Outcome State Fault Refusal := run (okLink link) (flitIn s link f)

/-- FLIT_NAK (R347). -/
def execFlitNak (link ackSeq : Nat) (s : State) : Host.Outcome State Fault Refusal :=
  run (okLink link) (if linkUp s link then resend s link (ackSeq % 4096) else s)

/-! ## Egress arbitration (R358-R360) -/

/-- Link cycles since the count began, on the lanes in use; what bursts have taken counts at once (R359). -/
def linkCycle (s : State) (k : Link) : Nat := max k.cycle (if k.lanes = 1 then s.cic.count * 25 / 32 else s.cic.count * 25 / 16)

/-- A message of the retryable class (R348). -/
def isBulk (m : LinkMsg) : Bool := decide (m.lane < 6)

/-- The first message of each requester that has not been sent. -/
def frontMsgs (bulk : Bool) : List LinkMsg → List LinkMsg
  | [] => []
  | m :: l =>
    let rest := frontMsgs bulk l
    if isBulk m = bulk ∧ m.sent = 0 then m :: rest.filter (fun x => x.requester ≠ m.requester) else rest

/-- A requester's standing. -/
def contender (k : Link) (q : Nat) : Contender := (k.contenders.find? (·.requester = q)).getD ⟨q, 0, 0, none⟩

/-- The standings with one changed. -/
def setContender (l : List Contender) (c : Contender) : List Contender := l.filter (·.requester != c.requester) ++ [c]

/-- The link has credits for every flit of a message (R348). -/
def hasCredits (k : Link) (m : LinkMsg) : Bool := decide (m.flits ≤ nth k.credits m.lane)

/-- Requesters that request now: a whole burst, credits for all of it, their back-off over (R358, R359). -/
def requesting (k : Link) (cyc : Nat) : List LinkMsg :=
  (frontMsgs true k.queue).filter fun m => hasCredits k m && decide ((contender k m.requester).backoff ≤ cyc)

/-- The winner: the priority grant held longest, else the next in rotating order after the last winner (R359). -/
def winner (k : Link) (l : List LinkMsg) : Option LinkMsg :=
  let prio := l.filter fun m => (contender k m.requester).prio.isSome
  match argMin (fun m => ((contender k m.requester).prio).getD 0) prio with
  | some m => some m
  | none => argMin (fun m => (m.requester + 1024 - k.lastWinner - 1) % 1024) l

/-- A requester that lost (R359); the second part tells whether it takes a priority grant. -/
def lose (cyc : Nat) (c : Contender) : Contender × Bool :=
  let n := c.losses + 1
  let new : Bool := decide (8 ≤ n) && c.prio.isNone
  (⟨c.requester, n, cyc + 2 ^ min n 9, if new then some cyc else c.prio⟩, new)

/-- A message's flits put on the link: sequence numbers, replay buffer, credits, LK_TX (R347, R348). -/
def putOnLink (s : State) (l : Nat) (m : LinkMsg) : State :=
  let k := s.link l
  let fl : List Flit := (List.range m.flits).map fun i => ⟨(k.txSeq + i) % 4096, m.id, 0⟩
  let s := s.setLink l
    { k with
      txSeq := (k.txSeq + m.flits) % 4096
      replay := k.replay ++ fl
      credits := k.credits.set m.lane (nth k.credits m.lane - m.flits)
      cycle := linkCycle s k + m.flits
      queue := k.queue.map fun x => if x.id = m.id then { x with sent := m.flits } else x }
  count64 s 0 (lkReg l Reg.LK_TX_LO) m.flits

/-- BURST_GRANT (R359, R360): the burst under way has ended; one that was aborted goes again, ahead of every other bulk request;
else the port grants. A burst that the replay buffer has no room for waits (R347). -/
def burstGrant (s : State) (l : Nat) : State :=
  let k := s.link l
  let room (m : LinkMsg) : Bool := decide (k.replay.length + m.flits ≤ 1024)
  if !linkUp s l ∨ s.boot.fatal ∨ clockStopped s (linkDie l) 6 (linkPort l) then s
  else
    match k.burst.filter fun m => k.queue.any fun q => q.id = m.id && q.sent = 0 with
    | some m => if hasCredits k m ∧ room m then putOnLink s l m else s
    | none =>
      let cyc := linkCycle s k
      let l1 := (requesting k cyc).filter room
      match winner k l1 with
      | none => s.setLink l { k with burst := none, aborts := 0, cycle := cyc }
      | some m =>
        let lost := (l1.filter (·.requester != m.requester)).map fun x => lose cyc (contender k x.requester)
        let cs := lost.foldl (fun c p => setContender c p.1) (setContender k.contenders ⟨m.requester, 0, 0, none⟩)
        let s := countFld s 0 (lkReg l Reg.LK_PRIO) 31 0 (lost.filter Prod.snd).length
        let s := s.setLink l { s.link l with burst := some m, aborts := 0, contenders := cs, lastWinner := m.requester, cycle := cyc }
        putOnLink s l m

/-- BURST_GRANT. -/
def execBurstGrant (link : Nat) (s : State) : Host.Outcome State Fault Refusal := run (okLink link) (burstGrant s link)

/-- The sender's burst aborted after some of its flits, how many is free: the rest were not sent, their numbers and credits are
free again, and it goes again from its first flit (R360). -/
def abortTx (s : State) (l : Nat) (m : LinkMsg) : State :=
  let k := s.link l
  let mine := k.replay.filter (·.msg = m.id)
  let gone := mine.length
  let n := 1 + s.freeBits 0 8 % (max 1 (gone - 1))
  let cut := gone - n
  let s := if bit (rd s 0 (lkReg l Reg.LK_CTL)) 2 then s
    else wr64 s 0 (lkReg l Reg.LK_TX_LO) (rd64 s 0 (lkReg l Reg.LK_TX_LO) - cut)
  let s := s.useFree.setLink l
    { k with
      txSeq := (k.txSeq + 4096 - cut) % 4096
      replay := (k.replay.take (k.replay.length - cut)).map fun f => if f.msg = m.id then { f with msg := s.lnk.nextMsg } else f
      credits := k.credits.set m.lane (min (nth Link.down.credits m.lane) (nth k.credits m.lane + m.flits))
      queue := k.queue.map fun x => if x.id = m.id then { x with sent := 0 } else x
      aborts := k.aborts + 1 }
  let s := { s with lnk := { s.lnk with nextMsg := s.lnk.nextMsg + 1 } }
  (countFld s 0 (lkReg l Reg.LK_ABORT) 31 0 1).emit (.flit 3 l ((k.txSeq + 4096 - cut) % 4096))

/-- IMMEDIATE_ABORT at the sender (R360): the first immediate-class message with credits takes the port, aborting a bulk burst
that has not been aborted three times in a row. -/
def immediate (s : State) (l : Nat) : State :=
  let k := s.link l
  match (frontMsgs false k.queue).find? fun m => hasCredits k m && decide (k.replay.length + m.flits ≤ 1024) with
  | none => s
  | some m =>
    let going := k.burst.filter fun b => k.queue.any fun q => q.id = b.id && q.sent ≠ 0
    match going with
    | some b => if 3 ≤ k.aborts then s else putOnLink (abortTx s l b) l m
    | none => if k.burst.isSome ∧ 3 ≤ k.aborts then s else putOnLink s l m

/-- IMMEDIATE_ABORT: at the receiver, or at the sender. -/
def execImmediateAbort (link : Nat) (receiving : Bool) (s : State) : Host.Outcome State Fault Refusal :=
  run (okLink link) (if !linkUp s link ∨ s.boot.fatal then s else if receiving then abortRx s link else immediate s link)

/-! ## Messages that arrive (R346, R354-R357, R362) -/

/-- A transit message as it is queued: one lane of the port it came in on (R358). -/
def transitMsg (l : Nat) (h : MsgHead) (data : List Byte) : LinkMsg :=
  { id := 0, kind := h.kind, lane := h.lane, requester := (8 + linkPort l) * 8 + h.lane, dst := h.dst, src := h.src,
    order := h.order, flits := msgFlits h.units, sent := 0, mpart := h.mpart, epoch := h.epoch, route := h.route,
    handle := h.handle, offset := h.offset, data := data, poison := h.poison, extra := h.extra }

/-- Egress of a message in transit (R354-R357): it stays on its link die. -/
def transitEgress (s : State) (me l : Nat) (h : MsgHead) : Egress :=
  match nextDim h.route with
  | some _ => egressPod s me h.src h.order h.route (some (l / 24))
  | none => if devPod h.dst = devPod me then .dropped l else egressOff s me h.src h.order h.dst (some (l / 24))

/-- A message at a receiving port (R362): fenced, forwarded, or handed to the unit that its KIND names, whose own step takes it
(notes/assumptions/25.md). -/
def messageIn (s : State) (l : Nat) (h : MsgHead) (data : List Byte) : State :=
  let free : Bool := h.lane = 6 && h.mgmt
  if !linkUp s l ∨ clockStopped s (linkDie l) 6 (linkPort l) then s
  else
  let s := freeRx s l h.lane (msgFlits h.units)
  if !free ∧ (h.mpart ≠ s.lnk.mpart ∨ h.epoch ≠ s.lnk.epoch) then countFld s 0 (lkReg l Reg.LK_FENCE_DROP) 31 0 1
  else
    match deviceId s with
    | none => s
    | some me =>
      if h.dst = me ∨ s.lnk.partState ≠ 0 then s
      else
        match transitEgress s me l h with
        | .link k r => enqueue s k { transitMsg l h data with route := r }
        | .dropped k => countFld s 0 (lkReg k Reg.LK_NOROUTE) 31 0 1

/-- MESSAGE_RECEIVE. -/
def execMessageReceive (link : Nat) (h : MsgHead) (data : List Byte) (s : State) : Host.Outcome State Fault Refusal :=
  run (okLink link && decide (h.lane < 8 ∧ h.units ≤ 14)) (messageIn s link h data)

end Sys2Proof.Machine
end

