-- ==== Sys2Proof/Machine/Stages.lean ====
section
/-!
DEFINITION. Die-to-die interfaces (R18-R23), and boot stages 3 to 8: interfaces, stacks, cell dies, the core die, host links,
ready (R158, R222, R235, R315, R406, R408, R425, R468, R476).
-/

namespace Sys2Proof.Machine

/-! ## Die-to-die interfaces -/

/-- Minimum width of an interface (R18). -/
def ifaceMin (i : Nat) : Nat :=
  if i < 4 then 16 else if i < 12 then 64 else if i < 14 then 16 else if i < 16 then 8 else if i < 20 then 40 else 0

/-- Die that an interface's error records name: the die that hangs on it; for a seam, the lower floor die. -/
def ifaceDie (i : Nat) : Nat :=
  if i = 1 then 3 else if i = 2 then 4 else if i < 4 then 2 else if i < 12 then i + 4 else if i < 14 then 1
  else if i < 16 then 0 else if i < 20 then i else 6

/-- A die goes offline; a cell or link die sets bit 0 of its die page (R505). -/
def dieOffline (s : State) (d : Nat) : State :=
  if s.offline d then s
  else
    let t := paramChange { s with boot := { s.boot with dieOff := s.boot.dieOff + 2 ^ d } }
    if 8 ≤ d ∧ d ≤ 19 then raiseInt t (raddr d 0 0) 0 else t

/-- A die is online again. -/
def dieOnline (s : State) (d : Nat) : State :=
  if s.offline d then paramChange { s with boot := { s.boot with dieOff := s.boot.dieOff - 2 ^ d } } else s

/-- The links of a die are down. -/
def dropDieLinks (s : State) (d : Nat) : State :=
  (List.range 24).foldl (fun s i =>
    let l := 24 * (d - 16) + i
    if (s.link l).state = 4 ∨ (s.link l).state = 0 then s else setLinkState s l 0) s

/-- An interface is out of service (R18, R314): a cell or link die goes with it, the core die with both of its own. -/
def ifaceOut (s : State) (i : Nat) : State :=
  if 4 ≤ i ∧ i < 12 then dieOffline s (i + 4)
  else if 16 ≤ i ∧ i < 20 then dropDieLinks (dieOffline s i) i
  else if (i = 12 ∨ i = 13) ∧ (s.iface 12).st = 2 ∧ (s.iface 13).st = 2 then
    dieOffline { s with core := { s.core with dieOff := true } } 1
  else s

/-- Wires of a group that a map lists. -/
def groupFails (m : List Nat) (g : Nat) : Nat := (m.filter fun w => w / 66 = g).length

/-- Width that a repair map leaves: a group steers up to two failed wires, and a third disables it (R18, R20). -/
def mapWidth (i : Nat) (m : List Nat) : Nat := ((List.range (ifaceFull i)).filter fun g => decide (groupFails m g ≤ 2)).length

/-- Spares that carry a signal: one for each failed data wire of a working group. -/
def sparesInUse (m : List Nat) : Nat := (m.filter fun w => w % 66 < 64 && decide (groupFails m (w / 66) ≤ 2)).length

/-- A map with the interface's wires among `l` added. -/
def addWires (i : Nat) (m l : List Nat) : List Nat :=
  l.foldl (fun m w => if m.contains w ∨ 66 * ifaceFull i ≤ w then m else m ++ [w]) m

/-- The two ends' maps after training, over the stored map and what each finds failing (R20, steps 2 and 3). A full sweep
starts from no map; an interface that no observation names shows no further failure. -/
def endMaps (s : State) (trained : List IfaceObs) (sweep : Bool) (i : Nat) : List Nat × List Nat :=
  let x := s.iface i
  let base := if sweep then [] else addWires i x.recMap x.map
  match trained.find? (·.iface = i) with
  | some o => (addWires i base o.near, addWires i base o.far)
  | none => (base, base)

/-- The width that both ends take (R20 step 4, R22): the lesser of the two; where they disagree after a partial reset, what both
reach with either's steered wires. It is capped at the record unless a full sweep runs (R21). -/
def agreedWidth (s : State) (near far : List Nat) (boot sweep : Bool) (i : Nat) : Nat :=
  let a := mapWidth i near
  let b := mapWidth i far
  let w := if boot ∨ a = b then min a b else mapWidth i (addWires i near far)
  if sweep then w else min w ((s.iface i).recorded.getD (ifaceFull i))

/-- An interface trained at power-up (`boot`) or after a partial reset. At power-up a width or a map that differs from the
record is committed (R20); a width below the recorded one is recorded and is a degradation, and one below the minimum
takes the interface out of service (R18, R22). -/
def trainIface (s : State) (trained : List IfaceObs) (boot sweep : Bool) (i : Nat) : State :=
  let x := s.iface i
  let (near, far) := endMaps s trained sweep i
  let map := addWires i near far
  let w := agreedWidth s near far boot sweep i
  let low : Bool := decide (w < ifaceMin i)
  let worse : Bool := (x.recorded.map fun r => decide (w < r)).getD false
  let records : Bool := if boot then !(x.recorded == some w && x.recMap == map) else worse
  let s := if records then trainCommit s i w map else s
  let s := s.setIface i
    { x with recorded := if records then some w else x.recorded, recMap := if records then map else x.recMap, width := w,
             map := map, st := if low then 2 else 0 }
  let s :=
    if worse then
      raiseError (setFld s i (pkgReg Reg.D2D_STATUS) 1 1 1)
        { sev := if low then 2 else 0, type := Err.D2D_DEGRADED, die := ifaceDie i, inst := i,
          detail := [i, x.recorded.getD 0, w] }
    else s
  if low then ifaceOut s i else s

/-- Replicas of dies loaded from the tree (R158); none falls below what it has read in this boot (R159). -/
def loadReplicas (s : State) (dies : List Nat) : State :=
  { s with cic := { s.cic with
      unloaded := s.cic.unloaded.filter fun d => !dies.contains d
      skew := s.cic.skew.filter fun p => !dies.contains (p.1 / 64)
      hold := s.cic.skew.foldl (fun h p =>
        if dies.contains (p.1 / 64) then tset (fun _ => 0) h p.1 (replica s p.1) else h) s.cic.hold } }

/-- A die's replicas after a partial reset: loaded once its interface has trained, and until then it takes no work (R158). -/
def reloadDie (s : State) (die : Nat) : State :=
  if s.offline die then
    { s with cic := { s.cic with unloaded := die :: s.cic.unloaded.filter (· != die) } }
  else loadReplicas s [die]

/-- D2D_REPLAY (R19): a flit is sent again, and counted. -/
def execD2dReplay (iface : Nat) (s : State) : Host.Outcome State Fault Refusal :=
  run (okIface iface) (countFld s iface (pkgReg Reg.D2D_REPLAY_CNT) 31 0 1)

/-! ## Stage 3 (R20, R235, R425, R470) -/

/-- The training record of an interface read. -/
def readTrain (s : State) (i : Nat) : State :=
  match storeVal s 0x20 i with
  | some d =>
    let n := leNat ((d.drop 4).take 4)
    s.setIface i
      { s.iface i with
        recorded := some (leNat (d.take 4)), recMap := (List.range n).map fun k => leNat ((d.drop (8 + 2 * k)).take 2) }
  | none => s

/-- Retired ways and error counts of a floor restored (R235, R424). -/
def readWays (s : State) (f : Nat) : State :=
  match storeVal s 0x23 f with
  | none => s
  | some d =>
    let map (g : Nat) : Nat := leNat ((d.drop (2 * g)).take 2)
    let n (i : Nat) : Nat := leNat ((d.drop (128 + i)).take 1)
    { s with coh := { s.coh with
        retired := (List.range 64).foldl (fun t g => tset (fun _ => 0) t (64 * f + g) (map g)) s.coh.retired
        wayErrs := (List.range 1024).foldl (fun t i =>
          tset (fun _ => []) t (1024 * f + i) (List.replicate (n i) (powerMinutes s))) s.coh.wayErrs } }

/-- ACTION 2: the retirements of a floor's groups are cleared, and the record with them (R425). -/
def clearWays (s : State) : State :=
  match storeVal s 0x60 2 with
  | none => s
  | some d =>
    let f := leNat (d.take 4)
    let groups := bitList (leNat ((d.drop 4).take 8)) 64
    let s := { s with coh := { s.coh with
      retired := groups.foldl (fun t g => tset (fun _ => 0) t (64 * f + g) 0) s.coh.retired
      wayErrs := groups.foldl (fun t g => (List.range 16).foldl (fun t w => tset (fun _ => []) t (1024 * f + 16 * g + w) []) t)
        s.coh.wayErrs } }
    let left := (List.range 64).any fun g => retiredWays s f g != 0
    let s := if left then retireCommit s f
      else queueCommit s { prio := 4, type := 0x23, key := f, version := 1, tomb := true, data := [] }
    queueCommit s (actionCommit 2 true [])

/-- Every interface trained from its record, or swept where it has none or an action asks for it; the action is then done
(R20, R425). -/
def trainAll (s : State) (trained : List IfaceObs) : State :=
  let s := (List.range 21).foldl readTrain s
  let sweep (i : Nat) : Bool := (s.iface i).recorded.isNone || bit s.boot.actSweep i
  let swept := (List.range 20).any sweep
  let s := if swept then fullBoot s else s
  let s := (List.range 20).foldl (fun s i => trainIface s trained true (sweep i) i) s
  if s.boot.actSweep = 0 then s
  else queueCommit { s with boot := { s.boot with actSweep := 0 } } (actionCommit 0 true [])

/-- DIE_TO_DIE_STAGE. -/
def d2dStage (s : State) (trained : List IfaceObs) (floorBad : List Nat) : State :=
  if !atStage s 2 then s
  else
    let s := trainAll s trained
    if (s.iface 14).st = 2 ∧ (s.iface 15).st = 2 then bootStop s 3 0x25 0 0
    else
      match argMin id (floorBad.filter (· < 4)) with
      | some f => bootStop s 3 0x26 (2 + f) (2 + f)
      | none =>
        let s := loadReplicas s (dieCodes.filter fun d => !s.offline d)
        stageDone (clearWays ([0, 1, 2, 3].foldl readWays s)) 3

/-- DIE_TO_DIE_STAGE (R20). -/
def execDieToDieStage (trained : List IfaceObs) (floorBad : List Nat) (s : State) : Host.Outcome State Fault Refusal :=
  .next (d2dStage s trained floorBad)

/-! ## Stage 4 (R222) -/

/-- The remap table of a channel, from HBM_REMAP (R211, R424). -/
def remapOf (d : List Byte) : List (Nat × Nat) :=
  (List.range (leNat (d.take 4))).map fun i =>
    let w := leNat ((d.drop (4 + 4 * i)).take 4)
    (w / 4096, w % 4096)

/-- Training values and repaired pins of a channel's HBM_TRAIN record. -/
def trainOf (d : List Byte) : Nat × List Nat :=
  (leNat (d.take 4), ((d.drop 8).take (leNat ((d.drop 4).take 4))).map (·.toNat))

/-- A channel takes the full training of step 4 (R222): it has no record (R424), its mask bit asks for it (R425), or it fails with
its stored values. -/
def fullTrains (s : State) (obs : List ChanObs) (c : Nat) : Bool :=
  (storeVal s 0x21 c).isNone || s.boot.actTrain.contains c || ((obs.find? (·.chan = c)).map (!·.pass)).getD false

/-- A channel trained (R222): its remaps, and its stored values and lane-repair map or those of its full training, which repairs
further lanes; what differs from the record is committed. -/
def trainChan (obs : List ChanObs) (s : State) (c : Nat) : State :=
  let old := (storeVal s 0x21 c).map trainOf
  let (v, lanes) := old.getD (0, [])
  let s := s.setChan c { s.chan c with remap := ((storeVal s 0x22 c).map remapOf).getD [], trained := true }
  let new := if fullTrains s obs c then
      match obs.find? (·.chan = c) with
      | some o => (o.values, lanes ++ o.lanes.filter fun p => decide (p < 72) && !lanes.contains p)
      | none => (v, lanes)
    else (v, lanes)
  let s := setLanes s c new.1 new.2
  if old = some new then s else trainRecord s c

/-- HBM_STAGE: a channel that cannot be trained stops boot; else every channel trains, the pool is zeroed, and what differs
from the records is committed. -/
def hbmStage (s : State) (dead : List Nat) (obs : List ChanObs) : State :=
  if !atStage s 3 then s
  else
    let s := if (List.range 256).any (fullTrains s obs) then fullBoot s else s
    match argMin id (dead.filter (· < 256)) with
    | some c =>
      let s := { s with boot := { s.boot with stage := 4, stopped := true } }
      let s := setFld s 0 (pkgReg Reg.PKG_BOOT_REFUSE) 0 0 1
      raiseError s { sev := 3, type := Err.HBM_CHANNEL_DEAD, die := 24 + c / 32, inst := c % 32, detail := [c / 32, c % 32] }
    | none =>
      let s := zeroPool ((List.range 256).foldl (trainChan obs) s)
      let s := if s.boot.actTrain.isEmpty then s
        else queueCommit { s with boot := { s.boot with actTrain := [] } } (actionCommit 1 true [])
      stageDone s 4

/-- HBM_STAGE (R222). -/
def execHbmStage (dead : List Nat) (obs : List ChanObs) (s : State) : Host.Outcome State Fault Refusal :=
  .next (hbmStage s dead obs)

/-! ## Stage 5 (R406, R408, R476) -/

/-- A cell fenced by its self-test (R476, R503). -/
def fenceCell (s : State) (c : Nat) : State :=
  let s := s.setCell c { s.cell c with fenced := true }
  paramChange (raiseError s { sev := 0, type := Err.SELF_TEST, die := 8 + cellDie c, inst := cellPos c })

/-- A cell die whose match unit or translation unit fails (R476). -/
def testDieBad (s : State) (d : Nat) : State :=
  raiseError (dieOffline s (8 + d)) { sev := 0, type := Err.SELF_TEST, die := 8 + d, inst := 0 }

/-- One cell tested: a cell that fails is fenced, and one that passes loses its fence (R476). -/
def testOne (s : State) (c : Nat) (ok : Bool) : State :=
  let s := { s with boot := { s.boot with tested := tset (fun _ => 0) s.boot.tested c (powerMinutes s) } }
  if !ok then fenceCell s c
  else if (s.cell c).fenced then paramChange (s.setCell c { s.cell c with fenced := false }) else s

/-- Stage 5's self-test on some cell dies: a die whose match unit or translation unit fails goes offline, and fences are made anew
on the others (R476). -/
def testCells (s : State) (dies badCells badDies : List Nat) : State :=
  let s := (dies.filter fun d => badDies.contains d && !s.offline (8 + d)).foldl testDieBad s
  let cells := (List.range 320).filter fun c => dies.contains (cellDie c) && !s.offline (8 + cellDie c)
  cells.foldl (fun s c => testOne s c (!badCells.contains c)) s

/-- A die's estimator starts: its stored coefficients, or the factory's raised by a fifth (R406). -/
def startEstimator (s : State) (d : Nat) : State :=
  match storeVal s 0x31 d with
  | some v => s.setDie d { s.die d with coeff := leNat v, firstRun := false }
  | none =>
    let f := ((storeVal s 0x32 d).map leNat).getD 1000
    s.setDie d { s.die d with coeff := f * 6 / 5, firstRun := true }

/-- A die's ageing trim restored (R408). -/
def readTrim (s : State) (d : Nat) : State :=
  match storeVal s 0x30 d with
  | some v => s.setDie d { s.die d with margin := leNat v, hasMargin := true }
  | none => s

/-- Agents enabled. -/
def enableAgents (s : State) (l : List Nat) : State :=
  { s with coh := { s.coh with enabled := s.coh.enabled ++ l.filter fun a => !s.coh.enabled.contains a } }

/-- Ageing readings of a boot: cell dies and the core die, with their requirement in steps of 2.5 mV (R408). -/
def readMargins (s : State) (margins : List (Nat × Nat)) : State :=
  let ok := margins.filter fun p => (p.1 = 1 ∨ cellDieCodes.contains p.1) && !s.offline p.1
  let s := ok.foldl (fun s p => takeMargin s p.1 p.2) ((1 :: cellDieCodes).foldl readTrim s)
  { s with pwr := { s.pwr with agedAt := powerMinutes s } }

/-- CELL_DIE_STAGE. -/
def cellStage (s : State) (badCells badDies : List Nat) (margins : List (Nat × Nat)) : State :=
  if !atStage s 4 then s
  else
    let s := testCells s (List.range 8) badCells badDies
    let s := readMargins s margins
    let s := (dieCodes.filter fun d => !s.offline d).foldl startEstimator s
    let s := pwrStatus s 28 (firstRunning s)
    let s := enableAgents s (((List.range 8).filter fun d => !s.offline (8 + d)).map (0x18 + ·))
    stageDone (repoint s) 5

/-- CELL_DIE_STAGE (R476). -/
def execCellDieStage (badCells badDies : List Nat) (margins : List (Nat × Nat)) (s : State) : Host.Outcome State Fault Refusal :=
  .next (cellStage s badCells badDies margins)

/-! ## Stage 6 (R315) -/

/-- The clusters' self-test: one that fails is offline and reported; one that passes is an agent, its harts parked. -/
def testClusters (s : State) (bad : Nat) : State :=
  (List.range 24).foldl (fun s c =>
    if bit bad c then raiseError (offlineCluster s c) { sev := 2, type := Err.SELF_TEST, die := 1, inst := c }
    else
      let s := if bit s.core.offline c then paramChange { s with core := { s.core with offline := s.core.offline - 2 ^ c } } else s
      let s := enableAgents s [c]
      [0, 1, 2, 3].foldl (fun s k => s.setHart (4 * c + k) Hart.parked) s) s

/-- CORE_DIE_STAGE. -/
def coreStage (s : State) (bad : Nat) : State :=
  if !atStage s 5 then s else stageDone (if s.core.dieOff then s else testClusters s bad) 6

/-- CORE_DIE_STAGE (R315). -/
def execCoreDieStage (bad : Nat) (s : State) : Host.Outcome State Fault Refusal := .next (coreStage s bad)

/-! ## Stages 7 and 8 (R324, R350, R468) -/

/-- HOST_LINK_STAGE: both functions are enabled, in one-way coherence. -/
def execHostLinkStage (s : State) : Host.Outcome State Fault Refusal :=
  .next (if atStage s 6 then stageDone (endFull s) 7 else s)

/-- Failed lanes of a link read (R351, R424). -/
def readLane (s : State) (l : Nat) : State :=
  match storeVal s 0x24 l with
  | some d => s.setLink l { s.link l with badLanes := leNat d % 4, keptBad := leNat d % 4 }
  | none => s

/-- Links begin to train: not those disabled, nor those of a die that is offline (R350). -/
def startLinks (s : State) (l : List Nat) : State :=
  if s.boot.fatal then s
  else (l.filter fun l => !((s.link l).state = 4) && !s.offline (linkDie l)).foldl beginTraining s

/-- READY_STAGE: the hub signals ready, and link training begins. -/
def readyStage (s : State) : State :=
  if !atStage s 7 then s
  else startLinks ((List.range 96).foldl readLane ((stageDone s 8).emit .i3cReady)) (List.range 96)

/-- READY_STAGE (R468). -/
def execReadyStage (s : State) : Host.Outcome State Fault Refusal := .next (readyStage s)

end Sys2Proof.Machine
end

