-- ==== Sys2Proof/Machine/Resets.lean ====
section
/-!
DEFINITION. Warm device resets, block resets, the watchdog's expiry, escalation, the idle-cell test and the end of a
coalescing window (R171, R472-R478, R483, R490, R491).
-/

namespace Sys2Proof.Machine

/-! ## What a reset does to register pages -/

/-- A counter that R74 gives as since cold reset. -/
def sinceCold (a : Nat) : Bool :=
  kindAt a == some .cseq && (a % 0x1000 == Reg.CSEQ_FIRE_CNT_LO || a % 0x1000 == Reg.CSEQ_FIRE_CNT_HI)

/-- A register that a reset of its die leaves: the page lock, the RWL registers of a locked page (R6, R497), and the counts since
cold reset (R74). -/
def keptReg (s : State) (a : Nat) : Bool :=
  a % 0x1000 == Reg.PG_LOCK || sinceCold a ||
    (pageLocked s a && ((kindAt a).map fun k => (k.at_ (a % 0x1000)).any fun f => f.acc = .rwl).getD false)

/-- The pages of some dies at their reset values. -/
def resetPages (s : State) (dies : List Nat) : State :=
  { s with regs := s.regs.filter fun p =>
      let a := p.1 % 2 ^ 27
      !(decide (a < 0x4000000) && dies.contains (a / 0x200000)) || keptReg s a }

/-- Dies that a warm device reset resets (R473): all but the hub, the guest and the stacks. -/
def warmDies : List Nat := [1, 2, 3, 4, 5, 8, 9, 10, 11, 12, 13, 14, 15, 16, 17, 18, 19]

/-! ## Warm device reset, steps 1 to 4 (R473) -/

/-- The partner is told over the twin links (R391): a control message that names the link. -/
def announceWarm (s : State) : State :=
  if s.mir.st = 0 then s else heartbeats s true

/-- Synchronous writes whose copies the partner has not acknowledged as the drain ends are acknowledged
(notes/assumptions/28.md). -/
def freeSync (s : State) : State :=
  let s := s.mir.acks.foldl (fun s a => s.emit (.ack a.1 a.2.1)) s
  { s with mir := { s.mir with acks := [] } }

/-- Full coherence ended at once: the host's entries are swept and answered (R326). -/
def endFullNow (s : State) : State := if s.coh.full then endFull (answerAll (answerAll (beginSweep s))) else s

/-- Every live context reset and left paused (R44, R473). -/
def resetContexts (s : State) : State :=
  ((List.range 64).filter fun i => (s.ctx i).live).foldl (fun s i =>
    let s := clearContext s i
    s.setCtx i { s.ctx i with paused := true }) s

/-- Cells cleared; a fence stands until the cell is tested (R476). -/
def clearCells (s : State) : State :=
  { s with
    cells := (tkeys s.cells).foldl (fun m c =>
      tset (fun _ => Cell.idle) m c { Cell.idle with fenced := (tget (fun _ => Cell.idle) s.cells c).fenced }) s.cells
    mtus := [], held := [] }

/-- A link of a die that is reset: down; a lane recorded as failed stays failed (R351, R424). -/
def Link.fresh (k : Link) : Link := { Link.down with badLanes := k.keptBad, keptBad := k.keptBad }

/-- The links of every die that is reset. -/
def resetLinks (s : State) : State :=
  { s with lnk := { s.lnk with
      colls := []
      links := (tkeys s.lnk.links).foldl (fun m l =>
        tset (fun _ => Link.down) m l (tget (fun _ => Link.down) s.lnk.links l).fresh) s.lnk.links } }

/-- Step 4 of R473: cell dies, the core die, link dies and the floor dies' engines, caches, directories and mesh; their
interfaces train from here on. What stood in the crossings is counted as discarded (R38). -/
def resetDies (s : State) : State :=
  let n := s.str.packets.length + s.held.length + s.host.reads.length + s.host.waiting.length
    + ((tkeys s.lnk.links).map fun l => (s.link l).queue.length).foldl (· + ·) 0
  let s := resetLinks (clearCells (parkHarts s))
  let s := resetPages s warmDies
  let s := (List.range 20).foldl (fun s i => s.setIface i { s.iface i with st := 1 }) s
  { s with
    latch := []
    str := { s.str with packets := [], reshards := [], early := [] }
    xlt := XltSys.start
    coh := { CohSys.start with retired := s.coh.retired, wayErrs := s.coh.wayErrs }
    core := { s.core with ran := false }
    host := { s.host with reads := [], waiting := [], unread := [] }
    cic := { s.cic with unloaded := warmDies }
    boot := { s.boot with
      stops := s.boot.stops.filter fun p => p.1 = 0, fresh := [], discarded := s.boot.discarded + n } }

/-- The watchdog is off until it is enabled again (R171, R471). -/
def stopWatchdog (s : State) : State :=
  let a := hub Pg.CIC Reg.CIC_WDT_CTL
  setFld (setFld s 0 a 31 31 0) 0 a 29 28 0

/-- Stores in a buffer, or synchronous mirror writes, that steps 1 and 2 of R473 wait for. -/
def warmOpen (s : State) : Bool := buffersLeft s (List.range 96) || !s.mir.acks.isEmpty

/-- Step 2 ends, with what is not accepted discarded (R274), and steps 3 and 4 follow (R473). -/
def warmStop (s : State) : State :=
  let s := freeSync (endDrain s (List.range 96))
  let s := resetContexts (abortCells (endFullNow s))
  stopWatchdog (resetDies { s with boot := { s.boot with drainUntil := none } })

/-- Steps 1 and 2 of R473: the drain goes on for up to 10 µs (R273, R274). -/
def warmDrain (s : State) (until_ : Nat) : State :=
  let s := drainPass s (List.range 96)
  if warmOpen s ∧ s.cic.count < until_ then { s with boot := { s.boot with drainUntil := some until_ } } else warmStop s

/-- A warm device reset begins: 1 RST_CMD, 2 the watchdog, 3 fatal escalation (R492). One that runs already absorbs it (R491);
a stopped boot leaves only by a cold reset (R470). -/
def beginWarm (s : State) (cause : Nat) : State :=
  if s.boot.warmBusy ∨ s.boot.stopped ∨ s.boot.railDown ∨ s.boot.stage < 2 then s
  else
    let a := rstReg Reg.RST_CAUSE
    let s := countFld (setFld s 0 a 27 24 cause) 0 a 15 0 1
    let s := { s with boot := { s.boot with warmBusy := true, busyKind := 1, reportedReset := false } }
    warmDrain (commitMinutes (announceWarm s)) (s.cic.count + 1250)

/-- RST_CMD with KIND warm (R473). -/
def warmGo (s : State) : State :=
  let a := rstReg Reg.RST_CMD
  if s.boot.stopped ∨ s.boot.railDown ∨ s.boot.stage < 2 then setFld s 0 a 26 24 1
  else beginWarm (setFld (setFld (setFld s 0 a 26 24 1) 0 a 31 31 1) 0 a 3 0 0) 1

/-- RST_CMD_WARM. -/
def execRstCmdWarm (src : Source) (s : State) : Host.Outcome State Fault Refusal :=
  run (okSource src) (viaReg s src (rstReg Reg.RST_CMD) (warmGo s))

/-! ## Warm device reset, steps 5 to 7 -/

/-- A die whose interfaces are in service is online, else offline (R18). -/
def settleDie (s : State) (d : Nat) : State :=
  let out (i : Nat) : Bool := (s.iface i).st == 2
  if (if d = 1 then out 12 && out 13 else out (if d ≤ 15 then d - 4 else d)) then dieOffline s d else dieOnline s d

/-- The fatal state left, where its least reset is a warm one and no second record came (R489, R490). -/
def leaveFatal (s : State) : State :=
  let a := rstReg Reg.ERR_FATAL
  let s := { s with err := { s.err with escalateAt := none } }
  if !s.boot.fatal ∨ fld s 0 a 30 29 ≠ 0 ∨ s.err.stuck then s
  else setFld (setFld { s with boot := { s.boot with fatal := false } } 0 a 31 29 0) 0 a 15 0 0

/-- What a warm device reset ends: quarantine, guest isolation, the refusal of the random source, the hold on a
cell die whose sensors failed (R30, R395, R450, R471). -/
def endWarm (s : State) : State :=
  let s := { s with sec := { s.sec with
    dike := if s.sec.dike = 1 then 0 else s.sec.dike, guestIso := false, guestBlocks := [], entropyBad := false } }
  let s := { s with boot := { s.boot with warmBusy := false, busyKind := 0 } }
  let s := dieCodes.foldl (fun s d => if (s.die d).sensorsFailed then s.setDie d { s.die d with sensorsFailed := false } else s) s
  enableGuest (leaveFatal s)

/-- A reset asked for over RST_CMD has ended (R492). -/
def rstEnd (s : State) (result : Nat) : State :=
  let a := rstReg Reg.RST_CMD
  raiseInt (if bit (rd s 0 a) 31 then setFld (setFld s 0 a 31 31 0) 0 a 3 0 result else s) (rstReg 0) 1

/-- WARM_RESET_DONE: where the drain of step 2 still waits it goes on first. Interfaces retrain, replicas reload, self-tests run,
harts are parked, WARM_BUSY clears and the links retrain; not before a key erase has ended (R462). -/
def warmDone (s : State) (badCells badDies : List Nat) (badClusters : Nat) (trained : List IfaceObs) : State :=
  let s := match s.boot.drainUntil with
    | some t => if s.boot.warmBusy then warmDrain s t else s
    | none => s
  if !s.boot.warmBusy ∨ s.boot.drainUntil.isSome ∨ s.sec.erase.isSome then s
  else
    let s := (List.range 20).foldl (fun s i => trainIface s trained false false i) s
    let s := ([1, 8, 9, 10, 11, 12, 13, 14, 15, 16, 17, 18, 19]).foldl settleDie s
    let s := loadReplicas { s with core := { s.core with dieOff := s.offline 1 } } (warmDies.filter fun d => !s.offline d)
    let s := testCells s (List.range 8) badCells badDies
    let s := enableAgents s (((List.range 8).filter fun d => !s.offline (8 + d)).map (0x18 + ·))
    let s := if s.core.dieOff then s else testClusters s badClusters
    let s := rstEnd (endWarm s) 1
    if s.boot.stage < 8 then s else startLinks s (List.range 96)

/-- WARM_RESET_DONE (R473). -/
def execWarmResetDone (tests : TestFinds) (badClusters : Nat) (trained : List IfaceObs) (s : State) :
    Host.Outcome State Fault Refusal := .next (warmDone s tests.cells tests.dies badClusters trained)

/-! ## Block reset (R475) -/

/-- A program that a block reset ends: it faults for its context (R64, R475). -/
def blockFault (s : State) (cell ctx : Nat) : State :=
  match imgOf s cell ctx with
  | some i => if i.started ∧ !i.halted then endProgram s cell ctx CellFault.ENGINE_FAULT else s
  | none => s

/-- A cell of a die that is reset: the programs of its runner and of the owner it was taken from fault, streams that end on it
are dead, and it is idle. -/
def resetCell (s : State) (cell : Nat) : State :=
  let x := s.cell cell
  let ctxs := (x.runner.toList ++ (x.saved.map (·.1)).toList).eraseDups
  let s := ctxs.foldl (fun s c => blockFault s cell c) s
  let ends := (tkeys s.str.streams).filter fun i =>
    let t := s.stream i
    t.st != .free && ((t.src.kind = Kind.CELL && endCell s t.ctx t.src = cell) || (t.snk.kind = Kind.CELL && endCell s t.ctx t.snk = cell))
  let s := ends.foldl killStream s
  let n := (s.held.filter fun h => h.cell = cell).length
  { s.setCell cell { Cell.idle with fenced := x.fenced } with
    held := s.held.filter fun h => h.cell != cell, boot := { s.boot with discarded := s.boot.discarded + n } }

/-- Entries that name a descriptor cache are swept, and its lines are gone (R251, R475). -/
def sweepCache (s : State) (agent : Nat) : State :=
  let mine := (tkeys s.coh.dir).filter fun l => (holders s l).contains agent
  let s := answerFor s agent
  let s := (linesOfAgent s agent).foldl (fun s l => setLine s agent l AgentLine.none_) s
  mine.foldl (fun s l =>
    settle (homeReq s { req := .sweep, from_ := 64, line := l, data := [], mask := 0, stash := none, ctx := none }) [l]) s

/-- Block reset of cell die `d`. -/
def resetCellDie (s : State) (d : Nat) (badCells badDies : List Nat) (trained : List IfaceObs) : State :=
  let s := ((List.range 40).map (40 * d + ·)).foldl resetCell s
  let s := sweepCache (s.setMtu d MatchUnitState.idle) (0x18 + d)
  let u := 8 + d
  let s := clearUnit s u
  let s := { s with
    boot := { s.boot with
      stops := s.boot.stops.filter fun p => p.1 ≠ u, fresh := s.boot.fresh.filter fun p => cellDie p.1 != d } }
  let s := settleDie (trainIface (resetPages s [u]) trained false false (4 + d)) u
  let s := reloadDie s u
  let s := testCells s [d] badCells badDies
  if s.offline u then disableAgent s (0x18 + d) else enableAgents s [0x18 + d]

/-- Block reset of link die `d`: messages move, its engine's collectives end, its links retrain. -/
def resetLinkDie (s : State) (d : Nat) (trained : List IfaceObs) : State :=
  let links := (List.range 24).map (24 * d + ·)
  let s := (links.filter (linkUp s)).foldl (fun s l => linkLost (setLinkState s l 0) l) s
  let s := (s.lnk.colls.filter fun c => c.onDie d).foldl (fun s c => (endColl s c CollSt.UNREACHABLE).1) s
  let s := links.foldl (fun s l => s.setLink l (s.link l).fresh) s
  let u := 16 + d
  let s := { s with boot := { s.boot with stops := s.boot.stops.filter fun p => p.1 ≠ u } }
  let s := settleDie (trainIface (resetPages s [u]) trained false false u) u
  let s := reloadDie s u
  if s.boot.stage < 8 then s else startLinks s links

/-- A hart started at the image's base (R316). -/
def startHart (s : State) (base : Nat) (h : Nat) : State :=
  s.setHart h { Hart.parked with running := true, priv := 3, startPc := base, xregs := tset (fun _ => 0) (tset (fun _ => 0) [] 10 h) 11 base }

/-- Harts of a cluster. -/
def hartsOf (c : Nat) : List Nat := [0, 1, 2, 3].map (4 * c + ·)

/-- Block reset of core cluster `c`: drained and written back; where its self-test passes it is online, and its harts run the
image again if one runs; else it is offline (R475). On an offline core die nothing runs again. -/
def resetCluster (s : State) (c : Nat) (ok : Bool) : State :=
  let harts := hartsOf c
  let s := endDrain s harts
  let s := (linesOfAgent s c).foldl (fun s l => setLine s c l AgentLine.none_) s
  let s := harts.foldl (fun s h => s.setHart h Hart.parked) s
  let s := { s with boot := { s.boot with stops := s.boot.stops.filter fun p => !(p.1 = 1 && p.2.1 == 2 && p.2.2 == c) } }
  if s.offline 1 then s
  else if !ok then raiseError (offlineCluster s c) { sev := 2, type := Err.SELF_TEST, die := 1, inst := c }
  else
    let s := if bit s.core.offline c then paramChange { s with core := { s.core with offline := s.core.offline - 2 ^ c } } else s
    let s := enableAgents s [c]
    match s.core.image with
    | some (b, _) => harts.foldl (fun s h => startHart s b h) s
    | none => s

/-- RST_CMD with KIND block: RESULT 1 OK, 2 BAD_TARGET, 4 BUSY, while a warm reset or another block's runs (R491, R492). -/
def blockReset (s : State) (badCells badDies : List Nat) (clusterOk : Bool) (trained : List IfaceObs) : State :=
  let a := rstReg Reg.RST_CMD
  let s := setFld s 0 a 26 24 2
  let d := fld s 0 a 21 16
  let c := fld s 0 a 12 8
  if s.boot.warmBusy ∨ (2 ≤ s.boot.busyKind ∧ !(d = 1 ∧ s.boot.busyKind = 2 + c)) then setFld s 0 a 3 0 4
  else
    let s := setFld s 0 a 31 31 1
    if 8 ≤ d ∧ d ≤ 15 then rstEnd (resetCellDie s (d - 8) badCells badDies trained) 1
    else if 16 ≤ d ∧ d ≤ 19 then rstEnd (resetLinkDie s (d - 16) trained) 1
    else if d = 1 ∧ c < 24 then
      -- step 2 of R473: the drain goes on for up to 10 µs, and the row comes again
      let s := (hartsOf c).foldl (fun s h => s.setHart h { s.hart h with running := false }) (drainPass s (hartsOf c))
      let until_ := s.boot.drainUntil.getD (s.cic.count + 1250)
      if buffersLeft s (hartsOf c) ∧ s.cic.count < until_ then
        { s with boot := { s.boot with drainUntil := some until_, busyKind := 2 + c } }
      else rstEnd (resetCluster { s with boot := { s.boot with drainUntil := none, busyKind := 0 } } c clusterOk) 1
    else setFld (setFld s 0 a 31 31 0) 0 a 3 0 2

/-- RST_CMD with KIND block (R475). -/
def blockGo (s : State) (badCells badDies : List Nat) (clusterOk : Bool) (trained : List IfaceObs) : State :=
  if s.boot.stopped ∨ s.boot.railDown then s else blockReset s badCells badDies clusterOk trained

/-- RST_CMD_BLOCK. -/
def execRstCmdBlock (src : Source) (tests : TestFinds) (clusterOk : Bool) (trained : List IfaceObs) (s : State) :
    Host.Outcome State Fault Refusal :=
  run (okSource src) (viaReg s src (rstReg Reg.RST_CMD) (blockGo s tests.cells tests.dies clusterOk trained))

/-! ## Cold reset by command (R471, R492) -/

/-- RST_CMD with KIND cold: over I3C only, else RESULT 3 DENIED. -/
def coldGo (s : State) (src : Source) : State :=
  let a := rstReg Reg.RST_CMD
  match src with
  | .i3c => coldReset s 3
  | _ => setFld (setFld s 0 a 26 24 3) 0 a 3 0 3

/-- RST_CMD_COLD. -/
def execRstCmdCold (src : Source) (s : State) : Host.Outcome State Fault Refusal :=
  run (okSource src) (viaReg s src (rstReg Reg.RST_CMD) (coldGo s src))

/-! ## The watchdog and escalation (R171, R490) -/

/-- The watchdog's period expires: bit 9, a record, the period again; at a second expiry with ACTION a fatal record and a
warm device reset (R171). -/
def watchdog (s : State) : State :=
  let a := hub Pg.CIC Reg.CIC_WDT_CTL
  if !bit (rd s 0 a) 31 ∨ s.cic.count < s.cic.wdtAt ∨ s.boot.warmBusy then s
  else
    let n := fld s 0 a 29 28
    let s := setFld { s with cic := { s.cic with wdtAt := s.cic.count + wdtPeriod s } } 0 a 29 28 (min (n + 1) 2)
    if 1 ≤ n ∧ bit (rd s 0 a) 30 then
      beginWarm (raiseError s { sev := 3, type := Err.WATCHDOG, die := 0, inst := 0 }) 2
    else raiseError (raiseInt s (hub Pg.CIC 0) 9) { sev := 2, type := Err.WATCHDOG, die := 0, inst := 0 }

/-- WATCHDOG_EXPIRY. -/
def execWatchdogExpiry (s : State) : Host.Outcome State Fault Refusal := .next (watchdog s)

/-- AUTO_WARM_ESCALATION: 10 ms after the record; a second such record bars it (R490). -/
def execAutoWarmEscalation (s : State) : Host.Outcome State Fault Refusal :=
  .next (match s.err.escalateAt with
    | some t => if t ≤ s.cic.count ∧ !s.err.stuck then beginWarm s 3 else s
    | none => s)

/-! ## In service (R478, R483) -/

/-- IDLE_CELL_TEST: a cell that no context owns and none has borrowed is tested, where the test is enabled, once in
PERIOD_H power-on hours, of which 0 is treated as 1 (R478). -/
def execIdleCellTest (cell : Nat) (ok : Bool) (s : State) : Host.Outcome State Fault Refusal :=
  let hours := max 1 (fld s 0 (rstReg Reg.ST_IDLE_CTL) 7 0)
  let free : Bool := fld s 0 (rstReg Reg.ST_IDLE_CTL) 31 31 == 1 && (ownerOf s cell).isNone && (s.cell cell).runner.isNone
    && !s.offline (8 + cellDie cell) && decide (tget (fun _ => 0) s.boot.tested cell + 60 * hours ≤ powerMinutes s)
  run (okCell cell) (if free then testOne s cell ok else s)

/-- CORRECTED_COALESCE_END: the second is over; events counted in it are delivered in one record (R483). -/
def coalesceEnd (s : State) (type die inst : Nat) : State :=
  let mine (w : CoalWin) : Bool := w.type == type && w.die == die && w.inst == inst && decide (w.until_ ≤ s.cic.count)
  match s.err.windows.find? mine with
  | none => s
  | some w =>
    let s := { s with err := { s.err with windows := s.err.windows.filter fun w => !mine w } }
    if w.events = 0 then s else deliver s { sev := 0, type := type, die := die, inst := inst } w.events

/-- CORRECTED_COALESCE_END. -/
def execCorrectedCoalesceEnd (type die inst : Nat) (s : State) : Host.Outcome State Fault Refusal :=
  .next (coalesceEnd s type die inst)

end Sys2Proof.Machine
end

