-- ==== Sys2Proof/Machine/CoreRun.lean ====
section
/-!
DEFINITION. Running the core die (R316): the image is protected and verified, and every online hart starts at its base.
-/

namespace Sys2Proof.Machine

/-- A run of CORE_RUN_CTL ends with a result, and raises bit 1 (R317). -/
def coreRunEnd (s : State) (result : Nat) : State :=
  let a := coreReg Reg.CORE_RUN_CTL
  raiseInt (setFld (setFld s 0 a 31 31 0) 0 a 26 24 result) (coreReg 0) 1

/-- Harts of the online clusters. -/
def onlineHarts (s : State) : List Nat :=
  if s.offline 1 then [] else (List.range 96).filter fun h => !bit s.core.offline (clusterOf h)

/-- CORE_RUN_CTL.GO (R316, R317): 1 running, 2 SIG_BAD, 3 NO_CORES, 4 ALREADY_RUN, 5 BAD_RANGE. In quarantine it is refused, no
hart starts, and the manual gives no code for it: RESULT is a free value (R460, notes/assumptions/2.md). -/
def coreRun (s : State) : State :=
  let base := rd64 s 0 (coreReg Reg.CORE_IMG_BASE_LO)
  let n := fld s 0 (coreReg Reg.CORE_IMG_SIZE) 15 0
  if s.core.ran then coreRunEnd s 4
  else if s.sec.dike ≠ 0 then coreRunEnd s.useFree (s.freeBits 0 3)
  else if (onlineHarts s).isEmpty then coreRunEnd s 3
  else if n = 0 ∨ 16384 < n ∨ base % 4096 ≠ 0 ∨ poolBytes < base + n * 4096 then coreRunEnd s 5
  else
    let s := { s with core := { s.core with ran := true, image := some (base, n * 4096) } }
    let img := devBytes s base (n * 4096)
    let r := if devPoison s base (n * 4096) then MbxRes.SIG_BAD else imageCheck s img 2
    let s := imageNoted s img 2 r
    if r ≠ 0 then coreRunEnd { s with core := { s.core with image := none } } 2
    else
      let s := { s with core := { s.core with imageHash := digest (imgBody img) } }
      coreRunEnd (measureChanged ((onlineHarts s).foldl (fun s h => startHart s base h) s) 8) 1

/-- CORE_RUN_GO. -/
def execCoreRunGo (src : Source) (s : State) : Host.Outcome State Fault Refusal :=
  run (okSource src) (viaReg s src (coreReg Reg.CORE_RUN_CTL) (coreRun s))

end Sys2Proof.Machine
end

