-- ==== Sys2Proof/Machine/Jobs.lean ====
section
/-!
DEFINITION. The machine partition and the start of a job on its devices (R361-R367, R374).
-/

namespace Sys2Proof.Machine

/-! ## Teardown (R363) -/

/-- Register of the machine page. -/
abbrev mch (off : Nat) : Nat := hub Pg.MCH off

/-- Transfers with an end on another device end UNREACHABLE, and their packets are gone (R363). -/
def cutStreams (s : State) : State :=
  (tkeys s.str.streams).foldl (fun s i =>
    let x := s.stream i
    if x.snk.kind = Kind.REMOTE ∨ x.src.kind = Kind.REMOTE then
      let s := { s with str := { s.str with packets := s.str.packets.filter fun p => !(p.index = i && x.snk.kind == Kind.REMOTE) } }
      failAll s i XferSt.UNREACHABLE
    else s) s

/-- Messages still queued are discarded; those on a link are kept until they are acknowledged (R363). -/
def cutQueues (s : State) : State :=
  (tkeys s.lnk.links).foldl (fun s l =>
    let k := s.link l
    s.setLink l { k with queue := k.queue.filter fun m => m.sent ≠ 0 }) s

/-- TEARDOWN (R363), from the active state. -/
def teardown (s : State) : State :=
  let s := setFld s 0 (mch Reg.MCH_PART_CMD) 3 0 1
  if s.lnk.partState ≠ 0 then s
  else
    let s := { s with lnk := { s.lnk with partState := 1, epoch := (s.lnk.epoch + 1) % 65536 } }
    let s := cutStreams (cutQueues s)
    let held := s.mir.copies.map fun (c : MirCopy) => { c with link := 96 }
    let s := { s with mir := { s.mir with copies := held } }
    s.lnk.colls.foldl (fun s c => (endColl s c CollSt.UNREACHABLE).1) s

/-- TEARDOWN. -/
def execTeardown (src : Source) (s : State) : Host.Outcome State Fault Refusal :=
  run (okSource src) (viaReg s src (mch Reg.MCH_PART_CMD) (teardown s))

/-- TEARDOWN_DRAINED (R363): every flit on the links is acknowledged. -/
def execTeardownDrained (s : State) : Host.Outcome State Fault Refusal :=
  .next (if s.lnk.partState = 1 ∧ (tkeys s.lnk.links).all fun l => (s.link l).replay.isEmpty then
      raiseInt { s with lnk := { s.lnk with partState := 2 } } (mch 0) 1
    else s)

/-- SET (R363): applied while drained. The twin links carry again what the fence held back (R375). -/
def setPartition (s : State) : State :=
  let s := setFld s 0 (mch Reg.MCH_PART_CMD) 3 0 2
  if s.lnk.partState ≠ 2 then s
  else
    moveCopies { s with lnk := { s.lnk with
        partState := 0
        mpart := fld s 0 (mch Reg.MCH_PART) 31 16
        firstPod := fld s 0 (mch Reg.MCH_PART_PODS) 27 16
        pods := max 1 (fld s 0 (mch Reg.MCH_PART_PODS) 11 0) } }

/-- SET. -/
def execSetPart (src : Source) (s : State) : Host.Outcome State Fault Refusal :=
  run (okSource src) (viaReg s src (mch Reg.MCH_PART_CMD) (setPartition s))

/-! ## The tree of a job (R365) -/

/-- Devices of the block. -/
def blockSize (s : State) : Nat := 256 * s.lnk.pods

/-- This device's ordinal. -/
def ordinalOf (s : State) (dev : Nat) : Nat := (devPod dev - s.lnk.firstPod) * 256 + dev % 256

/-- The device with an ordinal. -/
def deviceOf (s : State) (o : Nat) : Nat := (s.lnk.firstPod + o / 256) * 256 + o % 256

/-- Children of an ordinal. -/
def childOrdinals (s : State) (f o : Nat) : List Nat :=
  ((List.range f).map fun i => f * o + 1 + i).filter fun c => c < blockSize s

/-- Devices in the subtree from `lo` to `hi` of one level down; a tree has at most 21 levels. -/
def subtree (n f : Nat) : Nat → Nat → Nat → Nat
  | 0, _, _ => 0
  | k + 1, lo, hi => if n ≤ lo then 0 else (min hi (n - 1) + 1 - lo) + subtree n f k (f * lo + 1) (f * hi + f)

/-- Devices in an ordinal's subtree. -/
def subtreeSize (s : State) (f o : Nat) : Nat := subtree (blockSize s) f 21 o o

/-! Messages of a job start, by their first word (notes/assumptions/27.md). -/
abbrev JobMsg.PREPARE : Nat := 1
abbrev JobMsg.SEEN : Nat := 2
abbrev JobMsg.PROGRESS : Nat := 3
abbrev JobMsg.OK : Nat := 4
abbrev JobMsg.FAILED : Nat := 5
abbrev JobMsg.COMMIT : Nat := 6
abbrev JobMsg.ABORT : Nat := 7

/-- A job message to an ordinal, on lane 6. -/
def jobSend (s : State) (o kind : Nat) (words : List Nat) : State :=
  (sendMsg s 5 6 srcColl (deviceOf s o) 0 0 kind (words.flatMap (leBytes 4)) []).1

/-- A job message to the parent. -/
def jobUp (s : State) (kind : Nat) (words : List Nat) : State :=
  let j := s.lnk.job
  if j.ordinal = 0 then s else jobSend s ((j.ordinal - 1) / j.fanout) kind words

/-- The state with the job set. -/
def setJob (s : State) (j : Job) : State := { s with lnk := { s.lnk with job := j } }

/-- STATUS of MCH_JOB_CTL set. -/
def jobStatus (s : State) (st : Nat) : State := setFld s 0 (mch Reg.MCH_JOB_CTL) 27 24 st

/-- A job start has ended on this device (R374): bit 0. -/
def jobEnd (s : State) (st : Nat) : State :=
  raiseInt (jobStatus (setJob s { s.lnk.job with st := 5 }) st) (mch 0) 0

/-- A failure written to the machine page (R367, R374). -/
def jobFailure (s : State) (reason dev size : Nat) : State :=
  wr (wr s 0 (mch Reg.MCH_JOB_FAIL) (reason * 2 ^ 24 + dev % 2 ^ 20)) 0 (mch Reg.MCH_JOB_FAIL_N) (size % 2 ^ 20)

/-- The job's context paused or resumed (R366). -/
def pauseJob (s : State) (p : Bool) : State :=
  let c := s.lnk.job.ctx
  if !(s.ctx c).live then s
  else
    let s := s.setCtx c { s.ctx c with paused := p }
    if p then s else budgetCheck s c

/-- Children waited for, from now. -/
def childrenOf (s : State) (f o : Nat) : List JobChild := (childOrdinals s f o).map fun c => ⟨c, 0, s.cic.count⟩

/-- A message to every child. -/
def jobDown (s : State) (kind : Nat) (words : List Nat) : State :=
  s.lnk.job.children.foldl (fun s c => jobSend s c.ordinal kind words) s

/-- COMMIT reaches a device (R366): the count is recorded, the context resumed, COMMIT forwarded; without children its
completion goes up at once. -/
def jobCommit (s : State) : State :=
  let j := s.lnk.job
  let s := wr64 s 0 (mch Reg.MCH_JOB_COMMIT_LO) (s.cic.count % 2 ^ 64)
  let s := jobDown (pauseJob s false) JobMsg.COMMIT [j.id]
  let s := jobStatus (setJob s { j with st := 4, children := childrenOf s j.fanout j.ordinal, fail := none }) 2
  if (s.lnk.job.children).isEmpty then jobEnd (jobUp s JobMsg.OK [j.id]) 2 else s

/-- ABORT sent down the tree, and to each child of the failed ordinal (R367). -/
def jobAbort (s : State) (dev : Nat) : State :=
  let j := s.lnk.job
  let s := jobDown s JobMsg.ABORT [j.id]
  (childOrdinals s j.fanout (ordinalOf s dev)).foldl (fun s o => jobSend s o JobMsg.ABORT [j.id]) s

/-- Every child has answered or been given up (R366, R367). -/
def jobAnswered (s : State) : State :=
  let j := s.lnk.job
  let root : Bool := j.ordinal == 0
  match j.fail with
  | some (st, reason, dev, size) =>
    if root then jobAbort (jobFailure (jobEnd s st) reason dev size) dev
    else
      let s := jobUp s JobMsg.FAILED [j.id, st, reason, dev, size]
      if j.st = 4 then jobEnd s st else setJob s { j with st := 3, answeredAt := s.cic.count }
  | none =>
    if j.st = 4 then jobEnd (jobUp s JobMsg.OK [j.id]) 2
    else if root then jobCommit s
    else setJob (jobUp s JobMsg.OK [j.id]) { j with st := 3, answeredAt := s.cic.count }

/-- The answers looked over after a change. -/
def jobCheck (s : State) : State :=
  let j := s.lnk.job
  if (j.st = 2 ∨ j.st = 4) ∧ j.children.all fun c => c.st ≠ 0 then jobAnswered s else s

/-- A device takes part in a start: the context paused, PREPARE forwarded, its subtree waited for (R366). -/
def jobBegin (s : State) (id ctx f o : Nat) : State :=
  let j : Job :=
    { id := id, ctx := ctx, fanout := f, ordinal := o, st := 2, children := childrenOf s f o, fail := none, answeredAt := 0,
      progressAt := s.cic.count }
  let s := pauseJob (setJob (wr s 0 (mch Reg.MCH_JOB_ID) id) j) true
  jobCheck (jobStatus (jobDown s JobMsg.PREPARE [id, ctx, f, s.lnk.mpart, s.lnk.epoch]) 1)

/-! ## Operations of MCH_JOB_CTL (R365, R374) -/

/-- The job record at MCH_JOB_REC (R365), or the reason it is refused with: 3 partition or epoch, 4 context not live; 0 where
another field breaks R365. -/
def jobRecord (s : State) : Sum Nat (Nat × Nat × Nat) :=
  let a := rd64 s 0 (mch Reg.MCH_JOB_REC_LO)
  let r := devLE s a 64
  let id := bits r 31 0
  let ctx := dfield r 4 13 8
  let f := dfield r 4 4 0
  if a % 64 ≠ 0 ∨ poolBytes < a + 64 ∨ id = 0 ∨ f < 2 ∨ 16 < f then .inl 0
  else if dfield r 8 31 16 ≠ s.lnk.mpart ∨ dfield r 8 15 0 ≠ s.lnk.epoch ∨ s.lnk.partState ≠ 0
      ∨ ((deviceId s).map (ordinalOf s)) ≠ some 0 then .inl 3
  else if !(s.ctx ctx).live then .inl 4
  else .inr (id, ctx, f)

/-- JOB_PREPARE (R365, R366): the root reads its record. A record that is refused ends the start at once
(notes/assumptions/27.md). A start that runs is left alone. -/
def jobPrepare (s : State) : State :=
  let s := setFld s 0 (mch Reg.MCH_JOB_CTL) 30 28 1
  if 2 ≤ s.lnk.job.st ∧ s.lnk.job.st ≤ 4 then s
  else
    match jobRecord s with
    | .inl reason => jobFailure (jobEnd s 7) reason ((deviceId s).getD 0) 1
    | .inr (id, ctx, f) => jobBegin s id ctx f 0

/-- JOB_PREPARE. -/
def execJobPrepare (src : Source) (s : State) : Host.Outcome State Fault Refusal :=
  run (okSource src) (viaReg s src (mch Reg.MCH_JOB_CTL) (jobPrepare s))

/-- EXPECT (R365). -/
def expectJob (s : State) : State :=
  let s := setFld s 0 (mch Reg.MCH_JOB_CTL) 30 28 2
  if 2 ≤ s.lnk.job.st ∧ s.lnk.job.st ≤ 4 then s
  else jobStatus (setJob s { Job.idle with id := rd s 0 (mch Reg.MCH_JOB_ID), st := 1 }) 0

/-- EXPECT. -/
def execExpect (src : Source) (s : State) : Host.Outcome State Fault Refusal :=
  run (okSource src) (viaReg s src (mch Reg.MCH_JOB_CTL) (expectJob s))

/-- JOB_CANCEL (R374). -/
def cancelJob (s : State) : State :=
  let s := setFld s 0 (mch Reg.MCH_JOB_CTL) 30 28 3
  if s.lnk.job.st = 1 then setJob s Job.idle else s

/-- JOB_CANCEL. -/
def execJobCancel (src : Source) (s : State) : Host.Outcome State Fault Refusal :=
  run (okSource src) (viaReg s src (mch Reg.MCH_JOB_CTL) (cancelJob s))

/-! ## Messages of a start (R366, R367) -/

/-- PREPARE_RECEIVE (R366): the three checks; REFUSED with this device and the reason, or SEEN and the prepare. -/
def prepareIn (s : State) (id ctx f mpart epoch : Nat) : State :=
  match deviceId s with
  | none => s
  | some me =>
    let o := ordinalOf s me
    let refuse (reason : Nat) : State :=
      jobSend s ((o - 1) / max 2 f) JobMsg.FAILED [id, 7, reason, me, 1]
    let j := s.lnk.job
    if o = 0 then s
    else if j.st ≠ 1 ∨ j.id ≠ id then refuse 2
    else if mpart ≠ s.lnk.mpart ∨ epoch ≠ s.lnk.epoch ∨ s.lnk.partState ≠ 0 then jobFailure (jobEnd (refuse 3) 7) 3 me 1
    else if !(s.ctx ctx).live then jobFailure (jobEnd (refuse 4) 7) 4 me 1
    else jobBegin (jobSend s ((o - 1) / max 2 f) JobMsg.SEEN [id]) id ctx (max 2 f) o

/-- PREPARE_RECEIVE. -/
def execPrepareReceive (job ctx fanout mpart epoch : Nat) (s : State) : Host.Outcome State Fault Refusal :=
  run (okCtx ctx && decide (2 ≤ fanout ∧ fanout ≤ 16)) (prepareIn s job ctx fanout mpart epoch)

/-- A child's standing set. -/
def setChild (j : Job) (child st : Nat) (now : Nat) : Job :=
  { j with children := j.children.map fun c => if c.ordinal = child then { c with st := st, heard := now } else c }

/-- JOB_ANSWER_RECEIVE (R366, R367): the first failure known is kept. -/
def answerIn (s : State) (child : Nat) (a : JobAnswer) : State :=
  let j := s.lnk.job
  if (j.st ≠ 2 ∧ j.st ≠ 4) ∨ !(j.children.any fun c => c.ordinal = child && c.st == 0) then s
  else
    match a with
    | .seen | .progress => setJob s (setChild j child 0 s.cic.count)
    | .ok => jobCheck (setJob s (setChild j child 1 s.cic.count))
    | .failed st reason dev size =>
      let j := setChild j child 2 s.cic.count
      jobCheck (setJob s { j with fail := if j.fail.isSome then j.fail else some (st, reason, dev, size) })

/-- JOB_ANSWER_RECEIVE. -/
def execJobAnswerReceive (child : Nat) (a : JobAnswer) (s : State) : Host.Outcome State Fault Refusal := .next (answerIn s child a)

/-- COMMIT_RECEIVE (R366): of a start that this device has prepared. -/
def execCommitReceive (job : Nat) (s : State) : Host.Outcome State Fault Refusal :=
  .next (if s.lnk.job.id = job ∧ s.lnk.job.st = 3 then jobCommit s else s)

/-- ABORT_RECEIVE (R367): of a start that this device has prepared and not committed. -/
def abortIn (s : State) (id : Nat) : State :=
  let j := s.lnk.job
  if j.id ≠ id ∨ (j.st ≠ 2 ∧ j.st ≠ 3) then s
  else raiseCtxVector (jobEnd (jobDown s JobMsg.ABORT [id]) 3) j.ctx 2

/-- ABORT_RECEIVE. -/
def execAbortReceive (job : Nat) (s : State) : Host.Outcome State Fault Refusal := .next (abortIn s job)

/-- JOB_PROGRESS (R366): every 0.5 ms while SEEN has been sent and no answer. -/
def execJobProgress (s : State) : Host.Outcome State Fault Refusal :=
  let j := s.lnk.job
  .next (if j.st = 2 ∧ j.ordinal ≠ 0 ∧ j.progressAt + 62500 ≤ s.cic.count then
      setJob (jobUp s JobMsg.PROGRESS [j.id]) { j with progressAt := s.cic.count }
    else s)

/-- CHILD_LOST (R367): nothing heard from a child for 2 ms. -/
def childLost (s : State) (child : Nat) : State :=
  let j := s.lnk.job
  if j.st ≠ 2 ∧ j.st ≠ 4 then s
  else
    match j.children.find? fun c => c.ordinal = child && c.st == 0 && decide (c.heard + 250000 ≤ s.cic.count) with
    | none => s
    | some _ =>
      let j2 := setChild j child 3 s.cic.count
      let f := (if j.st = 2 then 4 else 5, 1, deviceOf s child, subtreeSize s j.fanout child)
      jobCheck (setJob s { j2 with fail := if j2.fail.isSome then j2.fail else some f })

/-- CHILD_LOST. -/
def execChildLost (child : Nat) (s : State) : Host.Outcome State Fault Refusal := .next (childLost s child)

/-- ORPHANED (R367): neither COMMIT nor ABORT for 10 ms after the answer; the context stays paused. -/
def execOrphaned (s : State) : Host.Outcome State Fault Refusal :=
  .next (if s.lnk.job.st = 3 ∧ s.lnk.job.answeredAt + 1250000 ≤ s.cic.count then jobEnd s 6 else s)

end Sys2Proof.Machine
end

