-- ==== Sys2Proof/Machine/Views.lean ====
section
/-!
DEFINITION. The registers whose value is a view of the machine's own state: what each read-only field shows (R74, R116,
R135, R155, R172, R201, R223, R225, R254, R255, R298, R299, R317, R340, R341, R372, R374, R392, R413, R438, R466, R467,
R492, R497, R502, R503). A field that is not a view keeps what `regs` holds for it.
-/

namespace Sys2Proof.Machine

/-- A list of fields laid into a register word: high bit, low bit, value. -/
def lay (w : Nat) (l : List (Nat × Nat × Nat)) : Nat := l.foldl (fun w f => setBits w f.1 f.2.1 f.2.2) w

/-- Word `i` (0 low, 1 high) of a 64-bit value. -/
def half (v i : Nat) : Nat := v / 2 ^ (32 * i) % 2 ^ 32

/-! ## The page header (R497) -/

/-- INT_BITS of the page at `base`. A guest page's is the guest die's own. -/
def intBitsAt (base : Nat) : Nat :=
  match kindAt base with
  | some k => k.intBits
  | none => if base / 0x200000 = 6 then min 32 (Config.guestCaps (base / 0x1000 % 512) % 64) else 0

/-- The page holds RWL fields. -/
def PageKind.lockable (k : PageKind) : Bool := k.fields.any fun f => f.acc = .rwl

/-- OFFLINE of a page: its die is offline, or its block is fenced or isolated. -/
def pageOffline (s : State) (die page : Nat) : Bool :=
  s.offline die || (die == 6 && s.sec.guestIso)
    || (match pageKind die page with
        | some .xlt => unitFenced s die
        | some .cseq => (s.cell (40 * (die - 8) + (page - 0x10))).fenced
        | some .mxe => (s.cell (40 * (die - 8) + (page - 0x40))).fenced
        | some .vxe => (s.cell (40 * (die - 8) + (page - 0x70))).fenced
        | _ => false)

/-- Stepping of a die code: the guest's word stands only while the guest is on (R24). -/
def dieStepping (s : State) (die : Nat) : Nat :=
  if die = 6 then bits (Config.guestWord 0) 23 16 else bits (s.feature die) 23 16

/-- A header word (R496). -/
def headerView (s : State) (base off w : Nat) : Nat :=
  let die := base / 0x200000
  let page := base / 0x1000 % 512
  let type : Nat := match kindAt base with
    | some k => k.type
    | none => 0x70
  let inst := if die = 6 then page else pageInstance die page
  if off = Reg.PG_ID then type * 2 ^ 24 + inst * 2 ^ 16 + die
  else if off = Reg.PG_VER then 2 ^ 24 + dieStepping s die * 2 ^ 8
  else if off = Reg.PG_CAPS then
    match kindAt base with
    | some k => k.lastReg / 4 * 2 ^ 16 + b2n k.lockable * 2 ^ 8 + k.intBits
    | none => lay (Config.guestCaps page % 2 ^ 26) [(15, 9, 0), (7, 6, 0), (5, 0, intBitsAt base)]
  else if off = Reg.PG_STATUS then
    b2n (pageOffline s die page) * 2 ^ 31 + b2n (s.boot.warmBusy && die != 0) * 2 ^ 30
      + fld s 0 (base + Reg.PG_LOCK) 0 0 * 2 ^ 29 + b2n (fld s 0 (base + Reg.PG_ERR_SYND) 31 24 != 0) * 2 ^ 28
  else if off = Reg.PG_INT_PEND then intPend s base
  else if off = Reg.PG_INT_SET then 0
  else w

/-! ## Die pages (R502, R503) -/

/-- DIE_PENDn: the pages of the die with a pending interrupt. -/
def diePend (s : State) (die n : Nat) : Nat :=
  ofBitList ((List.range 32).filter fun i => intPend s (raddr die (32 * n + i) 0) != 0)

/-- A cell is usable: on an online die and not fenced. -/
def cellUsable (s : State) (c : Nat) : Bool := !cellAbsent s c

/-- Ways retired over all set groups of a floor. -/
def waysRetired (s : State) (f : Nat) : Nat := ((List.range 64).map fun g => popCount (retiredWays s f g) 16).foldl (· + ·) 0

/-- FLC_EFF_SIZE, in KiB (R236). -/
def flcEffKib (s : State) (f : Nat) : Nat := 131072 - 128 * waysRetired s f

/-- Online clusters: none while the core die is offline. -/
def onlineClusters (s : State) : Nat :=
  if s.offline 1 then 0 else 24 - popCount s.core.offline 24

/-- The device parameter query, and the die pages. -/
def dieView (s : State) (base off w : Nat) : Nat :=
  let die := base / 0x200000
  if off < 0x080 then diePend s die ((off - 0x040) / 4)
  else if off = Reg.PRM_COUNTS then
    ((List.range 320).filter (cellUsable s)).length * 2 ^ 23 + 4 * onlineClusters s * 2 ^ 16 + 8 * 2 ^ 12
      + 24 * ([16, 17, 18, 19].filter fun d => !s.offline d).length
  else if off = Reg.PRM_POOL_LO then half poolBytes 0
  else if off = Reg.PRM_POOL_HI then half poolBytes 1
  else if off = Reg.PRM_FLC_KIB then ((List.range 4).map (flcEffKib s)).foldl (· + ·) 0
  else if off = Reg.PRM_OP then
    setBits w 31 16 (pointMhz (lowestTop s))
  else if off = Reg.PRM_CELL_MAP then
    let k := fld s 0 (hub 0 Reg.PRM_CELL_SEL) 3 0
    ofBitList ((List.range 32).filter fun i => 32 * k + i < 320 && cellUsable s (32 * k + i))
  else w

/-! ## Hub pages -/

/-- The guest die's feature word: the vendor's, with the type and the reserved bits that R24 gives. -/
def guestFeature : Nat := 7 * 2 ^ 24 + bits (Config.guestWord 0) 23 16 * 2 ^ 16 + Config.guestWord 0 % 16

/-- Package inventory (R39). -/
def pkgView (s : State) (base off w : Nat) : Nat :=
  if off = Reg.PKG_DIE_WORD then
    let d := fld s 0 (base + Reg.PKG_DIE_SEL) 5 0
    if d = 6 then (if s.sec.guestOn then guestFeature else 0) else s.feature d
  else if off = Reg.D2D_STATUS then
    let i := fld s 0 (base + Reg.D2D_SEL) 4 0
    let x := s.iface i
    lay w [(31, 24, x.recorded.getD 0), (23, 16, x.width), (15, 7, sparesInUse x.map), (4, 3, if x.present then x.st else 3),
      (2, 2, b2n (decide (x.st = 2 ∧ x.width < ifaceMin i)))]
  else w

/-- Bits of the live contexts. -/
def liveSet (s : State) : Nat := ofBitList ((List.range 64).filter fun c => (s.ctx c).live)

/-- Attach page (R341). -/
def attView (s : State) (base off w : Nat) : Nat :=
  let c := fld s 0 (base + Reg.ATT_SEL) 5 0
  let x := s.ctx c
  if off = Reg.ATT_STATUS then
    lay w [(31, 30, s.host.attach), (29, 29, b2n s.host.attested), (28, 28, b2n s.coh.full), (27, 27, b2n s.coh.sweeping),
      (6, 0, ((List.range 64).filter fun i => (s.ctx i).live && !(s.ctx i).claimed).length)]
  else if off = Reg.ATT_CTX then
    let left := match x.abandonAt with
      | some t => min 0xFFFE ((t - s.cic.count) / 125000000)
      | none => 0xFFFF
    lay w [(31, 31, b2n (x.live && x.claimed)), (30, 30, b2n x.tokenReady), (29, 29, b2n (x.ending == 4)), (28, 26, x.tokenFails), (15, 0, left)]
  else if Reg.ATT_TOKEN0 ≤ off ∧ off ≤ Reg.ATT_TOKEN3 then tokenView s ((off - Reg.ATT_TOKEN0) / 4)
  else w

/-- Host port page (R340). -/
def hpView (s : State) (p off w : Nat) : Nat :=
  let x := s.port p
  if off = Reg.HP_LINK then
    lay w [(31, 31, b2n x.up), (30, 30, b2n x.inService), (29, 29, b2n x.cacheEn), (28, 28, b2n x.memEn), (27, 27, b2n x.biEn),
      (26, 26, b2n (cohPort s == some p)), (25, 25, b2n (irqPort s == some p)), (19, 16, x.speed), (4, 0, x.width)]
  else w

/-- Power-manager page (R413). -/
def pwrView (s : State) (base off w : Nat) : Nat :=
  let d := fld s 0 (base + Reg.PWR_DIE_SEL) 5 0
  let c := s.ctx (fld s 0 (base + Reg.PWR_CTX_SEL) 5 0)
  let mj (nj : Nat) : Nat := nj / 1000000
  if off = Reg.PWR_CELL_STATUS then
    if 8 ≤ d ∧ d ≤ 15 then
      lay 0 [(31, 28, (s.die d).op), (27, 24, reqPoint s (d - 8)), (23, 20, lowestCeil s (d - 8)), (19, 17, dutyOf s (d - 8)),
        (16, 13, opMax (s.die d).margin), (12, 10, limitOf s (d - 8))]
    else 0
  else if off = Reg.PWR_DIE_MARGIN then min 255 (s.die d).margin
  else if off = Reg.PWR_SHIFT_CTL then setBits w 15 0 (ofSigned 16 (s.pwr.shift / 256))
  else if off = Reg.PWR_PKG_MJ_LO then half (mj s.pwr.energy) 0
  else if off = Reg.PWR_PKG_MJ_HI then half (mj s.pwr.energy) 1
  else if off = Reg.PWR_CTX_USED_LO then half (mj c.energyUsed) 0
  else if off = Reg.PWR_CTX_USED_HI then half (mj c.energyUsed) 1
  else if off = Reg.PWR_CTX_STATUS then setBits w 31 31 (b2n c.energyOut)
  else if off = Reg.PWR_UNATTR_LO then half (mj s.pwr.unattributed) 0
  else if off = Reg.PWR_UNATTR_HI then half (mj s.pwr.unattributed) 1
  else if off = Reg.PWR_EST then s.freeBits 0 16
  else if off = Reg.PWR_LIFE_KWH then lifeJoules s / 3600000
  else w

/-- Polder mailbox page (R438). -/
def pldView (s : State) (off w : Nat) : Nat :=
  if off = Reg.PLD_STATUS then
    lay w [(31, 30, s.pld.st), (29, 29, b2n s.pld.bankA), (28, 28, b2n s.pld.bankB), (25, 16, min 1023 s.pld.queue.length)]
  else if off = Reg.PLD_SEQ then s.pld.seq
  else if off = Reg.PLD_LIFE then min 0xFFFFFFFF (lifeDays s)
  else if off = Reg.PLD_WEAR then
    let top := (tkeys s.pld.blocks).foldl (fun a k => max a (blk s k).erases) 0
    min 255 (blocksIn s 0 .retired).length * 2 ^ 24 + min 255 (blocksIn s 1 .retired).length * 2 ^ 16 + min 65535 (top / 1000)
  else if off = Reg.PLD_ERASE_RATE then min 65535 (eraseRate s)
  else w

/-- Two bits a sensor. -/
def sensorWord (f : Nat → Nat) : Nat := ((List.range 7).map fun d => f d % 4 * 4 ^ d).foldl (· + ·) 0

/-- Dike page (R466). NOW shows whether the sensor's condition is present: what the sensor senses outside a trip is no state of
the package, and reads as a free value. -/
def dkView (s : State) (off w : Nat) : Nat :=
  if off = Reg.DK_STATUS then
    lay w [(31, 30, s.sec.dike), (29, 29, b2n s.sec.policy.isSome), (28, 28, b2n s.sec.dbgOwner), (27, 27, b2n s.sec.dbgVendor),
      (26, 26, b2n ((currentVal s 0x51 0).isSome)), (25, 25, b2n s.sec.guestWait)]
  else if off = Reg.DK_LEVELS then sensorWord (nth s.sec.fuses.floors) * 2 ^ 16 + sensorWord (dikeLevel s)
  else if off = Reg.DK_SENSOR then setBits w 31 31 (s.freeBits 0 1)
  else if off = Reg.DK_ERASE then
    match s.sec.erase with
    | some e => e.step * 2 ^ 28 + e.level * 2 ^ 26 + min 1023 e.blocks.length
    | none => 0
  else w

/-- Key page (R467). -/
def keyView (s : State) (base off w : Nat) : Nat :=
  if off = Reg.KEY_SLOT then
    let k := fld s 0 (base + Reg.KEY_SEL) 5 0
    let x := s.slot k
    lay w [(31, 30, x.st), (29, 29, b2n x.fromBlob), (17, 0, (s.sec.keyMap.filter fun p => p.2 = k).length)]
  else if off = Reg.KEY_MAP_ENT then setBits w 6 0 (s.keyMapAt (fld s 0 (base + Reg.KEY_MAP_SEL) 17 0))
  else w

/-- Boot and error page (R492). -/
def rstView (s : State) (base off w : Nat) : Nat :=
  let fenced := ofBitList ((List.range 40).filter fun p => (s.cell (40 * fld s 0 (base + Reg.ST_SEL) 2 0 + p)).fenced)
  if off = Reg.RST_STAGE then
    lay w [(31, 28, s.boot.stage), (27, 27, b2n s.boot.stopped), (26, 26, b2n s.boot.warmBusy), (25, 25, b2n s.boot.full),
      (15, 0, min 65535 s.boot.stageMs)]
  else if off = Reg.ST_FENCED_LO then half fenced 0
  else if off = Reg.ST_FENCED_HI then half fenced 1
  else if Reg.ERR_HELD_DATA ≤ off then
    match s.err.held[fld s 0 (base + Reg.ERR_HELD_SEL) 7 0]? with
    | some r => nth r.words ((off - Reg.ERR_HELD_DATA) / 4) % 2 ^ 32
    | none => 0
  else w

/-- Context-manager, Cicada, sluice, translation-control, machine and mirror pages (R74, R172, R223, R298, R374, R392). -/
def ctxmView (s : State) (off w : Nat) : Nat :=
  if off = Reg.CTXM_CMD then setBits w 31 31 (b2n ((tkeys s.ctxs).any fun i => [2, 3].contains (s.ctx i).ending))
  else if off = Reg.CTXM_LIVE_LO then half (liveSet s) 0 else if off = Reg.CTXM_LIVE_HI then half (liveSet s) 1 else w

def cicView (s : State) (off w : Nat) : Nat :=
  if off = Reg.CIC_COUNT_LO then half s.cic.count 0
  else if off = Reg.CIC_COUNT_HI then half s.cic.count 1
  else if off = Reg.CIC_BOOT_NUM then s.boot.bootNum % 2 ^ 32
  else if off = Reg.CIC_POH then powerMinutes s / 60 % 2 ^ 32
  else w

def sluView (s : State) (base off w : Nat) : Nat :=
  let c := s.ctx (fld s 0 (base + Reg.SLU_SEL) 5 0)
  if off = Reg.SLU_STATUS then lay w [(31, 31, b2n c.live), (27, 27, b2n c.window)]
  else if off = Reg.SLU_SUM then otherGuar s 64
  else w

def mchView (s : State) (off w : Nat) : Nat :=
  if off = Reg.MCH_PART then setBits w 15 0 s.lnk.epoch
  else if off = Reg.MCH_PART_CMD then setBits w 27 24 s.lnk.partState
  else w

def mirView (s : State) (off w : Nat) : Nat :=
  if off = Reg.MIR_STATUS then
    lay w [(31, 28, s.mir.st), (27, 27, b2n s.mir.primary), (26, 26, b2n s.mir.witness), (20, 16, ((twinLinks s).filter (linkUp s)).length),
      (15, 0, s.mir.epoch)]
  else if off = Reg.MIR_LAG_NOW then min 0xFFFFFFFF (mirrorLag s)
  else if off = Reg.MIR_DIRTY then s.mir.dirty.length % 2 ^ 23
  else w

/-! ## Core die, floors, cells, links, stacks -/

/-- Core control (R317). -/
def coreView (s : State) (base off w : Nat) : Nat :=
  let h := fld s 0 (base + Reg.CORE_HART_SEL) 6 0
  let x := s.hart h
  if off = Reg.CORE_HART_STATUS then
    let st := if bit s.core.offline (clusterOf h) then 3 else if !x.running then 0 else if x.wait = .none then 1 else 2
    lay w [(31, 28, st), (1, 0, x.priv)]
  else if off = Reg.CORE_CLUSTER_OFFLINE then s.core.offline % 2 ^ 24
  else w

/-- Translation unit (R299). -/
def xltView (s : State) (die off w : Nat) : Nat :=
  if off = Reg.XLT_STATUS then lay w [(31, 31, b2n (unitFenced s die)), (23, 16, (walksAt s die .running).length), (6, 0, min 127 (unitHeld s die))] else w

/-- Code of a stream's state (R201). A stream that STREAM_DESTROY has stopped is not free yet. -/
def streamCode (x : Stream) : Nat :=
  match x.st with
  | .free => 0
  | .live | .destroying => 1
  | .dead => 2
  | .detached => 3

/-- Stream engine (R201). -/
def steView (s : State) (base f off w : Nat) : Nat :=
  let x := s.stream (fld s 0 (base + Reg.STE_SEL) 17 0)
  if off = Reg.STE_STREAM then
    lay w [(31, 20, x.gen), (19, 18, streamCode x), (17, 12, x.ctx), (11, 8, x.src.kind), (7, 4, x.snk.kind), (1, 0, x.home)]
  else if off = Reg.STE_STREAM_CRED then lay w [(31, 27, x.xfers.length), (23, 16, x.lastStatus), (14, 0, x.credits)]
  else if off = Reg.STE_STREAM_BYTES_LO then half x.delivered 0
  else if off = Reg.STE_STREAM_BYTES_HI then half x.delivered 1
  else if off = Reg.STE_ACTIVE then
    ((tkeys s.str.streams).filter fun i => !((s.stream i).st = .free) && (s.stream i).home == f).length
  else if off = Reg.STE_HOLD then lay w [(31, 31, b2n (decide (65536 ≤ holdBytes s f))), (16, 0, holdBytes s f)]
  else w

/-- The set group with the most retired ways, the lowest among equals. -/
def worstGroup (s : State) (f : Nat) : Nat :=
  let n (g : Nat) : Nat := popCount (retiredWays s f g) 16
  (List.range 64).foldl (fun b g => if n b < n g then g else b) 0

/-- Floor cache (R254). -/
def flcView (s : State) (base f off w : Nat) : Nat :=
  let g := fld s 0 (base + Reg.FLC_RET_SEL) 5 0
  let way := fld s 0 (base + Reg.FLC_RET_SEL) 9 6
  let worst := popCount (retiredWays s f (worstGroup s f)) 16
  if off = Reg.FLC_STATUS then
    lay 0 [(31, 31, b2n (decide (4 < worst))), (21, 16, worstGroup s f), (15, 11, worst), (10, 0, waysRetired s f)]
  else if off = Reg.FLC_EFF_SIZE then flcEffKib s f
  else if off = Reg.FLC_RET_MAP then retiredWays s f g
  else if off = Reg.FLC_WAY_CE then
    min 8 ((tget (fun _ => []) s.coh.wayErrs ((64 * f + g) * 16 + way)).filter fun m => powerMinutes s < m + 1440).length
  else w

/-- Coherence (R255). -/
def cohView (s : State) (off w : Nat) : Nat :=
  let en := ofBitList (s.coh.enabled.filter (· < 64))
  if off = Reg.COH_AGENT_EN_LO then half en 0
  else if off = Reg.COH_AGENT_EN_HI then half en 1
  else if off = Reg.COH_HOST_MODE then b2n s.coh.full
  else w

/-- Match unit (R155). -/
def mtuView (s : State) (d off w : Nat) : Nat :=
  if off = Reg.MTU_STATUS then
    let m := s.mtu d
    let run := m.running.filter fun q => matchHeld s d (some q)
    let wait := m.waiting.filter fun q => matchHeld s d (some q)
    let cell := s.cell (40 * d + (run.map (·.pos)).getD 0)
    let raw := match run with
      | some q => ((cell.img.ops.find? (·.id = q.op)).map (·.raw)).getD 0
      | none => 0
    lay w [(31, 28, b2n run.isSome), (27, 24, bits raw 27 24), (23, 23, b2n wait.isSome), (22, 17, (run.map (·.pos)).getD 0),
      (16, 11, (wait.map (·.pos)).getD 0), (10, 5, if run.isSome then cell.runner.getD 0 else 0)]
  else w

/-- STATE of CSEQ_STATUS (R74). -/
def cseqState (s : State) (x : Cell) : Nat :=
  match x.move with
  | .spilling _ => 5
  | .restoring => 7
  | .steady =>
    match x.runner with
    | none => if x.saved.isSome then 6 else 0
    | some c =>
      if x.img.faultCode ≠ 0 then 8
      else if !x.img.started then (if x.saved.isSome then 6 else 0)
      else if x.img.halted then 3
      else if x.img.phaseWait then 2
      else if x.img.stopping ∨ (s.ctx c).paused then 4
      else 1

/-- Cell sequencer (R74). -/
def cseqView (s : State) (base cell off w : Nat) : Nat :=
  let x := s.cell cell
  let i := x.img
  let owner := ownerOf s cell
  let t := i.track (fld s 0 (base + Reg.CSEQ_TRACK_SEL) 2 0)
  let sel := rd s 0 (base + Reg.CSEQ_CNT_SEL)
  let c := i.ctr (bits sel 6 6 * 64 + bits sel 5 0)
  if off = Reg.CSEQ_STATUS then
    let act := ofBitList ((List.range 8).filter fun n => (i.track n).active)
    lay w [(31, 28, cseqState s x), (27, 22, owner.getD 0), (21, 16, x.runner.getD 0), (15, 8, act), (7, 7, b2n x.borrowed),
      (6, 6, b2n (i.faultCode != 0)), (5, 5, b2n owner.isSome)]
  else if off = Reg.CSEQ_TRACK_STATE then
    let (tok, cr, st) := trackWaits s cell i t
    lay w [(31, 31, b2n t.active), (30, 30, b2n tok), (29, 29, b2n cr), (28, 28, b2n st), (25, 16, t.desc), (15, 0, t.left)]
  else if off = Reg.CSEQ_TOKEN_CNT then
    if c.bound then lay w [(31, 24, c.slots), (23, 16, c.inUse), (15, 0, c.value)] else lay w [(31, 16, 0), (15, 0, c.value)]
  else if off = Reg.CSEQ_CNT_BASE then lay w [(31, 30, c.peer), (21, 0, c.base)]
  else if off = Reg.CSEQ_CNT_SIZE then c.size % 2 ^ 16
  else if off = Reg.CSEQ_PRED then i.preds % 256
  else if off = Reg.CSEQ_PHASE then
    match x.runner with
    | some r => (s.ctx r).phase
    | none => 0
  else if off = Reg.CSEQ_FAULT then lay w [(31, 24, i.faultCode), (18, 16, i.faultTrack), (9, 0, i.faultDesc)]
  else w

/-- The operation that runs on a cell's engine, and whether one waits in its issue queue (R107). -/
def engineOps (i : CellImg) (e : Nat) : Option Op × Bool :=
  let l := i.ops.filter fun o => o.stage = .fired && engineOf o.raw == e
  (l.head?, decide (1 < l.length))

/-- STATE of an engine (R116, R135): faulted where one of its operations brought the cell's fault. -/
def engineState (x : Cell) (e : Nat) : Nat :=
  let stopped : Bool := match x.move with
    | .spilling _ => true
    | _ => false
  if x.img.faultCode ≠ 0 ∧ x.img.faultEngine = e then 3
  else if (engineOps x.img e).1.isSome then (if stopped then 2 else 1)
  else 0

/-- Matrix engine (R116). -/
def mxeView (s : State) (cell off w : Nat) : Nat :=
  if off = Reg.MXE_STATUS then
    let x := s.cell cell
    let (o, q) := engineOps x.img 2
    let raw := (o.map (·.raw)).getD 0
    lay w [(31, 28, engineState x 2), (27, 24, dfield raw 0x28 31 28), (23, 20, dfield raw 0x28 27 24), (19, 19, b2n q),
      (18, 17, dfield raw 0x28 15 14), (9, 0, (o.map (·.desc)).getD 0)]
  else w

/-- Vector engine (R135). An operation is carried out in one step
here, so SWEEP reads the first sweep (notes/assumptions/94.md). -/
def vxeView (s : State) (cell off w : Nat) : Nat :=
  if off = Reg.VXE_STATUS then
    let x := s.cell cell
    let (o, q) := engineOps x.img 3
    let raw := (o.map (·.raw)).getD 0
    let elem := opc raw = 0x30
    let pr := EProg.read x.img.prog (dfield raw 0x2C 9 0)
    lay w [(31, 28, engineState x 3), (27, 24, bits raw 27 24), (23, 22, if elem then pr.lw else 0), (21, 21, b2n q), (20, 19, 0),
      (16, 10, if elem then pr.exec.length else 0), (9, 0, (o.map (·.desc)).getD 0)]
  else w

/-- Link port (R372). -/
def lkView (s : State) (l off w : Nat) : Nat :=
  let x := s.link l
  if off = Reg.LK_STATUS then
    lay w [(31, 28, x.state), (27, 24, linkRole s l), (23, 23, b2n x.boundary), (22, 21, x.lanes), (20, 16, x.step)]
  else if off = Reg.LK_PEER then lay w [(31, 31, b2n x.peerSwitch), (24, 20, x.peerPort), (19, 0, x.peerDev)]
  else w

/-- Memory health (R225). -/
def hbmcView (s : State) (base k off w : Nat) : Nat :=
  let x := s.chan (32 * k + fld s 0 (base + Reg.HBMC_CHAN_SEL) 4 0)
  if off = Reg.HBMC_SPARE then sparesUsed x * 2 ^ 16 + (2016 - sparesUsed x)
  else if off = Reg.HBMC_CAL then
    let oldest := (x.quiet.map (·.due)).foldl min s.cic.count
    lay w [(31, 31, b2n x.held.isSome), (30, 30, b2n (x.quiet.any (·.overdue))),
      (29, 29, b2n (x.quiet.any fun q => q.overdue && decide (q.kind < 2))), (23, 16, min 255 ((s.cic.count - oldest) / 125000000))]
  else w

/-- Traffic generator (R224): a run that waits for its stamp runs once the stack's replica has reached it. -/
def tgenView (s : State) (base k off w : Nat) : Nat :=
  if off = Reg.TGEN_STATUS ∧ bits w 31 28 = 1 then
    let c := 32 * k + fld s 0 (base + Reg.TGEN_CHAN_SEL) 4 0
    match (tget (fun _ => none) s.hbm.runs c).bind (·.stamp) with
    | some v => if decide (replica s (Rep.stack k) < v) then w else lay w [(31, 28, 2)]
    | none => w
  else w

/-- Doorbell page (R46, R297). -/
def dbView (s : State) (ctx off w : Nat) : Nat :=
  let c := s.ctx ctx
  if off = Reg.CQ_CONSUMED then c.consumer % 2 ^ 32
  else if off = Reg.CQ_STATUS then
    lay 0 [(31, 31, b2n c.halted), (30, 30, b2n c.dbBad), (23, 16, c.err), (4, 0, c.inFlight)]
  else if off = Reg.FQ_PRODUCED then c.fqProduced
  else if off = Reg.FQ_CONSUMED then c.fqConsumed
  else if off = Reg.FQ_STATUS then
    lay 0 [(31, 31, b2n (c.live && c.fqFull)), (30, 30, b2n (!c.fqHeld.isEmpty)), (29, 29, b2n c.fqQueueFull), (28, 28, b2n c.fqNorec),
      (27, 27, b2n c.fqRespBad), (26, 26, b2n c.fqConsBad), (25, 25, b2n c.fqUnmapped), (15, 0, min 65535 c.tags.length)]
  else w

/-- A block register's word: what `regs` holds for the selected copy, its views laid over it. -/
def blockView (s : State) (k : PageKind) (base off : Nat) : Nat :=
  let die := base / 0x200000
  let page := base / 0x1000 % 512
  let w := rd s (steer s k base off) (base + off)
  match k with
  | .die | .prm => dieView s base off w
  | .pkg => pkgView s base off w
  | .ctxm => ctxmView s off w
  | .cic => cicView s off w
  | .slu => sluView s base off w
  | .xlc => if off = Reg.XLC_PRI_OUT then min 1023 (s.ctx (fld s 0 (base + Reg.XLC_SEL) 5 0)).priOut else w
  | .hp => hpView s (page - 9) off w
  | .att => attView s base off w
  | .mch => mchView s off w
  | .mir => mirView s off w
  | .pwr => pwrView s base off w
  | .pld => pldView s off w
  | .dk => dkView s off w
  | .key => keyView s base off w
  | .rst => rstView s base off w
  | .core => coreView s base off w
  | .xlt => xltView s die off w
  | .ste => steView s base (die - 2) off w
  | .flc => flcView s base (die - 2) off w
  | .coh => cohView s off w
  | .mtu => mtuView s (die - 8) off w
  | .cseq => cseqView s base (40 * (die - 8) + (page - 0x10)) off w
  | .mxe => mxeView s (40 * (die - 8) + (page - 0x40)) off w
  | .vxe => vxeView s (40 * (die - 8) + (page - 0x70)) off w
  | .lk => lkView s (24 * (die - 16) + (page - 0x10)) off w
  | .hbmc => hbmcView s base (die - 24) off w
  | .db => dbView s (base / 0x1000 % 64) off w
  | .tgen => tgenView s base (die - 24) off w
  | .route | .ord | .rse | .lx => w

/-- The word of the register at `a`, views laid over it: a page header, a block register, an MSI-X entry or pending bits
(R322). -/
def regView (s : State) (a : Nat) : Nat :=
  let base := pageBase a
  let off := a % 0x1000
  if isMsix a then
    (if 0x28000 ≤ a then ofBitList ((List.range 32).filter fun i => s.host.pba.contains ((a - 0x28000) / 4 * 32 + i)) else rd s 0 a)
  else
    match kindAt a with
    | none => if off < 0x040 then headerView s base off (rd s 0 a) else 0
    | some k => if off < 0x040 ∧ k ≠ .db then headerView s base off (rd s 0 a) else blockView s k base off

/-! ## Output lands (R513): each follows from the state -/

/-- ALERT_N is low: the fatal state, a Dike state that is not normal, a thermal emergency, a rail failure (R508, R513). -/
def alertLow (s : State) : Bool :=
  bit (rd s 0 (hub Pg.RST Reg.ERR_FATAL)) 31 || s.sec.dike != 0 || s.pwr.emergency || s.boot.railDown || s.boot.latchedRail.isSome

/-- THERMTRIP_N is low: after a thermal trip, until cold reset. -/
def thermtripLow (s : State) : Bool := s.pwr.thermTrip

/-- PD_DONE is high: power may be removed (R510). -/
def pdDoneHigh (s : State) : Bool := s.pwr.pdDone

/-- A register whose read takes a free value. -/
def readsFree (a : Nat) : Bool := a = pwrReg Reg.PWR_EST || a = hub Pg.DK Reg.DK_SENSOR

end Sys2Proof.Machine
end

