-- ==== Sys2Proof/Machine/Registers.lean ====
section
/-!
DEFINITION. Register accesses (21_register_pages.md): what a read returns and clears, what a write changes and starts, the
_LO latches and held _LO writes (R6-R8, R31, R474, R495-R501, R505).
-/

namespace Sys2Proof.Machine

/-! ## Pages and pairs -/

/-- Fields of the register at an address: a header of a guest page, a page of the package's own, or none. -/
def fieldsAt (a : Nat) : List RegField :=
  match kindAt a with
  | some k => k.at_ (a % 0x1000)
  | none => if dieOfAddr a = 6 then headerFields.filter fun f => f.off = a % 0x1000 else []

/-- The copy of the register that its page's select register shows (R501). -/
def copyAt (s : State) (a : Nat) : Nat :=
  match kindAt a with
  | some k => steer s k (pageBase a) (a % 0x1000)
  | none => 0

/-- The register is the _LO of a pair. -/
def isLo (a : Nat) : Bool :=
  match kindAt a with
  | some k => k.loRegs.contains (a % 0x1000)
  | none => false

/-- The register is the _HI of a pair. -/
def isHi (a : Nat) : Bool := decide (4 ≤ a) && isLo (a - 4)

/-- The page's last register lies below the address (R499). -/
def beyondPage (a : Nat) : Bool :=
  match kindAt a with
  | some k => decide (k.lastReg < a % 0x1000)
  | none => false

/-! ## Reads -/

/-- The word a source last latched from a _LO (R500). -/
def latched (s : State) (src : Source) (lo : Nat) : Nat := tget (fun _ => 0) s.latch (regKey (srcLatch src) lo)

/-- A read that reaches its page: the value, and what the read does: RC fields clear, a _LO latches its _HI, a _HI returns
what the source latched (R6-R8, R499, R500). -/
def readReg (s : State) (src : Source) (a : Nat) : State × Nat :=
  let l := fieldsAt a
  if a % 4 ≠ 0 then (synd s src a 0x01, 0)
  else if isMsix a then (s, regView s a)
  else if beyondPage a then (synd s src a 0x03, 0)
  else if l.isEmpty then (s, 0)
  else if isHi a then (s, latched s src (a - 4))
  else
    let v := readMask l (regView s a)
    let i := copyAt s a
    let t := if l.any fun f => f.acc = .rc then wr s i a (clearRc l (rd s i a)) else s
    let t := if isLo a then
        { t with latch := tset (fun _ => 0) t.latch (regKey (srcLatch src) a) (readMask (fieldsAt (a + 4)) (regView s (a + 4))) }
      else t
    let t := if a = hub Pg.ATT Reg.ATT_TOKEN3 then
        let c := fld s 0 (hub Pg.ATT Reg.ATT_SEL) 5 0
        t.setCtx c { t.ctx c with tokenReady := false }
      else t
    (if readsFree a then t.useFree else t, v)

/-- A read by a source: zero where it does not reach its page, ones where the die is in a warm device reset (R474, R499);
none for a guest die's own register. -/
def readAs (s : State) (src : Source) (a : Nat) : Option (State × Nat) :=
  match reachOf s src a with
  | .ok => some (readReg s src a)
  | .silent => some (s, 0)
  | .inReset => some (synd s src a 0x04, 0xFFFFFFFF)
  | .guestDie => none

/-- A read whose completion is lost in transit: the read has been made, its value is gone, and the failed read is recorded for
its reader, a hart or a host port (R275; notes/assumptions/110.md). -/
def readLost (s : State) (src : Source) (a : Nat) : State :=
  let r : ErrEvent := { sev := 2, type := Err.REG_READ_LOST, die := 0, inst := 0, space := 2, addr := a }
  raiseError s (match src with
    | .hart h => { r with die := 1, inst := h }
    | .host p => { r with inst := p }
    | _ => r)

/-- A read row: the value goes to the reader. -/
def readRow (src : Source) (a : Nat) (lost : Bool) (s : State) : Host.Outcome State Fault Refusal :=
  if !okSource src then .fault .noSuchUnit
  else
    match readAs s src a with
    | some (t, v) => .next (if lost then readLost t src a else t.emit (.readValue v))
    | none => .refused .guestRegister

/-- RC_REGISTER_READ (R6). -/
def execRcRegisterRead (src : Source) (r : RegRead) (s : State) : Host.Outcome State Fault Refusal :=
  readRow src r.addr r.lost s

/-- LO_READ_LATCH (R500). -/
def execLoReadLatch (src : Source) (r : RegRead) (s : State) : Host.Outcome State Fault Refusal :=
  readRow src r.addr r.lost s

/-! ## The page header (R497, R505) -/

/-- Bits of the interrupt registers that a page implements. -/
def intMask (base v : Nat) : Nat := v % 2 ^ intBitsAt base

/-- The vector sent again where PG_INT_PEND stays non-zero (R505). -/
def vectorAgain (s : State) (base : Nat) : State := if intPend s base = 0 then s else sendPageVector s base

/-- PG_INT_RAW written: 1s clear. -/
def intRawWrite (s : State) (base v : Nat) : State :=
  let a := base + Reg.PG_INT_RAW
  vectorAgain (wr s 0 a (rd s 0 a &&& (2 ^ 32 - 1 - intMask base v))) base

/-- PG_INT_EN written. -/
def intEnWrite (s : State) (base v : Nat) : State := vectorAgain (wr s 0 (base + Reg.PG_INT_EN) (intMask base v)) base

/-- PG_INT_SET written. -/
def intSetWrite (s : State) (base v : Nat) : State := raiseBits s base (intMask base v)

/-- PG_LOCK.LOCK set; a write of 0 does nothing. -/
def lockWrite (s : State) (base v : Nat) : State := if bit v 0 then setFld s 0 (base + Reg.PG_LOCK) 0 0 1 else s

/-- Base of a page named by die code × 512 + page number. -/
def pageAt (page : Nat) : Nat := page * 0x1000

/-- PG_INT_RAW_WRITE. -/
def execPgIntRawWrite (src : Source) (page value : Nat) (s : State) : Host.Outcome State Fault Refusal :=
  run (okSource src && okPage page) (viaReg s src (pageAt page + Reg.PG_INT_RAW) (intRawWrite s (pageAt page) value))

/-- PG_INT_EN_WRITE. -/
def execPgIntEnWrite (src : Source) (page value : Nat) (s : State) : Host.Outcome State Fault Refusal :=
  run (okSource src && okPage page) (viaReg s src (pageAt page + Reg.PG_INT_EN) (intEnWrite s (pageAt page) value))

/-- PG_INT_SET. -/
def execPgIntSet (src : Source) (page value : Nat) (s : State) : Host.Outcome State Fault Refusal :=
  run (okSource src && okPage page) (viaReg s src (pageAt page + Reg.PG_INT_SET) (intSetWrite s (pageAt page) value))

/-- PG_LOCK. -/
def execPgLock (src : Source) (page : Nat) (s : State) : Host.Outcome State Fault Refusal :=
  run (okSource src && okPage page) (viaReg s src (pageAt page + Reg.PG_LOCK) (lockWrite s (pageAt page) 1))

/-! ## Counters of a page -/

/-- Aligned offsets from one register to another. -/
def offsets (first last : Nat) : List Nat := (List.range ((last - first) / 4 + 1)).map fun i => first + 4 * i

/-- The counters that a page's CNT_CLEAR zeroes, by offset (R116, R135, R155, R201, R254, R255, R299, R340, R372, R413). -/
def counterOffs : PageKind → List Nat
  | .mxe => offsets Reg.MXE_OP_CNT_LO Reg.MXE_SAT_OUT
  | .vxe => offsets Reg.VXE_OP_CNT_LO Reg.VXE_SAT_OUT
  | .mtu => offsets Reg.MTU_REQ_CNT_LO Reg.MTU_NAN
  | .ste => [Reg.STE_STALE_CNT, Reg.STE_NACK_RX, Reg.STE_FLUSH_CNT, Reg.STE_BYTES_LO, Reg.STE_BYTES_HI]
  | .flc => offsets Reg.FLC_RD_HIT_LO Reg.FLC_POCKET_DROP
  | .coh => offsets Reg.COH_BCAST Reg.COH_SNP_TIMEOUT
  | .xlt => offsets Reg.XLT_HIT_LO Reg.XLT_INV
  | .hp => offsets Reg.HP_RESETS Reg.HP_BISNP
  | .lk => offsets Reg.LK_FEC Reg.LK_RX_HI
  | .pwr => [Reg.PWR_DROOP, Reg.PWR_EMERG_PREEMPT]
  | _ => []

/-- CNT_CLEAR of a page: every counter on it is zero; a field beside a counter keeps its value. -/
def cntClear (s : State) (base : Nat) : State :=
  match kindAt base with
  | none => s
  | some k =>
    (counterOffs k).foldl (fun s off =>
      let l := k.at_ off
      wr s 0 (base + off) (if l.any fun f => f.acc = .rc then clearRc l (rd s 0 (base + off)) else 0)) s

/-- CNT_CLEAR. -/
def execCntClear (src : Source) (page : Nat) (s : State) : Host.Outcome State Fault Refusal :=
  run (okSource src && okPage page) (viaReg s src (pageAt page + 0x040) (cntClear s (pageAt page)))

/-! ## The error ring (R484) -/

/-- ERR_RING_CONS written, under the rule of FQ_CONSUMED (R297). -/
def ringConsWrite (s : State) (v : Nat) : State :=
  let a := rstReg Reg.ERR_RING_CONS
  let old := rd s 0 a
  let prod := rd s 0 (rstReg Reg.ERR_RING_PROD)
  let step := (v % 2 ^ 32 + 2 ^ 32 - old) % 2 ^ 32
  if 0 < step ∧ step ≤ (prod + 2 ^ 32 - old) % 2 ^ 32 then wr s 0 a v else s

/-- ERR_RING_CONS. -/
def execErrRingCons (src : Source) (value : Nat) (s : State) : Host.Outcome State Fault Refusal :=
  run (okSource src) (viaReg s src (rstReg Reg.ERR_RING_CONS) (ringConsWrite s value))

/-! ## What a write starts -/

/-- Mailbox operations by OP (R437). -/
def mbxOp (src : Source) (op : Nat) : State → State :=
  match op with
  | 0x01 => mbxRead | 0x02 => mbxList | 0x03 => mbxLogRead | 0x04 => mbxSweep | 0x05 => mbxTrain | 0x06 => mbxWays
  | 0x07 => mbxCancel | 0x08 => mbxNote | 0x09 => mbxSync | 0x10 => mbxStage | 0x11 => mbxPolicy | 0x12 => mbxKeyMap src
  | 0x13 => mbxKeyWrap src | 0x14 => mbxKeyLoad src | 0x15 => mbxChallenge | 0x16 => mbxUnlock | 0x17 => mbxEnrol
  | 0x18 => mbxRevoke | 0x19 => mbxCert | 0x1A => mbxSvn | 0x1B => mbxFloor | 0x1C => mbxDikeTest
  | _ => fun s => mbxEnd s MbxRes.BAD_OP

/-- PLD_MBX_CMD written with GO (R437, R438); in ROM service only READ, LIST and LOG_READ are answered (R444). -/
def mbxWrite (s : State) (src : Source) (v : Nat) : State :=
  let s := if bit v 30 then setFld s 0 (pldReg Reg.PLD_MBX_CMD) 30 30 0 else s
  if s.boot.romService ∧ 3 < bits v 7 0 then s else mbxGo s src (bits v 7 0) (mbxOp src (bits v 7 0))

/-- RST_CMD written with GO, its DIE and CLUSTER taken (R475, R492). -/
def rstGo (s : State) (src : Source) (v : Nat) : State :=
  match bits v 26 24 with
  | 1 => warmGo s
  | 2 => blockGo s [] [] true []
  | 3 => coldGo s src
  | _ => setFld s 0 (rstReg Reg.RST_CMD) 3 0 2

/-- What a write to a hub page starts, once its fields have been written. -/
def hubEffect (s : State) (src : Source) (k : PageKind) (base off v : Nat) : State :=
  let go := bit v 31
  match k with
  | .ctxm => if off = Reg.CTXM_CMD ∧ go then ctxmGo s src (bits v 3 0) (bits v 13 8) else s
  | .cic =>
    if off = Reg.CIC_TMR_CTL then fireTimer s (fld s 0 (tmr Reg.CIC_TMR_SEL) 2 0)
    else if off = Reg.CIC_WDT_KICK then wdtRestart s else s
  | .xlc => if off = Reg.XLC_INV_CTL ∧ go then xlcGo s v else s
  | .hp => if off = Reg.HP_CTL ∧ bit v 2 then cntClear s base else s
  | .att =>
    if off = Reg.ATT_COH then (if bit v 0 then fullReq s else if bit v 1 then beginSweep s else s)
    else if off = Reg.ATT_CMD ∧ go then (if bits v 3 0 = 1 then reclaim s else reclaimResult s 3) else s
  | .mch =>
    if off = Reg.MCH_PART_CMD ∧ go then
      (match bits v 3 0 with
       | 1 => teardown s
       | 2 => setPartition s
       | _ => s)
    else if off = Reg.MCH_JOB_CTL ∧ go then
      (match bits v 30 28 with
       | 1 => jobPrepare s
       | 2 => expectJob s
       | 3 => cancelJob s
       | _ => s)
    else s
  | .mir =>
    if off = Reg.MIR_CMD ∧ go then
      (match bits v 3 0 with
       | 1 => formGo s none
       | 2 => dissolvePair s
       | 3 => resyncGo s
       | _ => mirResult s MirRes.STATE)
    else if off = Reg.MIR_WITNESS then
      (match bits v 31 30 with
       | 1 => grantGo s (bits v 15 0)
       | 2 => yieldGo s (bits v 15 0)
       | _ => s)
    else s
  | .pwr =>
    if off = Reg.PWR_CTL then
      let s := if bit v 1 then cntClear s base else s
      if bit v 0 then setFld s 0 (pwrReg Reg.PWR_CTL) 0 0 1 else s
    else if off = Reg.PWR_CAP then setFld s 0 (pwrReg Reg.PWR_CAP_EFF) 15 0 (effCap s)
    else if off = Reg.PWR_CTX_BUDGET_HI then budgetRaised s (fld s 0 (pwrReg Reg.PWR_CTX_SEL) 5 0)
    else s
  | .rst => if off = Reg.RST_CMD ∧ go then rstGo s src v else s
  | _ => s

/-- CSEQ_CTL written (R74). -/
def cseqCtl (s : State) (cell v : Nat) : State :=
  let s := s.setCell cell { s.cell cell with dbgHold := bit v 0 }
  let s := if bit v 1 then haltReq s cell else s
  if bit v 2 then stepCell s cell else s

/-- LK_CTL written (R351, R372): `was` is DISABLE before. -/
def lkCtl (s : State) (base l v : Nat) (was : Bool) : State :=
  let s := if bit v 3 then cntClear s base else s
  let s := if bit v 0 = was then s else setDisable s l (bit v 0)
  if bit v 1 then retrain s l else s

/-- What a write to a page of another die starts, once its fields have been written; `old` is the register before. -/
def dieEffect (s : State) (k : PageKind) (base off old v : Nat) : State :=
  let die := base / 0x200000
  let page := base / 0x1000 % 512
  let clear (i : Nat) : State := if bit v i then cntClear s base else s
  match k with
  | .core => if off = Reg.CORE_RUN_CTL ∧ bit v 31 then coreRun s else s
  | .xlt | .ste | .mtu => if off = 0x040 then clear 1 else s
  | .mxe | .vxe => if off = 0x040 then clear 2 else s
  | .flc =>
    if off = Reg.FLC_CTL then
      let s := clear 1
      if bit v 3 then flcClear s (die - 2) else s
    else s
  | .coh => if off = Reg.COH_CTL then clear 1 else if off = Reg.COH_PROBE ∧ bit v 31 then cohProbe s (die - 2) else s
  | .cseq => if off = Reg.CSEQ_CTL then cseqCtl s (40 * (die - 8) + (page - 0x10)) v else s
  | .lx => if off = Reg.LX_TRN_CTL ∧ bit v 0 then trnDefault s (die - 16) else s
  | .lk => if off = Reg.LK_CTL then lkCtl s base (24 * (die - 16) + (page - 0x10)) v (bit old 0) else s
  | .tgen =>
    if off = Reg.TGEN_CTL then
      let s := if bit v 31 then tgenStart s (die - 24) v else s
      if bit v 30 then tgenStop s (die - 24) else s
    else s
  | _ => s

/-! ## Writes -/

/-- A register of the mirror page holds its configuration (R392). -/
def mirFixed (s : State) (off : Nat) : Bool :=
  s.mir.st != 0 && (decide (Reg.MIR_PARTNER ≤ off ∧ off ≤ Reg.MIR_TWIN2) || off == Reg.MIR_REG_BASE || off == Reg.MIR_REG_SIZE
    || off == Reg.MIR_CTX_LO || off == Reg.MIR_CTX_HI)

/-- MIR_CTL written (R380, R392): outside state unpaired only MODE_ASYNC changes; leaving asynchronous mode waits for the
open copies. -/
def mirCtlWrite (s : State) (old v : Nat) : State :=
  let a := hub Pg.MIR Reg.MIR_CTL
  let s := if s.mir.st ≠ 0 then setFld s 0 a 30 30 (bits v 30 30) else wr s 0 a (writeFields (PageKind.mir.at_ Reg.MIR_CTL) false old v)
  if bit old 30 ∧ !bit v 30 ∧ !(dataCopies s).isEmpty then { s with mir := { s.mir with asyncHeld := true } } else s

/-- A doorbell-page register written (R46, R50, R297). -/
def dbWrite (s : State) (src : Source) (ctx off v : Nat) : State :=
  let c := s.ctx ctx
  if off = Reg.CQ_DOORBELL then doorbell s src ctx v
  else if off = Reg.CQ_RESUME then resumeQueue s ctx v
  else if off = Reg.FQ_CONSUMED then consumeFq s ctx v
  else if off = Reg.FQ_RESP then answerTag s ctx v
  else if off = Reg.CQ_STATUS then s.setCtx ctx { c with dbBad := c.dbBad && !bit v 30 }
  else if off = Reg.FQ_STATUS then
    s.setCtx ctx { c with
      fqQueueFull := c.fqQueueFull && !bit v 29, fqNorec := c.fqNorec && !bit v 28,
      fqRespBad := c.fqRespBad && !bit v 27, fqConsBad := c.fqConsBad && !bit v 26 }
  else s

/-- An MSI-X table entry written; the PBA is read-only (R322). -/
def msixWrite (s : State) (a v : Nat) : State :=
  if 0x28000 ≤ a then s else wr s 0 a (if a % 16 = 12 then v % 2 else v)

/-- A page-header register written (R497). -/
def headerWrite (s : State) (base off v : Nat) : State :=
  if off = Reg.PG_INT_RAW then intRawWrite s base v
  else if off = Reg.PG_INT_EN then intEnWrite s base v
  else if off = Reg.PG_INT_SET then intSetWrite s base v
  else if off = Reg.PG_LOCK then lockWrite s base v
  else s

/-- A register whose write has a rule of its own. -/
def ownWrite (s : State) (src : Source) (k : PageKind) (off old v : Nat) : Option State :=
  match k with
  | .cic => if off = Reg.CIC_WDT_CTL then some (wdtWrite s src v) else none
  | .slu =>
    if off = Reg.SLU_SHARE_CTL then some (writeShare s v) else if off = Reg.SLU_MAINT then some (writeMaint s v) else none
  | .mch => if off = Reg.MCH_DEV_ID then some (devIdWrite s src v) else none
  | .rst => if off = Reg.ERR_RING_CONS then some (ringConsWrite s v) else none
  | .pld => if off = Reg.PLD_MBX_CMD ∧ bit v 31 then some (mbxWrite s src v) else none
  | .mir => if mirFixed s off then some s else if off = Reg.MIR_CTL then some (mirCtlWrite s old v) else none
  | _ => none

/-- A register's fields written: RWL fields of a locked page keep their value, and a change asked for is recorded (R6,
R499). -/
def fieldWrite (s : State) (src : Source) (a v : Nat) : State :=
  let l := fieldsAt a
  let i := copyAt s a
  let old := rd s i a
  let locked := pageLocked s a
  let t := wr s i a (writeFields l locked old v)
  if changesLocked l locked old v then synd t src a 0x02 else t

/-- The state with a source's _LO write held (R500). -/
def holdLo (s : State) (src : Source) (a v : Nat) : State :=
  { s with heldLo := tset (fun _ => 0) s.heldLo (regKey (srcLatch src) a) (v % 2 ^ 32 + 1) }

/-- What follows the write of a block register. -/
def effectAt (s : State) (src : Source) (a old v : Nat) : State :=
  match kindAt a with
  | none => s
  | some k =>
    if dieOfAddr a = 0 then hubEffect s src k (pageBase a) (a % 0x1000) v
    else dieEffect s k (pageBase a) (a % 0x1000) old v

/-- A write of _HI: the source's held _LO write takes effect with it; without one the low word keeps its value (R500). The
timer's pair fires an armed timer that the count has passed (R170). -/
def hiWrite (s : State) (src : Source) (a v : Nat) : State :=
  let old := rd s (copyAt s a) a
  let fixed : Bool := match kindAt a with
    | some .mir => mirFixed s (a % 0x1000)
    | _ => false
  if fixed then dropHeldLo s src (a - 4)
  else
    let t := match heldLoOf s src (a - 4) with
      | some lo => fieldWrite (dropHeldLo s src (a - 4)) src (a - 4) lo
      | none => s
    let t := fieldWrite t src a v
    if a = tmr Reg.CIC_TMR_CMP_HI then fireTimer t (fld t 0 (tmr Reg.CIC_TMR_SEL) 2 0) else effectAt t src a old v

/-- A write that reaches its page (R6, R7, R499, R500). -/
def writeReg (s : State) (src : Source) (a v : Nat) : State :=
  let v := v % 2 ^ 32
  if a % 4 ≠ 0 then synd s src a 0x01
  else if isMsix a then msixWrite s a v
  else if beyondPage a then synd s src a 0x03
  else if (fieldsAt a).isEmpty then (if v = 0 then s else synd s src a 0x03)
  else if isDoorbell a then dbWrite s src (a / 0x1000 % 64) (a % 0x1000) v
  else if a % 0x1000 < 0x040 then headerWrite s (pageBase a) (a % 0x1000) v
  else if isLo a then holdLo s src a v
  else if isHi a then hiWrite s src a v
  else
    match kindAt a with
    | none => s
    | some k =>
      let old := rd s (copyAt s a) a
      match ownWrite s src k (a % 0x1000) old v with
      | some t => t
      | none => effectAt (fieldWrite s src a v) src a old v

/-- A write by a source: discarded where it does not reach its page (R474, R499); none for a guest die's own register. -/
def writeAs (s : State) (src : Source) (a v : Nat) : Option State :=
  match writeReach s src a with
  | .ok => some (writeReg s src a v)
  | .silent => some s
  | .inReset => some (synd s src a 0x04)
  | .guestDie => none

/-- A write row. -/
def writeRow (src : Source) (a v : Nat) (s : State) : Host.Outcome State Fault Refusal :=
  if !okSource src then .fault .noSuchUnit
  else
    match writeAs s src a v with
    | some t => .next t
    | none => .refused .guestRegister

/-- HI_WRITE (R500). -/
def execHiWrite (src : Source) (addr value : Nat) (s : State) : Host.Outcome State Fault Refusal := writeRow src addr value s

/-- REGISTER_WRITE (R499). A register that has a row of its own does what its row does. -/
def execRegisterWrite (src : Source) (addr value : Nat) (s : State) : Host.Outcome State Fault Refusal := writeRow src addr value s

end Sys2Proof.Machine
end

