-- ==== Sys2Proof/Machine/Harts.lean ====
section
/-!
DEFINITION. The rows of the harts (11_ordering.md, 13_core_die.md): accesses by region, fences, the custom instructions,
cache-block management, LR, SC and AMO, and waits (R256-R260, R268-R270, R303-R312). An address operand is a physical
address; a hart's own page tables and its CSRs have no row (NOTES.md, Scope).
-/

namespace Sys2Proof.Machine

/-! ## Registers and running -/

/-- Integer register of a hart; x0 reads zero. -/
def xreg (s : State) (h r : Nat) : Nat := if r = 0 then 0 else tget (fun _ => 0) (s.hart h).xregs r

/-- The state with an integer register written; x0 discards it. -/
def setX (s : State) (h r v : Nat) : State :=
  if r = 0 then s else s.setHart h { s.hart h with xregs := tset (fun _ => 0) (s.hart h).xregs r (v % 2 ^ 64) }

/-- A hart executes: started, not waiting, its cluster online and clocked, and no reset or fatal state stands (R312, R316). -/
def hartRuns (s : State) (h : Nat) : Bool :=
  (s.hart h).running && (s.hart h).wait == .none && !bit s.core.offline (clusterOf h) && !clockStopped s 1 2 (clusterOf h)
    && !s.boot.fatal && !s.boot.warmBusy && !s.offline 1

/-- A row of a hart instruction: a hart that does not execute does nothing. -/
def hartRow (s : State) (h : Nat) (t : State) : State := if hartRuns s h then t else s

/-- A row of a hart's access: it waits while a fence holds accesses of its kinds back (R258, R259). -/
def accessRow (s : State) (h need : Nat) (f : State → State) : State :=
  hartRow s h (let s := tryFence s h; if fenceHolds s h need then s else f s)

/-- A value of `n` bytes sign-extended to 64 bits. -/
def sext (n v : Nat) : Nat := ofSigned 64 (toSigned (8 * n) v)

/-! ## Where an address leads (R305) -/

/-- What a hart's physical address names. -/
inductive HartDest where
  /-- Main memory: pieces of device memory, or of host memory by 2^64 + host address. -/
  | main (l : List (Nat × Nat))
  /-- A peer device behind the host: host I/O address, and host address after its IOMMU. -/
  | peer (io addr : Nat)
  /-- A register or doorbell page: address as BAR0 and BAR4 have it. -/
  | reg (addr : Nat)
  /-- A host I/O address that ATS has not translated yet. -/
  | ats (addr : Nat)
  | bad
  deriving DecidableEq, Repr

/-- The host's translation of a page for a hart, by its partition (R282, R305, R307). -/
def hartXlt (s : State) (h addr : Nat) (write : Bool) : Option Nat :=
  (heldHost s 1 (hartPart s h) addr write).map fun t => t.pa + addr % 4096

/-- The pieces of a range of host memory, page by page; none at its first page without a translation. -/
def hartPages (s : State) (h : Nat) (write : Bool) : List (Nat × Nat) → Except Nat (List (Nat × Nat))
  | [] => .ok []
  | (va, n) :: rest =>
    match hartXlt s h va write with
    | none => .error va
    | some pa =>
      match hartPages s h write rest with
      | .ok l => .ok ((2 ^ 64 + pa, n) :: l)
      | .error e => .error e

/-- The region of an address, and what it names (R305). -/
def hartDest (s : State) (h addr n : Nat) (write : Bool) : HartDest :=
  let low := addr % 2 ^ 52
  let region := addr / 2 ^ 52
  if region = 0 then (if low + n ≤ poolBytes then .main [(low, n)] else .bad)
  else if region = 8 then
    match hartPages s h write (pagesOf low n) with
    | .ok l => .main l
    | .error a => .ats a
  else if region = 9 then
    match hartXlt s h low write with
    | some pa => .peer low pa
    | none => .ats low
  else if region = 0xF then (if low < 0x4040000 then .reg low else .bad)
  else .bad

/-- A hart's access waits for the host's translation (R282, R305): asked for once; without a port in service it fails at once
(R309). `kind` is 0 for a load, 1 for a fetch, 2 for a store. -/
def hartAts (s : State) (h addr kind : Nat) : State :=
  let req : Requester :=
    { source := 5, ctx := hartPart s h, unit := 1, handle := 0, cell := 0xFFFF, track := h, seq := kind }
  if (hostPort s 3 addr).isNone then
    (if kind = 2 then hostDiscard s h (2 ^ 64 + addr)
     else hartTrap s h (if kind = 1 then Trap.FETCH_FAULT else Trap.LOAD_FAULT) addr)
  else if s.xlt.atsWait.any (·.req = req) then s
  else askXlt s req addr (kind == 2)

/-! ## Loads, stores and fetches (R256, R257, R305, R308, R309) -/

/-- A buffered store of the hart overlaps a range. -/
def storeAhead (s : State) (h a n : Nat) : Bool :=
  (s.hart h).buffer.any fun b => decide (b.addr < a + n ∧ a < b.addr + b.data.length)

/-- Every piece is held by the hart's cluster. -/
def holdsAll (s : State) (h : Nat) (own : Bool) (l : List (Nat × Nat)) : Bool := l.all fun p => holdsRange s h own p.1 p.2

/-- The pieces' lines asked for. -/
def askAll (s : State) (h : Nat) (own : Bool) (l : List (Nat × Nat)) : State := l.foldl (fun s p => askRange s h own p.1 p.2) s

/-- Some piece lies in host memory that cannot be reached and is not held (R309). -/
def cutAny (s : State) (h : Nat) (own : Bool) (l : List (Nat × Nat)) : Bool := l.any fun p => rangeCut s h own p.1 p.2

/-- The pieces' bytes. -/
def bytesAll (s : State) (h : Nat) (l : List (Nat × Nat)) : List Byte := l.flatMap fun p => heldBytes s h p.1 p.2

/-- A load from main memory: it waits for its lines and for the hart's own earlier stores to them; poison raises cause 19. -/
def loadMain (s : State) (h addr rd : Nat) (l : List (Nat × Nat)) : State :=
  let s := drainHart s h
  if l.any fun p => storeAhead s h p.1 p.2 then s
  else if cutAny s h false l then hartTrap s h Trap.LOAD_FAULT addr
  else
    let s := askAll s h false l
    if !holdsAll s h false l then s
    else if l.any fun p => heldPoison s h p.1 p.2 then hartPoison s h addr
    else setX s h rd (leNat (bytesAll s h l))

/-- An instruction fetch from main memory: its lines are filled; poison raises cause 19. -/
def fetchMain (s : State) (h addr : Nat) (l : List (Nat × Nat)) : State :=
  if cutAny s h false l then hartTrap s h Trap.FETCH_FAULT addr
  else
    let s := askAll s h false l
    if !holdsAll s h false l then s
    else if l.any fun p => heldPoison s h p.1 p.2 then hartPoison s h addr
    else s

/-- The stores of a range's pieces, in address order. -/
def piecesOf : List (Nat × Nat) → List Byte → List BufStore
  | [], _ => []
  | (a, n) :: l, data => ⟨a, data.take n⟩ :: piecesOf l (data.drop n)

/-- A store to main memory: it enters the store buffer, which drains as far as it can (R256, R273). -/
def storeMain (s : State) (h : Nat) (l : List (Nat × Nat)) (data : List Byte) : State :=
  drainHart (s.setHart h { s.hart h with buffer := (s.hart h).buffer ++ piecesOf l data }) h

/-- Bytes that a peer device returns: a free value (notes/assumptions/10.md). -/
def peerValue (s : State) (n : Nat) : Nat := leNat ((List.range n).map fun i => Config.freeByte s.free i)

/-- A load from a peer device (R305, R309). -/
def loadPeer (s : State) (h addr rd n io pa : Nat) : State :=
  match hostPort s 3 io with
  | none => hartTrap s h Trap.LOAD_FAULT addr
  | some p => setX ((s.useFree).emit (.hostRead p pa n)) h rd (peerValue s n)

/-- A store to a peer device (R305, R309). -/
def storePeer (s : State) (h io pa : Nat) (data : List Byte) : State :=
  match hostPort s 3 io with
  | none => hostDiscard s h (2 ^ 64 + pa)
  | some p => noteWrite (toHost s p pa data false) (.hart h) 0 p pa (earlyAck s 0 2 pa)

/-- Some piece lies in host memory, and no port is in service (R309). -/
def noHost (s : State) (l : List (Nat × Nat)) : Bool := l.any fun p => decide (2 ^ 64 ≤ p.1) && (hostPort s 3 (p.1 % 2 ^ 64)).isNone

/-- An uncached load of a piece: from device memory as an uncached read at its homes, in the hart's partition; from host memory its bytes
come from the host (R242, R304, R307; notes/assumptions/10.md). -/
def loadPiece (q : State × List Byte) (part : Nat) (p : Nat × Nat) : State × List Byte :=
  let s := q.1
  if p.1 < 2 ^ 64 then
    let s := readRange s p.1 p.2 true (some part)
    (s, q.2 ++ devBytes s p.1 p.2)
  else
    let a := p.1 - 2 ^ 64
    ((s.useFree).emit (.hostRead ((hostPort s 3 a).getD 0) a p.2), q.2 ++ (List.range p.2).map (Config.freeByte s.free))

/-- A load from an uncached page of main memory (R304): it waits for the hart's own earlier stores to it, and brings no line into the
cluster. -/
def loadUncached (s : State) (h addr rd : Nat) (l : List (Nat × Nat)) : State :=
  let s := drainHart s h
  if l.any fun p => storeAhead s h p.1 p.2 then s
  else if noHost s l then hartTrap s h Trap.LOAD_FAULT addr
  else if l.any fun p => decide (p.1 < 2 ^ 64) && devPoison s p.1 p.2 then hartPoison s h addr
  else
    let r := l.foldl (fun q p => loadPiece q (hartPart s h) p) (s, [])
    setX r.1 h rd (leNat r.2)

/-- An uncached store of a piece: to device memory accepted at its homes; to host memory taken by a port (R256, R304). -/
def storePiece (s : State) (h : Nat) (a : Nat) (data : List Byte) : State :=
  if a < 2 ^ 64 then devWrite s .hart a data
  else
    let pa := a - 2 ^ 64
    let p := (hostPort s 3 pa).getD 0
    noteWrite (toHost s p pa data false) (.hart h) 1 p pa (earlyAck s 0 1 pa)

/-- A store to an uncached page of main memory (R304): behind the hart's own earlier stores to it, and not before each home accepts it. Less
than a whole poisoned code word is not written over (R308). -/
def storeUncached (s : State) (h addr : Nat) (l : List (Nat × Nat)) (data : List Byte) : State :=
  let s := drainHart s h
  let bad (p : Nat × Nat) : Bool := decide (p.1 < 2 ^ 64) && (wordsOf p.1 p.2).any fun w =>
    devPoison s w 1 && !(decide (p.1 ≤ w / 32 * 32 ∧ w / 32 * 32 + 32 ≤ p.1 + p.2))
  if l.any fun p => storeAhead s h p.1 p.2 then s
  else if noHost s l then hostDiscard s h ((l.head?.map Prod.fst).getD 0)
  else if l.any fun p => decide (p.1 < 2 ^ 64) && writeHeld s .hart p.1 p.2 then s
  else if l.any bad then hartPoison s h addr
  else (piecesOf l data).foldl (fun s b => storePiece s h b.addr b.data) s

/-- Kinds of an access for a fence (R258): main memory in R and W, the I/O regions in I and O. -/
def needOf (addr : Nat) (write : Bool) : Nat :=
  let io : Bool := addr / 2 ^ 52 = 9 || addr / 2 ^ 52 = 0xF
  if io then (if write then 4 else 8) else (if write then 1 else 2)

/-- A register read whose completion is lost in transit: the read has been made, its value is gone, the failed read is recorded,
and the load faults (R275; notes/assumptions/110.md). -/
def lostRead (s : State) (h addr : Nat) : State :=
  raiseError (hartTrap s h Trap.LOAD_FAULT addr) { sev := 2, type := Err.REG_READ_LOST, die := 1, inst := h, space := 2, addr := addr % 2 ^ 52 }

/-- A hart's load; `lost` says of a register read that its completion is lost. -/
def hartLoad (s : State) (h addr n rd : Nat) (nc lost : Bool) : Host.Outcome State Fault Refusal :=
  match hartDest s h addr n false with
  | .main l => .next (if nc then loadUncached s h addr rd l else loadMain s h addr rd l)
  | .peer io pa => .next (loadPeer s h addr rd n io pa)
  | .reg a =>
    match readAs s (.hart h) (if n = 4 then a else a / 4 * 4 + 1) with
    | some (t, v) => .next (if lost then lostRead t h addr else setX t h rd v)
    | none => .refused .guestRegister
  | .ats a => .next (hartAts s h a 0)
  | .bad => .next (hartTrap s h Trap.LOAD_FAULT addr)

/-- A hart's store. -/
def hartStore (s : State) (h addr : Nat) (data : List Byte) (nc : Bool) : Host.Outcome State Fault Refusal :=
  match hartDest s h addr data.length true with
  | .main l => .next (if nc then storeUncached s h addr l data else storeMain s h l data)
  | .peer io pa => .next (storePeer s h io pa data)
  | .reg a =>
    match writeAs s (.hart h) (if data.length = 4 then a else a / 4 * 4 + 1) (leNat data) with
    | some t => .next t
    | none => .refused .guestRegister
  | .ats a => .next (hartAts s h a 2)
  | .bad => .next (hartTrap s h Trap.STORE_FAULT addr)

/-- A hart's fetch of four bytes. -/
def hartFetch (s : State) (h addr : Nat) : State :=
  match hartDest s h addr 4 false with
  | .main l => fetchMain s h addr l
  | .ats a => hartAts s h a 1
  | .peer _ _ | .reg _ | .bad => hartTrap s h Trap.FETCH_FAULT addr

/-- HART_ACCESS (R257). -/
def execHartAccess (hart : Nat) (a : HartAcc) (s : State) : Host.Outcome State Fault Refusal :=
  if !(okHart hart && okHartAcc a) then .fault .noSuchUnit
  else if !hartRuns s hart then .next s
  else
    let s := tryFence s hart
    match a with
    | .load addr size rd nc lost => if fenceHolds s hart (needOf addr false) then .next s else hartLoad s hart addr size rd nc lost
    | .store addr data nc => if fenceHolds s hart (needOf addr true) then .next s else hartStore s hart addr data nc
    | .fetch addr => .next (hartFetch s hart addr)

/-! ## Fences and custom instructions (R258-R260, R310, R311) -/

/-- HART_FENCE: PRED and SUCC have I in bit 3, O in bit 2, R in bit 1, W in bit 0. Loads complete in their own step, so what a
fence waits for are the stores of the buffer and writes to peer devices; it waits for an earlier fence too. -/
def execHartFence (hart pred succ : Nat) (s : State) : Host.Outcome State Fault Refusal :=
  run (okHart hart) (accessRow s hart 15 fun s =>
    if (s.hart hart).fence.isSome then s
    else
      let stores := if bit pred 0 then (s.hart hart).buffer.length else 0
      beginFence s hart
        { stores := stores, writes := if bit pred 2 then s.host.nextWrite else 0, uncached := if bit pred 0 then s.host.nextWrite else 0,
          succ := succ % 16, drain := false })

/-- DRAIN (R259): every earlier access performed; what a host port has taken is read back. -/
def execDrain (hart : Nat) (s : State) : Host.Outcome State Fault Refusal :=
  run (okHart hart) (accessRow s hart 15 fun s =>
    if (s.hart hart).fence.isSome then s
    else
      let s := readBacks s fun w => w.who == .hart hart
      beginFence s hart { stores := (s.hart hart).buffer.length, writes := s.host.nextWrite, uncached := s.host.nextWrite, succ := 15, drain := true })

/-- CCNT (R310). -/
def execCcnt (hart rd : Nat) (s : State) : Host.Outcome State Fault Refusal :=
  run (okHart hart && okReg rd) (hartRow s hart (setX s hart rd (replica s (Rep.cluster (clusterOf hart)))))

/-- CDB's status for a command queue: 0 ACCEPTED, 1 IGNORED, 2 DENIED (R46, R311). -/
def cdbQueueStatus (s : State) (h ctx value : Nat) : Nat :=
  let c := s.ctx ctx
  let v := value % 2 ^ 32
  let step := (v + 2 ^ 32 - c.producer) % 2 ^ 32
  let room := 2 ^ c.desc.cqLog2 - (c.producer + 2 ^ 32 - c.consumer) % 2 ^ 32
  let masked : Bool := decide ((s.hart h).priv < 3) && !bit (rd64 s h (coreReg Reg.CORE_DB_MASK_LO)) ctx
  if !c.live ∨ masked then 2 else if step ≤ room then 0 else 1

/-- A stream that CDB may ring: a current handle of a stream with a CORE source that names this hart (R311). -/
def cdbStream (s : State) (h handle : Nat) : Bool :=
  let x := s.stream (handle % 2 ^ 18)
  currentHandle s handle && x.src.kind == Kind.CORE && x.src.unit == h

/-- CDB (R311), after a FENCE w,o: the ring is taken, ignored or refused, and its status goes to rd; it waits while an earlier
store is not accepted, or an uncached one not acknowledged. -/
def cellDoorbell (s : State) (h rd target value : Nat) : State :=
  let s := drainHart s h
  let t := target % 2 ^ 32
  let answer (s : State) (st : Nat) : State := (setX s h rd st).emit (.status h st)
  if !(s.hart h).buffer.isEmpty ∨ (s.host.unread.any fun w => w.who == .hart h && w.op == 1 && !w.early) then s
  else if bits target 62 32 ≠ 0 then answer s 3
  else if bit target 63 then
    (if value ≠ 0 ∨ !cdbStream s h t then answer s 3 else answer (corePoll s (t % 2 ^ 18)) 0)
  else if 64 ≤ t then answer s 3
  else
    let st := cdbQueueStatus s h t value
    answer (if st = 2 then s else ringDoorbell s t value true) st

/-- CDB. -/
def execCdb (hart rd rs1 rs2 : Nat) (s : State) : Host.Outcome State Fault Refusal :=
  run (okHart hart && okReg rd && okReg rs1 && okReg rs2)
    (accessRow s hart 4 fun s => cellDoorbell s hart rd (xreg s hart rs1) (xreg s hart rs2))

/-! ## Cache-block management (R303) -/

/-- The line of a cache-block address, where it lies in main memory. -/
def blockDest (s : State) (h addr : Nat) (write : Bool) : HartDest := hartDest s h (addr / 64 * 64) 64 write

/-- A cache-block instruction: on main memory it acts; elsewhere it finds no line; an address that names nothing raises a
store access fault. -/
def blockOp (s : State) (h addr : Nat) (f : State → Nat → State) : State :=
  let s := drainHart s h
  match blockDest s h addr true with
  | .main l => f s ((l.head?.map Prod.fst).getD 0 / 64)
  | .ats a => hartAts s h a 2
  | .bad => hartTrap s h Trap.STORE_FAULT addr
  | .peer _ _ | .reg _ => s

/-- CBO_CLEAN. -/
def execCboClean (hart addr : Nat) (s : State) : Host.Outcome State Fault Refusal :=
  run (okHart hart) (accessRow s hart 3 fun s => blockOp s hart addr fun s line => cleanLine s (clusterOf hart) line)

/-- A cluster's line dropped, written back first where it is in M (R303). -/
def flushLine (s : State) (c line : Nat) : State :=
  let s := settle s [line]
  let s := if (agentLine s c line).st = .m then agentGets s .wb c line none else s
  if (agentLine s c line).st = .i then s else loseClusterResv (setLine s c line AgentLine.none_) c line

/-- CBO_FLUSH, and CBO.INVAL, which is performed as it. -/
def execCboFlush (hart addr : Nat) (s : State) : Host.Outcome State Fault Refusal :=
  run (okHart hart) (accessRow s hart 3 fun s => blockOp s hart addr fun s line => flushLine s (clusterOf hart) line)

/-- CBO_ZERO: the line is obtained in M and zeroed, as a store of 64 bytes. -/
def execCboZero (hart addr : Nat) (s : State) : Host.Outcome State Fault Refusal :=
  run (okHart hart)
    (accessRow s hart 1 fun s => blockOp s hart addr fun s line => storeMain s hart [(line * 64, 64)] (List.replicate 64 0))

/-- PREFETCH.R and PREFETCH.W: into the L2 on a hit in the floor cache, else, where the L2 does not hold the line, a pocket
prefetch (R231, R303). -/
def prefetchHint (s : State) (h addr : Nat) (write : Bool) : State :=
  match blockDest s h addr write with
  | .main l =>
    let line := (l.head?.map Prod.fst).getD 0 / 64
    if isHostLine line then s
    else if flcHas s line then askLine s h line write
    else if holdsLine s (clusterOf h) line false then s
    else prefetchLine s (some (hartPart s h)) line
  | _ => s

/-- PREFETCH_R_W. -/
def execPrefetchRW (hart addr : Nat) (write : Bool) (s : State) : Host.Outcome State Fault Refusal :=
  run (okHart hart) (hartRow s hart (prefetchHint s hart addr write))

/-! ## LR, SC and AMO (R257, R268-R270) -/

/-- An atomic access: misaligned, to an I/O region or to no region, it raises its exception; to main memory it acts. -/
def atomicOp (s : State) (h addr size : Nat) (isLr : Bool) (f : State → Nat → State) : State :=
  let s := drainHart s h
  let fault := if isLr then Trap.LOAD_FAULT else Trap.STORE_FAULT
  if addr / 2 ^ 52 = 9 ∨ addr / 2 ^ 52 = 0xF then hartTrap s h fault addr
  else if addr % size ≠ 0 then hartTrap s h (if isLr then Trap.LOAD_MISALIGNED else Trap.STORE_MISALIGNED) addr
  else if !(s.hart h).buffer.isEmpty then s
  else
    match hartDest s h addr size (!isLr) with
    | .main l => f s ((l.head?.map Prod.fst).getD 0)
    | .ats a => hartAts s h a (if isLr then 0 else 2)
    | .peer _ _ | .reg _ | .bad => hartTrap s h fault addr

/-- The lines of a range asked for in S or F, where the cluster does not hold them (R268). -/
def shareRange (s : State) (h a n : Nat) : State :=
  (linesOf a n).foldl (fun s l =>
    if holdsLine s (clusterOf h) l false then s else agentGets s .rdSN (clusterOf h) l (some (hartPart s h))) s

/-- Writes that waited for a hart's deferral are taken again as it ends (R269). -/
def endDeferral (s : State) : State := if s.mir.waiting.isEmpty then s else replayWaits s

/-- LR (R268): the line in E or M, the granule's other lines held, the reservation set and snoops deferred. -/
def loadReserved (s : State) (h rd addr size a : Nat) : State :=
  let s := s.setHart h { s.hart h with resv := none, defer := false }
  let g := a / 256 * 256
  if rangeCut s h true a size then hartTrap s h Trap.LOAD_FAULT addr
  else
    let s := shareRange (askRange s h true a size) h g 256
    if !(holdsRange s h true a size && holdsRange s h false g 256) then s
    else if heldPoison s h a size then hartPoison s h addr
    else
      setX (s.setHart h { s.hart h with resv := some (a / 256), defer := true }) h rd (sext size (leNat (heldBytes s h a size)))

/-- LR. -/
def execLr (hart rd addr size : Nat) (s : State) : Host.Outcome State Fault Refusal :=
  run (okHart hart && okReg rd && okAtomic size)
    (accessRow s hart 2 fun s => atomicOp s hart addr size true fun s a => loadReserved s hart rd addr size a)

/-- SC (R268): it succeeds only while the reservation on its granule holds; rd gets 0, or 1 where it fails. Its line is obtained
in M first, and it waits for that; in host memory that cannot be reached it fails. Whether the hart has taken an interrupt that
is pending since the LR, and so lost the reservation, is a free value (notes/assumptions/110.md). -/
def storeConditional (s : State) (h rd addr size value a : Nat) : State :=
  let trapped : Bool := !(s.hart h).irqs.isEmpty && s.freeBits 0 1 == 1
  let held (s : State) : Bool := (s.hart h).resv == some (a / 256) && !trapped
  let s := if (s.hart h).irqs.isEmpty then s else s.useFree
  let fails (s : State) : State := endDeferral (setX (s.setHart h { s.hart h with resv := none, defer := false }) h rd 1)
  if !held s ∨ rangeCut s h true a size then fails s
  else
    let s := askRange s h true a size
    if !held s then fails s
    else if !holdsRange s h true a size then s
    else
      let s := s.setHart h { s.hart h with resv := none, defer := false }
      if partPoison s h a size then hartPoison s h addr
      else endDeferral (setX (putHeld s h a (leBytes size value)) h rd 0)

/-- SC. -/
def execSc (hart rd addr size value : Nat) (s : State) : Host.Outcome State Fault Refusal :=
  run (okHart hart && okReg rd && okAtomic size)
    (accessRow s hart 3 fun s => atomicOp s hart addr size false fun s a => storeConditional s hart rd addr size value a)

/-- The value an AMO writes, of `n` bytes. -/
def amoValue (f : AmoOp) (n old v : Nat) : Nat :=
  let w := 8 * n
  let o := old % 2 ^ w
  let x := v % 2 ^ w
  match f with
  | .swap => x
  | .add => (o + x) % 2 ^ w
  | .xor => o ^^^ x
  | .and => o &&& x
  | .or => o ||| x
  | .min => if toSigned w o ≤ toSigned w x then o else x
  | .max => if toSigned w o ≤ toSigned w x then x else o
  | .minu => min o x
  | .maxu => max o x

/-- AMO (R270): in the cluster's L2, with the line held in M. -/
def amoMain (s : State) (h rd addr size : Nat) (f : AmoOp) (value a : Nat) : State :=
  if rangeCut s h true a size then hartTrap s h Trap.STORE_FAULT addr
  else
    let s := askRange s h true a size
    if !holdsRange s h true a size then s
    else if heldPoison s h a size then hartPoison s h addr
    else
      let old := leNat (heldBytes s h a size)
      setX (putHeld s h a (leBytes size (amoValue f size old value))) h rd (sext size old)

/-- AMO. -/
def execAmo (hart rd addr size : Nat) (f : AmoOp) (value : Nat) (s : State) : Host.Outcome State Fault Refusal :=
  run (okHart hart && okReg rd && okAtomic size)
    (accessRow s hart 3 fun s => atomicOp s hart addr size false fun s a => amoMain s hart rd addr size f value a)

/-- SNOOP_DEFERRAL_END (R269). -/
def execSnoopDeferralEnd (hart : Nat) (s : State) : Host.Outcome State Fault Refusal :=
  run (okHart hart) (endDeferral (s.setHart hart { s.hart hart with defer := false }))

/-! ## Waits (R312) -/

/-- A hart begins to wait, unless its reservation is gone or an interrupt is pending. -/
def hartWait (s : State) (h : Nat) (w : HartWait) : State :=
  let x := s.hart h
  if x.resv.isNone ∨ !x.irqs.isEmpty then s else s.setHart h { x with wait := w }

/-- WRS_NTO. -/
def execWrsNto (hart : Nat) (s : State) : Host.Outcome State Fault Refusal :=
  run (okHart hart) (hartRow s hart (hartWait s hart .nto))

/-- WRS_STO: 1,000 ticks of the count at most. -/
def execWrsSto (hart : Nat) (s : State) : Host.Outcome State Fault Refusal :=
  run (okHart hart) (hartRow s hart (hartWait s hart (.sto (s.cic.count + 1000))))

/-- The wait's time limit has come. -/
def HartWait.ovr (w : HartWait) (now : Nat) : Bool :=
  match w with
  | .sto t => decide (t ≤ now)
  | _ => false

/-- WRS_WAKE (R312): the wait ends at the loss of the reservation, at a pending interrupt, or at WRS.STO's limit. An interrupt
costs the reservation (R314; notes/assumptions/34.md). -/
def wakeHart (s : State) (h : Nat) : State :=
  let x := s.hart h
  if x.wait = .none then s
  else if !x.irqs.isEmpty then s.setHart h { x with wait := .none, resv := none, defer := false }
  else if x.resv.isNone ∨ x.wait.ovr s.cic.count then s.setHart h { x with wait := .none }
  else s

/-- WRS_WAKE. -/
def execWrsWake (hart : Nat) (s : State) : Host.Outcome State Fault Refusal := run (okHart hart) (wakeHart s hart)

/-! ## SFENCE.VMA (R306) -/

/-- SFENCE.VMA and HFENCE: entries of the hart's own TLBs and of the shared walk cache are dropped; the host's translations are none. -/
def sfence (s : State) (h : Nat) (va : Option Nat) : State :=
  let keep (t : TlbEntry) : Bool := t.host || match va with
    | none => false
    | some v => !decide (t.va ≤ v ∧ v < t.va + t.bytes)
  let s := s.setHart h { s.hart h with tlb := (s.hart h).tlb.filter keep }
  setTlb s 1 ((tlbOf s 1).filter keep)

/-- SFENCE_VMA. -/
def execSfenceVma (hart : Nat) (va : Option Nat) (s : State) : Host.Outcome State Fault Refusal :=
  run (okHart hart) (hartRow s hart (sfence s hart va))

end Sys2Proof.Machine
end

