-- ==== Sys2Proof/Machine/Dispatch.lean ====
section
/-!
DEFINITION. What every command does: one arm for each row of spec/opcode_table.json, in its order, each one a direct
call of its meaning.
-/

namespace Sys2Proof.Machine

def exec (i : Instr) (s : State) : Host.Outcome State Fault Refusal :=
  match i with
  -- Boot
  | .pkgRstN => Sys2Proof.Machine.execPkgRstN s
  | .romStage bundles rail => Sys2Proof.Machine.execRomStage bundles rail s
  | .hubFirmwareStage o => Sys2Proof.Machine.execHubFirmwareStage o s
  | .dieToDieStage trained floorBad => Sys2Proof.Machine.execDieToDieStage trained floorBad s
  | .hbmStage dead obs => Sys2Proof.Machine.execHbmStage dead obs s
  | .cellDieStage badCells badDies margins => Sys2Proof.Machine.execCellDieStage badCells badDies margins s
  | .coreDieStage bad => Sys2Proof.Machine.execCoreDieStage bad s
  | .hostLinkStage => Sys2Proof.Machine.execHostLinkStage s
  | .readyStage => Sys2Proof.Machine.execReadyStage s
  | .railFailure rail o => Sys2Proof.Machine.execRailFailure rail o s
  | .pdReqN => Sys2Proof.Machine.execPdReqN s
  -- Power
  | .thermalEmergency throttle die => Sys2Proof.Machine.execThermalEmergency throttle die s
  | .thermalEmergencyEnd => Sys2Proof.Machine.execThermalEmergencyEnd s
  | .thermalTrip die => Sys2Proof.Machine.execThermalTrip die s
  | .clockStop die domain unit => Sys2Proof.Machine.execClockStop die domain unit s
  -- Cicada
  | .cicadaTick => Sys2Proof.Machine.execCicadaTick s
  | .cicadaCheckMarker diffs => Sys2Proof.Machine.execCicadaCheckMarker diffs s
  | .timerFire timer => Sys2Proof.Machine.execTimerFire timer s
  | .timerCompareWrite src value => Sys2Proof.Machine.execTimerCompareWrite src value s
  | .watchdogExpiry => Sys2Proof.Machine.execWatchdogExpiry s
  | .wdtKick src value => Sys2Proof.Machine.execWdtKick src value s
  | .wdtEnable src value => Sys2Proof.Machine.execWdtEnable src value s
  | .powerMinCommit => Sys2Proof.Machine.execPowerMinCommit s
  -- Contexts
  | .create src id => Sys2Proof.Machine.execCreate src id s
  | .destroy src id => Sys2Proof.Machine.execDestroy src id s
  | .reset src id => Sys2Proof.Machine.execReset src id s
  | .pause src id => Sys2Proof.Machine.execPause src id s
  | .resume src id => Sys2Proof.Machine.execResume src id s
  | .cqDoorbell src ctx value => Sys2Proof.Machine.execCqDoorbell src ctx value s
  | .commandFetch ctx => Sys2Proof.Machine.execCommandFetch ctx s
  | .cqResume src ctx value => Sys2Proof.Machine.execCqResume src ctx value s
  | .commandComplete ctx index => Sys2Proof.Machine.execCommandComplete ctx index s
  -- Commands
  | .nop ctx => Sys2Proof.Machine.execNop ctx s
  | .cellLoad ctx => Sys2Proof.Machine.execCellLoad ctx s
  | .cellStart ctx => Sys2Proof.Machine.execCellStart ctx s
  | .cellStop ctx => Sys2Proof.Machine.execCellStop ctx s
  | .phaseTable ctx => Sys2Proof.Machine.execPhaseTable ctx s
  | .wait ctx => Sys2Proof.Machine.execWait ctx s
  | .waitEvaluate ctx index => Sys2Proof.Machine.execWaitEvaluate ctx index s
  | .invalidate ctx => Sys2Proof.Machine.execInvalidate ctx s
  | .streamCreate ctx => Sys2Proof.Machine.execStreamCreate ctx s
  | .streamDestroy ctx => Sys2Proof.Machine.execStreamDestroy ctx s
  | .xfer ctx => Sys2Proof.Machine.execXfer ctx s
  | .reshard ctx => Sys2Proof.Machine.execReshard ctx s
  | .streamQuery ctx => Sys2Proof.Machine.execStreamQuery ctx s
  | .cbTableLoad ctx => Sys2Proof.Machine.execCbTableLoad ctx s
  | .cbTableStore ctx => Sys2Proof.Machine.execCbTableStore ctx s
  | .coll ctx => Sys2Proof.Machine.execColl ctx s
  -- Sequencer
  | .descriptorArm cell track => Sys2Proof.Machine.execDescriptorArm cell track s
  | .fire cell track => Sys2Proof.Machine.execFire cell track s
  | .operationComplete cell op => Sys2Proof.Machine.execOperationComplete cell op s
  | .cellNop cell op => Sys2Proof.Machine.execCellNop cell op s
  | .halt cell op => Sys2Proof.Machine.execHalt cell op s
  | .branch cell op => Sys2Proof.Machine.execBranch cell op s
  | .pset cell op => Sys2Proof.Machine.execPset cell op s
  | .bind cell op => Sys2Proof.Machine.execBind cell op s
  | .phase cell op => Sys2Proof.Machine.execPhase cell op s
  | .phaseBarrierComplete ctx => Sys2Proof.Machine.execPhaseBarrierComplete ctx s
  | .signal cell op => Sys2Proof.Machine.execSignal cell op s
  | .lfence cell op => Sys2Proof.Machine.execLfence cell op s
  | .sfence cell op => Sys2Proof.Machine.execSfence cell op s
  | .fence cell op => Sys2Proof.Machine.execFence cell op s
  | .cellDrain cell op => Sys2Proof.Machine.execCellDrain cell op s
  -- CellOps
  | .move cell op => Sys2Proof.Machine.execMove cell op s
  | .send cell op => Sys2Proof.Machine.execSend cell op s
  | .cellXfer cell op => Sys2Proof.Machine.execCellXfer cell op s
  | .xferList cell op => Sys2Proof.Machine.execXferList cell op s
  | .mm cell op => Sys2Proof.Machine.execMm cell op s
  | .elem cell op => Sys2Proof.Machine.execElem cell op s
  | .crvSet cell op => Sys2Proof.Machine.execCrvSet cell op s
  | .crvGet cell op => Sys2Proof.Machine.execCrvGet cell op s
  | .cbEncode cell op => Sys2Proof.Machine.execCbEncode cell op s
  | .cbSet cell op => Sys2Proof.Machine.execCbSet cell op s
  | .cbGet cell op => Sys2Proof.Machine.execCbGet cell op s
  | .topk cell op => Sys2Proof.Machine.execTopk cell op s
  | .merge cell op => Sys2Proof.Machine.execMerge cell op s
  | .intersect cell op => Sys2Proof.Machine.execIntersect cell op s
  | .dispatch cell op => Sys2Proof.Machine.execDispatch cell op s
  | .matchRequestBegin die => Sys2Proof.Machine.execMatchRequestBegin die s
  -- Preempt
  | .spillComplete cell => Sys2Proof.Machine.execSpillComplete cell s
  | .borrowReturn cell => Sys2Proof.Machine.execBorrowReturn cell s
  | .restoreComplete cell => Sys2Proof.Machine.execRestoreComplete cell s
  | .holdBufferPlace cell => Sys2Proof.Machine.execHoldBufferPlace cell s
  | .cseqStep src cell => Sys2Proof.Machine.execCseqStep src cell s
  | .cseqHaltReq src cell => Sys2Proof.Machine.execCseqHaltReq src cell s
  | .cseqDbgHold src cell hold => Sys2Proof.Machine.execCseqDbgHold src cell hold s
  -- Streams
  | .streamPacketSend floor => Sys2Proof.Machine.execStreamPacketSend floor s
  | .packetReceive p => Sys2Proof.Machine.execPacketReceive p s
  | .packetAckReceive packet => Sys2Proof.Machine.execPacketAckReceive packet s
  | .staleNackReceive packet => Sys2Proof.Machine.execStaleNackReceive packet s
  | .transferEnd index => Sys2Proof.Machine.execTransferEnd index s
  | .flushReadbackDone index => Sys2Proof.Machine.execFlushReadbackDone index s
  | .coreRingPoll index => Sys2Proof.Machine.execCoreRingPoll index s
  | .transferUnreachable index => Sys2Proof.Machine.execTransferUnreachable index s
  | .reshardReadyReceive ctx dev => Sys2Proof.Machine.execReshardReadyReceive ctx dev s
  | .reshardPieceReceive ctx e => Sys2Proof.Machine.execReshardPieceReceive ctx e s
  | .reshardTimeout ctx => Sys2Proof.Machine.execReshardTimeout ctx s
  -- Memory
  | .memoryUnitServe floor reqs found => Sys2Proof.Machine.execMemoryUnitServe floor reqs found s
  | .sluiceRefill floor part => Sys2Proof.Machine.execSluiceRefill floor part s
  | .patrolScrub chan found => Sys2Proof.Machine.execPatrolScrub chan found s
  | .laneRepair chan ok => Sys2Proof.Machine.execLaneRepair chan ok s
  | .writeDataRecal chan => Sys2Proof.Machine.execWriteDataRecal chan s
  | .vrefRecal chan => Sys2Proof.Machine.execVrefRecal chan s
  | .readTimingTrim chan => Sys2Proof.Machine.execReadTimingTrim chan s
  | .calOverdue chan => Sys2Proof.Machine.execCalOverdue chan s
  | .sluShareCtlWrite src value => Sys2Proof.Machine.execSluShareCtlWrite src value s
  | .sluMaintWrite src value => Sys2Proof.Machine.execSluMaintWrite src value s
  | .tgenGo src stack value => Sys2Proof.Machine.execTgenGo src stack value s
  | .tgenAbort src stack => Sys2Proof.Machine.execTgenAbort src stack s
  | .tgenRunEnd stack chan o => Sys2Proof.Machine.execTgenRunEnd stack chan o s
  -- Coherence
  | .flcInvalidate src floor => Sys2Proof.Machine.execFlcInvalidate src floor s
  | .prefetchFill floor line => Sys2Proof.Machine.execPrefetchFill floor line s
  | .rds agent line badEntry ctx => Sys2Proof.Machine.execRds agent line badEntry ctx s
  | .rdsn agent q => Sys2Proof.Machine.execRdsn agent q s
  | .rdo agent q => Sys2Proof.Machine.execRdo agent q s
  | .upg agent l => Sys2Proof.Machine.execUpg agent l s
  | .wb agent l => Sys2Proof.Machine.execWb agent l s
  | .rdc agent l => Sys2Proof.Machine.execRdc agent l s
  | .wrl agent l data stash => Sys2Proof.Machine.execWrl agent l data stash s
  | .wrp agent l mask data => Sys2Proof.Machine.execWrp agent l mask data s
  | .snpf agent line => Sys2Proof.Machine.execSnpf agent line s
  | .snpif agent line => Sys2Proof.Machine.execSnpif agent line s
  | .snpi agent line => Sys2Proof.Machine.execSnpi agent line s
  | .snpc agent line => Sys2Proof.Machine.execSnpc agent line s
  | .offer agent line evictsM => Sys2Proof.Machine.execOffer agent line evictsM s
  | .snoopResponse agent line => Sys2Proof.Machine.execSnoopResponse agent line s
  | .stashAnswer agent line => Sys2Proof.Machine.execStashAnswer agent line s
  | .snoopTimeout agent line => Sys2Proof.Machine.execSnoopTimeout agent line s
  | .cohProbe src floor => Sys2Proof.Machine.execCohProbe src floor s
  -- Harts
  | .hartAccess hart a => Sys2Proof.Machine.execHartAccess hart a s
  | .hartFence hart pred succ => Sys2Proof.Machine.execHartFence hart pred succ s
  | .drain hart => Sys2Proof.Machine.execDrain hart s
  | .ccnt hart rd => Sys2Proof.Machine.execCcnt hart rd s
  | .cdb hart rd rs1 rs2 => Sys2Proof.Machine.execCdb hart rd rs1 rs2 s
  | .cboClean hart addr => Sys2Proof.Machine.execCboClean hart addr s
  | .cboFlush hart addr => Sys2Proof.Machine.execCboFlush hart addr s
  | .cboZero hart addr => Sys2Proof.Machine.execCboZero hart addr s
  | .prefetchRW hart addr write => Sys2Proof.Machine.execPrefetchRW hart addr write s
  | .lr hart rd addr size => Sys2Proof.Machine.execLr hart rd addr size s
  | .sc hart rd addr size value => Sys2Proof.Machine.execSc hart rd addr size value s
  | .amo hart rd addr size f value => Sys2Proof.Machine.execAmo hart rd addr size f value s
  | .wrsNto hart => Sys2Proof.Machine.execWrsNto hart s
  | .wrsSto hart => Sys2Proof.Machine.execWrsSto hart s
  | .wrsWake hart => Sys2Proof.Machine.execWrsWake hart s
  | .sfenceVma hart va => Sys2Proof.Machine.execSfenceVma hart va s
  | .coreRunGo src => Sys2Proof.Machine.execCoreRunGo src s
  -- Translation
  | .translationWalkDone w => Sys2Proof.Machine.execTranslationWalkDone w s
  | .fqResp src ctx value => Sys2Proof.Machine.execFqResp src ctx value s
  | .fqConsumed src ctx value => Sys2Proof.Machine.execFqConsumed src ctx value s
  | .overflowRetry ctx => Sys2Proof.Machine.execOverflowRetry ctx s
  | .pageRequestResponse unit ctx addr ok => Sys2Proof.Machine.execPageRequestResponse unit ctx addr ok s
  | .atsInvalidateRequest port addr bytes => Sys2Proof.Machine.execAtsInvalidateRequest port addr bytes s
  | .xlcInvGo src value => Sys2Proof.Machine.execXlcInvGo src value s
  | .invalidationAck unit number => Sys2Proof.Machine.execInvalidationAck unit number s
  | .invalidationTimeout number => Sys2Proof.Machine.execInvalidationTimeout number s
  -- Host
  | .hostLinkReset port cause => Sys2Proof.Machine.execHostLinkReset port cause s
  | .portInService port cfg => Sys2Proof.Machine.execPortInService port cfg s
  | .hostMemAccess port offset a => Sys2Proof.Machine.execHostMemAccess port offset a s
  | .hostReadCompletion port ok d => Sys2Proof.Machine.execHostReadCompletion port ok d s
  | .fullReq src => Sys2Proof.Machine.execFullReq src s
  | .onewayReq src => Sys2Proof.Machine.execOnewayReq src s
  | .homeSweepDone => Sys2Proof.Machine.execHomeSweepDone s
  | .vectorDeliver => Sys2Proof.Machine.execVectorDeliver s
  | .reclaim src => Sys2Proof.Machine.execReclaim src s
  | .attTokenRead src => Sys2Proof.Machine.execAttTokenRead src s
  | .scrubOnAbandon ctx => Sys2Proof.Machine.execScrubOnAbandon ctx s
  -- Links
  | .flitReceive link f => Sys2Proof.Machine.execFlitReceive link f s
  | .flitNak link ackSeq => Sys2Proof.Machine.execFlitNak link ackSeq s
  | .linkRetrain link cause => Sys2Proof.Machine.execLinkRetrain link cause s
  | .trainingStep link ok lanes peer => Sys2Proof.Machine.execTrainingStep link ok lanes peer s
  | .lkRetrain src link => Sys2Proof.Machine.execLkRetrain src link s
  | .lkDisable src link disable => Sys2Proof.Machine.execLkDisable src link disable s
  | .lxTrnDefault src die => Sys2Proof.Machine.execLxTrnDefault src die s
  | .mchDevIdWrite src value => Sys2Proof.Machine.execMchDevIdWrite src value s
  | .burstGrant link => Sys2Proof.Machine.execBurstGrant link s
  | .immediateAbort link receiving => Sys2Proof.Machine.execImmediateAbort link receiving s
  | .messageReceive link h data => Sys2Proof.Machine.execMessageReceive link h data s
  -- Machine
  | .teardown src => Sys2Proof.Machine.execTeardown src s
  | .teardownDrained => Sys2Proof.Machine.execTeardownDrained s
  | .setPart src => Sys2Proof.Machine.execSetPart src s
  | .jobPrepare src => Sys2Proof.Machine.execJobPrepare src s
  | .expect src => Sys2Proof.Machine.execExpect src s
  | .jobCancel src => Sys2Proof.Machine.execJobCancel src s
  | .prepareReceive job ctx fanout mpart epoch => Sys2Proof.Machine.execPrepareReceive job ctx fanout mpart epoch s
  | .jobAnswerReceive child a => Sys2Proof.Machine.execJobAnswerReceive child a s
  | .commitReceive job => Sys2Proof.Machine.execCommitReceive job s
  | .abortReceive job => Sys2Proof.Machine.execAbortReceive job s
  | .jobProgress => Sys2Proof.Machine.execJobProgress s
  | .childLost child => Sys2Proof.Machine.execChildLost child s
  | .orphaned => Sys2Proof.Machine.execOrphaned s
  | .collectiveSegmentReceive group m => Sys2Proof.Machine.execCollectiveSegmentReceive group m s
  | .collectiveEnd group status => Sys2Proof.Machine.execCollectiveEnd group status s
  | .collectiveTimeout group => Sys2Proof.Machine.execCollectiveTimeout group s
  -- Mirror
  | .form src answer => Sys2Proof.Machine.execForm src answer s
  | .formTimeout => Sys2Proof.Machine.execFormTimeout s
  | .dissolve src => Sys2Proof.Machine.execDissolve src s
  | .resync src => Sys2Proof.Machine.execResync src s
  | .mirrorCopyReceive k data poison key => Sys2Proof.Machine.execMirrorCopyReceive k data poison key s
  | .mirrorStateReceive ctx m => Sys2Proof.Machine.execMirrorStateReceive ctx m s
  | .mirrorAckReceive copy => Sys2Proof.Machine.execMirrorAckReceive copy s
  | .heartbeatSend => Sys2Proof.Machine.execHeartbeatSend s
  | .heartbeatReceive h => Sys2Proof.Machine.execHeartbeatReceive h s
  | .missedHeartbeat => Sys2Proof.Machine.execMissedHeartbeat s
  | .grant src epoch => Sys2Proof.Machine.execGrant src epoch s
  | .yieldAnswer src epoch => Sys2Proof.Machine.execYieldAnswer src epoch s
  -- Power
  | .telemetrySample o => Sys2Proof.Machine.execTelemetrySample o s
  | .telemetryLost dies sensorsFailed => Sys2Proof.Machine.execTelemetryLost dies sensorsFailed s
  | .fastLoop amps => Sys2Proof.Machine.execFastLoop amps s
  | .droopTrip die => Sys2Proof.Machine.execDroopTrip die s
  | .capLoop o => Sys2Proof.Machine.execCapLoop o s
  | .opChangeDone die => Sys2Proof.Machine.execOpChangeDone die s
  | .estimatorSuspect => Sys2Proof.Machine.execEstimatorSuspect s
  | .recalibration fits agreed => Sys2Proof.Machine.execRecalibration fits agreed s
  | .pwrRecal src => Sys2Proof.Machine.execPwrRecal src s
  | .ageingReading needs => Sys2Proof.Machine.execAgeingReading needs s
  | .guestPower => Sys2Proof.Machine.execGuestPower s
  -- Polder
  | .commitStart => Sys2Proof.Machine.execCommitStart s
  | .commitComplete ok banks => Sys2Proof.Machine.execCommitComplete ok banks s
  | .blockEraseEnd bank block ok => Sys2Proof.Machine.execBlockEraseEnd bank block ok s
  | .logFlush => Sys2Proof.Machine.execLogFlush s
  | .pldRead src => Sys2Proof.Machine.execPldRead src s
  | .pldList src => Sys2Proof.Machine.execPldList src s
  | .logRead src => Sys2Proof.Machine.execLogRead src s
  | .reqSweep src => Sys2Proof.Machine.execReqSweep src s
  | .reqHbmTrain src => Sys2Proof.Machine.execReqHbmTrain src s
  | .reqWayClear src => Sys2Proof.Machine.execReqWayClear src s
  | .pldCancel src => Sys2Proof.Machine.execPldCancel src s
  | .noteWrite src => Sys2Proof.Machine.execNoteWrite src s
  | .pldSync src => Sys2Proof.Machine.execPldSync src s
  -- Security
  | .stage src => Sys2Proof.Machine.execStage src s
  | .policyLoad src => Sys2Proof.Machine.execPolicyLoad src s
  | .keyMap src => Sys2Proof.Machine.execKeyMap src s
  | .keyWrap src => Sys2Proof.Machine.execKeyWrap src s
  | .keyLoad src => Sys2Proof.Machine.execKeyLoad src s
  | .debugChallenge src => Sys2Proof.Machine.execDebugChallenge src s
  | .debugUnlock src => Sys2Proof.Machine.execDebugUnlock src s
  | .ownerEnroll src => Sys2Proof.Machine.execOwnerEnroll src s
  | .ownerRevoke src => Sys2Proof.Machine.execOwnerRevoke src s
  | .certInstall src => Sys2Proof.Machine.execCertInstall src s
  | .svnFuse src => Sys2Proof.Machine.execSvnFuse src s
  | .dikeFloor src => Sys2Proof.Machine.execDikeFloor src s
  | .dikeTest src => Sys2Proof.Machine.execDikeTest src s
  | .spdmRequest port m => Sys2Proof.Machine.execSpdmRequest port m s
  | .dikeTrip sensor => Sys2Proof.Machine.execDikeTrip sensor s
  | .entropyFail => Sys2Proof.Machine.execEntropyFail s
  | .guestRequest g => Sys2Proof.Machine.execGuestRequest g s
  -- Resets
  | .rstCmdWarm src => Sys2Proof.Machine.execRstCmdWarm src s
  | .warmResetDone tests badClusters trained => Sys2Proof.Machine.execWarmResetDone tests badClusters trained s
  | .rstCmdBlock src tests clusterOk trained => Sys2Proof.Machine.execRstCmdBlock src tests clusterOk trained s
  | .rstCmdCold src => Sys2Proof.Machine.execRstCmdCold src s
  | .idleCellTest cell ok => Sys2Proof.Machine.execIdleCellTest cell ok s
  | .correctedCoalesceEnd type die inst => Sys2Proof.Machine.execCorrectedCoalesceEnd type die inst s
  | .autoWarmEscalation => Sys2Proof.Machine.execAutoWarmEscalation s
  -- Registers
  | .errRingCons src value => Sys2Proof.Machine.execErrRingCons src value s
  | .pgIntRawWrite src page value => Sys2Proof.Machine.execPgIntRawWrite src page value s
  | .pgIntEnWrite src page value => Sys2Proof.Machine.execPgIntEnWrite src page value s
  | .pgIntSet src page value => Sys2Proof.Machine.execPgIntSet src page value s
  | .pgLock src page => Sys2Proof.Machine.execPgLock src page s
  | .cntClear src page => Sys2Proof.Machine.execCntClear src page s
  | .rcRegisterRead src r => Sys2Proof.Machine.execRcRegisterRead src r s
  | .loReadLatch src r => Sys2Proof.Machine.execLoReadLatch src r s
  | .hiWrite src addr value => Sys2Proof.Machine.execHiWrite src addr value s
  | .registerWrite src addr value => Sys2Proof.Machine.execRegisterWrite src addr value s
  -- Memory
  | .deadlineWindowClose ctx => Sys2Proof.Machine.execDeadlineWindowClose ctx s
  | .selfRefreshEntry stack => Sys2Proof.Machine.execSelfRefreshEntry stack s
  -- Harts
  | .snoopDeferralEnd hart => Sys2Proof.Machine.execSnoopDeferralEnd hart s
  -- Translation
  | .atsTranslationCompletion unit ctx addr result => Sys2Proof.Machine.execAtsTranslationCompletion unit ctx addr result s
  -- Host
  | .hostSnoop line invalidate => Sys2Proof.Machine.execHostSnoop line invalidate s
  | .msiXFunctionMaskWrite port enable mask => Sys2Proof.Machine.execMsiXFunctionMaskWrite port enable mask s
  -- Power
  | .fabricFatal floor => Sys2Proof.Machine.execFabricFatal floor s
  | .hubFirmwareCheckFail => Sys2Proof.Machine.execHubFirmwareCheckFail s
  -- Boot
  | .d2dReplay iface => Sys2Proof.Machine.execD2dReplay iface s

end Sys2Proof.Machine
end

