-- ==== Sys2Proof/Safety.lean ====
section
/-!
DEFINITION. What a safe run of the block is, in the terms that statements use: the canonical form that every table of plain
data keeps, a register access that takes effect, and what no command takes back.
-/

namespace Sys2Proof.Machine

/-- A source's write of the register at `a` takes effect: the source exists, and the page can be reached and takes its writes
(R413, R444, R469, R474, R495, R499). -/
abbrev Reaches (s : State) (src : Source) (a : Nat) : Prop := okSource src = true ∧ writeReach s src a = .ok

/-- A source's read of the register at `a` is answered by it. -/
abbrev ReadReaches (s : State) (src : Source) (a : Nat) : Prop := okSource src = true ∧ reachOf s src a = .ok

/-- Memory, its poison marks, its key tags and the registers are in canonical form: equal contents are equal data. -/
abbrev Canonical (s : State) : Prop :=
  Memory.wf s.mem = true ∧ twf (fun _ => false) s.poison = true ∧ twf (fun _ => 0) s.keyTag = true ∧ twf regReset s.regs = true

/-- Every command that waits in the queue is well formed. -/
abbrev QueueWellFormed (s : State) : Prop := ∀ c ∈ s.pending, c.wellFormed = true

/-- The part has been retired for good: the RETIRED fuse is blown (R460). -/
abbrev Retired (s : State) : Prop := s.sec.fuses.retired = true

/-! What a command row finds (R48, R161; notes/assumptions/16.md). -/

/-- The queue's next command, `cmd`, has opcode `op` and issues now: nothing holds it, it carries no stamp and no barrier, no command of
its opcode is issued already, and its ring index is its own. -/
abbrev Issues (s : State) (ctx op : Nat) (cmd : Cmd) : Prop :=
  ctx < 64 ∧ nextUnissued (s.ctx ctx) = some cmd ∧ cmd.opcode = op ∧ cmd.stamped = false ∧ cmd.barrier = false ∧
  (s.ctx ctx).live = true ∧ (s.ctx ctx).paused = false ∧ dieLoaded s (cmdUnit ctx) = true ∧ s.boot.warmBusy = false ∧ s.boot.fatal = false ∧
  queueStalled s ctx = false ∧ (s.ctx ctx).countDue = none ∧ cmd.commonCode = 0 ∧ (∀ x ∈ (s.ctx ctx).cmds, x.stage = .issued → x.opcode ≠ op) ∧
  (∀ x ∈ (s.ctx ctx).cmds, x.index = cmd.index → x = cmd)

/-- That command as it stands once it has issued. -/
def issuedCmd (s : State) (ctx : Nat) (cmd : Cmd) : Cmd :=
  { cmd with tested := true, stage := .issued, base := replica s (Rep.cmd ctx) }

/-- The state once it has issued. -/
def issuedState (s : State) (ctx : Nat) (cmd : Cmd) : State :=
  s.setCtx ctx { s.ctx ctx with cmds := (s.ctx ctx).cmds.map fun x => if x.index = cmd.index then issuedCmd s ctx cmd else x }

/-! What an operation's row finds. -/

/-- Operation `o` of cell `cell`, run for context `ctx`, has been fired and not carried out, has code `code`, and has reached the front of
its engine's queue (R55, R57). -/
abbrev Runs (s : State) (cell op code ctx : Nat) (o : Op) : Prop :=
  cell < 320 ∧ (s.cell cell).runner = some ctx ∧ (∀ p ∈ (s.cell cell).saved, p.1 ≠ ctx) ∧ cellClockStopped s cell = false ∧
  (s.cell cell).img.ops.find? (fun x => x.id = op && opc x.raw == code && !(x.stage = .executed)) = some o ∧
  (s.cell cell).img.ops.any (fun p => decide (p.id < o.id) && p.stage = .fired && engineOf p.raw == engineOf o.raw && !waitsAside p.raw) = false

/-- A cell's contents with operation `op` carried out. -/
def carriedOut (i : CellImg) (op : Nat) : CellImg :=
  { i with ops := i.ops.map fun x => if x.id = op then { x with stage := .executed } else x }

/-- A cell's contents with operation `op` waiting. -/
def keptWaiting (i : CellImg) (op : Nat) : CellImg :=
  { i with ops := i.ops.map fun x => if x.id = op then { x with stage := .waiting } else x }

/-- The state with a cell's contents replaced and nothing else changed. -/
def withImg (s : State) (cell : Nat) (i : CellImg) : State := s.setCell cell { s.cell cell with img := i }

/-! What a mailbox row finds (R437). -/

/-- A source's mailbox command is taken: the page can be reached, no command runs, the store has been read and can be used, and the
package is not in ROM service. -/
abbrev MailboxFree (s : State) (src : Source) : Prop :=
  Reaches s src (pldReg Reg.PLD_MBX_CMD) ∧ s.pld.busy = none ∧ (s.pld.st = 1 ∨ s.pld.st = 2) ∧ s.boot.romService = false

/-- The state once a mailbox command has been taken: OP, SOURCE and GO stand in PLD_MBX_CMD, RESULT reads zero, and the command runs. -/
def mailTaken (s : State) (src : Source) (op : Nat) : State :=
  let a := pldReg Reg.PLD_MBX_CMD
  let s := setFld (setFld (setFld (setFld s 0 a 7 0 op) 0 a 25 24 (srcNum src)) 0 a 23 16 0) 0 a 31 31 1
  { s with pld := { s.pld with busy := some ⟨op, srcNum src, 0, 0⟩ } }

/-- A run is safe while its state is canonical and its queue well formed. -/
abbrev Safe (s : State) : Prop := Canonical s ∧ QueueWellFormed s

end Sys2Proof.Machine
end

