-- ==== Sys2Proof/Certificates/Slice0/Obligations.lean ====
section
/-!
DEFINITION. The statements for the provers. Each one is a Prop about the machine as it stands in Sys2Proof/Machine; its
docstring says which rules of spec/ it formalises, or which it rests on.
-/

open Sys2Proof Sys2Proof.Machine

/-! ## The queue -/

/-- A step takes the command at the front of the queue and runs it with the queue's rest; with an empty queue the block idles. The
queue is the model's (notes/assumptions/1.md). -/
def Obligations.StepRunsTheFrontCommand : Prop :=
  (∀ (s : State) (c : Instr) (rest : List Instr), step { s with pending := c :: rest } = exec c { s with pending := rest }) ∧
  (∀ s : State, s.pending = [] → step s = .next s)

/-- Which commands end how: a command that names a unit which does not exist is a fault and nothing else is; a well-formed one
answers a next state, but for a register access that reaches the guest die's own registers, which the manual leaves to
the guest (R28, R504). -/
def Obligations.WellFormedCommandsComplete : Prop :=
  (∀ (c : Instr) (s : State), exec c s = .fault .noSuchUnit ↔ c.wellFormed = false) ∧
  (∀ (c : Instr) (s : State), c.wellFormed = true → (∃ t, exec c s = .next t) ∨ exec c s = .refused .guestRegister) ∧
  (∀ (c : Instr) (s : State), c.wellFormed = true →
    (∀ src r, c ≠ .rcRegisterRead src r) → (∀ src r, c ≠ .loReadLatch src r) → (∀ src a v, c ≠ .hiWrite src a v) →
    (∀ src a v, c ≠ .registerWrite src a v) → (∀ h a, c ≠ .hartAccess h a) → ∃ t, exec c s = .next t)

/-! ## What every step keeps -/

/-- The block as it comes up: its tables are canonical, nothing waits in its queue, and the part is not retired. -/
def Obligations.ResetIsCanonical : Prop :=
  Canonical State.reset ∧ QueueWellFormed State.reset ∧ ¬ Retired State.reset

/-- Every command keeps the canonical form of memory, of its poison marks and key tags and of the registers. -/
def Obligations.EveryStepKeepsCanonicalForm : Prop :=
  ∀ s t : State, Canonical s → step s = .next t → Canonical t

/-- A step takes one command off the queue and leaves the others as they stand, so a queue of well-formed commands stays one. -/
def Obligations.EveryStepTakesOneCommand : Prop :=
  (∀ s t : State, step s = .next t → t.pending = s.pending.drop 1) ∧
  (∀ s t : State, QueueWellFormed s → step s = .next t → QueueWellFormed t)

/-- What the block has sent to the outside stays sent: a step only adds to the record of outputs, at its end. A blown RETIRED fuse
stays blown, whatever command follows (R460, R471: no reset clears a fuse). -/
def Obligations.EveryStepKeepsOutputsAndTheRetiredFuse : Prop :=
  (∀ s t : State, step s = .next t → ∃ l, t.out = s.out ++ l) ∧
  (∀ s t : State, Retired s → step s = .next t → Retired t)

/-! ## Boot and cold resets -/

/-- What a cold reset keeps, and what it does not (R471, R472, R492): the fuses and the Polder store, with the record that was being
committed completed; the count starts at zero, boot at stage 1; memory, contexts, cells and registers are gone, but for
CAUSE of RST_CAUSE.
RST_CMD with KIND cold that does not come over I3C is denied with RESULT 3 and resets nothing (R471, R492). -/
def Obligations.ColdResetsKeepOnlyTheStoreAndTheFuses : Prop :=
  (let cold (s t : State) (cause : Nat) : Prop :=
     t.sec.fuses = s.sec.fuses ∧ t.pld.records = (finishRecord s).pld.records ∧ t.pld.blocks = (finishRecord s).pld.blocks ∧
     t.cic.count = 0 ∧ t.boot.stage = 1 ∧ t.boot.stopped = false ∧ t.mem = [] ∧ t.ctxs = [] ∧ t.cells = [] ∧ t.core = CoreSys.start ∧
     t.coh = CohSys.start ∧ t.err = ErrState.start ∧ fld t 0 (rstReg Reg.RST_CAUSE) 31 28 = cause ∧
     (∀ i a, regKey i a ≠ regKey 0 (rstReg Reg.RST_CAUSE) → rd t i a = rd State.reset i a)
   (∀ s : State, ∃ t, exec .pkgRstN s = .next t ∧ cold s t 2) ∧
   (∀ s : State, Reaches s .i3c (rstReg Reg.RST_CMD) → ∃ t, exec (.rstCmdCold .i3c) s = .next t ∧ cold s t 3)) ∧
  (∀ (s : State) (src : Source), src ≠ .i3c → Reaches s src (rstReg Reg.RST_CMD) →
     exec (.rstCmdCold src) s =
       .next (setFld (setFld s 0 (rstReg Reg.RST_CMD) 26 24 3) 0 (rstReg Reg.RST_CMD) 3 0 3))

/-- Boot stage 1 (R444): the Dike is armed; with every rail up, the part not retired and a bundle at hand, the bundles at index 0 and
then 1 are checked. One that passes leaves the device with its identity derived, its components measured and the UDS closed; with none, boot stops
in ROM service with code 0x31 where a bundle was refused for its version, else 0x30. -/
def Obligations.RomStageStartsOrStops : Prop :=
  ∀ (s : State) (b : List Byte) (l : List (List Byte)),
    atStage s 1 = true → s.sec.udsClosed = false → s.sec.fuses.retired = false →
    exec (.romStage (b :: l) none) s =
      .next (match romCheck { s with sec := { s.sec with armed := true } } ((b :: l).take 2) with
        | (u, some img, _) => { u with sec := { u.sec with
            identity := true, udsClosed := true, kek := lowestOwner u.sec.fuses, bundle := bundleDigests (imgBody img) } }
        | (u, none, rs) => romStop u (if rs.contains MbxRes.ROLLBACK then 0x31 else 0x30))

/-- Boot stages 2 to 8 follow one another (R20, R222, R315, R324, R468, R476): a stage that finds the one before it complete, and
boot neither stopped nor in ROM service, ends with RST_STAGE at its own number. Stage 2 needs a package that R26 does not
refuse and a store whose pending erase does not fail; stage 3 a floor array and a hub interface that work; stage 4 channels that
can be trained. -/
def Obligations.BootStagesFollowInOrder : Prop :=
  (∀ (s : State) (o : StoreObs), atStage s 1 = true → s.sec.udsClosed = true →
    let r := replayErase (latchedAlarm (restoreCounts (bootNumber (latchedTrip (openStore s o))))) o.stuck
    let u := if r.pld.heldNow then flushSecLog r 4 66 else flushSecLog r 6 (r.pld.held.length / 63)
    let v := setFld { u with boot := { u.boot with level := featureLevel u } } 0 (pkgReg Reg.PKG_FEATURE) 15 0 (featureLevel u)
    u.boot.stopped = false → refusal v = none →
    exec (.hubFirmwareStage o) s = .next (hubServices v o)) ∧
  (∀ (s : State) (trained : List IfaceObs), atStage s 2 = true →
    (((trainAll s trained).iface 14).st ≠ 2 ∨ ((trainAll s trained).iface 15).st ≠ 2) →
    exec (.dieToDieStage trained []) s =
      .next (stageDone (clearWays ([0, 1, 2, 3].foldl readWays
        (loadReplicas (trainAll s trained) (dieCodes.filter fun d => !(trainAll s trained).offline d)))) 3)) ∧
  (∀ (s : State) (obs : List ChanObs), atStage s 3 = true →
    ∃ u, exec (.hbmStage [] obs) s = .next (stageDone u 4) ∧ (∀ a < poolBytes, memByte u.mem a = 0) ∧ u.boot.actTrain = []) ∧
  (∀ (s : State) (badCells badDies : List Nat) (margins : List (Nat × Nat)), atStage s 4 = true →
    ∃ u, exec (.cellDieStage badCells badDies margins) s = .next (stageDone (repoint u) 5) ∧
      ∀ d < 8, u.offline (8 + d) = false → 0x18 + d ∈ u.coh.enabled) ∧
  (∀ (s : State) (bad : Nat), atStage s 5 = true →
    exec (.coreDieStage bad) s = .next (stageDone (if s.core.dieOff then s else testClusters s bad) 6)) ∧
  (∀ s : State, atStage s 6 = true →
    ∃ t, exec .hostLinkStage s = .next t ∧ t.boot.stage = 7 ∧ t.coh.full = false) ∧
  (∀ s : State, atStage s 7 = true →
    exec .readyStage s =
      .next (startLinks ((List.range 96).foldl readLane ((stageDone s 8).emit .i3cReady)) (List.range 96)))

/-- A rail failure (R422, R508): every die but the hub is held in reset, the store keeps what hold-up finishes, the rail is latched where
the hub stays up, and a second failure changes nothing more. An orderly power-down that is already under way asserts PD_DONE once the
store is drained and no key erase runs (R510).
Thermal emergency, its end, thermal trip and clock stops (R37, R404, R412, R488, R516). An emergency sets every ceiling to point 0
and is shown in PWR_STATUS; during a trip the trip governs. A trip is a fatal record, once. A clock that stops is noted with its domain,
and is fatal for a floor fabric, the hub's management and the Cicada reference. -/
def Obligations.RailsThermalAndClockEvents : Prop :=
  ((∀ (s : State) (rail : Nat) (hubUp : Bool) (o : HoldObs), okHoldObs o = true → s.boot.railDown = false →
     ∃ t, exec (.railFailure rail ⟨hubUp, o⟩) s = .next t ∧ t.boot.railDown = true ∧
       t.boot.latchedRail = (if hubUp then some rail else none) ∧ t.pld.records = (finishOnHoldup s o).pld.records ∧
       t.sec.fuses = s.sec.fuses ∧ t.cic = s.cic ∧ t.err = s.err ∧ t.mem = [] ∧ t.ctxs = [] ∧ t.cells = [] ∧
       ∀ i a, 0x200000 ≤ regKey i a % 2 ^ 27 → rd t i a = (regReset (regKey i a)).toNat) ∧
   (∀ (s : State) (rail : Nat) (hubUp : Bool) (o : HoldObs), okHoldObs o = true → s.boot.railDown = true →
     exec (.railFailure rail ⟨hubUp, o⟩) s = .next s) ∧
   (∀ s : State, s.boot.warmBusy = false → s.boot.railDown = false → s.pwr.pdReq = true → s.boot.drainUntil = none → drained s = true →
     s.sec.erase = none →
     exec .pdReqN s = .next { s with pwr := { s.pwr with pdDone := true } })) ∧
  ((∀ (s : State) (throttle : Bool) (die : Nat), okDie die = true → s.pwr.thermTrip = false →
     ∃ t, exec (.thermalEmergency throttle die) s = .next t ∧ t.pwr.emergency = true ∧ t.pwr.throttle = (s.pwr.throttle || throttle) ∧
       (∀ d < 8, (t.die (8 + d)).op = 0 ∧ lowestCeil t d = 0 ∧ dutyOf t d = 0) ∧ coreFreq t = 8) ∧
   (∀ s : State, s.pwr.emergency = true → s.pwr.coolAt + 1250000 ≤ s.cic.count → (∀ d ∈ dieCodes, tempOf s d ≤ 1600) →
     exec .thermalEmergencyEnd s =
       .next (repoint (pwrStatus (pwrStatus { s with pwr := { s.pwr with emergency := false, throttle := false } } 26 false) 25 false))) ∧
   (∀ (s : State) (die : Nat), okDie die = true → s.pwr.thermTrip = false →
     exec (.thermalTrip die) s =
       .next (raiseError { s with pwr := { s.pwr with thermTrip := true } } { sev := 3, type := 0x0804, die := die, inst := 0 })) ∧
   (∀ (s : State) (die domain unit : Nat), okDie die = true → domain = 3 ∨ domain = 8 ∨ domain = 9 →
     let d := if domain = 3 then die else 0
     clockStopped s d domain 0 = false →
     exec (.clockStop die domain unit) s =
       .next (raiseError { s with boot := { s.boot with stops := s.boot.stops ++ [(d, domain, 0)] } }
         { sev := 3, type := 0x0102, die := d, inst := domain, detail := [0] })) ∧
   (∀ (s : State) (floor : Nat), floor < 4 →
     exec (.fabricFatal floor) s = .next (raiseError s { sev := 3, type := 0x0404, die := 2 + floor, inst := 0 })) ∧
   (∀ s : State, exec .hubFirmwareCheckFail s = .next (raiseError s { sev := 3, type := 0x0A06, die := 0, inst := 0 })))

/-! ## The Cicada count, timers and the watchdog -/

/-- Every tick adds one to the count; where no cell runs a program it changes nothing else, but that a primary sends what has changed of
its mirrored contexts (R157, R382). A cell one of whose tracks waits for tokens alone, or for credits alone, counts the cycles (R74).
The check at a multiple of 65,536 (R160): between markers nothing is checked; a replica that is behind jumps forward, so that it reads
the count; one that is ahead holds until the count reaches the value it held at.
A hub timer that is armed and whose compare value the count has reached sets FIRED and its interrupt bit, and disarms where PERIOD is 0;
a periodic one stays armed and compares next one period on, or past the count where it is more than one behind. A timer that is not armed,
or not there yet, does nothing (R170).
The watchdog (R171): a kick restarts the period and clears STAGE; EN once written stays set; a first expiry sets bit 9 and reports,
a second one with ACTION 1 is a fatal record and starts a warm device reset. Power-on minutes and energy are committed after every
60 minutes of a boot (R167). -/
def Obligations.CicadaCountTimersAndWatchdog : Prop :=
  ((∀ s : State,
     let u := nextCount s
     exec .cicadaTick s = .next (sendStates u) ∧ (sendStates u).cic = u.cic ∧ (sendStates u).mem = u.mem ∧
     (s.mir.st = 0 → exec .cicadaTick s = .next u) ∧
     u.cic = { s.cic with count := s.cic.count + 1 } ∧ u.mem = s.mem ∧ u.cells = s.cells ∧ u.ctxs = s.ctxs ∧
     u.boot = { s.boot with fresh := s.boot.fresh.filter fun p => cellClockStopped s p.1 } ∧
     ((∀ p ∈ s.cells, p.2.img.started = false) →
       u = { s with
         cic := { s.cic with count := s.cic.count + 1 }
         boot := { s.boot with fresh := s.boot.fresh.filter fun p => cellClockStopped s p.1 } })) ∧
   (∀ (s : State) (c : Nat), (s.cell c).img.started = true →
     let waits := (s.cell c).img.tracks.map (trackWaits s c (s.cell c).img)
     ((true, false, false) ∈ waits → (false, true, false) ∉ waits →
       addWaits s c = count s (cseqReg c Reg.CSEQ_WAIT_TOKEN_CYC) (tickCycles s c)) ∧
     ((true, false, false) ∉ waits → (false, true, false) ∈ waits →
       addWaits s c = count s (cseqReg c Reg.CSEQ_WAIT_CREDIT_CYC) (tickCycles s c)) ∧
     ((true, false, false) ∉ waits → (false, true, false) ∉ waits → addWaits s c = s))) ∧
  ((∀ (s : State) (l : List (Nat × Int)), s.cic.count % 65536 ≠ 0 → exec (.cicadaCheckMarker l) s = .next s) ∧
   (∀ (s : State) (u : Nat) (d : Int), s.cic.count % 65536 = 0 → u / 64 ∈ dieCodes → u / 64 ∉ s.cic.unloaded → (d < -1 ∨ 1 < d) →
     (∀ p ∈ s.cic.hold, p.2 + 2 ≤ s.cic.count) →
     ∃ t, exec (.cicadaCheckMarker [(u, d)]) s = .next t ∧ t.cic.count = s.cic.count ∧
       replica t u = max (replica s u) (if d < -1 then s.cic.count else s.cic.count + d.toNat) ∧
       ∀ v, v ≠ u → replica t v = replica s v) ∧
   (∀ (s : State) (l : List (Nat × Int)), ∃ t, exec (.cicadaCheckMarker l) s = .next t ∧ ∀ u, replica s u ≤ replica t u)) ∧
  ((∀ (s : State) (t : Nat), t < 8 → bit (rd s t (tmr Reg.CIC_TMR_CTL)) 31 = true →
     rd64 s t (tmr Reg.CIC_TMR_CMP_LO) ≤ s.cic.count → rd s t (tmr Reg.CIC_TMR_PERIOD) = 0 →
     exec (.timerFire t) s =
       .next (setFld (raiseInt (setFld s t (tmr Reg.CIC_TMR_CTL) 30 30 1) (hub Pg.CIC 0) (1 + t)) t (tmr Reg.CIC_TMR_CTL) 31 31 0)) ∧
   (∀ (s : State) (t : Nat), t < 8 → bit (rd s t (tmr Reg.CIC_TMR_CTL)) 31 = true →
     rd64 s t (tmr Reg.CIC_TMR_CMP_LO) ≤ s.cic.count → rd s t (tmr Reg.CIC_TMR_PERIOD) ≠ 0 →
     s.cic.count ≤ rd64 s t (tmr Reg.CIC_TMR_CMP_LO) + rd s t (tmr Reg.CIC_TMR_PERIOD) →
     exec (.timerFire t) s =
       .next (wr64 (raiseInt (setFld s t (tmr Reg.CIC_TMR_CTL) 30 30 1) (hub Pg.CIC 0) (1 + t)) t (tmr Reg.CIC_TMR_CMP_LO)
         (rd64 s t (tmr Reg.CIC_TMR_CMP_LO) + rd s t (tmr Reg.CIC_TMR_PERIOD)))) ∧
   (∀ (s : State) (t : Nat), t < 8 →
     (bit (rd s t (tmr Reg.CIC_TMR_CTL)) 31 = false ∨ s.cic.count < rd64 s t (tmr Reg.CIC_TMR_CMP_LO)) →
     exec (.timerFire t) s = .next s) ∧
   (∀ (s : State) (src : Source) (v : Nat), Reaches s src (tmr Reg.CIC_TMR_CMP_HI) →
     let t := fld s 0 (tmr Reg.CIC_TMR_SEL) 2 0
     exec (.timerCompareWrite src v) s = .next (fireTimer (applyHi s src t (tmr Reg.CIC_TMR_CMP_LO) v) t))) ∧
  (let ctl := hub Pg.CIC Reg.CIC_WDT_CTL
   (∀ (s : State) (src : Source) (v : Nat), Reaches s src (hub Pg.CIC Reg.CIC_WDT_KICK) →
     exec (.wdtKick src v) s =
       .next (setFld { s with cic := { s.cic with wdtAt := s.cic.count + max 1 (rd s 0 (hub Pg.CIC Reg.CIC_WDT_PERIOD)) } } 0 ctl 29 28 0)) ∧
   (∀ (s : State) (src : Source) (v : Nat), Reaches s src ctl → bit v 31 = true →
     ∃ t, exec (.wdtEnable src v) s = .next t ∧ bit (rd t 0 ctl) 31 = true ∧
       (bit (rd s 0 ctl) 31 = false → t.cic.wdtAt = s.cic.count + max 1 (rd s 0 (hub Pg.CIC Reg.CIC_WDT_PERIOD)))) ∧
   (∀ (s : State) (src : Source) (v : Nat), Reaches s src ctl → bit v 31 = false →
     ∃ t, exec (.wdtEnable src v) s = .next t ∧ bit (rd t 0 ctl) 31 = bit (rd s 0 ctl) 31 ∧ t.cic = s.cic) ∧
   (∀ s : State, bit (rd s 0 ctl) 31 = true → s.cic.wdtAt ≤ s.cic.count → s.boot.warmBusy = false → fld s 0 ctl 29 28 = 0 →
     exec .watchdogExpiry s =
       .next (raiseError (raiseInt (setFld { s with cic := { s.cic with wdtAt := s.cic.count + wdtPeriod s } } 0 ctl 29 28 1)
         (hub Pg.CIC 0) 9) { sev := 2, type := 0x0203, die := 0, inst := 0 })) ∧
   (∀ s : State, bit (rd s 0 ctl) 31 = true → bit (rd s 0 ctl) 30 = true → s.cic.wdtAt ≤ s.cic.count → s.boot.warmBusy = false →
     fld s 0 ctl 29 28 = 1 →
     exec .watchdogExpiry s =
       .next (beginWarm (raiseError (setFld { s with cic := { s.cic with wdtAt := s.cic.count + wdtPeriod s } } 0 ctl 29 28 2)
         { sev := 3, type := 0x0203, die := 0, inst := 0 }) 2)) ∧
   (∀ s : State, s.cic.committedAt + 60 ≤ bootMinutes s →
     ∃ t, exec .powerMinCommit s = .next t ∧
       t.cic = { s.cic with minutes := powerMinutes s, committedAt := bootMinutes s } ∧
       (∃ c ∈ t.pld.queue, c.type = 0x11 ∧ c.data = leBytes 8 (powerMinutes s)) ∧ (∃ c ∈ t.pld.queue, c.type = 0x12)))


/-! ## Power and heat -/

/-- The energy of a sample is the power of every die over its 50 µs, and every nanojoule of it is charged once: what the live contexts'
accounts and the unattributed account gain together is what the package's energy gains (R409). No sample is taken within 50 µs of the
last (R394). -/
def Obligations.EnergyAccountsSumToThePackage : Prop :=
  let total (s : State) : Nat := ((List.range 64).map fun c => (s.ctx c).energyUsed).sum + s.pwr.unattributed
  (∀ (s : State) (o : PowerObs), s.cic.count < s.pwr.sampleAt → exec (.telemetrySample o) s = .next s) ∧
  ∀ (s : State) (o : PowerObs), s.pwr.sampleAt ≤ s.cic.count → ∃ t, exec (.telemetrySample o) s = .next t ∧
    t.pwr.energy = s.pwr.energy + ((o.watts.filter fun p => dieCodes.contains p.1 || p.1 == 6).map fun p => p.2 * 50).sum ∧
    total t + s.pwr.energy = total s + t.pwr.energy

/-- The power manager's loops (R395, R397, R401, R402): a die above its limit is lowered one point and not raised for 1 ms, the others may
rise one point, and each moves to its point; the third droop trip within 1 ms lowers a die in the same way; a voltage change that is done puts the die at its
point; a silent regulator leaves its dies to their own sensors; a cap period lowers the settings while the forecast is above
the effective cap, raises them one step where it is more than 5% below, and leaves them otherwise. -/
def Obligations.PowerLoopsMoveThePoints : Prop :=
  (∀ (s : State) (amps : List (Nat × Nat)), (∀ p ∈ amps, okControlled p.1 = true) →
    (s.cic.count < s.pwr.fastAt → exec (.fastLoop amps) s = .next s) ∧
    (s.pwr.fastAt ≤ s.cic.count →
      ∃ t, exec (.fastLoop amps) s = .next t ∧ t.cic = s.cic ∧ t.mem = s.mem ∧ t.regs = s.regs ∧
        ∀ d < 8, (railOver s amps (8 + d) = true →
            (t.die (8 + d)).curCeil = pointOf s d - 1 ∧ (t.die (8 + d)).raiseAt = s.cic.count + 125000) ∧
          (railOver s amps (8 + d) = false → (s.die (8 + d)).curCeil < 15 → (s.die (8 + d)).raiseAt ≤ s.cic.count →
            (t.die (8 + d)).curCeil = (s.die (8 + d)).curCeil + 1) ∧
          (railOver s amps (8 + d) = false → (s.cic.count < (s.die (8 + d)).raiseAt ∨ 15 ≤ (s.die (8 + d)).curCeil) →
            t.die (8 + d) = { s.die (8 + d) with target := pointOf s d }))) ∧
  (∀ (s : State) (d : Nat), d < 8 →
    let u := countFld s 0 (pwrReg Reg.PWR_DROOP) 31 0 1
    let l := ((s.die (8 + d)).droops.filter fun t => decide (s.cic.count < t + 125000)) ++ [s.cic.count]
    exec (.droopTrip d) s =
      .next (if 3 ≤ l.length then fastLower (u.setDie (8 + d) { s.die (8 + d) with droops := [] }) d
        else u.setDie (8 + d) { s.die (8 + d) with droops := l })) ∧
  (∀ (s : State) (d : Nat), d < 8 →
    exec (.opChangeDone d) s = .next (s.setDie (8 + d) { s.die (8 + d) with op := (s.die (8 + d)).target })) ∧
  (∀ (s : State) (dies failed : List Nat), (∀ d ∈ dies, d ∈ dieCodes) →
    ∃ t, exec (.telemetryLost dies failed) s = .next t ∧
      ∀ d ∈ dies, (t.die d).sensorOnly = true ∧ (t.die d).sensorsFailed = ((s.die d).sensorsFailed || failed.contains d)) ∧
  (∀ (s : State) (o : CapObs), s.cic.count < s.pwr.capAt → exec (.capLoop o) s = .next s) ∧
  (∀ (s : State) (o : CapObs), s.pwr.capAt ≤ s.cic.count →
    let u := capMeasure { s with pwr := { s.pwr with capAt := s.cic.count + 125000 } }
    let v := if effCap u * 1000 < forecast u o (capNow u) then setCaps u (capNow u) (lowerTo u o (effCap u * 1000) 256 (capNow u))
      else if forecast u o (capNow u) * 100 < effCap u * 1000 * 95 then raiseOne u else u
    exec (.capLoop o) s = .next (repoint (pwrStatus v 31 (capBinds v))))

/-- The estimator, ageing and the guest's power (R406, R407, R408, R411, R413): the suspect state is shown, lowers the effective cap and is
reported, but not during a first run; a recalibration takes the new coefficients, clears RECAL and, where estimate and
measurement agree, ends the suspect state; a reading raises a margin by at most one step; a guest above its allowance is cut off. -/
def Obligations.EstimatorAndMargins : Prop :=
  (∀ s : State, s.pwr.suspect = false → firstRunning s = false →
    let u := pwrStatus { s with pwr := { s.pwr with suspect := true } } 29 true
    exec .estimatorSuspect s =
      .next (raiseInt (raiseError (setFld u 0 (pwrReg Reg.PWR_CAP_EFF) 15 0 (effCap u))
        { sev := 0, type := 0x0805, die := 0, inst := 0 }) (pwrReg 0) 1)) ∧
  (∀ (s : State) (d k : Nat) (agreed : Bool), d ∈ dieCodes →
    ∃ t, exec (.recalibration [(d, k)] agreed) s = .next t ∧ (t.die d).coeff = k ∧ (t.die d).firstRun = false ∧
      fld t 0 (pwrReg Reg.PWR_CTL) 0 0 = 0 ∧ t.pwr.suspect = (s.pwr.suspect && !agreed) ∧
      (∀ e, e ≠ d → t.die e = s.die e)) ∧
  (∀ (s : State) (src : Source), Reaches s src (pwrReg Reg.PWR_CTL) →
    exec (.pwrRecal src) s = .next (setFld s 0 (pwrReg Reg.PWR_CTL) 0 0 1)) ∧
  (∀ (s : State) (l : List (Nat × Nat)), powerMinutes s < s.pwr.agedAt + 1440 → exec (.ageingReading l) s = .next s) ∧
  (∀ (s : State) (d need : Nat), d = 1 ∨ d ∈ cellDieCodes → s.pwr.agedAt + 1440 ≤ powerMinutes s →
    ∃ t, exec (.ageingReading [(d, need)]) s = .next t ∧ (t.die d).hasMargin = true ∧
      (t.die d).margin = (if (s.die d).hasMargin = false then max 4 need
        else if (s.die d).margin < need then (s.die d).margin + 1 else (s.die d).margin) ∧
      ∀ e, e ≠ d → (t.die e).margin = (s.die e).margin) ∧
  (∀ s : State, s.sec.guestOn = true →
    exec .guestPower s = .next (raiseError (closeGuest s) { sev := 2, type := 0x0808, die := 6, inst := 0 })) ∧
  (∀ s : State, s.sec.guestOn = false → exec .guestPower s = .next s)

/-! ## Warm and block resets, and tests in service -/

/-- A warm device reset (R471, R473, R474, R490): it begins for RST_CMD and for an escalation that is due, while boot has not stopped; it
keeps the count, the boot number, the fuses, the store's records and the contexts. Stores that are not drained wait for at most 10 µs;
then the contexts stand reset and paused, and translations, packets, re-shards and match units are cleared. Once no key erase runs it
ends, with quarantine, guest isolation and the entropy refusal. -/
def Obligations.WarmResetKeepsContextsAndTheStore : Prop :=
  let warm (s t : State) : Prop :=
    t.boot.warmBusy = true ∧ t.cic.count = s.cic.count ∧ t.boot.bootNum = s.boot.bootNum ∧ t.sec.fuses = s.sec.fuses ∧
    t.pld.records = s.pld.records ∧ (∀ i < 64, (t.ctx i).live = (s.ctx i).live) ∧
    (t.boot.drainUntil = none ∨ t.boot.drainUntil = some (s.cic.count + 1250)) ∧
    (t.boot.drainUntil = none →
      t.xlt = XltSys.start ∧ t.mtus = [] ∧ t.held = [] ∧ t.str.packets = [] ∧ t.str.reshards = [] ∧
      ∀ i < 64, (s.ctx i).live = true → (t.ctx i).paused = true)
  (∀ (s : State) (src : Source), Reaches s src (rstReg Reg.RST_CMD) → s.boot.warmBusy = false → s.boot.stopped = false →
    s.boot.railDown = false → 2 ≤ s.boot.stage → ∃ t, exec (.rstCmdWarm src) s = .next t ∧ warm s t) ∧
  (∀ (s : State) (at_ : Nat), s.err.escalateAt = some at_ → at_ ≤ s.cic.count → s.err.stuck = false → s.boot.warmBusy = false →
    s.boot.stopped = false → s.boot.railDown = false → 2 ≤ s.boot.stage → ∃ t, exec .autoWarmEscalation s = .next t ∧ warm s t) ∧
  (∀ (s : State) (badCells badDies : List Nat) (badClusters : Nat) (trained : List IfaceObs), s.boot.warmBusy = true →
    (∀ u, s.boot.drainUntil = some u → u ≤ s.cic.count) → s.sec.erase = none →
    ∃ t, exec (.warmResetDone ⟨badCells, badDies⟩ badClusters trained) s = .next t ∧ t.boot.warmBusy = false ∧
      t.sec.dike = (if s.sec.dike = 1 then 0 else s.sec.dike) ∧ t.sec.guestIso = false ∧ t.sec.entropyBad = false ∧
      t.cic.count = s.cic.count) ∧
  (∀ (s : State) (badCells badDies : List Nat) (badClusters : Nat) (trained : List IfaceObs), s.boot.warmBusy = true →
    s.boot.drainUntil = none → s.sec.erase ≠ none → exec (.warmResetDone ⟨badCells, badDies⟩ badClusters trained) s = .next s)

/-- A block reset acts on the cell die, link die or core cluster that RST_CMD names and ends with RESULT 1; another target gives
BAD_TARGET, and one during a warm device reset or another block's BUSY (R475, R491, R492). The stores of a cluster are drained first,
for at most 10 µs (R273, R475). -/
def Obligations.BlockResetActsOnItsTarget : Prop :=
  let a := rstReg Reg.RST_CMD
  ∀ (s : State) (src : Source) (badCells badDies : List Nat) (ok : Bool) (trained : List IfaceObs), Reaches s src a →
    s.boot.stopped = false → s.boot.railDown = false →
    let u := setFld s 0 a 26 24 2
    let v := setFld u 0 a 31 31 1
    let d := fld u 0 a 21 16
    let c := fld u 0 a 12 8
    (s.boot.warmBusy = true → exec (.rstCmdBlock src ⟨badCells, badDies⟩ ok trained) s = .next (setFld u 0 a 3 0 4)) ∧
    (2 ≤ s.boot.busyKind → ¬(d = 1 ∧ s.boot.busyKind = 2 + c) →
      exec (.rstCmdBlock src ⟨badCells, badDies⟩ ok trained) s = .next (setFld u 0 a 3 0 4)) ∧
    (s.boot.warmBusy = false → s.boot.busyKind < 2 → 8 ≤ d ∧ d ≤ 15 →
      exec (.rstCmdBlock src ⟨badCells, badDies⟩ ok trained) s = .next (rstEnd (resetCellDie v (d - 8) badCells badDies trained) 1)) ∧
    (s.boot.warmBusy = false → s.boot.busyKind < 2 → 16 ≤ d ∧ d ≤ 19 →
      exec (.rstCmdBlock src ⟨badCells, badDies⟩ ok trained) s = .next (rstEnd (resetLinkDie v (d - 16) trained) 1)) ∧
    (s.boot.warmBusy = false → s.boot.busyKind < 2 ∨ s.boot.busyKind = 2 + c → d = 1 ∧ c < 24 →
      let w := (hartsOf c).foldl (fun s h => s.setHart h { s.hart h with running := false }) (drainPass v (hartsOf c))
      let until_ := w.boot.drainUntil.getD (w.cic.count + 1250)
      (buffersLeft w (hartsOf c) = true → w.cic.count < until_ →
        exec (.rstCmdBlock src ⟨badCells, badDies⟩ ok trained) s =
          .next { w with boot := { w.boot with drainUntil := some until_, busyKind := 2 + c } }) ∧
      (buffersLeft w (hartsOf c) = false ∨ until_ ≤ w.cic.count →
        exec (.rstCmdBlock src ⟨badCells, badDies⟩ ok trained) s =
          .next (rstEnd (resetCluster { w with boot := { w.boot with drainUntil := none, busyKind := 0 } } c ok) 1))) ∧
    (s.boot.warmBusy = false → s.boot.busyKind < 2 → ¬(8 ≤ d ∧ d ≤ 19) → ¬(d = 1 ∧ c < 24) →
      exec (.rstCmdBlock src ⟨badCells, badDies⟩ ok trained) s = .next (setFld (setFld v 0 a 31 31 0) 0 a 3 0 2))

/-- A cell that no context owns or borrows is tested where the test is enabled, once in PERIOD_H power-on hours: it is fenced when it
fails, and loses its fence when it passes (R476, R478). A coalescing window that is over goes, and the events counted in it are delivered in one record (R483). -/
def Obligations.IdleTestsAndCoalescing : Prop :=
  (∀ (s : State) (c : Nat) (ok : Bool), c < 320 → fld s 0 (rstReg Reg.ST_IDLE_CTL) 31 31 = 1 → ownerOf s c = none →
    (s.cell c).runner = none → s.offline (8 + c / 40) = false →
    tget (fun _ => 0) s.boot.tested c + 60 * max 1 (fld s 0 (rstReg Reg.ST_IDLE_CTL) 7 0) ≤ powerMinutes s →
    ∃ t, exec (.idleCellTest c ok) s = .next t ∧ (t.cell c).fenced = !ok ∧
      (∀ e, e ≠ c → t.cell e = s.cell e) ∧ t.ctxs = s.ctxs) ∧
  (∀ (s : State) (c : Nat) (ok : Bool), c < 320 →
    (ownerOf s c).isSome = true ∨
      powerMinutes s < tget (fun _ => 0) s.boot.tested c + 60 * max 1 (fld s 0 (rstReg Reg.ST_IDLE_CTL) 7 0) →
    exec (.idleCellTest c ok) s = .next s) ∧
  (∀ (s : State) (type die inst : Nat) (w : CoalWin) (l : List CoalWin), s.err.windows = w :: l → w.type = type → w.die = die →
    w.inst = inst → w.until_ ≤ s.cic.count → (∀ x ∈ l, x.type = type → x.die = die → x.inst ≠ inst) →
    exec (.correctedCoalesceEnd type die inst) s =
      .next (if w.events = 0 then { s with err := { s.err with windows := l } }
        else deliver { s with err := { s.err with windows := l } } { sev := 0, type := type, die := die, inst := inst } w.events))

/-! ## Contexts -/

/-- CREATE (R42, R43, R335, R409, R410, R453): with a descriptor, cells and an id that nothing in R43 refuses, the context is live with its
descriptor and phase table, claimed, its queues at zero, its slot loaded with a fresh key, its energy budget loaded, and RESULT is 0. A
descriptor that R43 refuses sets the code it names and nothing else. -/
def Obligations.CreateMakesAContextLive : Prop :=
  ∀ (s : State) (src : Source) (id : Nat), id < 64 → Reaches s src ctxmCmd →
    let u := ctxmWrite s 1 id
    let addr := rd64 u 0 (hub Pg.CTXM Reg.CTXM_DESC_LO)
    let raw := devLE u addr 256
    let d := CtxDesc.ofRaw raw
    let code := createCode u id addr raw d
    let new : Ctx := { Ctx.idle with live := true, desc := d, claimed := true, token := u.sec.nextKey + 1, tokenReady := true }
    (code ≠ 0 → exec (.create src id) s = .next (ctxmResult u code)) ∧
    (code = 0 → (createPhases (u.setCtx id new) id d.phaseTable).2 = none →
      exec (.create src id) s = .next (ctxmResult u CtxmRes.BAD_DESC)) ∧
    (∀ ph, code = 0 → (createPhases (u.setCtx id new) id d.phaseTable).2 = some ph →
      ∃ t, exec (.create src id) s = .next t ∧ t.ctx id = { new with phases := ph } ∧
        t.slot id = { st := 1, key := u.sec.nextKey, fromBlob := false } ∧
        rd64 t id (hub Pg.PWR Reg.PWR_CTX_BUDGET_LO) = d.energyBudget ∧ rd t 0 (hub Pg.CTXM Reg.CTXM_RESULT) = 0)

/-- DESTROY, RESET, PAUSE and RESUME of a live context (R43, R44, R217, R410, R454). DESTROY and RESET stop the context's cells; where that leaves
operations to complete, they finish once those have (which operations those are is the model's reading, notes/assumptions/87.md). DESTROY leaves the id idle, its key slot empty and the key map
without an entry that names it; RESET leaves it live with its descriptor, claim, slot and map, its queues at zero and in phase 0; PAUSE
and RESUME set and clear what stops arming, a budget that is still reached pausing it again.
An operation other than CREATE on an id that is not live fails with NOT_LIVE, and one through a host port on a context that no host has
claimed fails with UNCLAIMED, but for DESTROY (R43, R336). -/
def Obligations.ContextOperationsOnContexts : Prop :=
  (∀ (s : State) (src : Source) (id : Nat), id < 64 → Reaches s src ctxmCmd → (s.ctx id).live = true →
     (cellsQuiet (stopCells (ctxmWrite s 2 id) id) id = true →
       ∃ t, exec (.destroy src id) s = .next t ∧ t.ctx id = Ctx.idle ∧ t.slot id = KeySlot.empty ∧ (∀ p ∈ t.sec.keyMap, p.2 ≠ id) ∧
       rd t 0 (hub Pg.CTXM Reg.CTXM_RESULT) = 0) ∧
     (let u := stopCells (ctxmWrite s 2 id) id
      cellsQuiet u id = false →
       exec (.destroy src id) s = .next (u.setCtx id { u.ctx id with ending := 2, cmds := [], barrier := none })) ∧
     ((∀ p, src = .host p → (s.ctx id).claimed = true) →
       (cellsQuiet (stopCells (ctxmWrite s 3 id) id) id = true →
         ∃ t, exec (.reset src id) s = .next t ∧ (t.ctx id).live = true ∧ (t.ctx id).desc = (s.ctx id).desc ∧
         (t.ctx id).claimed = (s.ctx id).claimed ∧ (t.ctx id).producer = 0 ∧ (t.ctx id).consumer = 0 ∧ (t.ctx id).cmds = [] ∧
         (t.ctx id).fqProduced = 0 ∧ (t.ctx id).fqConsumed = 0 ∧ (t.ctx id).phase = 0 ∧ (t.ctx id).tags = [] ∧
         t.slot id = s.slot id ∧ t.sec.keyMap = s.sec.keyMap ∧ rd t 0 (hub Pg.CTXM Reg.CTXM_RESULT) = 0) ∧
       exec (.pause src id) s =
         .next (ctxmResult ((ctxmWrite s 4 id).setCtx id { s.ctx id with paused := true }) 0) ∧
       (rd64 (ctxmWrite s 5 id) id (pwrReg Reg.PWR_CTX_BUDGET_LO) = 0 →
         exec (.resume src id) s =
           .next (ctxmResult ((ctxmWrite s 5 id).setCtx id { s.ctx id with paused := false }) 0)) ∧
       (rd64 (ctxmWrite s 5 id) id (pwrReg Reg.PWR_CTX_BUDGET_LO) ≠ 0 →
         rd64 (ctxmWrite s 5 id) id (pwrReg Reg.PWR_CTX_BUDGET_LO) ≤ (s.ctx id).energyUsed / 1000000 →
         ∃ t, exec (.resume src id) s = .next t ∧ (t.ctx id).paused = true ∧ (t.ctx id).energyOut = true))) ∧
  (∀ (s : State) (src : Source) (id : Nat), id < 64 → Reaches s src ctxmCmd →
     ((s.ctx id).live = false →
       exec (.destroy src id) s = .next (ctxmResult (ctxmWrite s 2 id) 7) ∧ exec (.reset src id) s = .next (ctxmResult (ctxmWrite s 3 id) 7) ∧
       exec (.pause src id) s = .next (ctxmResult (ctxmWrite s 4 id) 7) ∧ exec (.resume src id) s = .next (ctxmResult (ctxmWrite s 5 id) 7)) ∧
     ((s.ctx id).ending = 2 ∨ (s.ctx id).ending = 3 → cellsQuiet s id = true →
       endIfQuiet s id = ctxmResult (endContext s id (s.ctx id).ending) 0) ∧
     ((s.ctx id).ending = 4 → cellsQuiet s id = true → endIfQuiet s id = secEvent (destroyContext s id) Sev.SCRUB id 0 0 true) ∧
     (∀ p, src = .host p → (s.ctx id).live = true → (s.ctx id).claimed = false →
       exec (.reset src id) s = .next (ctxmResult (ctxmWrite s 3 id) 8) ∧ exec (.pause src id) s = .next (ctxmResult (ctxmWrite s 4 id) 8) ∧
       exec (.resume src id) s = .next (ctxmResult (ctxmWrite s 5 id) 8)))

/-! ## Command queues -/

/-- The doorbell's window (R46): a count is accepted exactly where it is ahead of the last one by no more than the ring has room for; the
same count has no effect; any other sets DB_BAD, is reported against the context, and leaves the producer count. -/
def Obligations.DoorbellWindow : Prop :=
  ∀ (s : State) (src : Source) (ctx new : Nat), ctx < 64 → new < 2 ^ 32 → Reaches s src (dbAddr ctx Reg.CQ_DOORBELL) →
    (s.ctx ctx).live = true → (∀ p, src = .host p → (s.ctx ctx).claimed = true) → (s.ctx ctx).producer < 2 ^ 32 →
    let old := (s.ctx ctx).producer
    let step := (new + 2 ^ 32 - old) % 2 ^ 32
    let room := 2 ^ (s.ctx ctx).desc.cqLog2 - (old + 2 ^ 32 - (s.ctx ctx).consumer) % 2 ^ 32
    (0 < step → step ≤ room → exec (.cqDoorbell src ctx new) s = .next (s.setCtx ctx { s.ctx ctx with producer := new })) ∧
    (new = old → exec (.cqDoorbell src ctx new) s = .next s) ∧
    (room < step → exec (.cqDoorbell src ctx new) s =
      .next (raiseError (s.setCtx ctx { s.ctx ctx with dbBad := true })
        { sev := 2, type := 0x0502, die := cmdUnit ctx, inst := ctx, ctx := some ctx,
          detail := [new, old, (s.ctx ctx).consumer, 0] }))

/-- Fetch, resume and completion (R45, R48, R50): a fetch takes the command at the consumer count, moves the count on and writes it out, and
passes over one that ran before its queue was halted; a command whose common layout is bad fails when its turn to issue has come; a halted queue, an empty ring and a queue with 16 commands fetch nothing; CQ_RESUME restarts a halted queue past the failed command or at it;
a command that is carried out leaves the queue once its flag is written and its vector raised, and not before the mirror copies of what it
wrote are acknowledged (R380). -/
def Obligations.QueuesFetchResumeAndComplete : Prop :=
  (∀ (s v : State) (ctx : Nat) (bytes : List Byte), ctx < 64 → s.boot.warmBusy = false → s.boot.fatal = false → (s.ctx ctx).live = true →
    (s.ctx ctx).halted = false → (s.ctx ctx).producer ≠ (s.ctx ctx).consumer → (s.ctx ctx).cmds.length < 16 →
    (s.ctx ctx).countDue = none → (s.ctx ctx).ending = 0 → (∀ x ∈ (s.ctx ctx).cmds, x.stage ≠ .fetched) →
    (s.ctx ctx).ran.contains (s.ctx ctx).consumer = false →
    let c := s.ctx ctx
    fetchRead s ctx (c.desc.cqBase + 64 * (c.consumer % 2 ^ c.desc.cqLog2)) = (v, some bytes) →
    let cmd : Cmd := { index := c.consumer, raw := leNat bytes, stage := .fetched, tested := false, waits := 0, base := 0, flagged := false, begun := 0, ended := 0 }
    cmd.commonCode = 0 →
    exec (.commandFetch ctx) s =
      .next (consumedWrite (v.setCtx ctx { v.ctx ctx with
          cmds := (v.ctx ctx).cmds ++ [cmd], consumer := ((v.ctx ctx).consumer + 1) % 2 ^ 32 })
        ctx cmd.seq (v.ctx ctx).desc.consumedAddr (((v.ctx ctx).consumer + 1) % 2 ^ 32))) ∧
  (∀ (s : State) (ctx : Nat), ctx < 64 → s.boot.warmBusy = false → s.boot.fatal = false → (s.ctx ctx).live = true →
    (s.ctx ctx).halted = false → (s.ctx ctx).producer ≠ (s.ctx ctx).consumer → (s.ctx ctx).cmds.length < 16 →
    (s.ctx ctx).countDue = none → (s.ctx ctx).ending = 0 → (∀ x ∈ (s.ctx ctx).cmds, x.stage ≠ .fetched) →
    (s.ctx ctx).ran.contains (s.ctx ctx).consumer = true →
    let next := ((s.ctx ctx).consumer + 1) % 2 ^ 32
    exec (.commandFetch ctx) s =
      .next (consumedWrite (s.setCtx ctx (pruneRan { s.ctx ctx with consumer := next })) ctx 0 (s.ctx ctx).desc.consumedAddr next)) ∧
  (∀ (s : State) (ctx : Nat), ctx < 64 →
    (s.ctx ctx).countDue = none → (∀ x ∈ (s.ctx ctx).cmds, x.stage ≠ .fetched) →
    ((s.ctx ctx).live = false ∨ (s.ctx ctx).halted = true ∨ (s.ctx ctx).producer = (s.ctx ctx).consumer ∨ 16 ≤ (s.ctx ctx).cmds.length) →
    exec (.commandFetch ctx) s = .next s) ∧
  (∀ (s : State) (ctx : Nat) (cmd : Cmd), ctx < 64 → s.boot.warmBusy = false → s.boot.fatal = false → (s.ctx ctx).countDue = none →
    (s.ctx ctx).halted = false → (s.ctx ctx).producer = (s.ctx ctx).consumer → nextUnissued (s.ctx ctx) = some cmd →
    exec (.commandFetch ctx) s =
      .next (if queueRuns s ctx = true ∧ cmd.commonCode ≠ 0 then haltQueue s ctx cmd.index cmd.commonCode else s)) ∧
  (∀ (s : State) (src : Source) (ctx value : Nat), ctx < 64 → Reaches s src (dbAddr ctx Reg.CQ_RESUME) → (s.ctx ctx).halted = true →
    let u := s.setCtx ctx { s.ctx ctx with
      halted := false, err := 0
      consumer := if bit value 0 then ((s.ctx ctx).consumer + 1) % 2 ^ 32 else (s.ctx ctx).consumer }
    exec (.cqResume src ctx value) s =
      .next (if bit value 0 then consumedWrite u ctx 0 (s.ctx ctx).desc.consumedAddr (((s.ctx ctx).consumer + 1) % 2 ^ 32) else u)) ∧
  (∀ (s : State) (ctx index : Nat) (cmd : Cmd) (l : List Cmd), ctx < 64 → (s.ctx ctx).cmds = cmd :: l → cmd.index = index →
    cmd.stage = .performed → cmd.flagOnDone = false → copiesOpen s (s.ctx ctx).copies = false → (∀ x ∈ l, x.index ≠ index) →
    ∃ t, exec (.commandComplete ctx index) s = .next t ∧ (t.ctx ctx).cmds = l ∧
      t.host.vecs = s.host.vecs ++ (if cmd.irqOnDone = true ∧ ¬(cmd.opcode = 0x0A ∧ cmd.waits ≠ 0) then [⟨16 * ctx, vectorRoute s (16 * ctx)⟩] else []) ∧
      t.mem = s.mem ∧ t.cells = s.cells ∧ t.regs = s.regs)

/-- Issue (R48, R161): a command that nothing holds issues; a stamped one does not issue before its unit's replica has reached the stamp;
one with BARRIER does not issue while an earlier command is not complete; a paused context issues nothing. -/
def Obligations.CommandsIssueInOrder : Prop :=
  (∀ (s : State) (ctx op : Nat) (cmd : Cmd), Issues s ctx op cmd → issueNext s ctx op = issuedState s ctx cmd) ∧
  (∀ (s : State) (ctx op : Nat) (cmd : Cmd), nextUnissued (s.ctx ctx) = some cmd → cmd.stamped = true → replica s (Rep.cmd ctx) < cmd.stamp →
    (issueNext s ctx op).ctxs = s.ctxs ∨
      (issueNext s ctx op).ctxs = (mapCmd s ctx cmd.index fun x => { x with tested := true }).ctxs) ∧
  (∀ (s : State) (ctx op : Nat) (cmd : Cmd), nextUnissued (s.ctx ctx) = some cmd → cmd.barrier = true →
    (∃ x ∈ (s.ctx ctx).cmds, ringBefore x.index cmd.index = true) →
    (issueNext s ctx op).ctxs = s.ctxs ∨
      (issueNext s ctx op).ctxs = (mapCmd s ctx cmd.index fun x => { x with tested := true }).ctxs) ∧
  (∀ (s : State) (ctx op : Nat), (s.ctx ctx).paused = true → issueNext s ctx op = s)

/-- NOP, WAIT, WAIT_EVALUATE and INVALIDATE (R47, R293, R294): NOP is carried out when it issues; a WAIT is carried out once its comparison with
the 64-bit value in memory holds, and waits otherwise; an INVALIDATE, with fewer than 16 in flight, begins at every unit that is not fenced. -/
def Obligations.NopWaitAndInvalidate : Prop :=
  (∀ (s : State) (ctx : Nat) (cmd : Cmd), Issues s ctx 0x00 cmd →
    cmd.zeros [0x20, 0x24, 0x28, 0x2C, 0x30, 0x34, 0x38, 0x3C] = true →
    exec (.nop ctx) s = .next (setStage (issuedState s ctx cmd) ctx cmd.index .performed)) ∧
  (∀ (s v : State) (ctx : Nat) (cmd : Cmd) (bytes : List Byte), Issues s ctx 0x05 cmd →
    cmd.f 0x20 31 2 = 0 → cmd.zeros [0x24, 0x38, 0x3C] = true → cmd.f 0x28 2 0 = 0 →
    cmdRead (issuedState s ctx cmd) ctx cmd.seq (cmd.f 0x28 63 0) 8 = (v, some bytes) →
    exec (.wait ctx) s =
      .next (if waitHolds (cmd.f 0x20 1 0) (leNat bytes) (cmd.f 0x30 63 0) then setStage v ctx cmd.index .performed else v)) ∧
  (∀ (s v : State) (ctx index : Nat) (cmd : Cmd) (bytes : List Byte), ctx < 64 → (s.ctx ctx).cmds = [cmd] → cmd.index = index →
    cmd.stage = .issued → cmd.opcode = 5 → cmd.f 0x20 31 2 = 0 → cmd.zeros [0x24, 0x38, 0x3C] = true → cmd.f 0x28 2 0 = 0 →
    cmdRead s ctx cmd.seq (cmd.f 0x28 63 0) 8 = (v, some bytes) →
    exec (.waitEvaluate ctx index) s =
      .next (if waitHolds (cmd.f 0x20 1 0) (leNat bytes) (cmd.f 0x30 63 0) then setStage v ctx cmd.index .performed else v)) ∧
  (∀ (s : State) (ctx : Nat) (cmd : Cmd), Issues s ctx 0x06 cmd → cmd.zeros [0x20, 0x24, 0x38, 0x3C] = true → cmd.f 0x28 11 0 = 0 →
    cmd.waits = 0 →
    exec (.invalidate ctx) s =
      .next (beginInval (setWaits (issuedState s ctx cmd) ctx cmd.index 1) ctx (cmd.f 0x28 63 0) (cmd.f 0x30 63 0 * 4096) (some cmd.index)))

/-- CELL_LOAD, CELL_START and CELL_STOP act on the cells they name, in order (R47, R49, R68, R163). CELL_LOAD, with its image read, puts it into
each named cell that is ready and idle. CELL_START starts a ready cell: its header and arguments stand in SRAM, the tracks of its mask are
active at their entries, and its stamp base is the command's. CELL_STOP of no cell is carried out at once; on a cell it stops arming, and a program
with nothing in flight has halted. -/
def Obligations.CellCommandsActOnTheirCells : Prop :=
  (∀ (s v : State) (ctx : Nat) (cmd : Cmd) (bytes : List Byte), Issues s ctx 0x01 cmd →
    cmd.f 0x24 31 17 = 0 → cmd.zeros [0x30, 0x34, 0x38, 0x3C] = true → cmd.f 0x24 16 0 % 64 = 0 → cmd.f 0x24 16 0 ≤ 65536 →
    cellRangeOk (issuedState s ctx cmd) ctx (issuedCmd s ctx cmd) = true →
    cmdRead (issuedState s ctx cmd) ctx cmd.seq (cmd.f 0x28 63 0) (cmd.f 0x24 16 0) = (v, some bytes) →
    exec (.cellLoad ctx) s =
      .next (settleBegun ctx (issuedCmd s ctx cmd) (eachCell ctx (issuedCmd s ctx cmd) (loadCell ctx bytes) v))) ∧
  (∀ (s : State) (ctx p lc : Nat) (bytes : List Byte), cellAt s ctx p = .ready → runningIn s ctx p = false →
    ∃ t, loadCell ctx bytes s p lc = some t ∧ (t.cell p).img.prog = (loadProgram (s.cell p).img bytes).prog ∧
      (t.cell p).img.sram = (s.cell p).img.sram ∧ (t.cell p).runner = some ctx ∧ (∀ q, q ≠ p → t.cell q = s.cell q) ∧ t.mem = s.mem) ∧
  (∀ (s v : State) (ctx : Nat) (cmd : Cmd) (args : List Byte), Issues s ctx 0x02 cmd →
    cmd.f 0x24 31 29 = 0 → cmd.f 0x24 15 8 = 0 → cmd.f 0x24 28 16 ≤ 4032 → cmd.begun = 0 → cmdCount cmd.raw ≠ 0 →
    cellRangeOk (issuedState s ctx cmd) ctx (issuedCmd s ctx cmd) = true →
    cmdRead (openWindow (issuedState s ctx cmd) ctx) ctx cmd.seq (cmd.f 0x38 63 0) (cmd.f 0x24 28 16) = (v, some args) →
    exec (.cellStart ctx) s =
      .next (settleCmd (eachCell ctx (issuedCmd s ctx cmd) (startOne ctx (issuedCmd s ctx cmd) args) v) ctx cmd.index)) ∧
  (∀ (i : CellImg) (head : List Byte) (mask base : Nat) (entries : List Nat) (by_ : Option (Nat × Nat)) (t : Nat), t < 8 →
    let j := startProgram i head mask entries base by_
    j.started = true ∧ j.stampBase = base ∧ j.ops = [] ∧ (j.track t).active = bit mask t ∧
    (bit mask t = true → (j.track t).desc = nth entries t ∧ (j.track t).armed = false)) ∧
  (∀ (s : State) (ctx : Nat) (cmd : Cmd), Issues s ctx 0x03 cmd → cmd.f 0x24 31 1 = 0 →
    cmd.zeros [0x28, 0x2C, 0x30, 0x34, 0x38, 0x3C] = true → cmdCount cmd.raw = 0 →
    cellRangeOk (issuedState s ctx cmd) ctx (issuedCmd s ctx cmd) = true →
    exec (.cellStop ctx) s = .next (setStage (issuedState s ctx cmd) ctx cmd.index .performed)) ∧
  (∀ (s : State) (ctx p lc : Nat), cellAt s ctx p = .ready → runningIn s ctx p = true →
    (s.cell p).img.started = true →
    ((s.cell p).img.ops ≠ [] → stopOne ctx false s p lc = some (s.setCell p { s.cell p with img := (s.cell p).img.stop })) ∧
    ((s.cell p).img.ops = [] →
      stopOne ctx false s p lc = some (programHalted (s.setCell p { s.cell p with img := (s.cell p).img.stop }) p ctx)))

/-- PHASE_TABLE, CB_TABLE_LOAD, CB_TABLE_STORE, RESHARD and COLL (R65, R85, R198, R368): a phase table that keeps R65 is copied and waits for the
next PHASE; table images are loaded into the named cells; a ready cell's tables are stored with their trailer; a re-shard of a context
that runs none begins with its layouts' addresses; a collective whose descriptor breaks R368 ends with BAD_DESC. -/
def Obligations.TableReshardAndCollectiveCommands : Prop :=
  (∀ (s v : State) (ctx : Nat) (cmd : Cmd) (bytes : List Byte) (ph : List PhaseEntry), Issues s ctx 0x04 cmd →
    cmd.f 0x20 31 5 = 0 → cmd.f 0x20 4 0 ≠ 0 → cmd.f 0x20 4 0 ≤ 16 → cmd.zeros [0x24, 0x30, 0x34, 0x38, 0x3C] = true →
    cmdRead (issuedState s ctx cmd) ctx cmd.seq (cmd.f 0x28 63 0) (32 * cmd.f 0x20 4 0) = (v, some bytes) → phasesOf bytes = some ph →
    exec (.phaseTable ctx) s =
      .next (setStage (v.setCtx ctx { v.ctx ctx with nextPhases := some ph }) ctx cmd.index .performed)) ∧
  (∀ (s v : State) (ctx : Nat) (cmd : Cmd) (bytes : List Byte), Issues s ctx 0x10 cmd →
    cmd.f 0x24 31 17 = 0 → cmd.f 0x24 15 15 = 0 → cmd.f 0x24 7 6 = 0 → cmd.zeros [0x30, 0x34, 0x38, 0x3C] = true →
    cmd.f 0x24 14 8 ≠ 0 → cmd.f 0x24 5 0 + cmd.f 0x24 14 8 ≤ 64 →
    cellRangeOk (issuedState s ctx cmd) ctx (issuedCmd s ctx cmd) = true →
    cmdRead (issuedState s ctx cmd) ctx cmd.seq (cmd.f 0x28 63 0) (64 * cmd.f 0x24 14 8) = (v, some bytes) →
    exec (.cbTableLoad ctx) s =
      .next (settleBegun ctx (issuedCmd s ctx cmd) (eachCell ctx (issuedCmd s ctx cmd) (fun s p _ =>
        if cellAt s ctx p ≠ .ready ∨ enginesBusy (s.cell p).img then none
        else some (s.setCell p { s.cell p with img := { (s.cell p).img with
          books := (s.cell p).img.books.loadAll (cmd.f 0x24 5 0) (cmd.f 0x24 14 8) (cmd.f 0x24 16 16) bytes } })) v))) ∧
  (∀ (s v : State) (ctx p : Nat) (cmd : Cmd), Issues s ctx 0x11 cmd →
    cmd.f 0x24 31 15 = 0 → cmd.f 0x24 7 6 = 0 → cmd.zeros [0x30, 0x34, 0x38, 0x3C] = true → cmdCount cmd.raw = 1 →
    cmd.f 0x24 14 8 ≠ 0 → cmd.f 0x24 5 0 + cmd.f 0x24 14 8 ≤ 64 → physOf (issuedState s ctx cmd) ctx (cmdFirst cmd.raw) = some p →
    cellAt (issuedState s ctx cmd) ctx p = .ready →
    cmdWrite (issuedState s ctx cmd) ctx cmd.seq (cmd.f 0x28 63 0) ((s.cell p).img.books.images (cmd.f 0x24 5 0) (cmd.f 0x24 14 8)) = (v, true) →
    exec (.cbTableStore ctx) s = .next (setStage v ctx cmd.index .performed)) ∧
  (∀ (s : State) (ctx : Nat) (cmd : Cmd), Issues s ctx 0x0B cmd → cmd.begun = 0 → cmd.zeros [0x20, 0x24] = true → cmd.f 0x38 63 0 % 8 = 0 →
    (∀ r ∈ s.str.reshards, r.ctx ≠ ctx) →
    let u := mapCmd (issuedState s ctx cmd) ctx cmd.index fun x => { x with begun := 1 }
    exec (.reshard ctx) s =
      .next (shardGo { u with str := { u.str with reshards := u.str.reshards ++
        [{ ctx := ctx, cmd := some cmd.index, mapId := 0, stamp := none, oldAt := cmd.f 0x28 63 0, newAt := cmd.f 0x30 63 0,
           result := cmd.f 0x38 63 0, begun := false, pieces := [], ready := [], expect := [], awaitBytes := 0, deadline := none,
           places := [] }] } } ctx)) ∧
  (∀ (s v w : State) (ctx : Nat) (cmd : Cmd) (bytes tab : List Byte) (c : Coll), Issues s ctx 0x18 cmd → cmd.begun = 0 →
    cmd.zeros [0x20, 0x24, 0x38, 0x3C] = true → cmd.f 0x30 2 0 = 0 →
    cmdRead (issuedState s ctx cmd) ctx cmd.seq (cmd.f 0x28 63 0) 64 = (v, some bytes) →
    cmdRead v ctx cmd.seq (dfield (leNat bytes) 0x08 63 0) (4 * dfield (leNat bytes) 0 15 0) = (w, some tab) →
    collOf w ctx (issuedCmd s ctx cmd) (leNat bytes) ((elemsOf 4 tab).map (· % 2 ^ 20)) = some c →
    (∀ x ∈ w.lnk.colls, x.group ≠ c.group) → enginesReady w (issuedCmd s ctx cmd) = true → membersInBlock w c = true →
    (startColl { w with lnk := { w.lnk with colls := w.lnk.colls ++ [c] } } c).2 = true →
    exec (.coll ctx) s =
      .next (mapCmd (startColl { w with lnk := { w.lnk with colls := w.lnk.colls ++ [c] } } c).1 ctx cmd.index fun x => { x with begun := 1 }))

/-! ## Streams and re-shards -/

/-- The stream commands (R173, R174, R179, R180, R187): STREAM_CREATE writes the handle and status of the stream it makes; STREAM_DESTROY begins the
end of its stream; XFER issues its transfer on a stream that has fewer than 16; STREAM_QUERY writes its record. A freed index moves to its
next generation, and after 4,095 to 1. -/
def Obligations.StreamCommands : Prop :=
  (∀ (s v w x : State) (ctx h st : Nat) (cmd : Cmd) (bytes : List Byte) (segs : List Seg), Issues s ctx 0x08 cmd →
    cmd.zeros [0x20, 0x24, 0x38, 0x3C] = true → cmd.f 0x30 63 0 % 8 = 0 →
    cmdRead (issuedState s ctx cmd) ctx cmd.seq (cmd.f 0x28 63 0) 64 = (v, some bytes) →
    let raw := leNat bytes
    bits raw 9 0 = 0 → dfield raw 0x04 31 0 = 0 → dfield raw 0x38 63 0 = 0 →
    endpointReserved (dfield raw 0 31 28) (dfield raw 0x08 191 0) true = false →
    endpointReserved (dfield raw 0 27 24) (dfield raw 0x20 191 0) false = false →
    tileAll v (cmdReq ctx cmd.seq) true (tiles64 (cmd.f 0x30 63 0) 8) = (w, some segs) → noPort w segs = false →
    createStream w ctx raw = (x, h, st) →
    exec (.streamCreate ctx) s = .next (setStage (ctxWrite x ctx segs (leBytes 8 (h + st * 2 ^ 32))) ctx cmd.index .performed)) ∧
  (∀ (s : State) (ctx : Nat) (cmd : Cmd), Issues s ctx 0x09 cmd → cmd.begun = 0 →
    cmd.zeros [0x24, 0x28, 0x2C, 0x30, 0x34, 0x38, 0x3C] = true → ownHandle s ctx (cmd.f 0x20 31 0) = true →
    let i := cmd.f 0x20 31 0 % 2 ^ 18
    (s.stream i).st ≠ .destroying →
    exec (.streamDestroy ctx) s =
      .next (finishDestroy (beginDestroy (mapCmd (issuedState s ctx cmd) ctx cmd.index fun x => { x with begun := 1 }) i (some (ctx, cmd.index))) i)) ∧
  (∀ (s : State) (ctx : Nat) (cmd : Cmd), Issues s ctx 0x0A cmd → cmd.begun = 0 → cmd.zeros [0x38, 0x3C] = true →
    cmd.f 0x24 30 0 ≠ 0 → cmd.f 0x24 30 0 ≤ 2 ^ 30 → cmd.f 0x28 63 0 % 64 = 0 → cmd.f 0x30 63 0 % 64 = 0 →
    ownHandle s ctx (cmd.f 0x20 31 0) = true →
    let i := cmd.f 0x20 31 0 % 2 ^ 18
    xferRangeBad (s.stream i) (cmd.f 0x28 63 0) (cmd.f 0x30 63 0) (64 * cmd.f 0x24 30 0) = false → (s.stream i).xfers.length < 16 →
    exec (.xfer ctx) s =
      .next (issueXfer (mapCmd (issuedState s ctx cmd) ctx cmd.index fun x => { x with begun := 1 }) i
        { Xfer.idle with owner := cmd.index, len := 64 * cmd.f 0x24 30 0, src := cmd.f 0x28 63 0, dst := cmd.f 0x30 63 0,
                         flush := (s.stream i).flush || cmd.f 0x24 31 31 = 1, tested := true, seq := cmd.seq })) ∧
  (∀ (s v : State) (ctx : Nat) (cmd : Cmd), Issues s ctx 0x0C cmd → cmd.zeros [0x24, 0x30, 0x34, 0x38, 0x3C] = true →
    bits (cmd.f 0x20 31 0) 19 18 = 0 →
    (currentHandle s (cmd.f 0x20 31 0) = true → (s.stream (cmd.f 0x20 31 0 % 2 ^ 18)).ctx = ctx) →
    cmdWrite (issuedState s ctx cmd) ctx cmd.seq (cmd.f 0x28 63 0) (queryRecord s ctx (cmd.f 0x20 31 0)) = (v, true) →
    exec (.streamQuery ctx) s = .next (setStage v ctx cmd.index .performed)) ∧
  (∀ (s : State) (i : Nat), ((freeStream s i).stream i).st = .free ∧
    ((freeStream s i).stream i).gen = (if (s.stream i).gen = 4095 then 1 else (s.stream i).gen + 1))

/-- Packets (R182-R185, R193, R194): an engine that serves one transfer between windows of memory sends the next packet of it, of at most 4 KiB,
looks ahead for what follows (R285), and remembers whom it served; a packet is placed at its sink; a stream-data message that names no current handle is
counted as stale and answered with a NACK; an acknowledged packet leaves the network; a refused one gives its credits back and
leaves its stream dead. -/
def Obligations.PacketsAreSentPlacedAndAcknowledged : Prop :=
  (∀ (s v u : State) (i floor : Nat) (t : Xfer) (l : List Xfer) (segs snk : List Seg), floor < 4 → s.boot.warmBusy = false → s.boot.fatal = false →
    s.offline (2 + floor) = false → dieLoaded s (2 + floor) = true → tkeys s.str.streams = [i] → (s.stream i).st = .live → (s.stream i).home = floor →
    (s.stream i).src.kind = Kind.MEMORY → (s.stream i).snk.kind = Kind.MEMORY → (s.stream i).xfers = t :: l → t.stamp = none →
    t.sent < t.len →
    let n := min 4096 (t.len - t.sent)
    tile s (xferReq s i t) ((s.stream i).src.base + t.src + t.sent) n false = (v, some segs) →
    sinkTile v (xferReq s i t) i (t.dst + t.sent) n = (u, some snk) →
    let r := readSegs u (s.stream i).ctx segs
    let sent := r.1.setStream i ((r.1.stream i).mapXfer t.id fun t => { t with sent := t.sent + n })
    let w := lookAhead (launch sent i (some t.id) (t.dst + t.sent) (some snk) r.2 (segPoisonWords u 0 segs)
      (decide (t.sent + n = t.len)) 0 none) i
    exec (.streamPacketSend floor) s = .next { w with str := { w.str with lastServed := w.str.lastServed.set floor i } }) ∧
  (∀ (s v : State) (p : Packet) (l : List Packet), s.str.packets = p :: l → p.fate = 0 → (s.stream p.index).snk.kind ≠ Kind.REMOTE →
    placeData s p.index p.xfer p.dst p.segs p.data p.poison = (v, .done) →
    exec (.packetReceive (.here p.id)) s = .next (setCopies (setFate v p.id 1) p.id (copiesFrom v s.mir.nextCopy))) ∧
  (∀ (s : State) (dev sender handle dst : Nat) (data : List Byte) (poison : List Nat) (first last : Bool), dev < 2 ^ 20 →
    currentHandle s handle = false → (s.stream (handle % 2 ^ 18)).st = .free →
    let x := s.stream (handle % 2 ^ 18)
    exec (.packetReceive (.remote dev sender handle dst data poison first last)) s =
      .next (sendMsg (countStale s (handle % 2 ^ 18 % 4) handle dev) 3 7 x.home dev x.order sender 0 [] []).1) ∧
  (∀ (s : State) (p : Packet) (l : List Packet), s.str.packets = p :: l → p.fate = 1 → copiesOpen s p.copies = false →
    exec (.packetAckReceive p.id) s = .next (finishDestroy (ackPacket s p) p.index) ∧
    (∀ q ∈ (ackPacket s p).str.packets, q.id ≠ p.id)) ∧
  (∀ (s : State) (p : Packet) (l : List Packet), s.str.packets = p :: l → p.fate = 2 → (s.stream p.index).st ≠ .destroying →
    needsCredits (s.stream p.index) = false →
    exec (.staleNackReceive p.id) s =
      .next (finishDestroy (killHands p.ends (count { s with str := { s.str with packets := s.str.packets.filter (·.id != p.id) } }
        (steReg (s.stream p.index).home Reg.STE_NACK_RX) 1) p.index) p.index))

/-- Ends of transfers (R183, R190, R191): a transfer all of whose data is performed ends OK, after a read-back from each port that carried it
where it was to be flushed to the host; one whose packets another device does not acknowledge ends UNREACHABLE; a poll of a core's ring
hands over what the core has produced. -/
def Obligations.TransfersEnd : Prop :=
  (∀ (s : State) (i : Nat) (t : Xfer) (l : List Xfer), i < 262144 → (s.stream i).xfers = t :: l → t.acked = t.len → t.readbacks = 0 →
    (t.flush = false ∨ (s.stream i).snk.kind ≠ Kind.HOST) → exec (.transferEnd i) s = .next (endXferOk s i t.id)) ∧
  (∀ (s : State) (i : Nat) (t : Xfer) (l : List Xfer), i < 262144 → (s.stream i).xfers = t :: l → t.acked = t.len → t.readbacks = 0 →
    t.flush = true → (s.stream i).snk.kind = Kind.HOST →
    ∃ u, exec (.transferEnd i) s = .next u ∧
      u.stream i = (s.stream i).mapXfer t.id (fun t => { t with flush := false, readbacks := (portsOf t.ports).length }) ∧
      u.out = s.out ++ (portsOf t.ports).map fun p => .hostRead p (nth t.lines p) 64) ∧
  (∀ (s : State) (i : Nat) (t : Xfer) (l : List Xfer), i < 262144 → (s.stream i).xfers = t :: l →
    exec (.flushReadbackDone i) s = .next (s.setStream i ((s.stream i).mapXfer t.id fun t => { t with readbacks := 0 }))) ∧
  (∀ (s : State) (i : Nat) (t : Xfer) (l : List Xfer), i < 262144 → (s.stream i).xfers = t :: l → (s.stream i).snk.kind = Kind.REMOTE →
    (∃ p ∈ s.str.packets, p.index = i ∧ p.xfer = some t.id ∧ p.sentAt + 1250000 ≤ s.cic.count) →
    exec (.transferUnreachable i) s =
      .next (failXfer { s with str := { s.str with packets := s.str.packets.filter fun p => !(p.index = i && p.xfer = some t.id) } }
        i t.id XferSt.UNREACHABLE)) ∧
  (∀ (s v w : State) (i prod cons : Nat), i < 262144 → (s.stream i).st = .live → (s.stream i).src.kind = Kind.CORE →
    (s.stream i).snk.kind ≠ Kind.CORE → (s.stream i).prodDue = false → (s.stream i).consDue = false →
    coreCount s (streamReq s i 0 0xFFFF 0) (s.stream i).src.control = (v, some prod) →
    coreCount v (streamReq s i 0 0xFFFF 0) ((s.stream i).src.control + 8) = (w, some cons) →
    let x := w.stream i
    let out := (x.hands.map (·.slots x.src.opt)).foldl (· + ·) 0
    let new := min x.src.size ((prod + 2 ^ 64 - cons) % 2 ^ 64) - out
    new ≠ 0 →
    exec (.coreRingPoll i) s =
      .next (w.setStream i ({ x with srcDone := cons }.handOver ((List.range new).map fun j =>
        { cell := 0xFFFF, counter := 0, op := 0, send := false, ptr := (cons + out + j) % x.src.size * x.src.opt * 256,
          units := x.src.opt, start := 0, sent := 0, acked := 0 }))))

/-- Re-shards (R198, R199): a ready message is noted by a re-shard that has begun, and kept for one that has not; an acknowledged piece counts,
and the re-shard goes on; one whose time is over ends with TIMEOUT. -/
def Obligations.ReshardEvents : Prop :=
  (∀ (s : State) (ctx dev : Nat), ctx < 64 → (∃ r ∈ s.str.reshards, r.ctx = ctx ∧ r.begun = true) →
    exec (.reshardReadyReceive ctx dev) s =
      .next (shardGo (mapShard s ctx fun r => { r with ready := r.ready ++ [dev % 2 ^ 20] }) ctx)) ∧
  (∀ (s : State) (ctx dev : Nat), ctx < 64 → (∀ r ∈ s.str.reshards, r.ctx ≠ ctx) →
    exec (.reshardReadyReceive ctx dev) s = .next { s with str := { s.str with early := s.str.early ++ [(ctx, dev % 2 ^ 20)] } }) ∧
  (∀ (s : State) (ctx dev : Nat) (r : Reshard) (p : Piece) (l : List Piece), ctx < 64 → s.str.reshards = [r] → r.ctx = ctx → r.begun = true →
    r.pieces = p :: l → p.dev = dev → p.sent = true → p.acked = false →
    exec (.reshardPieceReceive ctx (.ack dev)) s =
      .next (shardGo (mapShard (count64 s 0 (rseReg p.floor Reg.RSE_SENT_LO) ((p.runs.map (·.len)).foldl (· + ·) 0)) ctx fun r =>
        { r with pieces := r.pieces.zipIdx.map fun y => if y.2 = 0 then { y.1 with acked := true } else y.1 }) ctx)) ∧
  (∀ (s : State) (ctx d : Nat) (r : Reshard), ctx < 64 → s.str.reshards = [r] → r.ctx = ctx → r.deadline = some d → d ≤ s.cic.count →
    exec (.reshardTimeout ctx) s = .next (endShard s r RsSt.TIMEOUT))

/-! ## Cells: the sequencer -/

/-- Arming and firing (R53, R55, R59, R60). DESCRIPTOR_ARM completes on every active track of a cell whose program runs: a descriptor
whose predicate fails is retired; one with a bad binding faults the cell; any other is armed, in the order of arming, and a stamped one at
its stamp. FIRE completes on every armed track that has its tokens, its credits, room in its engine and its stamp reached, with no older
descriptor before it: its operation joins the fired ones with the slots of its bindings taken, and the descriptor retires with its final
firing; a binding with HOLD takes none; a binding without takes COUNT
of its counter and moves its slot pointer on around the buffer; a PSET reads its word (R137). A skipped descriptor takes its inputs and
fires no operation (R60). An empty FENCE completes as it fires (R262). A track that fired a HALT, a PHASE or a fence
arms and fires nothing until that completes (R262 for the fences; for the others the model's reading, notes/assumptions/82.md), nor does one
whose SIGNAL stalls (R286), and a track arms nothing between a PSET's firing and its result (R136). -/
def Obligations.DescriptorsArmAndFire : Prop :=
  (∀ (s : State) (cell n : Nat), cell < 320 → n < 8 → mayArm s cell false = true →
    let i := (s.cell cell).img
    let t := i.track n
    let raw := i.descAt t.desc
    let off : Bool := bit raw 15 && bit i.preds (bits raw 13 11) == bit raw 14
    let bs := (insOf raw).map Prod.snd ++ (if off then [] else (outsOf raw).map Prod.snd)
    t.active = true → t.armed = false → i.heldTrack n = false → i.psetAhead n = false → t.desc ≤ 1023 →
    (off = true → bit raw 21 = false →
      exec (.descriptorArm cell n) s =
        .next (haltIfDone (withImg s cell (i.mapTrack n fun _ =>
          { t with left := dfield raw 0x04 31 16, first := true, skip := false, tested := false }.advance i))
          cell ((s.cell cell).runner.getD 0))) ∧
    ((off = false ∨ bit raw 21 = true) → bs.any (badBinding i) = true →
      exec (.descriptorArm cell n) s = .next (cellFault s cell CellFault.BAD_BINDING n t.desc)) ∧
    ((off = false ∨ bit raw 21 = true) → bs.any (badBinding i) = false →
      let armed := { i.mapTrack n (fun _ =>
          { t with left := dfield raw 0x04 31 16, first := true, tested := true, armed := true, armedAt := i.nextArm, skip := off }) with
          nextArm := i.nextArm + 1 }
      (off = true ∨ bit raw 23 = false → exec (.descriptorArm cell n) s = .next (withImg s cell armed)) ∧
      (∀ v, off = false → stampOf i raw = some v → exec (.descriptorArm cell n) s = .next (withImg (lateStamp s (Rep.cell cell) v) cell armed)))) ∧
  (∀ (s : State) (cell n ctx : Nat), cell < 320 → n < 8 → mayArm s cell false = true → (s.cell cell).runner = some ctx →
    let i := (s.cell cell).img
    let t := i.track n
    let raw := i.descAt t.desc
    i.heldTrack n = false → t.armed = true → lacks i raw t.skip = false → testsFresh s cell raw t.skip = false →
    (∀ v, t.skip = false → stampOf i raw = some v → t.first = true → v ≤ replica s (Rep.cell cell)) →
    (t.skip = false → engineOf raw = 4 → matchAccepts s cell = true) → (t.skip = false → engineOf raw ≠ 4 → onEngine i (engineOf raw) < 2) →
    outranked s cell n = false → matchOutranked s cell n = false →
    (t.skip = true → ∃ u, exec (.fire cell n) s = .next u ∧ (∀ p ∈ (u.cell cell).img.ops, p ∈ i.ops) ∧ (u.cell cell).img.nextOp = i.nextOp + 1) ∧
    (t.skip = false → ((insOf raw).map Prod.snd ++ (outsOf raw).map Prod.snd).any (badBinding i) = false →
    bindKindBad raw = false → (engineOf raw = 4 ∨ (commonIllegal raw = false ∧ payloadIllegal raw = false ∧ engineIllegal i raw = false)) →
    (emptyFence raw = true → (s.cell cell).saved = none →
      ∃ u, exec (.fire cell n) s = .next u ∧ ∀ p ∈ (u.cell cell).img.ops, p.id ≠ i.nextOp) ∧
    (emptyFence raw = false → ∃ u, exec (.fire cell n) s = .next u ∧
      (u.cell cell).img.ops = i.ops ++
        [{ id := i.nextOp, track := n, desc := t.desc, raw := raw, ins := (takeAll i i.nextOp (insOf raw)).2,
           outs := (takeAll (takeAll i i.nextOp (insOf raw)).1 i.nextOp (outsOf raw)).2, stage := .fired,
           queued := decide (onEngine i (engineOf raw) = 1), at_ := replica s (Rep.cell cell), left := 0, issued := 0, wrote := none,
           target := none,
           word := if opc raw = 0x03 ∧ i.poisoned (dfield raw 0x2C 21 0) 4 = false then some (memLE i.sram (dfield raw 0x2C 21 0) 4) else none }] ∧
      (u.cell cell).img.counters = (takeAll (takeAll i i.nextOp (insOf raw)).1 i.nextOp (outsOf raw)).1.counters ∧
      (t.left = 0 → opc raw ≠ 0x02 → ((u.cell cell).img.track n).armed = false) ∧ (t.left ≠ 0 → ((u.cell cell).img.track n).left = t.left - 1) ∧
      (u.cell cell).img.sram = i.sram ∧ (u.cell cell).img.preds = i.preds ∧ u.mem = s.mem ∧ u.ctxs = s.ctxs ∧ u.str = s.str ∧
      ∀ q, q ≠ cell → u.cell q = s.cell q))) ∧
  (∀ (s : State) (cell n : Nat), cell < 320 → n < 8 → readyTrack s cell ((s.cell cell).img.track n) = false → exec (.fire cell n) s = .next s) ∧
  (∀ (s : State) (cell n : Nat) (o : Op), cell < 320 → n < 8 → o ∈ (s.cell cell).img.ops → o.track = n →
    (opc o.raw = 0x01 ∨ opc o.raw = 0x05 ∨ (opc o.raw = 0x06 ∧ o.stage = .waiting ∧ o.wrote = none) ∨ opc o.raw = 0x08 ∨ opc o.raw = 0x09 ∨ opc o.raw = 0x0A ∨
      opc o.raw = 0x0B) →
    exec (.descriptorArm cell n) s = .next s ∧ exec (.fire cell n) s = .next s) ∧
  (∀ (s : State) (cell n : Nat) (o : Op), cell < 320 → n < 8 → o ∈ (s.cell cell).img.ops → o.track = n → opc o.raw = 0x03 → o.stage = .fired →
    exec (.descriptorArm cell n) s = .next s) ∧
  (∀ (i : CellImg) (op k : Nat) (b : Binding),
    (b.hold = true → (takeSlots i op k b).1 = i) ∧
    (b.hold = false → ((takeSlots i op k b).1.ctr k).value = (i.ctr k).value - b.count ∧
      ((takeSlots i op k b).1.ctr k).ptr = ((i.ctr k).ptr + b.count) % max 1 (i.ctr k).slots ∧
      ∀ q, q ≠ k → (takeSlots i op k b).1.ctr q = i.ctr q))

/-- Completion (R54, R58, R61): an operation that is carried out leaves the fired ones, its slots go on to the other side of each counter it
took from, the vector it names is raised, and the program halts once nothing is left of it; one that is not carried out stays. A local
pair's other counter rises by the slots that move, and one that would pass its buffer's slots faults the cell. A cell that faults (R64)
stops arming on every track, shows the code, the track and the descriptor, and raises its context's vector and an error record; its other
fired operations go on. -/
def Obligations.OperationsComplete : Prop :=
  (∀ (s : State) (cell op ctx : Nat) (o : Op), cell < 320 → (s.cell cell).runner = some ctx → (s.cell cell).saved = none →
    (s.cell cell).img.ops = [o] → o.id = op → o.stage = .executed →
    exec (.operationComplete cell op) s = .next (completeOp s cell ctx op) ∧
    ((s.ctx ctx).ending = 0 → o.ins = [] → o.outs = [] → (s.cell cell).img.halted = false → (∃ t ∈ (s.cell cell).img.tracks, t.active = true) →
      bits o.raw 31 24 = 0 →
      exec (.operationComplete cell op) s =
        .next ((if bits o.raw 19 16 = 0 then id else (raiseCtxVector · ctx (bits o.raw 19 16))) (withImg s cell { (s.cell cell).img with ops := [] })))) ∧
  (∀ (s : State) (cell op : Nat), cell < 320 → (s.cell cell).saved = none → (∀ o ∈ (s.cell cell).img.ops, o.id = op → o.stage ≠ .executed) →
    exec (.operationComplete cell op) s = .next s) ∧
  (∀ (s : State) (cell ctx k n : Nat), (s.cell cell).runner = some ctx → (s.cell cell).saved = none →
    ((s.cell cell).img.ctr k).bound = true → n ≠ 0 →
    let c := (s.cell cell).img.ctr k
    (c.value + n ≤ c.slots →
      bumpCounter s cell ctx k n = markCtrs (withImg s cell ((s.cell cell).img.setCtr k { c with value := c.value + n })) cell [k]) ∧
    (c.slots < c.value + n → bumpCounter s cell ctx k n = cellFaultOf s cell ctx CellFault.TOKEN_OVERFLOW 0 0)) ∧
  (∀ (s : State) (cell ctx code track desc : Nat), (s.cell cell).runner = some ctx → (s.cell cell).saved = none →
    (s.cell cell).img.faultCode = 0 → (s.cell cell).img.ops ≠ [] →
    let i := (s.cell cell).img
    cellFault s cell code track desc =
      raiseError (raiseVector (withImg s cell { i with
          faultCode := code, faultTrack := track, faultDesc := desc, stopping := true,
          tracks := i.tracks.map fun t => { t with active := false, armed := false } }) (16 * ctx + 1))
        { sev := 2, type := Err.CELL_FAULT, die := 8 + cellDie cell, inst := cellPos cell, ctx := some ctx,
          detail := [code, track, desc, logicalOf (s.ctx ctx) cell] })

/-- The control operations (R62, R136, R261, R262): NOP does nothing; HALT stops arming on every track; BRANCH takes its track to TARGET;
PSET writes the predicate that its comparison of the word it read as it fired gives, and faults its cell where that was poisoned; a fence
is carried out once no earlier access of its kinds is open, no slot that an earlier operation hands over is unacknowledged, and no earlier
host write is owed a read-back, and waits where
one is: a DRAIN for its writes to be performed, the others for what the region attributes acknowledge early (R263). Each changes its own
cell, and a DRAIN that waits has the cell's host writes read back. -/
def Obligations.ControlOperations : Prop :=
  (∀ (s : State) (cell op ctx : Nat) (o : Op), Runs s cell op 0x00 ctx o →
    exec (.cellNop cell op) s = .next (withImg s cell (carriedOut (s.cell cell).img op))) ∧
  (∀ (s : State) (cell op ctx : Nat) (o : Op), Runs s cell op 0x01 ctx o →
    let i := { (s.cell cell).img with
      stopping := true, tracks := (s.cell cell).img.tracks.map fun t => { t with active := false, armed := false } }
    exec (.halt cell op) s =
      .next (withImg s cell (if (s.cell cell).img.ops.any fun p => p.id != op then keptWaiting i op else carriedOut i op))) ∧
  (∀ (s : State) (cell op ctx : Nat) (o : Op), Runs s cell op 0x02 ctx o →
    let i := (s.cell cell).img
    ((i.track o.track).active = true → (i.track o.track).held = true → (i.track o.track).desc = o.desc →
      (∀ p ∈ i.ops, p.track = o.track → opc p.raw = 2 → p.id ≤ o.id) →
      exec (.branch cell op) s =
        .next (withImg s cell (carriedOut (i.mapTrack o.track fun t => t.at_ i (dfield o.raw 0x28 9 0)) op))) ∧
    ((i.track o.track).held = false → exec (.branch cell op) s = .next (withImg s cell (carriedOut i op)))) ∧
  (∀ (s : State) (cell op ctx : Nat) (o : Op), Runs s cell op 0x03 ctx o →
    let i := (s.cell cell).img
    let p := dfield o.raw 0x28 2 0
    (o.word = none → exec (.pset cell op) s = .next (opFault s cell o CellFault.SRAM_UNCORRECTED)) ∧
    (∀ w, o.word = some w → ∃ t, exec (.pset cell op) s = .next t ∧ (t.cell cell).img = carriedOut { i with preds := (t.cell cell).img.preds } op ∧
      (∀ q, q < 8 → bit (t.cell cell).img.preds q =
        if q = p then psetHolds (dfield o.raw 0x28 7 4) w (dfield o.raw 0x30 31 0) else bit i.preds q) ∧
      t = { s with cells := t.cells } ∧ ∀ q, q ≠ cell → t.cell q = s.cell q)) ∧
  (∀ (s : State) (cell op ctx : Nat) (o : Op),
    let i := (s.cell cell).img
    let own (k : HostWr) : Bool := k.who == .cell ctx cell && decide (k.op < o.id)
    let open_ (early r w : Bool) : Prop :=
      (∃ p ∈ i.ops, p.id < o.id ∧ (accessOpen s ctx cell early p r w = true ∨ (w = true ∧ ∃ b ∈ p.outs, (i.ctr b.2.counter).peer = 2))) ∨
        (w = true ∧ handsOpen s ctx cell o.id early = true)
    let owed (all : Bool) : Prop := ∃ k ∈ s.host.unread, own k = true ∧ (all = true ∨ k.early = false)
    let ea := earlyAck s 1 3 0
    let done := withImg s cell (carriedOut i op)
    let waits := withImg s cell (keptWaiting i op)
    (Runs s cell op 0x08 ctx o →
      (¬ open_ ea true false → exec (.lfence cell op) s = .next done) ∧ (open_ ea true false → exec (.lfence cell op) s = .next waits)) ∧
    (Runs s cell op 0x09 ctx o →
      (¬ (open_ ea false true ∨ owed false) → exec (.sfence cell op) s = .next done) ∧
      (open_ ea false true ∨ owed false → exec (.sfence cell op) s = .next waits)) ∧
    (Runs s cell op 0x0B ctx o →
      (¬ (open_ false true true ∨ owed true) → exec (.cellDrain cell op) s = .next done) ∧
      (open_ false true true ∨ owed true → exec (.cellDrain cell op) s = .next (withImg (readBacks s own) cell (keptWaiting i op)))) ∧
    (Runs s cell op 0x0A ctx o →
      let r : Bool := dfield o.raw 0x28 5 5 = 1
      let w : Bool := dfield o.raw 0x28 4 4 = 1
      (¬ (open_ ea r w ∨ (w = true ∧ owed false)) → exec (.fence cell op) s = .next done) ∧
      (open_ ea r w ∨ (w = true ∧ owed false) → exec (.fence cell op) s = .next waits)))

/-- BIND, PHASE and SIGNAL (R62, R63, R66, R67): BIND attaches a buffer to a counter, with INIT tokens or credits and its slot pointer at 0; it
waits while an operation holds slots of the counter; a kind or peer that BIND does not have faults the cell, and so does a
buffer that is too small for what a track's armed descriptor asks (R59). PHASE to an
entry that the table lacks faults the cell, to one that it has puts the cell at its context's barrier, and to another target than the
cells that have arrived are going to faults all of them; the barrier completes with the phase changed and every PHASE carried out. SIGNAL stores its value, or the sum,
through its context's translation, after every earlier operation of its track; it waits where the translation stalls, goes behind the
cell's own earlier SIGNAL to the same target (R265), and is carried out once its write is acknowledged, by the mirror's partner too (R380). -/
def Obligations.BindPhaseAndSignal : Prop :=
  (∀ (s : State) (cell op ctx : Nat) (o : Op), Runs s cell op 0x04 ctx o →
    let i := (s.cell cell).img
    let kind := dfield o.raw 0x28 31 30
    let key := 64 * kind + dfield o.raw 0x28 29 24
    let peer := dfield o.raw 0x30 31 30
    ((2 ≤ kind ∨ peer = 3) → exec (.bind cell op) s = .next (opFault s cell o CellFault.BAD_BINDING)) ∧
    (kind < 2 → peer < 2 → (∃ t ∈ (i.ctr key).takes, ∃ p ∈ i.ops, p.id = t.op) → exec (.bind cell op) s = .next s) ∧
    (kind < 2 → peer < 2 → (∀ t ∈ (i.ctr key).takes, ∀ p ∈ i.ops, p.id ≠ t.op) → ((i.ctr key).bound = false ∨ (i.ctr key).peer ≠ 2) →
      let j := carriedOut (i.setCtr key
          { bound := true, slots := dfield o.raw 0x28 23 16, size := dfield o.raw 0x28 15 0, base := dfield o.raw 0x2C 21 0, peer := peer,
            pair := dfield o.raw 0x30 29 24, handle := dfield o.raw 0x34 31 0, value := dfield o.raw 0x38 15 0, ptr := 0, takes := [],
            units := 0 }) op
      (brokenTrack j = none → exec (.bind cell op) s = .next (markCtrs (withImg s cell j) cell [key])) ∧
      (∀ n d, brokenTrack j = some (n, d) →
        exec (.bind cell op) s = .next (cellFault (markCtrs (withImg s cell j) cell [key]) cell CellFault.BAD_BINDING n d)))) ∧
  (∀ (s : State) (cell op ctx : Nat) (o : Op), Runs s cell op 0x05 ctx o → ctx < 64 → o.stage = .fired →
    let c := s.ctx ctx
    let target := dfield o.raw 0x28 3 0
    let ph := c.nextPhases.getD c.phases
    let at_ (arrived : List Nat) := withImg (s.setCtx ctx { c with barrier := some { target := target, arrived := arrived ++ [cell] } }) cell
      (keptWaiting { (s.cell cell).img with phaseWait := true } op)
    (phaseIn ph target = none → exec (.phase cell op) s = .next (opFault s cell o CellFault.PHASE_UNDEFINED)) ∧
    ((phaseIn ph target).isSome = true → c.barrier = none → exec (.phase cell op) s = .next (at_ [])) ∧
    (∀ b, (phaseIn ph target).isSome = true → c.barrier = some b → (b.target = target ∨ b.arrived = []) →
      exec (.phase cell op) s = .next (at_ b.arrived)) ∧
    (∀ b, (phaseIn ph target).isSome = true → c.barrier = some b → b.target ≠ target → b.arrived ≠ [] →
      exec (.phase cell op) s =
        .next (opFault (faultPhase (s.setCtx ctx { c with barrier := none }) ctx CellFault.PHASE_MISMATCH b.arrived) cell o
          CellFault.PHASE_MISMATCH))) ∧
  (∀ (s v : State) (cell op ctx : Nat) (o : Op) (segs : List Seg), Runs s cell op 0x06 ctx o → o.wrote = none →
    (∀ p ∈ (s.cell cell).img.ops, p.id < o.id → p.track ≠ o.track) →
    let va := dfield o.raw 0x28 63 0
    let x := dfield o.raw 0x30 63 0
    let req : Requester :=
      { source := 3, ctx := ctx, unit := 8 + cellDie cell, handle := 0, cell := logicalOf (s.ctx ctx) cell, track := o.track, seq := o.desc }
    let behind : Prop := ∃ p ∈ (s.cell cell).img.ops, p.id < o.id ∧ p.target = some (signalTarget v segs)
    (tile s req va 8 true = (v, some segs) → behind → exec (.signal cell op) s = .next (waitOp v cell ctx o)) ∧
    (tile s req va 8 true = (v, some segs) → ¬ behind → (∀ g ∈ segs, g.space = 0) →
      let u := segWrite v ctx 1 segs (leBytes 8 (if dfield o.raw 0x38 0 0 = 1 then (leNat (segBytes v segs) + x) % 2 ^ 64 else x))
      let l := copiesFrom u v.mir.nextCopy
      exec (.signal cell op) s =
        .next (if signalAcked u ctx cell op l = true then doneOp u cell ctx o
          else mapOp u cell ctx op fun o => { o with stage := .waiting, wrote := some l, target := none })) ∧
    (tile s req va 8 true = (v, none) →
      exec (.signal cell op) s =
        .next (mapOp v cell ctx op fun o => { o with stage := .waiting, target := signalHeld v req va }))) ∧
  (∀ (s : State) (cell op ctx : Nat) (o : Op) (l : List Nat), Runs s cell op 0x06 ctx o → o.wrote = some l →
    (∀ p ∈ (s.cell cell).img.ops, p.id < o.id → p.track ≠ o.track) →
    exec (.signal cell op) s = .next (if signalAcked s ctx cell op l = true then doneOp s cell ctx o else s)) ∧
  (∀ (s : State) (cell op ctx : Nat) (o : Op), Runs s cell op 0x06 ctx o →
    (∃ p ∈ (s.cell cell).img.ops, p.id < o.id ∧ p.track = o.track) → exec (.signal cell op) s = .next s) ∧
  (∀ (s : State) (ctx : Nat), ctx < 64 → s.str.reshards = [] →
    ((s.ctx ctx).barrier = none → exec (.phaseBarrierComplete ctx) s = .next s) ∧
    ((∃ p ∈ startedCells s ctx, arrivedAt s ctx p = false) → exec (.phaseBarrierComplete ctx) s = .next s) ∧
    (∀ b, (s.ctx ctx).barrier = some b → startedCells s ctx ≠ [] → (∀ p ∈ startedCells s ctx, arrivedAt s ctx p = true) →
      phaseReshards (s.ctx ctx) b.target = false →
      ∃ t, exec (.phaseBarrierComplete ctx) s = .next t ∧ (t.ctx ctx).phase = b.target ∧ (t.ctx ctx).barrier = none ∧
        (t.ctx ctx).phases = (s.ctx ctx).nextPhases.getD (s.ctx ctx).phases ∧
        (bit (rd s 0 (hub Pg.RST Reg.ERR_RING_CTL)) 31 = false → t.mem = s.mem) ∧
        ∀ p ∈ startedCells s ctx, (t.cell p).img.phaseWait = false))

/-! ## Cells: moves, streams and engines -/

/-- MOVE and the stream operations (R96, R97, R187, R188, R195). MOVE copies the slots at IN0 to OUT0, or writes its elements converted; with no room for
them, with a format it does not have, or with a poisoned word it faults the cell and stores nothing; one that converts through
code-book tables waits for the table writes fired before it (R87). SEND hands its slots to
the stream. XFER and XFER_LIST issue their transfers, the list after every record is checked, and wait for them. -/
def Obligations.MovesAndStreamOperations : Prop :=
  (∀ (s : State) (cell op ctx : Nat) (o : Op), Runs s cell op 0x10 ctx o →
    let i := (s.cell cell).img
    let src := dfield o.raw 0x28 7 0 / 16
    let dst := dfield o.raw 0x28 7 0 % 16
    let r := i.inRun o 0
    let w := i.outRun o 0
    (src = dst → (o.inAt 0).isSome = true → (o.outAt 0).isSome = true → (o.outAt 1).isNone = true → r.len ≤ w.len → i.runPoisoned r r.len = false →
      exec (.move cell op) s = .next (withImg s cell (carriedOut (i.storeRun w 0 (r.bytes i.sram r.len)) op))) ∧
    (src ≠ dst → 1 ≤ src → src ≤ 11 → 5 ≤ dst → dst ≤ 11 → (o.inAt 0).isSome = true → (o.outAt 0).isSome = true → (o.outAt 1).isNone = true →
      fmtGrouped src = false → r.len * 8 / fmtBits src * (fmtBits dst / 8) ≤ w.len → i.runPoisoned r r.len = false →
      exec (.move cell op) s =
        .next (withImg s cell (carriedOut (i.storeRun w 0 ((List.range (r.len * 8 / fmtBits src)).flatMap fun e =>
          leBytes (fmtBits dst / 8) (convertTo dst false (decodeElem src (elemCode i.sram r 0 src e))).code)) op))) ∧
    (readsBooks o.raw = true → cbSetAhead i o = true → exec (.move cell op) s = .next s) ∧
    (src ≠ dst → (src = 0 ∨ 11 < src ∨ dst < 5 ∨ 11 < dst) → (readsBooks o.raw = false ∨ cbSetAhead i o = false) →
      exec (.move cell op) s = .next (opFault s cell o CellFault.ILLEGAL_OP)) ∧
    (src = dst → (o.inAt 0).isSome = true → (o.outAt 0).isSome = true → (o.outAt 1).isNone = true → w.len < r.len →
      exec (.move cell op) s = .next (opFault s cell o CellFault.BAD_BINDING))) ∧
  (∀ (s : State) (cell op ctx : Nat) (o : Op) (b : Bind), Runs s cell op 0x11 ctx o → o.stage = .fired → o.outs = [] → o.inAt 0 = some b → b.hold = false →
    ownHandle s ctx (dfield o.raw 0x28 31 0) = true →
    let x := s.stream (dfield o.raw 0x28 31 0 % 2 ^ 18)
    x.src.kind = Kind.CELL → x.src.unit = logicalOf (s.ctx ctx) cell → x.st = .live →
    let c := (s.cell cell).img.ctr b.counter
    ∃ t, exec (.send cell op) s = .next t ∧
      (t.stream (dfield o.raw 0x28 31 0 % 2 ^ 18)).hands = x.hands ++
        [{ cell := cell, counter := b.counter, op := op, send := true, ptr := c.base + b.ptr * c.size * 256, units := b.count * c.size,
           start := x.handed, sent := 0, acked := 0 }] ∧
      (t.stream (dfield o.raw 0x28 31 0 % 2 ^ 18)).handed = x.handed + b.count * c.size ∧
      (t.cell cell).img.ops = (s.cell cell).img.ops.map (fun y => if y.id = op then { y with stage := .waiting, left := 1 } else y) ∧
      t.mem = s.mem ∧ t.ctxs = s.ctxs ∧ t.regs = s.regs) ∧
  (∀ (s : State) (cell op ctx : Nat) (o : Op), Runs s cell op 0x12 ctx o → o.stage = .fired → o.outs = [] →
    ownHandle s ctx (dfield o.raw 0x28 31 0) = true →
    let idx := dfield o.raw 0x28 31 0 % 2 ^ 18
    let len := 64 * dfield o.raw 0x2C 30 0
    xferRangeBad (s.stream idx) (dfield o.raw 0x30 63 0) (dfield o.raw 0x38 63 0) len = false → (s.stream idx).xfers.length < 16 →
    exec (.cellXfer cell op) s =
      .next (issueXfer (mapOp s cell ctx op fun y => { y with stage := .waiting, left := 1 }) idx
        { Xfer.idle with issuer := 2, owner := cell, op := op, len := len, src := dfield o.raw 0x30 63 0, dst := dfield o.raw 0x38 63 0,
                         flush := (s.stream idx).flush, seq := o.desc })) ∧
  (∀ (s : State) (cell op ctx : Nat) (o : Op) (b : Bind), Runs s cell op 0x13 ctx o → o.stage = .fired → o.outs = [] → o.inAt 0 = some b → b.hold = false →
    let n := dfield o.raw 0x28 15 0
    let i := (s.cell cell).img
    let recs := (List.range n).map fun k => (i.inRun o 0).le i.sram (64 * k) 64
    64 * n ≤ (i.inRun o 0).len → i.runPoisoned (i.inRun o 0) (64 * n) = false →
    (recs.any (recordBad s ctx) = false →
      exec (.xferList cell op) s =
        .next (issueRecords (mapOp s cell ctx op fun y => { y with stage := .waiting, left := n }) cell ctx op recs)) ∧
    (recs.any (recordBad s ctx) = true →
      exec (.xferList cell op) s = .next (opFault s cell o CellFault.ENGINE_FAULT)))

/-- The matrix engine (R99-R116): a legal MM whose operands are there, whole and decodable writes its result to OUT0 and nothing else of the machine but
its counters, with a vector where one of them fills (R505); an illegal one, one whose bindings do not hold its operands, and one that reads a poisoned word fault the cell. -/
def Obligations.MatrixOperation : Prop :=
  ∀ (s : State) (cell op ctx : Nat) (o : Op), Runs s cell op 0x20 ctx o → (s.cell cell).move = .steady →
    let i := (s.cell cell).img
    let p := MMOp.ofRaw o.raw
    let ra := i.inRun o 0
    let rb := i.inRun o 1
    let rc := i.inRun o 2
    let w := i.outRun o 0
    let short : Bool := mmBindingsBad p o || decide (ra.len < p.aBytes) || !p.bFits i.sram rb ||
      (p.accIn && decide (rc.len < p.outBytes p.accFmt)) || decide (w.len < p.outBytes p.outFmt)
    let poisoned : Bool := i.piecesPoisoned ra p.aPieces || i.piecesPoisoned rb (p.bPieces i.sram rb) || (p.accIn && i.piecesPoisoned rc p.cPieces)
    cbSetAhead i o = false →
    (p.illegal o.raw = true → exec (.mm cell op) s = .next (opFault s cell o CellFault.ILLEGAL_OP)) ∧
    (p.illegal o.raw = false → short = true → exec (.mm cell op) s = .next (opFault s cell o CellFault.BAD_BINDING)) ∧
    (p.illegal o.raw = false → short = false → poisoned = true →
      exec (.mm cell op) s = .next (opFault s cell o CellFault.SRAM_UNCORRECTED)) ∧
    (p.illegal o.raw = false → short = false → poisoned = false → p.undecodable i.sram i.books ra rb = false →
      let r := p.run i.sram i.books ra rb rc (bit (rd s 0 (mxeReg cell Reg.MXE_CTL)) 0)
      let u := withImg s cell (carriedOut (r.data.foldl (fun i d => i.storeRun w d.1 d.2) i) op)
      exec (.mm cell op) s = .next (mmCount u cell p o.queued r) ∧
        ∃ regs vecs, mmCount u cell p o.queued r = { u with regs := regs, host := { u.host with vecs := vecs } })

/-- The vector engine (R86-R95, R118-R135). ELEM writes what its program gives for its inputs; CRV_SET and CRV_GET move
curve tables, CB_SET and CB_GET code-book tables, between slots and the engine, and CB_ENCODE writes the grouped elements and the report of its
choice of tables. Each changes its own cell, its counters, and for ELEM the model's free counter. -/
def Obligations.VectorOperations : Prop :=
  ∀ (s : State) (cell op ctx : Nat) (o : Op), (s.cell cell).move = .steady →
    let i := (s.cell cell).img
    let r := i.inRun o 0
    let w := i.outRun o 0
    let completes (c : Instr) (j : CellImg) : Prop :=
      ∃ t, exec c s = .next t ∧ (t.cell cell).img = carriedOut j op ∧
        t = { s with cells := t.cells, regs := t.regs, free := t.free, host := { s.host with vecs := t.host.vecs } } ∧
        ∀ q, q ≠ cell → t.cell q = s.cell q
    let n := dfield o.raw 0x28 14 8
    let first := dfield o.raw 0x28 5 0
    (∀ f k, Runs s cell op 0x31 ctx o → crvRange o.raw = some (f, k) → (o.inAt 0).isSome = true → 2304 * k ≤ r.len → i.runPoisoned r (2304 * k) = false →
      completes (.crvSet cell op) { i with curves := (List.range k).foldl (fun m t => (List.range 2304).foldl (fun m b =>
        tset (fun _ => 0) m (4096 * (f + t) + b) (r.byte i.sram (2304 * t + b))) m) i.curves }) ∧
    (∀ f k, Runs s cell op 0x32 ctx o → crvRange o.raw = some (f, k) → (o.outAt 0).isSome = true → 2304 * k ≤ w.len →
      completes (.crvGet cell op) (i.storeRun w 0 ((List.range k).flatMap fun t =>
        (List.range 2304).map fun b => BitVec.ofNat 8 (curveByte i.curves (f + t) b)))) ∧
    ((Runs s cell op 0x31 ctx o → crvRange o.raw = none →
        exec (.crvSet cell op) s = .next (opFault s cell o CellFault.ILLEGAL_OP)) ∧
      (Runs s cell op 0x32 ctx o → crvRange o.raw = none →
        exec (.crvGet cell op) s = .next (opFault s cell o CellFault.ILLEGAL_OP))) ∧
    (Runs s cell op 0x3D ctx o → (∀ p ∈ i.ops, readsBooks p.raw = true → p.id < o.id → p.stage = .executed) →
      dfield o.raw 0x28 31 17 = 0 → dfield o.raw 0x28 15 15 = 0 → dfield o.raw 0x28 7 6 = 0 → zeroWords o.raw [0x2C, 0x30, 0x34, 0x38, 0x3C] = true →
      n ≠ 0 → first + n ≤ 64 → (o.inAt 0).isSome = true → 64 * n ≤ r.len → i.runPoisoned r (64 * n) = false →
      completes (.cbSet cell op) { i with books := i.books.loadAll first n (dfield o.raw 0x28 16 16) (r.bytes i.sram (64 * n)) }) ∧
    (Runs s cell op 0x3D ctx o → (∃ p ∈ i.ops, readsBooks p.raw = true ∧ p.id < o.id ∧ p.stage ≠ .executed) → exec (.cbSet cell op) s = .next s) ∧
    (Runs s cell op 0x3E ctx o → dfield o.raw 0x28 31 15 = 0 → dfield o.raw 0x28 7 6 = 0 → zeroWords o.raw [0x2C, 0x30, 0x34, 0x38, 0x3C] = true →
      n ≠ 0 → first + n ≤ 64 → (o.outAt 0).isSome = true → 64 * (n + 1) ≤ w.len →
      completes (.cbGet cell op) (i.storeRun w 0 (i.books.images first n))) ∧
    (let p := EncOp.ofRaw o.raw
     Runs s cell op 0x3C ctx o → p.illegal o.raw = false → (o.inAt 0).isSome = true → (o.outAt 0).isSome = true → elemBytes p.src p.count ≤ r.len →
      groupedBytes p.dst (ceilDiv p.count 256) ≤ w.len → (o.outAt 1).isNone = true → i.runPoisoned r (elemBytes p.src p.count) = false →
      (2 < p.dst ∨ ((tableValue i.books p.dst p.select 0).isSome = true ∧ (p.candidates i.books).isEmpty = false)) →
      completes (.cbEncode cell op) ((p.output (p.run i.sram i.books r (if p.seed = 0 then o.at_ % 2 ^ 32 else p.seed))).foldl
        (fun i d => i.storeRun w d.1 d.2) i)) ∧
    (let p := ElemOp.ofRaw o.raw
     let pr := EProg.read i.prog (dfield o.raw 0x2C 9 0)
     let inV := (List.range 4).map fun k => (o.inAt k).isSome
     let outV := (List.range 2).map fun k => (o.outAt k).isSome
     Runs s cell op 0x30 ctx o → p.illegal o.raw pr inV outV = false →
      (∀ k, k < 4 → inV.getD k false = true → portBytes (nth p.inFmt k) (nth p.inMode k) p.rows p.count ≤ (i.inRun o k).len) →
      (∀ k, k < 2 → outV.getD k false = true → portBytes (nth p.outFmt k) (nth p.outMode k) p.rows p.count ≤ (i.outRun o k).len) →
      let e := runElem { op := p, prog := pr, sram := i.sram, poison := i.poison, books := i.books, curves := i.curves,
                         inRuns := (List.range 4).map fun k => i.inRun o k } s.free
      (e.bad = 0 → completes (.elem cell op) (e.outs.foldl (fun i d => i.storeRun (i.outRun o d.1) d.2.1 d.2.2) i)) ∧
      (e.bad ≠ 0 → exec (.elem cell op) s = .next (opFault s.useFree cell o e.bad)))

/-- The match unit (R140, R141, R147-R156): an idle unit takes the request that waits and checks it under the policy of its context; the request that it
runs writes its outputs and leaves the unit free; a cell's request that the unit does not run waits. -/
def Obligations.MatchUnitRuns : Prop :=
  (∀ (s : State) (die cell op ctx : Nat) (o : Op), die < 8 → (s.mtu die).running = none → (s.mtu die).waiting = some ⟨cellPos cell, op⟩ →
    40 * die + cellPos cell = cell → (s.cell cell).runner = some ctx → (s.cell cell).saved = none → (s.cell cell).img.ops = [o] → o.id = op → engineOf o.raw = 4 →
    let m := s.mtu die
    (∀ e, matchAnswer (s.cell cell).img o (policyOf s ctx) = .error e →
      exec (.matchRequestBegin die) s = .next (opFault (s.setMtu die { m with waiting := none }) cell o e)) ∧
    (∀ a, matchAnswer (s.cell cell).img o (policyOf s ctx) = .ok a →
      let longest := mtuReg die Reg.MTU_LAT_WAIT_MAX
      let waited := min 0xFFFF (max (rd s 0 longest) (tget (fun _ => 0) m.since (cellPos cell)))
      ∃ t, exec (.matchRequestBegin die) s = .next t ∧
        t.mtu die = ⟨some ⟨cellPos cell, op⟩, none, m.last, tset (fun _ => 0) m.since (cellPos cell) 0⟩ ∧
        (t.cell cell).img = { (s.cell cell).img with ops := [{ o with left := policyOf s ctx }] } ∧
        t = { s with
          cells := t.cells
          mtus := t.mtus
          regs := if frozen s .mtu (mtuReg die 0) then s.regs else (wr s 0 longest waited).regs })) ∧
  (∀ (s : State) (cell op ctx : Nat) (o : Op), (s.mtu (cellDie cell)).running ≠ some ⟨cellPos cell, op⟩ →
    (Runs s cell op 0x40 ctx o → exec (.topk cell op) s = .next s) ∧ (Runs s cell op 0x41 ctx o → exec (.merge cell op) s = .next s) ∧
    (Runs s cell op 0x42 ctx o → exec (.intersect cell op) s = .next s) ∧ (Runs s cell op 0x43 ctx o → exec (.dispatch cell op) s = .next s)) ∧
  (∀ (s : State) (cell op ctx : Nat) (o : Op) (a : MatchResult), (s.mtu (cellDie cell)).running = some ⟨cellPos cell, op⟩ →
    let i := (s.cell cell).img
    matchAnswer i o o.left = .ok a →
    let done (c : Instr) : Prop :=
      ∃ t, exec c s = .next t ∧ (t.cell cell).img = carriedOut (a.outs.foldl (fun i d => i.storeRun (i.outRun o d.1) d.2.1 d.2.2) i) op ∧
        (t.mtu (cellDie cell)).running = none ∧
        t = { s with cells := t.cells, mtus := t.mtus, regs := t.regs, host := { s.host with vecs := t.host.vecs } } ∧
        ∀ q, q ≠ cell → t.cell q = s.cell q
    (Runs s cell op 0x40 ctx o → done (.topk cell op)) ∧ (Runs s cell op 0x41 ctx o → done (.merge cell op)) ∧
    (Runs s cell op 0x42 ctx o → done (.intersect cell op)) ∧ (Runs s cell op 0x43 ctx o → done (.dispatch cell op)))

/-! ## Cells: preemption and debug -/

/-- Spill, hold buffer, return and restore (R70-R73). A spill of a cell whose operations other than those of the engines have completed keeps the owner's
contents in the spill record and gives the cell, cleared, to the latency context. A held write goes to the record, or to the cell once its
owner is back. A borrower's program that halted long enough ago gives the cell back, and the restore puts the record's
contents where they were.
The debug controls of a sequencer (R74): STEP fires nothing while DBG_HOLD is 0 or debug is locked; HALT_REQ stops arming and does nothing to a cell
in which no program runs; DBG_HOLD holds a sequencer only while debug is unlocked. -/
def Obligations.CellsAreLentReturnedAndDebugged : Prop :=
  ((∀ (s : State) (cell lat owner : Nat), cell < 320 → (s.cell cell).move = .spilling lat → (s.cell cell).runner = some owner →
     quietCell s (s.cell cell).img = true → (∀ o ∈ (s.cell cell).img.ops, ¬(opc o.raw = 0x06 ∧ o.stage = .waiting)) → (s.cell cell).startCmd = none →
     ∃ t, exec (.spillComplete cell) s = .next t ∧ (t.cell cell).saved = some (owner, (s.cell cell).img) ∧ (t.cell cell).img = CellImg.idle ∧
       (t.cell cell).runner = some lat ∧ (t.cell cell).borrowed = true ∧ (t.cell cell).move = .steady ∧ t.mem = s.mem ∧
       ∀ q, q ≠ cell → t.cell q = s.cell q) ∧
   (∀ (s : State) (cell : Nat), cell < 320 → (∀ c, (s.cell cell).move ≠ .spilling c) → exec (.spillComplete cell) s = .next s) ∧
   (∀ (s : State) (cell : Nat) (h : HeldWrite) (l : List HeldWrite), cell < 320 → s.held = h :: l → h.cell = cell →
     (∀ o i, (s.cell cell).saved = some (o, i) →
       exec (.holdBufferPlace cell) s =
         .next { s.setCell cell { s.cell cell with saved := some (o, i.store h.addr h.data h.poison) } with held := l }) ∧
     ((s.cell cell).saved = none → (s.cell cell).move = .steady →
       exec (.holdBufferPlace cell) s = .next { withImg s cell ((s.cell cell).img.store h.addr h.data h.poison) with held := l })) ∧
   (∀ (s : State) (cell lat at_ : Nat), cell < 320 → (s.cell cell).runner = some lat → (s.cell cell).haltedAt = some at_ →
     (s.cell cell).borrowed = true → (s.cell cell).move = .steady →
     ((s.cell cell).returnNow = true → exec (.borrowReturn cell) s = .next (beginReturn s cell)) ∧
     (at_ + 125 * (s.ctx lat).desc.borrowHoldUs ≤ s.cic.count → exec (.borrowReturn cell) s = .next (beginReturn s cell)) ∧
     ((s.cell cell).returnNow = false → s.cic.count < at_ + 125 * (s.ctx lat).desc.borrowHoldUs → exec (.borrowReturn cell) s = .next s)) ∧
   (∀ (s : State) (cell o : Nat) (i : CellImg), cell < 320 → (s.cell cell).move = .restoring → (s.cell cell).saved = some (o, i) →
     (∀ h ∈ s.held, h.cell ≠ cell) →
     exec (.restoreComplete cell) s =
       .next (s.setCell cell { s.cell cell with
         img := i, runner := some o, borrowed := false, saved := none, move := .steady, haltedAt := none }))) ∧
  (∀ (s : State) (src : Source) (cell : Nat), cell < 320 → Reaches s src (cseqReg cell Reg.CSEQ_CTL) →
     (((s.cell cell).dbgHold = false ∨ debugOpen s = false) → exec (.cseqStep src cell) s = .next s) ∧
     (∀ n, (s.cell cell).dbgHold = true → debugOpen s = true → oldestReady s cell = some n →
       exec (.cseqStep src cell) s = .next (fireTrack s cell n true)) ∧
     (∀ ctx, (s.cell cell).runner = some ctx → (s.cell cell).img.started = true → (s.cell cell).img.halted = false →
       (s.cell cell).img.ops ≠ [] →
       exec (.cseqHaltReq src cell) s = .next (withImg s cell (s.cell cell).img.stop)) ∧
     ((s.cell cell).img.started = false → exec (.cseqHaltReq src cell) s = .next s) ∧
     (∀ hold, ∃ t, exec (.cseqDbgHold src cell hold) s = .next t ∧ (t.cell cell).dbgHold = hold ∧ (t.cell cell).img = (s.cell cell).img ∧
       t = { s with cells := t.cells, regs := t.regs }) ∧
     ((s.cell cell).dbgHold = true → debugOpen s = true → mayArm s cell false = false) ∧
     (debugOpen s = false → mayArm s cell false = mayArm s cell true))


/-! ## Memory -/

/-- Memory (R205, R207, R209, R452): where every word that a write touches has a key, the bytes written read as they were written and
every other byte as before; a write to words without a key changes no byte; a whole word written loses its poison, and words that are not
written keep theirs. No two addresses of the pool share a channel and an offset on it. The decoder of the symbol code finds nothing in a
code word, the poison in a poisoned one, and the symbol in one with a single symbol in error, whose data it passes on corrected. -/
def Obligations.MemoryReadsWhatWasWritten : Prop :=
  (∀ (s : State) (a b : Nat) (data : List Byte), (∀ w ∈ wordsOf a data.length, accessTag s w ≠ none) →
    hbmByte (hbmWrite s a data) b = if a ≤ b ∧ b < a + data.length then data.getD (b - a) 0 else hbmByte s b) ∧
  (∀ (s : State) (a b : Nat) (data : List Byte), (∀ w ∈ wordsOf a data.length, w ≠ b / 32 * 32) →
    hbmPoison (hbmWrite s a data) b = hbmPoison s b) ∧
  (∀ (s : State) (a : Nat) (data : List Byte), (∀ w ∈ wordsOf a data.length, accessTag s w = none) → (hbmWrite s a data).mem = s.mem) ∧
  (∀ (s : State) (w : Nat) (data : List Byte), w % 32 = 0 → data.length = 32 → accessTag s w ≠ none →
    hbmPoison (hbmWrite s w data) w = false) ∧
  (∀ a b : Nat, a < poolBytes → b < poolBytes → chanOf a = chanOf b → chanOffset a = chanOffset b → a = b) ∧
  (∀ data : List Nat, data.length = 32 → (∀ x ∈ data, x < 256) →
    decodeWord (symbolWord data false) = .clean ∧ decodeWord (symbolWord data true) = .poisoned ∧
    ∀ j e, j < 36 → 0 < e → e < 256 →
      decodeWord (withErrors (symbolWord data false) [(j, e)]) = .corrected j ∧
      decodedData (withErrors (symbolWord data false) [(j, e)]) = data)

/-- Memory service and its shares (R213-R219, R223): a unit that can be served is charged to its sluice, wakes its channel, and for a read
or a merging write runs the check of its word; a read that hits the floor cache is not charged; what is served next is of the first tier
with a request, and of a sluice that has had no more of that tier, by its weight, than another; a refill that is due adds the partition's share to its level, up to the burst, and one
that is not due does nothing; the maintenance sluice gets its share each 125 ticks. A share that would break the bound is not applied, and a
maintenance share is cut to 100 and to what fits. -/
def Obligations.MemoryServiceAndShares : Prop :=
  (∀ (s : State) (f : Nat) (r : MemReq) (x : Finding), f < 4 → servable s f [r] = [r] → tierOf s f r < 4 →
    (∀ g w, x ≠ .cacheCorrected g w ∧ x ≠ .cacheBad g w) →
    let c := reqChan r.addr
    let u := noteService (chargeUnit s.useFree f r (tierOf s f r)) f (tierOf s f r) r
    let v := noteWaiting (u.setChan c { u.chan c with asleep := false }) f []
    exec (.memoryUnitServe f [r] x) s =
      .next (if r.write ∧ !r.merge then v
        else hbmCheck v c (reqOffset (r.addr / 32 * 32)) x ((partOf v r.who).filter fun p => (v.ctx p).live))) ∧
  (∀ (s : State) (f g w : Nat) (l : List MemReq), f < 4 →
    exec (.memoryUnitServe f l (.cacheBad g w)) s = .next (flcCheck s f (.cacheBad g w))) ∧
  (∀ (s : State) (f : Nat) (l : List MemReq), ∀ r ∈ (candidates s f l).2,
    r ∈ l ∧ tierOf s f r = (candidates s f l).1 ∧
      ∀ q ∈ l, tierOf s f r ≤ tierOf s f q ∧
        (tierOf s f r ≠ 0 → tierOf s f q = tierOf s f r → startTag s f (tierOf s f r) r ≤ startTag s f (tierOf s f r) q)) ∧
  (∀ (s : State) (f p : Nat) (r : MemReq), f < 4 → partOf s r.who = some p → r.merge = false →
    let x := sluiceAt s f p
    (0 < x.aLeft → tierOf s f r = 1 ∧ (sluiceAt (chargeUnit s f r 1) f p).aLeft = x.aLeft - 1 ∧
      (sluiceAt (chargeUnit s f r 1) f p).level = x.level - 1 ∧ (sluiceAt (chargeUnit s f r 1) f p).capLeft = x.capLeft - 8) ∧
    (x.aLeft = 0 → capOpen s f p = false → tierOf s f r = 4)) ∧
  (∀ (s : State) (f p : Nat), f < 4 → p < 64 →
    let x := sluiceAt s f p
    let iv := max 8 (fld s p (slu Reg.SLU_INTERVAL) 15 0)
    let r := (effGuar s p * iv + x.carry) / 8
    (s.cic.count < x.nextAt → exec (.sluiceRefill f p) s = .next s) ∧
    (x.nextAt ≤ s.cic.count → ∃ t, exec (.sluiceRefill f p) s = .next t ∧
      sluiceAt t f p =
        { level := min (x.level + r) (max (max 1 (fld s p (slu Reg.SLU_BURST) 23 0)) r), carry := (effGuar s p * iv + x.carry) % 8,
          aLeft := min (min (x.level + r) (max (max 1 (fld s p (slu Reg.SLU_BURST) 23 0)) r)) r, capLeft := effCeil s p * iv,
          nextAt := s.cic.count + iv, capped := false, missed := false, tags := x.tags } ∧
      t.mem = s.mem ∧ t.ctxs = s.ctxs ∧ t.cells = s.cells)) ∧
  (∀ (s : State) (f : Nat), f < 4 →
    (s.cic.count < (maintAt s f).nextAt → exec (.sluiceRefill f 64) s = .next s) ∧
    ((maintAt s f).nextAt ≤ s.cic.count → (maintAt s f).owed ≤ 16 * maintShare s →
      exec (.sluiceRefill f 64) s =
        .next (setMaint s f { maintAt s f with
          left := 16 * maintShare s - (maintAt s f).owed, owed := 0, nextAt := s.cic.count + 125 }))) ∧
  (∀ (s : State) (src : Source) (value : Nat), Reaches s src (slu Reg.SLU_SHARE_CTL) →
    let p := fld s 0 (slu Reg.SLU_SEL) 5 0
    let sum := otherGuar s p + clipGuar (bits value 9 0) (bits value 25 16)
    (s.ctx p).live = false →
    (1024000 < sum * 1000 + maintShare s * 1024 →
      exec (.sluShareCtlWrite src value) s = .next (setFld s p (slu Reg.SLU_STATUS) 30 30 1)) ∧
    (sum * 1000 + maintShare s * 1024 ≤ 1024000 →
      exec (.sluShareCtlWrite src value) s =
        .next (applyShare (wr s p (slu Reg.SLU_SHARE_CTL) (bits value 25 16 * 2 ^ 16 + bits value 9 0)) p))) ∧
  (∀ (s : State) (src : Source) (value : Nat), Reaches s src (slu Reg.SLU_MAINT) →
    ∃ m, m ≤ 100 ∧ m ≤ bits value 6 0 ∧ exec (.sluMaintWrite src value) s = .next (wr s 0 (slu Reg.SLU_MAINT) m) ∧
      (otherGuar s 64 * 1000 ≤ 1024000 → otherGuar s 64 * 1000 + m * 1024 ≤ 1024000))

/-- Memory maintenance (R210, R219-R221, R230-R232, R334): the patrol reads the granule at its position and moves on; a quiet step that is due holds its
channel, and a step on a channel that it holds completes and lets it go; a timing trim is charged to maintenance; a step
that has been due for 60 s is reported once; a traffic generator refuses a bad range and otherwise starts, ends at its abort, and its end frees the
channel; an invalidated floor cache holds nothing of its floor; a wanted prefetch enters the pocket once its partition's
sluice has a unit for it; channels sleep only while the device is host-detached. -/
def Obligations.MemoryMaintenance : Prop :=
  (∀ (s : State) (chan : Nat), chan < 256 → (s.chan chan).trained = true → (s.chan chan).held = none →
    0 < maintLeft s (chan / 64) → (s.chan chan).scrubAt + 1 < spillFrom →
    ∃ t, exec (.patrolScrub chan []) s = .next t ∧ t.chan chan = { s.chan chan with scrubAt := (s.chan chan).scrubAt + 1 } ∧
      t.mem = s.mem ∧ t.poison = s.poison) ∧
  (∀ (s : State) (chan kind : Nat) (c : Instr), chan < 256 → (s.chan chan).trained = true →
    ((kind = 0 ∧ c = .writeDataRecal chan) ∨ (kind = 1 ∧ c = .vrefRecal chan) ∨
      (kind = 2 ∧ c = .laneRepair chan false ∧ hbmcFld s chan Reg.HBMC_LANE 31 31 = 1)) →
    ((s.chan chan).held = none → s.hbm.quietOn = none → s.hbm.quietAt ≤ s.cic.count → spillingOn s (chan / 64) = false →
      pinnedNow (dueQuiet s chan kind) chan = false →
      ∃ t, exec c s = .next t ∧ (t.chan chan).held = some kind ∧ t.hbm.quietOn = some chan ∧ (t.chan chan).asleep = false) ∧
    ((s.chan chan).held = some kind → kind ≠ 2 →
      ∃ t, exec c s = .next t ∧ (t.chan chan).held = none ∧ t.hbm.quietOn = none ∧ t.hbm.quietAt = s.cic.count + 125000 ∧
        (∀ q ∈ (t.chan chan).quiet, q.kind ≠ kind)) ∧
    (s.hbm.quietOn.isSome = true → (s.chan chan).held ≠ some kind → exec c s = .next (dueQuiet s chan kind))) ∧
  (∀ (s : State) (chan : Nat), chan < 256 → (s.chan chan).trained = true →
    (0 < maintLeft s (chan / 64) → exec (.readTimingTrim chan) s = .next (chargeMaint s (chan / 64) 1)) ∧
    (maintLeft s (chan / 64) = 0 → exec (.readTimingTrim chan) s = .next s ∧ ∀ found, exec (.patrolScrub chan found) s = .next s)) ∧
  (∀ (s : State) (chan : Nat), chan < 256 →
    ((∀ q ∈ (s.chan chan).quiet, q.overdue = true ∨ s.cic.count ≤ q.due + 7500000000) → exec (.calOverdue chan) s = .next s) ∧
    ((∃ q ∈ (s.chan chan).quiet, q.overdue = false ∧ q.due + 7500000000 < s.cic.count) →
      ∃ u, exec (.calOverdue chan) s =
          .next (raiseError u { sev := 0, type := Err.CAL_OVERDUE, die := 24 + chan / 32, inst := chan % 32 }) ∧
        ∀ q ∈ (u.chan chan).quiet, q.overdue = true ∨ s.cic.count ≤ q.due + 7500000000)) ∧
  (∀ (s : State) (src : Source) (k value : Nat), k < 8 → Reaches s src (tgenReg k Reg.TGEN_CTL) →
    let c := tgenSel s k
    let a := tgenReg k Reg.TGEN_CTL
    let u := wr s c a (writeFields (PageKind.tgen.at_ Reg.TGEN_CTL) false (rd s c a) value)
    runAt s (32 * k + c) = none → fld s c a 31 31 = 0 → (s.chan (32 * k + c)).trained = true → dieLoaded s (24 + k) = true →
    tgenBadRange (bits value 26 24) (rd u c (tgenReg k Reg.TGEN_OFFSET)) (rd u c (tgenReg k Reg.TGEN_LENGTH)) = true →
    exec (.tgenGo src k value) s = .next (tgenStatus u k c 4 1 0)) ∧
  (∀ (s : State) (src : Source) (k value : Nat), k < 8 → Reaches s src (tgenReg k Reg.TGEN_CTL) →
    let c := tgenSel s k
    let a := tgenReg k Reg.TGEN_CTL
    let u := wr s c a (writeFields (PageKind.tgen.at_ Reg.TGEN_CTL) false (rd s c a) value)
    runAt s (32 * k + c) = none → fld s c a 31 31 = 0 → (s.chan (32 * k + c)).trained = true → dieLoaded s (24 + k) = true →
    tgenBadRange (bits value 26 24) (rd u c (tgenReg k Reg.TGEN_OFFSET)) (rd u c (tgenReg k Reg.TGEN_LENGTH)) = false →
    bits value 26 24 ≤ 2 → bits value 23 20 ≤ 5 → bit value 29 = false →
    exec (.tgenGo src k value) s =
      .next (setFld (tgenStatus (setRun u (32 * k + c) (some
        { mode := bits value 26 24, pattern := bits value 23 20, passes := max 1 (bits value 15 0),
          offset := rd u c (tgenReg k Reg.TGEN_OFFSET), bytes := rd u c (tgenReg k Reg.TGEN_LENGTH),
          user := rd u c (tgenReg k Reg.TGEN_USER), stamp := none, abort := false })) k c 2 0 0) c a 31 31 1)) ∧
  (∀ (s : State) (src : Source) (k : Nat) (r : TgenRun), k < 8 → Reaches s src (tgenReg k Reg.TGEN_CTL) →
    runAt s (32 * k + tgenSel s k) = some r →
    exec (.tgenAbort src k) s = .next (setRun s (32 * k + tgenSel s k) (some { r with abort := true }))) ∧
  (∀ (s : State) (k c : Nat) (o : TgenObs) (r : TgenRun), k < 8 → c < 32 → runAt s (32 * k + c) = some r → r.stamp = none →
    ∃ t, exec (.tgenRunEnd k c o) s = .next t ∧ runAt t (32 * k + c) = none) ∧
  (∀ (s : State) (src : Source) (f : Nat), f < 4 → Reaches s src (flcReg f Reg.FLC_CTL) →
    ∃ t, exec (.flcInvalidate src f) s = .next t ∧ (∀ a, homeFloor a = f → flcWay t a = none) ∧ (∀ p ∈ t.coh.pocket, p.1 ≠ f) ∧
      (∀ p ∈ t.coh.prefetches, p.floor ≠ f) ∧ t = { s with coh := t.coh } ∧ t.coh.dir = s.coh.dir ∧ t.coh.lines = s.coh.lines) ∧
  (∀ (s : State) (f line : Nat), f < 4 →
    ((∀ q ∈ s.coh.prefetches, q.floor = f → q.line ≠ line) → exec (.prefetchFill f line) s = .next s) ∧
    (∀ q, s.coh.prefetches.find? (fun q => q.floor = f && q.line = line) = some q →
      ((∀ p, q.part = some p → tierAt s f p < 4) → ∃ t, exec (.prefetchFill f line) s = .next t ∧ (f, line) ∈ t.coh.pocket ∧ t.mem = s.mem) ∧
      (∀ p, q.part = some p → tierAt s f p = 4 → exec (.prefetchFill f line) s = .next s))) ∧
  (∀ (s : State) (k : Nat), k < 8 →
    (s.host.attach ≠ 2 → exec (.selfRefreshEntry k) s = .next s) ∧
    (s.host.attach = 2 → ∃ t, exec (.selfRefreshEntry k) s = .next t ∧
      (∀ c, c < 32 → (s.chan (32 * k + c)).trained = true → (s.chan (32 * k + c)).held = none → (t.chan (32 * k + c)).asleep = true) ∧
      t = { s with hbm := t.hbm }))

/-! ## Coherence -/

/-- Requests at an idle home (R238, R239, R242). A line that no agent holds is granted in E to RdS, in F to RdSN and in M to RdO, with memory's data, and
its directory entry names the agent; a sole sharer's Upg gives it M; the owner's WB writes its data to memory and leaves no entry; RdC answers with
memory's data and changes no memory; WrL and WrP write the bytes of the line, and WrP no other than those of its mask. A request of the
guest that the levee bars changes no line, no entry and no memory, and a read of it answers with an error (R29). -/
def Obligations.HomeRequests : Prop :=
  ∀ (s : State) (agent line : Nat), agent < 128 → line * 64 < poolBytes → s.coh.txns = [] → s.coh.waiting = [] → s.coh.offers = [] →
    (let gets (c : Instr) (st : Mesi) (d : Nat) : Prop :=
       ∃ t, exec c s = .next t ∧ agentLine t agent line = ⟨st, hbmBytes s (line * 64) 64, linePoison s line, false⟩ ∧
         (dirEntry t line).st = d ∧ (dirEntry t line).ptrs = [agent] ∧ t.mem = s.mem ∧ t.coh.txns = [] ∧
         ∀ q l, l < 2 ^ 60 → (q, l) ≠ (agent, line) → agentLine t q l = agentLine s q l
     (dirEntry s line).st = 0 → (dirSetLines s line).length < 16 → (agentLine s agent line).st = .i →
     agent ≠ 98 → ∀ ctx,
     (maySend s agent line .rdS = true → gets (.rds agent line false ctx) .e 1) ∧
     (maySend s agent line .rdSN = true → gets (.rdsn agent ⟨line, false, ctx⟩) .f 2) ∧
     (maySend s agent line .rdO = true → gets (.rdo agent ⟨line, false, ctx⟩) .m 1)) ∧
    (agent ≠ 98 → maySend s agent line .upg = true → ((dirEntry s line).st = 2 ∨ (dirEntry s line).st = 3) → (dirEntry s line).ptrs = [agent] →
      (agentLine s agent line).st ≠ .i →
      ∃ t, exec (.upg agent ⟨line, false⟩) s = .next t ∧ agentLine t agent line = { agentLine s agent line with st := .m } ∧
        (dirEntry t line).st = 1 ∧ (dirEntry t line).ptrs = [agent] ∧ t.mem = s.mem) ∧
    (agent ≠ 98 → maySend s agent line .wb = true → (dirEntry s line).st = 1 → (dirEntry s line).ptrs = [agent] → (agentLine s agent line).st = .m →
      (agentLine s agent line).data.length = 64 → accessTag s (line * 64) ≠ none → accessTag s (line * 64 + 32) ≠ none →
      ∃ t, exec (.wb agent ⟨line, false⟩) s = .next t ∧ agentLine t agent line = AgentLine.none_ ∧ (dirEntry t line).st = 0 ∧
        ∀ i, i < 64 → hbmByte t (line * 64 + i) = (agentLine s agent line).data.getD i 0) ∧
    (leveeBars s agent line 1 = false → guestAway s agent = false → (dirEntry s line).st ≠ 1 → (dirEntry s line).st ≤ 4 →
      ∃ t, exec (.rdc agent ⟨line, false⟩) s = .next t ∧
        t.out = s.out ++ [.readData (hbmBytes s (line * 64) 64) (!(linePoison s line).isEmpty)] ∧ t.mem = s.mem ∧ t.coh.lines = s.coh.lines) ∧
    (leveeBars s agent line 2 = false → guestAway s agent = false → writeBarred s (writerOf agent) (line * 64) 64 = false → writeWaits s (line * 64) 64 = false →
      (∀ w ∈ s.mir.waiting, w.from_ ≠ agent) →
      (dirEntry s line).st = 0 → (dirEntry s line).ptrs = [] → accessTag s (line * 64) ≠ none → accessTag s (line * 64 + 32) ≠ none →
      (∀ data stash, ∃ t, exec (.wrl agent ⟨line, false⟩ data stash) s = .next t ∧ ∀ i, i < 64 → hbmByte t (line * 64 + i) = data.getD i 0) ∧
      (∀ data mask, ∃ t, exec (.wrp agent ⟨line, false⟩ mask data) s = .next t ∧
        (∀ i, i < 64 → hbmByte t (line * 64 + i) = if bit mask i then data.getD i 0 else hbmByte s (line * 64 + i)) ∧
        ∀ b, b / 64 ≠ line → hbmByte t b = hbmByte s b)) ∧
    (leveeBars s agent line 1 = true → exec (.rdc agent ⟨line, false⟩) s = .next (leveeBlock s false (lineAddr line))) ∧
    (leveeBars s agent line 5 = true → ∀ bad ctx,
      exec (.rds agent line bad ctx) s = .next (leveeBlock s false (lineAddr line)) ∧
      exec (.rdsn agent ⟨line, bad, ctx⟩) s = .next (leveeBlock s false (lineAddr line))) ∧
    (leveeBars s agent line 7 = true → ∀ bad,
      (∀ ctx, exec (.rdo agent ⟨line, bad, ctx⟩) s = .next (leveeBlock s false (lineAddr line))) ∧
      exec (.upg agent ⟨line, bad⟩) s = .next (leveeBlock s false (lineAddr line)) ∧
      exec (.wb agent ⟨line, bad⟩) s = .next (leveeBlock s true (lineAddr line))) ∧
    (leveeBars s agent line 2 = true → ∀ bad data,
      (∀ stash, exec (.wrl agent ⟨line, bad⟩ data stash) s = .next (leveeBlock s true (lineAddr line))) ∧
      (∀ mask, exec (.wrp agent ⟨line, bad⟩ mask data) s = .next (leveeBlock s true (lineAddr line)))) ∧
    (∀ write a, (write = false → Out.guestError ∈ (leveeBlock s write a).out) ∧
      (bit (rd s 0 (hub Pg.RST Reg.ERR_RING_CTL)) 31 = false →
        (leveeBlock s write a).coh = s.coh ∧ (leveeBlock s write a).mem = s.mem))

/-- Snoops and their answers (R240, R241, R244, R245, R247, R250, R252, R255, R269). An agent that takes a snoop goes to the state that the snoop gives it and
answers, once, with its data where it must; a cluster whose hart holds a reservation on the granule does not take it while it defers. A
stash target accepts or declines; an accepted line is held in E. A snoop past its bound fails its agent; before, nothing happens. A probe
reads a line's entry. -/
def Obligations.SnoopsAndStashes : Prop :=
  (∀ (s : State) (agent line : Nat) (k : Snp) (x : Txn) (c : Instr), agent < 128 → txnOf s line = some x → (agent, k) ∈ x.snoops →
    c = (match k with
      | .f => Instr.snpf agent line
      | .ifw => Instr.snpif agent line
      | .i => Instr.snpi agent line
      | .c => Instr.snpc agent line) →
    (defersSnoop s agent line = true → exec c s = .next s) ∧
    (defersSnoop s agent line = false →
      let a := snoopAct k (agentLine s agent line)
      ∃ t, exec c s = .next t ∧ agentLine t agent line = a.1 ∧
        txnOf t line = some { x with
          snoops := x.snoops.erase (agent, k), answers := x.answers ++ [⟨agent, a.2.1, a.2.2.1, a.2.2.2⟩] } ∧
        t.mem = s.mem ∧ t.coh.dir = s.coh.dir)) ∧
  (∀ (k : Snp) (l : AgentLine),
    (l.st = .i → snoopAct k l = (l, 3, none, false)) ∧
    (l.st ≠ .i → l.wb = false →
      ((snoopAct .f l).1.st = .s ∧ (snoopAct .i l).1.st = .i ∧ (snoopAct .ifw l).1.st = .i ∧
       ((l.st = .m ∨ l.st = .e) → (snoopAct .c l).1.st = .e ∧ (snoopAct .c l).2.1 = 2) ∧
       (l.st = .m → ∀ j, (snoopAct j l).2.2.1 = some (l.data, l.poison) ∧ (snoopAct j l).2.2.2 = true)))) ∧
  (∀ (s : State) (agent line q : Nat) (x : Txn) (d : List Byte × List Nat) (dirty : Bool), agent < 128 → s.coh.txns = [(line, some x)] →
    s.coh.waiting = [] → s.coh.offers = [] → isHostLine line = false → x.snoops = [] → x.answers = [⟨agent, 1, some d, dirty⟩] → x.r.req = .rdO → x.r.from_ = q → x.grant = 4 → x.next = ⟨1, [q], 0⟩ →
    (agentLine s q line).st = .i →
    ∃ t, exec (.snoopResponse agent line) s = .next t ∧ agentLine t q line = ⟨.m, d.1, d.2, false⟩ ∧ (dirEntry t line).st = 1 ∧
      (dirEntry t line).ptrs = [q] ∧ t.coh.txns = [] ∧ t.mem = s.mem) ∧
  (∀ (s : State) (agent line : Nat) (evicts : Bool), agent < 128 →
    exec (.offer agent line evicts) s =
      .next { s with coh := { s.coh with offers := s.coh.offers.map fun o =>
        if o = (agent, line, 0) then (agent, line, if acceptsOffer s agent line evicts then 1 else 2) else o } }) ∧
  (∀ (s : State) (agent line : Nat), agent < 128 → s.coh.txns = [] → s.coh.waiting = [] →
    (s.coh.offers = [(agent, line, 1)] → (dirEntry s line).st = 0 → agent ∈ s.coh.enabled → isHostLine line = false → (dirSetLines s line).length < 16 →
      ∃ t, exec (.stashAnswer agent line) s = .next t ∧ agentLine t agent line = ⟨.e, lineData s line, linePoison s line, false⟩ ∧
        (dirEntry t line).st = 1 ∧ (dirEntry t line).ptrs = [agent] ∧ t.coh.offers = []) ∧
    (s.coh.offers = [(agent, line, 2)] →
      ∃ t, exec (.stashAnswer agent line) s = .next t ∧ t.coh.offers = [] ∧ t.coh.lines = s.coh.lines ∧ t.coh.dir = s.coh.dir) ∧
    (s.coh.offers = [] → exec (.stashAnswer agent line) s = .next s)) ∧
  (∀ (s : State) (agent line : Nat) (x : Txn), agent < 128 → txnOf s line = some x → (∃ p ∈ x.snoops, p.1 = agent) →
    (s.cic.count < x.began + snoopBound agent → exec (.snoopTimeout agent line) s = .next s) ∧
    (x.began + snoopBound agent ≤ s.cic.count →
      exec (.snoopTimeout agent line) s = .next (agentFails s agent (homeOfLine line)) ∧
      agent ∉ (agentFails s agent (homeOfLine line)).coh.enabled)) ∧
  (∀ (s : State) (src : Source) (f : Nat), f < 4 → Reaches s src (cohReg f Reg.COH_PROBE) →
    let a := rd64 s 0 (cohReg f Reg.COH_PROBE_ADDR_LO)
    ((poolBytes ≤ a ∨ homeFloor a ≠ f) → exec (.cohProbe src f) s = .next (setFld s 0 (cohReg f Reg.COH_PROBE) 30 30 1)) ∧
    (a < poolBytes → homeFloor a = f →
      exec (.cohProbe src f) s =
        .next (wr (setFld s 0 (cohReg f Reg.COH_PROBE) 30 30 0) 0 (cohReg f Reg.COH_PROBE_RESULT) (probeWord s (lineOf a))))) ∧
  (∀ (s : State) (h : Nat), h < 96 →
    exec (.snoopDeferralEnd h) s = .next (endDeferral (s.setHart h { s.hart h with defer := false })) ∧
    (s.mir.waiting = [] → exec (.snoopDeferralEnd h) s = .next (s.setHart h { s.hart h with defer := false }))) ∧
  (∀ (s : State) (line : Nat), line < 2 ^ 46 → s.coh.txns = [] → s.coh.waiting = [] → modifiedBy s (hostLineBase + line) = none →
    0x20 ∉ holders s (hostLineBase + line) → 0x20 ∉ (dirEntry s (hostLineBase + line)).ptrs →
    (∃ t, exec (.hostSnoop line true) s = .next t ∧ (dirEntry t (hostLineBase + line)).st = 0 ∧ t.out = s.out ++ [.hostCoh 1 line] ∧
      ∀ g ∈ holders s (hostLineBase + line), agentLine t g (hostLineBase + line) = AgentLine.none_) ∧
    ∃ t, exec (.hostSnoop line false) s = .next t ∧ t.out = s.out ++ [.hostCoh 1 line] ∧ t.coh.lines = s.coh.lines ∧ t.mem = s.mem)

/-! ## Harts -/

/-- Harts (R256-R259, R303, R305-R311): a hart that does not run does nothing. A load of lines that its cluster holds reads their
bytes into its register, a store to lines held in M or E writes them and leaves them in M, and neither changes memory; an address that names nothing
raises its exception; an uncached page's load reads memory past the cluster (R304). FENCE and DRAIN complete where nothing that they wait
for is open, make the buffered stores that can be made, and hold back what follows until the rest are. CCNT reads the replica, CDB rings a queue as the doorbell does and
answers with its status, the cache-block instructions act on their line, and SFENCE.VMA drops entries. -/
def Obligations.HartsAccessAndFence : Prop :=
  (∀ (s : State) (h : Nat), h < 96 → hartRuns s h = false →
    (∀ a, okHartAcc a = true → exec (.hartAccess h a) s = .next s) ∧ (∀ p q, exec (.hartFence h p q) s = .next s) ∧
    exec (.drain h) s = .next s ∧ (∀ rd, rd < 32 → exec (.ccnt h rd) s = .next s) ∧ (∀ va, exec (.sfenceVma h va) s = .next s)) ∧
  (∀ (s : State) (h : Nat), h < 96 → hartRuns s h = true → (s.hart h).buffer = [] → (s.hart h).fence = none →
    (∀ addr n rd lost, 1 ≤ n → n ≤ 8 → rd < 32 → addr + n ≤ poolBytes → holdsRange s h false addr n = true → heldPoison s h addr n = false →
      ∃ t, exec (.hartAccess h (.load addr n rd false lost)) s = .next t ∧ xreg t h rd = (if rd = 0 then 0 else leNat (heldBytes s h addr n) % 2 ^ 64) ∧
        (∀ r, r ≠ rd → xreg t h r = xreg s h r) ∧ t.mem = s.mem ∧ t.coh = s.coh ∧ t.regs = s.regs) ∧
    (∀ addr data, 1 ≤ data.length → data.length ≤ 64 → addr + data.length ≤ poolBytes → holdsRange s h true addr data.length = true →
      partPoison s h addr data.length = false →
      ∃ t, exec (.hartAccess h (.store addr data false)) s = .next t ∧ heldBytes t h addr data.length = data ∧ (t.hart h).buffer = [] ∧
        (∀ l ∈ linesOf addr data.length, (agentLine t (clusterOf h) l).st = .m) ∧
        (∀ b, (b < addr ∨ addr + data.length ≤ b) → b / 64 < 2 ^ 60 → holdsLine s (clusterOf h) (b / 64) false = true →
          (agentLine t (clusterOf h) (b / 64)).data.getD (b % 64) 0 = (agentLine s (clusterOf h) (b / 64)).data.getD (b % 64) 0) ∧
        t.mem = s.mem ∧ t.regs = s.regs) ∧
    (∀ addr, addr + 4 ≤ poolBytes → holdsRange s h false addr 4 = true → heldPoison s h addr 4 = false →
      exec (.hartAccess h (.fetch addr)) s = .next s) ∧
    (∀ addr n rd nc lost, 1 ≤ n → n ≤ 8 → rd < 32 → hartDest s h addr n false = .bad →
      ∃ t, exec (.hartAccess h (.load addr n rd nc lost)) s = .next t ∧ (t.hart h).cause = Trap.LOAD_FAULT ∧ (t.hart h).tval = addr ∧
        (t.hart h).resv = none) ∧
    (∀ addr n rd nc a t v, 1 ≤ n → n ≤ 8 → rd < 32 → hartDest s h addr n false = .reg a →
      readAs s (.hart h) (if n = 4 then a else a / 4 * 4 + 1) = some (t, v) →
      exec (.hartAccess h (.load addr n rd nc false)) s = .next (setX t h rd v) ∧
      ∃ u, exec (.hartAccess h (.load addr n rd nc true)) s = .next u ∧ (u.hart h).cause = Trap.LOAD_FAULT ∧ (u.hart h).tval = addr ∧
        ∀ r, xreg u h r = xreg t h r) ∧
    (∀ addr n rd lost, 1 ≤ n → n ≤ 8 → rd < 32 → addr + n ≤ poolBytes → devPoison (drainHart s h) addr n = false →
      let u := readRange (drainHart s h) addr n true (some (hartPart s h))
      exec (.hartAccess h (.load addr n rd true lost)) s = .next (setX u h rd (leNat (devBytes u addr n))))) ∧
  (∀ (s : State) (h : Nat), h < 96 → hartRuns s h = true → (s.hart h).fence = none →
    (∀ p q, ((s.hart h).buffer = [] ∨ bit p 0 = false) → (∀ w ∈ s.host.unread, w.who = .hart h → w.early = true) →
      ∃ t, exec (.hartFence h p q) s = .next t ∧ (t.hart h).fence = none) ∧
    (∀ p q b, (s.hart h).buffer = [b] → holdsRange s h true b.addr b.data.length = true → partPoison s h b.addr b.data.length = false →
      (∀ w ∈ s.host.unread, w.who = .hart h → w.early = true) →
      ∃ t, exec (.hartFence h p q) s = .next t ∧ (t.hart h).fence = none ∧ (t.hart h).buffer = [] ∧
        heldBytes t h b.addr b.data.length = b.data) ∧
    (∀ p q w, w ∈ s.host.unread → w.who = .hart h → w.op = 0 → w.early = false → w.id < s.host.nextWrite → bit p 2 = true →
      (s.hart h).buffer = [] →
      ∃ t, exec (.hartFence h p q) s = .next t ∧ (t.hart h).fence =
        some { stores := 0, writes := s.host.nextWrite, uncached := if bit p 0 then s.host.nextWrite else 0, succ := q % 16, drain := false }) ∧
    ((s.hart h).buffer = [] → (∀ w ∈ s.host.unread, w.who ≠ .hart h) → ∃ t, exec (.drain h) s = .next t ∧ (t.hart h).fence = none) ∧
    (∀ w, w ∈ s.host.unread → w.who = .hart h → w.op = 0 → w.id < s.host.nextWrite → (s.hart h).buffer = [] →
      ∃ t, exec (.drain h) s = .next t ∧ (t.hart h).fence =
        some { stores := 0, writes := s.host.nextWrite, uncached := s.host.nextWrite, succ := 15, drain := true }) ∧
    (∀ b, (s.hart h).buffer = [b] → holdsRange s h true b.addr b.data.length = true → partPoison s h b.addr b.data.length = false →
      (drainHart s h) = (putHeld s h b.addr b.data).setHart h { (putHeld s h b.addr b.data).hart h with buffer := [] }) ∧
    (∀ rd, rd < 32 → exec (.ccnt h rd) s = .next (setX s h rd (replica s (Rep.cluster (clusterOf h))))) ∧
    (∀ va, ∃ t, exec (.sfenceVma h va) s = .next t ∧ t.mem = s.mem ∧
      (∀ e ∈ (t.hart h).tlb, e.host = true ∨ ∃ v, va = some v ∧ (v < e.va ∨ e.va + e.bytes ≤ v)) ∧
      (∀ e ∈ tlbOf t 1, e.host = true ∨ ∃ v, va = some v ∧ (v < e.va ∨ e.va + e.bytes ≤ v)))) ∧
  (∀ (s : State) (h addr n rd : Nat) (nc lost : Bool) (data : List Byte) (f : HartFence), h < 96 → hartRuns s h = true → 1 ≤ n → n ≤ 8 → rd < 32 →
    1 ≤ data.length → data.length ≤ 64 → (s.hart h).fence = some f → f.met (drainHart s h) h = false →
    ((drainHart s h).hart h).fence = some f →
    (f.succ &&& needOf addr false ≠ 0 → exec (.hartAccess h (.load addr n rd nc lost)) s = .next (drainHart s h)) ∧
    (f.succ &&& needOf addr true ≠ 0 → exec (.hartAccess h (.store addr data nc)) s = .next (drainHart s h))) ∧
  (∀ (s : State) (h rd rs1 rs2 : Nat), h < 96 → rd < 32 → rs1 < 32 → rs2 < 32 → hartRuns s h = true → (s.hart h).buffer = [] → (s.hart h).fence = none →
    (∀ w ∈ s.host.unread, w.who ≠ .hart h) → xreg s h rs1 < 64 → rd ≠ 0 → (s.ctx (xreg s h rs1)).producer < 2 ^ 32 →
    ∃ t, exec (.cdb h rd rs1 rs2) s = .next t ∧ xreg t h rd = cdbQueueStatus s h (xreg s h rs1) (xreg s h rs2) ∧
      (cdbQueueStatus s h (xreg s h rs1) (xreg s h rs2) = 0 → (t.ctx (xreg s h rs1)).producer = xreg s h rs2 % 2 ^ 32) ∧
      (cdbQueueStatus s h (xreg s h rs1) (xreg s h rs2) = 2 → t.ctxs = s.ctxs)) ∧
  (∀ (s : State) (h addr : Nat), h < 96 → hartRuns s h = true → (s.hart h).buffer = [] → (s.hart h).fence = none → addr + 64 ≤ poolBytes → addr % 64 = 0 →
    s.coh.txns = [] → s.coh.waiting = [] →
    let line := addr / 64
    let c := clusterOf h
    ((agentLine s c line).st = .m → (agentLine s c line).data.length = 64 → accessTag s addr ≠ none → accessTag s (addr + 32) ≠ none →
      ∃ t, exec (.cboClean h addr) s = .next t ∧ (agentLine t c line).st = .e ∧ (agentLine t c line).data = (agentLine s c line).data ∧
        ∀ i, i < 64 → hbmByte t (addr + i) = (agentLine s c line).data.getD i 0) ∧
    ((agentLine s c line).st = .e → ∃ t, exec (.cboFlush h addr) s = .next t ∧ (agentLine t c line).st = .i ∧ t.mem = s.mem) ∧
    (holdsLine s c line true = true →
      ∃ t, exec (.cboZero h addr) s = .next t ∧ (agentLine t c line).st = .m ∧ (∀ i, i < 64 → (agentLine t c line).data.getD i 0 = 0) ∧
        (agentLine t c line).poison = (agentLine s c line).poison.filter fun w => !decide (w < 2)) ∧
    (∀ w, flcHas s line = false → holdsLine s c line false = false → exec (.prefetchRW h addr w) s = .next (prefetchLine s (some (hartPart s h)) line)) ∧
    (∀ w, flcHas s line = false → holdsLine s c line false = true → exec (.prefetchRW h addr w) s = .next s) ∧
    (∀ w, flcHas s line = true → holdsLine s c line w = true → exec (.prefetchRW h addr w) s = .next s))

/-- Reservations and atomics (R268-R270, R312): LR of lines that are held sets the hart's reservation and reads; SC without the reservation writes nothing and
answers 1, with it writes and answers 0, and ends the reservation either way; an AMO writes its function of the old value and returns the
old; a misaligned one raises its exception; WRS waits only while a reservation stands, until it is lost, an interrupt is pending or its limit. -/
def Obligations.ReservationsAndAtomics : Prop :=
  (∀ (s : State) (h rd addr size : Nat), h < 96 → rd < 32 → (size = 4 ∨ size = 8) → hartRuns s h = true → (s.hart h).buffer = [] → (s.hart h).fence = none →
    s.mir.waiting = [] → addr + size ≤ poolBytes →
    (addr % size ≠ 0 →
      (∃ t, exec (.lr h rd addr size) s = .next t ∧ (t.hart h).cause = Trap.LOAD_MISALIGNED ∧ (t.hart h).tval = addr) ∧
      (∀ v, ∃ t, exec (.sc h rd addr size v) s = .next t ∧ (t.hart h).cause = Trap.STORE_MISALIGNED ∧ (t.hart h).tval = addr) ∧
      (∀ f v, ∃ t, exec (.amo h rd addr size f v) s = .next t ∧ (t.hart h).cause = Trap.STORE_MISALIGNED ∧ (t.hart h).tval = addr)) ∧
    (addr % size = 0 → holdsRange s h true addr size = true → heldPoison s h addr size = false →
      let old := leNat (heldBytes s h addr size)
      (holdsRange s h false (addr / 256 * 256) 256 = true →
        ∃ t, exec (.lr h rd addr size) s = .next t ∧ (t.hart h).resv = some (addr / 256) ∧ (t.hart h).defer = true ∧
          xreg t h rd = (if rd = 0 then 0 else sext size old % 2 ^ 64) ∧ t.coh = s.coh ∧ t.mem = s.mem) ∧
      (∀ v, (s.hart h).resv = some (addr / 256) → (s.hart h).irqs = [] →
        ∃ t, exec (.sc h rd addr size v) s = .next t ∧ xreg t h rd = 0 ∧ (t.hart h).resv = none ∧
          heldBytes t h addr size = leBytes size v ∧ t.mem = s.mem) ∧
      (∀ f v, ∃ t, exec (.amo h rd addr size f v) s = .next t ∧ xreg t h rd = (if rd = 0 then 0 else sext size old % 2 ^ 64) ∧
        heldBytes t h addr size = leBytes size (amoValue f size old v) ∧ t.mem = s.mem)) ∧
    (addr % size = 0 → (s.hart h).resv ≠ some (addr / 256) → ∀ v,
      ∃ t, exec (.sc h rd addr size v) s = .next t ∧ xreg t h rd = (if rd = 0 then 0 else 1) ∧ (t.hart h).resv = none ∧ t.coh = s.coh ∧
        t.mem = s.mem)) ∧
  (∀ (s : State) (h : Nat), h < 96 → hartRuns s h = true →
    ((s.hart h).resv = none → exec (.wrsNto h) s = .next s ∧ exec (.wrsSto h) s = .next s) ∧
    ((s.hart h).resv ≠ none → (s.hart h).irqs = [] →
      exec (.wrsNto h) s = .next (s.setHart h { s.hart h with wait := .nto }) ∧
      exec (.wrsSto h) s = .next (s.setHart h { s.hart h with wait := .sto (s.cic.count + 1000) }))) ∧
  (∀ (s : State) (h : Nat), h < 96 → (s.hart h).wait ≠ .none →
    ((s.hart h).irqs = [] → ((s.hart h).resv = none ∨ (s.hart h).wait.ovr s.cic.count = true) →
      exec (.wrsWake h) s = .next (s.setHart h { s.hart h with wait := .none })) ∧
    ((s.hart h).irqs = [] → (s.hart h).resv ≠ none → (s.hart h).wait.ovr s.cic.count = false → exec (.wrsWake h) s = .next s) ∧
    ((s.hart h).irqs ≠ [] → exec (.wrsWake h) s = .next (s.setHart h { s.hart h with wait := .none, resv := none, defer := false })))

/-! ## Translation -/

/-- Translation (R277, R285-R297, R305). A walk that ends leaves its translation held, or raises its tile's fault, and its slot goes to the
next walk; a walk that an invalidation has made stale keeps nothing and is made again; the fill of a line is a tile of its cell's
program. A fault's answer retires its tag, fails the access where it says so, and an unknown
tag sets RESP_BAD; a count in the window frees queue entries and any other sets CONS_BAD; a granted host translation is kept and releases the tiles that
waited for it, a denied one asks for the page; an acknowledgement drops the range at its unit and completes the invalidation with the last; one that is
late fences the units that are silent; the host's invalidation goes to every floor's unit, and is answered once the last has dropped the
range; a window closes once its time is over. -/
def Obligations.TranslationFaultsAndInvalidations : Prop :=
  (∀ (s : State) (number : Nat), (∀ j ∈ s.xlt.walks, j.number = number → j.stage ≠ .running) →
    exec (.translationWalkDone (.walk number)) s = .next s) ∧
  (∀ (s : State) (number : Nat) (j : WalkJob), s.xlt.walks.find? (fun j => j.number = number && j.stage = .running) = some j →
    j.prefetch = false →
    let gone (t : State) : State := setWalks t (t.xlt.walks.filter fun x => x.number != number)
    (j.stale = false →
      (∀ t, walkNow s j.req.unit j.req.ctx j.va j.write = (t, .kept) →
        exec (.translationWalkDone (.walk number)) s = .next (startWalks (gone t) j.req.unit)) ∧
      (∀ t c l, walkNow s j.req.unit j.req.ctx j.va j.write = (t, .fault c l) → wants t j.req = true →
        exec (.translationWalkDone (.walk number)) s =
          .next (startWalks (raiseFault (gone t) j.req c l j.write j.va j.base j.bytes) j.req.unit))) ∧
    (j.stale = true → ∃ t, exec (.translationWalkDone (.walk number)) s = .next t ∧ (∀ u, tlbOf t u = tlbOf s u) ∧
      ∃ x ∈ t.xlt.walks, x.number = number ∧ x.stale = false)) ∧
  (∀ (s : State) (unit ctx va : Nat) (write : Bool) (x : TlbEntry), walkOutcome s ctx va write = .leaf x none →
    ∃ t, walkNow s unit ctx va write = (t, .kept) ∧ x ∈ tlbOf t unit ∧ t.ctxs = s.ctxs) ∧
  (∀ (s : State) (cell track va seq ctx : Nat), cell < 320 → track < 8 → (s.cell cell).runner = some ctx → (s.ctx ctx).live = true →
    exec (.translationWalkDone (.fill cell track va seq)) s =
      .next (tile s (fillReq s cell ctx track (seq % 2 ^ 32)) (va % 2 ^ 64 / 64 * 64) 64 false).1) ∧
  (∀ (s : State) (src : Source) (ctx value : Nat) (t : TagRec), ctx < 64 → Reaches s src (dbAddr ctx 0x018) → (s.ctx ctx).live = true →
    (s.ctx ctx).tags = [t] → (s.ctx ctx).fqHeld = [] →
    (t.tag = value % 65536 → bit value 31 = false → exec (.fqResp src ctx value) s = .next (s.setCtx ctx { s.ctx ctx with tags := [] })) ∧
    (t.tag = value % 65536 → bit value 31 = true →
      exec (.fqResp src ctx value) s =
        .next (retryFq (failAccess (s.setCtx ctx { s.ctx ctx with tags := [] }) t.req) ctx)) ∧
    (t.tag ≠ value % 65536 → exec (.fqResp src ctx value) s = .next (s.setCtx ctx { s.ctx ctx with fqRespBad := true }))) ∧
  (∀ (s : State) (src : Source) (ctx value : Nat), ctx < 64 → Reaches s src (dbAddr ctx 0x014) → (s.ctx ctx).live = true →
    (s.ctx ctx).fqHeld = [] →
    let c := s.ctx ctx
    let step := (value % 2 ^ 32 + 2 ^ 32 - c.fqConsumed) % 2 ^ 32
    let out := (c.fqProduced + 2 ^ 32 - c.fqConsumed) % 2 ^ 32
    (0 < step → step ≤ out → exec (.fqConsumed src ctx value) s = .next (s.setCtx ctx { c with fqConsumed := value % 2 ^ 32 })) ∧
    ((step = 0 ∨ out < step) → exec (.fqConsumed src ctx value) s = .next (s.setCtx ctx { c with fqConsBad := true }))) ∧
  (∀ (s : State) (ctx : Nat), ctx < 64 → exec (.overflowRetry ctx) s = .next (s.setCtx ctx { s.ctx ctx with norec := [] })) ∧
  (∀ (s : State) (unit ctx addr : Nat) (w : AtsWait), okUnit unit = true → ctx < 64 → s.xlt.atsWait = [w] → w.unit = unit → w.req.ctx = ctx →
    w.addr / 4096 = addr / 4096 → w.stage = .asked → w.req.source < 5 → ¬(w.req.source = 2 ∧ w.req.track = fqTrack) →
    (∀ pa, ∃ t, exec (.atsTranslationCompletion unit ctx addr (.granted pa true)) s = .next t ∧ t.xlt.atsWait = [] ∧
      (∃ x ∈ hostXlts t unit, x.ctx = ctx ∧ x.va = addr / 4096 * 4096 ∧ x.pa = pa / 4096 * 4096 ∧ bit x.perm 2 = true) ∧
      t = { s with xlt := t.xlt }) ∧
    (priTotal s < 512 → ∃ t, exec (.atsTranslationCompletion unit ctx addr .denied) s = .next t ∧ t.xlt.atsWait = [{ w with stage := .paged }] ∧
      (t.ctx ctx).priOut = (s.ctx ctx).priOut + 1 ∧ t.out = s.out ++ [.pageRequest unit ctx w.addr (pasidOf s ctx)]) ∧
    (512 ≤ priTotal s → exec (.atsTranslationCompletion unit ctx addr .denied) s = .next (setAts s [{ w with stage := .queued }]))) ∧
  (∀ (s : State) (unit ctx addr : Nat) (w : AtsWait), okUnit unit = true → ctx < 64 → s.xlt.atsWait = [w] → w.unit = unit → w.req.ctx = ctx →
    w.addr / 4096 = addr / 4096 → w.stage = .paged →
    (∀ p, hostPort s 3 w.addr = some p →
      ∃ t, exec (.pageRequestResponse unit ctx addr true) s = .next t ∧ t.xlt.atsWait = [{ w with stage := .asked, port := p }] ∧
        (t.ctx ctx).priOut = (s.ctx ctx).priOut - 1 ∧ t.out = s.out ++ [.atsRequest unit ctx w.addr (pasidOf s ctx)]) ∧
    (w.req.source < 5 →
      let u := setAts (s.setCtx ctx { s.ctx ctx with priOut := (s.ctx ctx).priOut - 1 }) []
      wants u w.req = true → exec (.pageRequestResponse unit ctx addr false) s = .next (failAccess u w.req))) ∧
  (∀ (s : State) (unit : Nat) (v : Inval), okUnit unit = true → s.xlt.invals = [v] → v.waiting = [unit] → v.failed = false →
    (usesRange s unit v = true → exec (.invalidationAck unit v.number) s = .next (dropRange s unit v.ctx v.va v.bytes)) ∧
    (usesRange s unit v = false →
    (∀ idx, v.cmd = some idx →
      ∃ t, exec (.invalidationAck unit v.number) s = .next t ∧ t.xlt.invals = [] ∧
        (∀ e ∈ tlbOf t unit, e.host = false → ¬(e.ctx = v.ctx ∧ inRange v.va v.bytes e.va e.bytes = true)) ∧
        (t.ctx v.ctx).cmds = (s.ctx v.ctx).cmds.map (fun x => if x.index = idx then { x with stage := .performed } else x)) ∧
    (v.cmd = none → ∃ t, exec (.invalidationAck unit v.number) s = .next t ∧ t.xlt.invals = [] ∧
      fld t 0 (hub Pg.XLC Reg.XLC_INV_CTL) 31 31 = 0 ∧ fld t 0 (hub Pg.XLC Reg.XLC_INV_CTL) 27 24 = 0))) ∧
  (∀ (s : State) (v : Inval), s.xlt.invals = [v] → v.waiting ≠ [] →
    (s.cic.count < v.began + 125000 → exec (.invalidationTimeout v.number) s = .next s) ∧
    (v.began + 125000 ≤ s.cic.count → v.cmd = none →
      ∃ t, exec (.invalidationTimeout v.number) s = .next t ∧ (∀ u ∈ v.waiting, u ∈ t.xlt.fenced) ∧ t.xlt.invals = [] ∧
        fld t 0 (hub Pg.XLC Reg.XLC_INV_CTL) 27 24 = 1)) ∧
  (∀ (s : State) (src : Source) (value : Nat), Reaches s src (hub Pg.XLC Reg.XLC_INV_CTL) →
    bit (rd s 0 (hub Pg.XLC Reg.XLC_INV_CTL)) 31 = false →
    let a := hub Pg.XLC Reg.XLC_INV_CTL
    let id := bits value 13 8
    ((s.ctx id).live = false → exec (.xlcInvGo src value) s = .next (setFld (setFld s 0 a 13 8 id) 0 a 27 24 2)) ∧
    ((s.ctx id).live = true →
      exec (.xlcInvGo src value) s =
        .next (beginInval (setFld (setFld s 0 a 13 8 id) 0 a 31 31 1) id (rd64 s 0 (hub Pg.XLC Reg.XLC_INV_BASE_LO) / 4096 * 4096)
          (rd64 s 0 (hub Pg.XLC Reg.XLC_INV_SIZE_LO) * 4096) none))) ∧
  (∀ (s : State) (p addr n : Nat), p < 2 → (∀ v ∈ s.xlt.hostInvals, v.waiting ≠ []) →
    let units := [2, 3, 4, 5].filter fun u => !s.xlt.fenced.contains u && !s.offline u
    ((s.port p).inService = false → exec (.atsInvalidateRequest p addr n) s = .next s) ∧
    ((s.port p).inService = true → units ≠ [] →
      ∃ t, exec (.atsInvalidateRequest p addr n) s = .next t ∧ t.out = s.out ∧ t.xlt.tlb = s.xlt.tlb ∧
        t.xlt.hostInvals = s.xlt.hostInvals ++ [⟨s.xlt.nextInval, 64, addr, n, none, units, s.cic.count, false, p⟩]) ∧
    ((s.port p).inService = true → units = [] →
      ∃ t, exec (.atsInvalidateRequest p addr n) s = .next t ∧ t.out = s.out ++ [.atsInvalidateCompletion p])) ∧
  (∀ (s : State) (unit : Nat) (v : Inval), okUnit unit = true → s.xlt.invals = [] → s.xlt.hostInvals = [v] → v.waiting = [unit] →
    (usesHost s unit v.va v.bytes = true → exec (.invalidationAck unit v.number) s = .next (dropHost s unit v.va v.bytes)) ∧
    (usesHost s unit v.va v.bytes = false →
      ∃ t, exec (.invalidationAck unit v.number) s = .next t ∧ t.xlt.hostInvals = [] ∧
        t.out = (if (s.port v.port).inService then s.out ++ [.atsInvalidateCompletion v.port] else s.out) ∧
        ∀ x ∈ hostXlts t unit, ¬(x.va < v.va + v.bytes ∧ v.va < x.va + 4096))) ∧
  (∀ (s : State) (ctx at_ : Nat), ctx < 64 → (s.ctx ctx).holdUntil = some at_ →
    (at_ ≤ s.cic.count → (s.ctx ctx).window = true → (∀ p, p < 320 → (s.cell p).runner ≠ some ctx ∧ (s.cell p).move ≠ .spilling ctx) →
      exec (.deadlineWindowClose ctx) s = .next (s.setCtx ctx { s.ctx ctx with window := false, holdUntil := none })) ∧
    (s.cic.count < at_ → exec (.deadlineWindowClose ctx) s = .next s))

/-! ## The host -/

/-- The host ports (R320-R334): a port comes into service with its configuration, from boot stage 7 on; its reset takes it out of service, and with no other port the
device is host-detached; an access beyond the pool is counted and answered poisoned, a write in the pool is a host's posted write, in order
unless it is relaxed (R266), a read answers the bytes and passes no write of its port; a
completion fills its packet, poisoned where it failed, and that of a read-back performs the writes before it (R256). Full coherence is granted where port 0 allows it and ends only after its sweep. A
vector goes to the hart it is routed to, to the pending bits where it is masked, else to the host. -/
def Obligations.HostPortsAndVectors : Prop :=
  (∀ (s : State) (p : Nat) (o : PortObs), p < 2 →
    (s.boot.stage < 7 → exec (.portInService p o) s = .next s) ∧
    (7 ≤ s.boot.stage → (∀ i, (s.ctx i).fqHeld = []) → s.host.waiting = [] →
      ∃ t, exec (.portInService p o) s = .next t ∧
        t.port p = { up := true, memSpace := true, busMaster := true, cacheEn := o.cacheEn, memEn := o.memEn, biEn := o.biEn, msixEn := o.msixEn,
                     funcMask := o.funcMask, speed := o.speed, width := o.width } ∧
        t.host.attach = (if (s.port (1 - p)).inService then 0 else 1) ∧ (∀ i, (t.stream i).st = .detached → hostReady t (t.stream i) = false) ∧
        t.mem = s.mem ∧ t.ctxs = s.ctxs)) ∧
  (∀ (s : State) (p cause : Nat), p < 2 → 1 ≤ cause → cause ≤ 5 →
    ∃ t, exec (.hostLinkReset p cause) s = .next t ∧ (t.port p).inService = false ∧ (∀ r ∈ t.host.reads, r.port ≠ p) ∧
      ((s.port (1 - p)).inService = true → t.host.attach = 1) ∧
      ((s.port (1 - p)).inService = false → t.host.attach = 2 ∧ t.host.attested = false) ∧
      ((s.port (1 - p)).inService = false → s.host.attach ≠ 2 → ∀ i, i < 64 → (t.ctx i).live = true → (t.ctx i).claimed = false)) ∧
  (∀ (s : State) (p : Nat) (e m : Bool), p < 2 →
    exec (.msiXFunctionMaskWrite p e m) s = .next (s.setPort p { s.port p with msixEn := e, funcMask := m })) ∧
  (∀ (s : State) (p off : Nat), p < 2 → off < 2 ^ 39 → (s.port p).inService = true → clockStopped s 0 7 p = false → s.boot.warmBusy = false →
    s.boot.fatal = false → s.sec.dike = 0 →
    (∀ n, off + n ≤ poolBytes → (∀ w ∈ s.mir.waiting, w.from_ ≠ 96 + p) →
      exec (.hostMemAccess p off (.read n)) s = .next (hostRead (count64 s 0 (hpReg p Reg.HP_RX_LO) 0) p off n)) ∧
    (∀ n, off + n ≤ poolBytes → (∃ w ∈ s.mir.waiting, w.from_ = 96 + p) →
      exec (.hostMemAccess p off (.read n)) s = .next (count64 s 0 (hpReg p Reg.HP_RX_LO) 0)) ∧
    (∀ d st relaxed, off + d.length ≤ poolBytes →
      let u := count64 s 0 (hpReg p Reg.HP_RX_LO) d.length
      exec (.hostMemAccess p off (.write d st relaxed)) s = .next (portWrite u (96 + p) off d st relaxed) ∧
      (d ≠ [] → writeBarred u .host off d.length = false →
        (writeHeld u .host off d.length = false → heldBehind u (96 + p) (homeFloor off) (!relaxed) = false →
          ∃ t, exec (.hostMemAccess p off (.write d none relaxed)) s = .next t ∧ t.mem = (devWriteNow u off d).mem ∧
            t.mir.waiting = s.mir.waiting) ∧
        (writeHeld u .host off d.length = true ∨ heldBehind u (96 + p) (homeFloor off) (!relaxed) = true →
          ∃ t, exec (.hostMemAccess p off (.write d st relaxed)) s = .next t ∧ t.mem = s.mem ∧
            t.mir.waiting = s.mir.waiting ++ [⟨off, d, none, 96 + p, st, relaxed⟩]))) ∧
    (∀ n, 0 < n → poolBytes < off + n →
      exec (.hostMemAccess p off (.read n)) s =
        .next (poisonOut (raiseError (countFld (count64 s 0 (hpReg p Reg.HP_RX_LO) 0) 0 (hpReg p Reg.HP_OOR) 31 0 1)
          { sev := 2, type := Err.HOST_OOR, die := 0, inst := p, space := 1, addr := off, detail := [0, n] }) p n)) ∧
    (∀ d st relaxed, poolBytes < off + d.length →
      exec (.hostMemAccess p off (.write d st relaxed)) s =
        .next (raiseError (countFld (count64 s 0 (hpReg p Reg.HP_RX_LO) d.length) 0 (hpReg p Reg.HP_OOR) 31 0 1)
          { sev := 2, type := Err.HOST_OOR, die := 0, inst := p, space := 1, addr := off, detail := [1, d.length] }))) ∧
  (∀ (s : State) (p : Nat) (op : HostOp) (l : List HostOp) (k : Packet) (d : List Byte), p < 2 → s.host.reads = op :: l → op.port = p → op.kind = 3 →
    (s.stream k.index).snk.kind ≠ Kind.REMOTE → s.str.packets = [k] → k.id = op.packet → d.length = op.len → (∀ r ∈ l, r.packet ≠ op.packet) →
    let full := k.data.take op.offset ++ d ++ k.data.drop (op.offset + op.len)
    (∃ t, exec (.hostReadCompletion p true ⟨d, none⟩) s = .next t ∧ t.host.reads = l ∧ t.str.packets = [{ k with data := full, fate := 0, poison := k.poison }]) ∧
    (∃ t, exec (.hostReadCompletion p false ⟨d, none⟩) s = .next t ∧ t.host.reads = l ∧
      t.str.packets = [{ k with data := full, fate := 0, poison := k.poison ++ (List.range (ceilDiv op.len 32)).map (· + op.offset / 32) }])) ∧
  (∀ (s : State) (p : Nat) (op : HostOp) (l : List HostOp) (d : List Byte), p < 2 → s.host.reads = op :: l → op.port = p → op.kind = 4 →
    ∃ t, exec (.hostReadCompletion p true ⟨d, none⟩) s = .next t ∧ t.host.reads = l ∧ t.mem = s.mem ∧
      ∀ w, w ∈ t.host.unread ↔ (w ∈ s.host.unread ∧ ¬(w.port = p ∧ w.id < op.packet))) ∧
  (∀ (s : State) (src : Source), Reaches s src (hub Pg.ATT Reg.ATT_COH) →
    let p := s.port 0
    ((p.inService && p.cacheEn && p.memEn && p.biEn && !s.coh.sweeping) = true →
      ∃ t, exec (.fullReq src) s = .next t ∧ t.coh.full = true ∧ 0x20 ∈ t.coh.enabled ∧ fld t 0 (hub Pg.ATT Reg.ATT_COH) 31 28 = 1) ∧
    ((p.inService && p.cacheEn && p.memEn && p.biEn && !s.coh.sweeping) = false →
      exec (.fullReq src) s = .next (setFld s 0 (hub Pg.ATT Reg.ATT_COH) 31 28 2)) ∧
    (s.coh.full = false → exec (.onewayReq src) s = .next s) ∧
    (s.coh.full = true → s.coh.sweeping = false → hostHeld s = [] →
      exec (.onewayReq src) s = .next { s with coh := { s.coh with sweeping := true } })) ∧
  (∀ s : State,
    (s.coh.sweeping = true → hostHeld s = [] → s.coh.txns = [] →
      ∃ t, exec .homeSweepDone s = .next t ∧ t.coh.full = false ∧ t.coh.sweeping = false ∧ 0x20 ∉ t.coh.enabled) ∧
    ((s.coh.sweeping = false ∨ hostHeld s ≠ []) → exec .homeSweepDone s = .next s)) ∧
  (∀ (s : State) (v : Nat) (hart : Option (Nat × Nat)) (l : List RaisedVec), s.host.pba = [] → s.host.vecs = ⟨v, hart⟩ :: l →
    (∀ h id, hart = some (h, id) → bit s.core.offline (h / 4) = false → s.core.dieOff = false → id ∉ (s.hart h).irqs →
      ∃ t, exec .vectorDeliver s = .next t ∧ (t.hart h).irqs = (s.hart h).irqs ++ [id] ∧ t.host.vecs = l ∧ t.out = s.out ++ [.hartIrq h id]) ∧
    let away : Prop := ∀ h id, hart = some (h, id) → bit s.core.offline (h / 4) = true ∨ s.core.dieOff = true
    (away → vectorHeld s v = true →
      exec .vectorDeliver s = .next { s with host := { s.host with vecs := l, pba := [v] } }) ∧
    (∀ p, away → vectorHeld s v = false → irqPort s = some p →
      ∃ t, exec .vectorDeliver s = .next t ∧ t.host.vecs = l ∧
        t.out = s.out ++ [.msix v p (rd64 s 0 (msixEntry v)) (rd s 0 (msixEntry v + 8))]))

/-- Reclaiming a context after a detachment (R334-R338): a context that is not live, is claimed, or whose host is not attested is not given back; four wrong tokens lock
it; its own token gives it back with a new one. Reading the last word of a token spends the view. An unclaimed context
whose time is over is destroyed once its cells have stopped, no earlier. -/
def Obligations.ContextsAreReclaimed : Prop :=
  (∀ (s : State) (src : Source), Reaches s src (hub Pg.ATT Reg.ATT_CMD) →
    let ctx := fld s 0 (hub Pg.ATT Reg.ATT_SEL) 5 0
    let u := setFld s 0 (hub Pg.ATT Reg.ATT_CMD) 3 0 1
    let c := s.ctx ctx
    (c.live = false → exec (.reclaim src) s = .next (reclaimResult u 3)) ∧
    (c.ending = 4 → exec (.reclaim src) s = .next (reclaimResult u 3)) ∧
    (c.live = true → c.ending ≠ 4 → c.claimed = true → exec (.reclaim src) s = .next (reclaimResult u 4)) ∧
    (c.live = true → c.ending ≠ 4 → c.claimed = false → s.host.attested = false → exec (.reclaim src) s = .next (reclaimResult u 5)) ∧
    (c.live = true → c.ending ≠ 4 → c.claimed = false → s.host.attested = true → 4 ≤ c.tokenFails →
      ∃ t, exec (.reclaim src) s = .next t ∧ (t.ctx ctx).claimed = false ∧ fld t 0 (hub Pg.ATT Reg.ATT_CMD) 7 4 = 6) ∧
    (c.live = true → c.ending ≠ 4 → c.claimed = false → s.host.attested = true → c.tokenFails < 4 →
      ∃ t, exec (.reclaim src) s = .next t ∧
        (if tokenMatches u ctx then
          (t.ctx ctx).claimed = true ∧ (t.ctx ctx).tokenFails = 0 ∧ (t.ctx ctx).abandonAt = none ∧ (t.ctx ctx).token = s.sec.nextKey ∧
            fld t 0 (hub Pg.ATT Reg.ATT_CMD) 7 4 = 1
         else (t.ctx ctx).claimed = false ∧ (t.ctx ctx).tokenFails = c.tokenFails + 1 ∧ fld t 0 (hub Pg.ATT Reg.ATT_CMD) 7 4 = 2))) ∧
  (∀ (s : State) (src : Source), Reaches s src (hub Pg.ATT Reg.ATT_TOKEN3) →
    let ctx := fld s 0 (hub Pg.ATT Reg.ATT_SEL) 5 0
    ∃ t, exec (.attTokenRead src) s = .next t ∧ (t.ctx ctx).tokenReady = false ∧ t.out = s.out ++ [.readValue (tokenView s 3)] ∧
      (∀ i, i ≠ ctx → t.ctx i = s.ctx i) ∧ t.mem = s.mem ∧ t.regs = s.regs) ∧
  (∀ (s : State) (ctx at_ : Nat), ctx < 64 → (s.ctx ctx).live = true → (s.ctx ctx).claimed = false → (s.ctx ctx).abandonAt = some at_ →
    (s.cic.count < at_ → exec (.scrubOnAbandon ctx) s = .next s) ∧
    (at_ ≤ s.cic.count → (s.ctx ctx).ending = 0 → cellsQuiet (stopCells s ctx) ctx = true →
      ∃ t, exec (.scrubOnAbandon ctx) s = .next t ∧ (t.ctx ctx).live = false ∧ t.slot ctx = KeySlot.empty ∧
      ∀ p ∈ t.sec.keyMap, p.2 ≠ ctx) ∧
    (let u := stopCells s ctx
     at_ ≤ s.cic.count → (s.ctx ctx).ending = 0 → cellsQuiet u ctx = false →
      exec (.scrubOnAbandon ctx) s = .next (u.setCtx ctx { u.ctx ctx with ending := 4, cmds := [], barrier := none }))) ∧
  (∀ (s : State) (ctx : Nat), ctx < 64 → (s.ctx ctx).claimed = true → exec (.scrubOnAbandon ctx) s = .next s)

/-! ## Links -/

/-- Links (R344, R347-R352, R356-R362, R372, R373). A flit of bad CRC or out of sequence is answered with NAK and one in sequence is acknowledged; a NAK resends what it
does not acknowledge; a request retrains a link that may train, and a disabled one stays down; a training step goes to NEXT_OK where it succeeds, and an ACTIVE entry brings the link up; the default table is put
back; a new device id retrains every link; a burst that is granted takes numbers, credits and replay room; a message for this device or of another partition goes no further. -/
def Obligations.LinksCarryFlits : Prop :=
  (∀ (s : State) (l : Nat) (f : FlitObs), l < 96 → linkUp s l = true → clockStopped s (linkDie l) 6 (linkPort l) = false →
    (f.crcOk = false → exec (.flitReceive l f) s = .next ((fecCount s l f).emit (.flit 1 l (s.link l).rxSeq))) ∧
    (f.crcOk = true → f.nak = false → (f.type = 1 ∨ f.type = 2 ∨ f.type = 3) →
      (f.seq % 4096 = ((s.link l).rxSeq + 1) % 4096 →
        ∃ t, exec (.flitReceive l f) s = .next t ∧ (t.link l).rxSeq = f.seq % 4096 ∧ t.out = (fecCount s l f).out ++ [.flit 0 l (f.seq % 4096)] ∧
          ∀ k, k ≠ l → t.link k = s.link k) ∧
      (f.seq % 4096 ≠ ((s.link l).rxSeq + 1) % 4096 →
        ∃ t, exec (.flitReceive l f) s = .next t ∧ (t.link l).rxSeq = (s.link l).rxSeq ∧
          t.out = (fecCount s l f).out ++ [.flit 1 l (s.link l).rxSeq]))) ∧
  (∀ (s : State) (l : Nat) (f : FlitObs), l < 96 → linkUp s l = false → exec (.flitReceive l f) s = .next s) ∧
  (∀ (s : State) (l ack : Nat), l < 96 → linkUp s l = true → (∀ f ∈ (s.link l).replay, f.resends < 7) →
    ∃ t, exec (.flitNak l ack) s = .next t ∧
      (t.link l).replay = (takeAck (s.link l) (ack % 4096)).replay.map (fun f => { f with resends := f.resends + 1 }) ∧
      t.out = s.out ++ (takeAck (s.link l) (ack % 4096)).replay.map (fun f => .flit 2 l f.seq) ∧ (t.link l).state = (s.link l).state) ∧
  (∀ (k : Link) (ack : Nat), k.txSeq < 4096 → k.ackSeq < 4096 → ack < 4096 →
    ((takeAck k ack).ackSeq = ack ∨ (takeAck k ack) = k) ∧ ∀ f ∈ (takeAck k ack).replay, f ∈ k.replay) ∧
  (∀ (s : State) (src : Source) (l cause : Nat), l < 96 →
    ((s.link l).state = 4 → exec (.linkRetrain l cause) s = .next s) ∧
    ((s.link l).state = 0 → s.offline (linkDie l) = false → 8 ≤ s.boot.stage → s.boot.fatal = false →
      (∃ t, exec (.linkRetrain l cause) s = .next t ∧ (t.link l).state = 1 ∧ (t.link l).step = 0 ∧ (t.link l).tries = 0) ∧
      (Reaches s src (lkReg l Reg.LK_CTL) →
        ∃ t, exec (.lkRetrain src l) s = .next t ∧ (t.link l).state = 1 ∧ (t.link l).step = 0 ∧ (t.link l).tries = 0)) ∧
    (Reaches s src (lkReg l Reg.LK_CTL) →
      (∃ t, exec (.lkDisable src l true) s = .next t ∧ (t.link l).state = 4 ∧ (t.link l).lanes = 0) ∧
      ((s.link l).state = 4 → s.boot.stage < 8 →
        ∃ t, exec (.lkDisable src l false) s = .next t ∧ (t.link l).state = 0))) ∧
  (∀ (s : State) (l : Nat) (ok : Bool) (bad : Nat) (fec : FecObs) (peer : PeerObs), l < 96 → (s.link l).state = 1 → 8 ≤ s.boot.stage →
    s.boot.fatal = false → s.offline (linkDie l) = false →
    let k := s.link l
    let e := entryOf k k.step
    let op := bits e 63 56
    let passes : Prop := ok = true ∧ (op = 7 → fec.uncorr = 0 ∧ fec.corr ≤ bits e 15 8 * 1024)
    (op = 0x0A →
      (k.badLanes = 0 → peer.lanes ≠ 1 →
        ∃ t, exec (.trainingStep l ok ⟨bad, fec⟩ peer) s = .next t ∧ (t.link l).state = 2 ∧ (t.link l).lanes = 2) ∧
      (k.badLanes = 1 ∨ k.badLanes = 2 ∨ (k.badLanes = 0 ∧ peer.lanes = 1) →
        ∃ t, exec (.trainingStep l ok ⟨bad, fec⟩ peer) s = .next t ∧ (t.link l).state = 3 ∧ (t.link l).lanes = 1 ∧
          (t.link l).keptBad = k.badLanes) ∧
      (k.badLanes = 3 → ∃ t, exec (.trainingStep l ok ⟨bad, fec⟩ peer) s = .next t ∧ (t.link l).state = 0)) ∧
    (1 ≤ op → op ≤ 7 →
      (passes → ∃ t, exec (.trainingStep l ok ⟨bad, fec⟩ peer) s = .next t ∧ (t.link l).step = bits e 55 48 % 32 ∧ (t.link l).tries = 0 ∧
        (t.link l).badLanes = if op = 1 then k.keptBad else k.badLanes) ∧
      (¬passes → max 1 (bits e 39 32) ≤ k.tries + 1 →
        ∃ t, exec (.trainingStep l ok ⟨bad, fec⟩ peer) s = .next t ∧ (t.link l).step = bits e 47 40 % 32 ∧ (t.link l).tries = 0) ∧
      (¬passes → k.tries + 1 < max 1 (bits e 39 32) →
        ∃ t, exec (.trainingStep l ok ⟨bad, fec⟩ peer) s = .next t ∧ (t.link l).step = k.step ∧ (t.link l).tries = k.tries + 1)) ∧
    (op = 9 → ok = true → ∃ t, exec (.trainingStep l ok ⟨bad, fec⟩ peer) s = .next t ∧ (t.link l).replay = [] ∧ (t.link l).txSeq = 0 ∧
      (t.link l).rxSeq = 4095 ∧ (t.link l).step = bits e 55 48 % 32)) ∧
  (∀ (s : State) (src : Source) (d : Nat), d < 4 → Reaches s src (raddr (16 + d) 2 Reg.LX_TRN_CTL) →
    (pageLocked s (raddr (16 + d) 2 0) = true → exec (.lxTrnDefault src d) s = .next s) ∧
    (pageLocked s (raddr (16 + d) 2 0) = false →
      ∃ t, exec (.lxTrnDefault src d) s = .next t ∧ (∀ i, i < 32 → rd64 t i (raddr (16 + d) 2 Reg.LX_TRN_ENTRY_LO) = trainDefault i) ∧
        t = { s with regs := t.regs })) ∧
  (∀ (s : State) (src : Source) (v : Nat), Reaches s src (hub Pg.MCH Reg.MCH_DEV_ID) → pageLocked s (hub Pg.MCH Reg.MCH_DEV_ID) = false →
    let new := writeFields (PageKind.mch.at_ Reg.MCH_DEV_ID) false (rd s 0 (hub Pg.MCH Reg.MCH_DEV_ID)) v
    (new = rd s 0 (hub Pg.MCH Reg.MCH_DEV_ID) → exec (.mchDevIdWrite src v) s = .next s) ∧
    (new ≠ rd s 0 (hub Pg.MCH Reg.MCH_DEV_ID) →
      exec (.mchDevIdWrite src v) s = .next ((List.range 96).foldl retrain (wr s 0 (hub Pg.MCH Reg.MCH_DEV_ID) new)))) ∧
  (∀ (s : State) (l : Nat) (m : LinkMsg), l < 96 → linkUp s l = true → s.boot.fatal = false → clockStopped s (linkDie l) 6 (linkPort l) = false →
    (s.link l).burst = none → (s.link l).queue = [m] → m.sent = 0 → isBulk m = true → hasCredits (s.link l) m = true →
    (s.link l).replay.length + m.flits ≤ 1024 → (s.link l).contenders = [] →
    ∃ t, exec (.burstGrant l) s = .next t ∧ (t.link l).queue = [{ m with sent := m.flits }] ∧
      (t.link l).txSeq = ((s.link l).txSeq + m.flits) % 4096 ∧ (t.link l).replay.length = (s.link l).replay.length + m.flits ∧
      (t.link l).burst = some m ∧ (t.link l).lastWinner = m.requester) ∧
  (∀ (s : State) (l : Nat), l < 96 → linkUp s l = true → s.boot.fatal = false →
    ((s.link l).rxBurst = 0 → exec (.immediateAbort l true) s = .next s) ∧
    ((s.link l).rxBurst ≠ 0 → exec (.immediateAbort l true) s =
      .next (countFld (freeRx (s.setLink l { s.link l with rxBurst := 0 }) l (s.link l).rxLane (s.link l).rxBurst) 0 (lkReg l Reg.LK_ABORT) 31 0 1)) ∧
    (∀ m, (s.link l).queue = [m] → m.sent = 0 → isBulk m = false → hasCredits (s.link l) m = true → (s.link l).replay.length + m.flits ≤ 1024 →
      (s.link l).burst = none → exec (.immediateAbort l false) s = .next (putOnLink s l m))) ∧
  (∀ (s : State) (l lane n : Nat), 0 < min n (nth (s.link l).rxUsed lane) →
    (freeRx s l lane n).out = s.out ++ [.credits l lane (min n (nth (s.link l).rxUsed lane))]) ∧
  (∀ (s : State) (l : Nat) (h : MsgHead) (data : List Byte), l < 96 → h.lane < 8 → h.units ≤ 14 → linkUp s l = true →
    clockStopped s (linkDie l) 6 (linkPort l) = false →
    let u := freeRx s l h.lane (msgFlits h.units)
    ((h.mpart ≠ s.lnk.mpart ∨ h.epoch ≠ s.lnk.epoch) → ¬(h.lane = 6 ∧ h.mgmt = true) →
      exec (.messageReceive l h data) s = .next (countFld u 0 (lkReg l Reg.LK_FENCE_DROP) 31 0 1)) ∧
    (deviceId s = some h.dst → h.mpart = s.lnk.mpart → h.epoch = s.lnk.epoch → exec (.messageReceive l h data) s = .next u) ∧
    (∀ me k r, deviceId s = some me → h.dst ≠ me → h.mpart = s.lnk.mpart → h.epoch = s.lnk.epoch → s.lnk.partState = 0 →
      transitEgress u me l h = .link k r →
      exec (.messageReceive l h data) s = .next (enqueue u k { transitMsg l h data with route := r }))) ∧
  (∀ (s : State) (i : Nat), okIface i = true → exec (.d2dReplay i) s = .next (countFld s i (pkgReg Reg.D2D_REPLAY_CNT) 31 0 1))

/-- A device id (R353): its fields, the size of a pod, the position within it, and where the id is set. -/
def Obligations.DeviceIdFields : Prop :=
  (∀ d : Nat, d < 2 ^ 20 →
    d = devPod d * 2 ^ 8 + devX d * 2 ^ 5 + devY d * 2 ^ 2 + devZ d ∧ d % 256 = devX d * 32 + devY d * 4 + devZ d ∧
    devPod d < 2 ^ 12 ∧ devX d < ringSize 0 ∧ devY d < ringSize 1 ∧ devZ d < ringSize 2) ∧
  ringSize 0 = 8 ∧ ringSize 1 = 8 ∧ ringSize 2 = 4 ∧
  (∀ (s : State) (d : Nat), deviceId s = some d → d = rd s 0 (hub Pg.MCH Reg.MCH_DEV_ID) % 2 ^ 20)

/-! ## The machine, jobs and collectives -/

/-- Machine partitions and job starts (R361-R367): TEARDOWN fences the device under a new epoch and discards what was queued, the partition is drained once nothing is on a link, and SET then takes the
new one. A start expects its job, is cancelled only while it expects, refuses a PREPARE that is not the one expected, takes COMMIT and ABORT only where it is prepared, gives up a
child that is silent, and is orphaned without an answer.
Collectives (R368-R371): a barrier's arrivals are gathered from every child before they go up; final data are written and counted; a collective ends OK only once its own part
is done, ends with MISMATCH or UNREACHABLE as its members are found (a message whose words differ is one that does not match), and times out by its own limit or by 10 ms of silence. -/
def Obligations.PartitionsJobsAndCollectives : Prop :=
  ((∀ (s : State) (src : Source), Reaches s src (mch Reg.MCH_PART_CMD) →
     (s.lnk.partState ≠ 0 → exec (.teardown src) s = .next (setFld s 0 (mch Reg.MCH_PART_CMD) 3 0 1)) ∧
     (s.lnk.partState = 0 → s.lnk.colls = [] → s.str.streams = [] →
       ∃ t, exec (.teardown src) s = .next t ∧ t.lnk.partState = 1 ∧ t.lnk.epoch = (s.lnk.epoch + 1) % 65536 ∧
         (∀ l, ∀ m ∈ (t.link l).queue, m.sent ≠ 0) ∧ t.mem = s.mem ∧ t.ctxs = s.ctxs) ∧
     (s.lnk.partState ≠ 2 → exec (.setPart src) s = .next (setFld s 0 (mch Reg.MCH_PART_CMD) 3 0 2)) ∧
     (s.lnk.partState = 2 → ∃ t, exec (.setPart src) s = .next t ∧ t.lnk.partState = 0 ∧ t.lnk.mpart = fld s 0 (mch Reg.MCH_PART) 31 16 ∧
       t.lnk.firstPod = fld s 0 (mch Reg.MCH_PART_PODS) 27 16 ∧ t.lnk.pods = max 1 (fld s 0 (mch Reg.MCH_PART_PODS) 11 0) ∧
       t.lnk.epoch = s.lnk.epoch ∧ (s.mir.copies = [] → t.lnk.links = s.lnk.links))) ∧
   (∀ s : State,
     (s.lnk.partState = 1 → (∀ l, (s.link l).replay = []) →
       exec .teardownDrained s = .next (raiseInt { s with lnk := { s.lnk with partState := 2 } } (mch 0) 1)) ∧
     (s.lnk.partState ≠ 1 → exec .teardownDrained s = .next s)) ∧
   (∀ (s : State) (src : Source), Reaches s src (mch Reg.MCH_JOB_CTL) → (s.lnk.job.st < 2 ∨ 4 < s.lnk.job.st) →
     let u (k : Nat) := setFld s 0 (mch Reg.MCH_JOB_CTL) 30 28 k
     (∀ reason, jobRecord (u 1) = .inl reason →
       exec (.jobPrepare src) s = .next (jobFailure (jobEnd (u 1) 7) reason ((deviceId (u 1)).getD 0) 1)) ∧
     (∀ id ctx f, jobRecord (u 1) = .inr (id, ctx, f) → exec (.jobPrepare src) s = .next (jobBegin (u 1) id ctx f 0)) ∧
     (∃ t, exec (.expect src) s = .next t ∧ t.lnk.job = { Job.idle with id := rd s 0 (mch Reg.MCH_JOB_ID), st := 1 } ∧
       fld t 0 (mch Reg.MCH_JOB_CTL) 27 24 = 0) ∧
     (∃ t, exec (.jobCancel src) s = .next t ∧ t.lnk.job = if s.lnk.job.st = 1 then Job.idle else s.lnk.job)) ∧
   (∀ (s : State) (id ctx f mpart epoch me : Nat), ctx < 64 → 2 ≤ f → f ≤ 16 → deviceId s = some me → ordinalOf s me ≠ 0 →
     let o := ordinalOf s me
     let no (reason : Nat) := jobSend s ((o - 1) / f) JobMsg.FAILED [id, 7, reason, me, 1]
     ((s.lnk.job.st ≠ 1 ∨ s.lnk.job.id ≠ id) → exec (.prepareReceive id ctx f mpart epoch) s = .next (no 2)) ∧
     (s.lnk.job.st = 1 → s.lnk.job.id = id → (mpart ≠ s.lnk.mpart ∨ epoch ≠ s.lnk.epoch ∨ s.lnk.partState ≠ 0) →
       exec (.prepareReceive id ctx f mpart epoch) s = .next (jobFailure (jobEnd (no 3) 7) 3 me 1)) ∧
     (s.lnk.job.st = 1 → s.lnk.job.id = id → mpart = s.lnk.mpart → epoch = s.lnk.epoch → s.lnk.partState = 0 → (s.ctx ctx).live = true →
       exec (.prepareReceive id ctx f mpart epoch) s = .next (jobBegin (jobSend s ((o - 1) / f) JobMsg.SEEN [id]) id ctx f o))) ∧
   (∀ (s : State) (child : Nat) (x : JobChild), s.lnk.job.st = 2 → s.lnk.job.children = [x] → x.ordinal = child → x.st = 0 → s.lnk.job.fail = none →
     (exec (.jobAnswerReceive child .progress) s =
       .next (setJob s { s.lnk.job with children := [{ x with heard := s.cic.count }] })) ∧
     (s.lnk.job.ordinal ≠ 0 → ∃ t, exec (.jobAnswerReceive child .ok) s = .next t ∧ t.lnk.job.st = 3 ∧ t.lnk.job.answeredAt = s.cic.count) ∧
     (∀ st reason dev size, s.lnk.job.ordinal ≠ 0 →
       ∃ t, exec (.jobAnswerReceive child (.failed st reason dev size)) s = .next t ∧ t.lnk.job.st = 3 ∧ t.lnk.job.fail = some (st, reason, dev, size)) ∧
     (x.heard + 250000 ≤ s.cic.count → s.lnk.job.ordinal ≠ 0 →
       ∃ t, exec (.childLost child) s = .next t ∧ t.lnk.job.st = 3 ∧
         t.lnk.job.fail = some (4, 1, deviceOf s child, subtreeSize s s.lnk.job.fanout child)) ∧
     (s.cic.count < x.heard + 250000 → exec (.childLost child) s = .next s)) ∧
   (∀ (s : State) (id : Nat),
     (s.lnk.job.id = id → s.lnk.job.st = 3 → exec (.commitReceive id) s = .next (jobCommit s)) ∧
     ((s.lnk.job.id ≠ id ∨ s.lnk.job.st ≠ 3) → exec (.commitReceive id) s = .next s) ∧
     (s.lnk.job.id = id → (s.lnk.job.st = 2 ∨ s.lnk.job.st = 3) →
       exec (.abortReceive id) s = .next (raiseCtxVector (jobEnd (jobDown s JobMsg.ABORT [id]) 3) s.lnk.job.ctx 2)) ∧
     ((s.lnk.job.id ≠ id ∨ (s.lnk.job.st ≠ 2 ∧ s.lnk.job.st ≠ 3)) → exec (.abortReceive id) s = .next s)) ∧
   (∀ s : State,
     (s.lnk.job.st = 2 → s.lnk.job.ordinal ≠ 0 → s.lnk.job.progressAt + 62500 ≤ s.cic.count →
       exec .jobProgress s = .next (setJob (jobUp s JobMsg.PROGRESS [s.lnk.job.id]) { s.lnk.job with progressAt := s.cic.count })) ∧
     (s.lnk.job.st ≠ 2 → exec .jobProgress s = .next s) ∧
     (s.lnk.job.st = 3 → s.lnk.job.answeredAt + 1250000 ≤ s.cic.count → exec .orphaned s = .next (jobEnd s 6)) ∧
     (s.lnk.job.st ≠ 3 → exec .orphaned s = .next s))) ∧
  ((∀ (s : State) (g : Nat) (sig : CollSig) (x : CollSeg), (∀ c ∈ s.lnk.colls, c.group ≠ g) →
     exec (.collectiveSegmentReceive g ⟨sig, x⟩) s = .next s) ∧
   (∀ (s : State) (g : Nat) (sig : CollSig) (x : CollSeg) (c : Coll), s.lnk.colls = [c] → c.group = g → c.op ≠ 0 → c.agrees sig = false →
     exec (.collectiveSegmentReceive g ⟨sig, x⟩) s = .next (endColl s c CollSt.MISMATCH).1) ∧
   (∀ (s : State) (g m lag : Nat) (sig : CollSig) (c : Coll), s.lnk.colls = [c] → c.group = g → c.op = CollOp.BARRIER → c.agrees sig = true →
     c.ended = false → m < c.size → c.parent ≠ some m →
     (∃ k ∈ c.children, k ∉ c.arrived ∧ k ≠ m) → m ∉ c.arrived →
     ∃ t, exec (.collectiveSegmentReceive g ⟨sig, .arrive m lag⟩) s = .next t ∧
       t.lnk.colls = [{ c with heard := s.cic.count, lags := c.lags.set m lag, arrived := c.arrived ++ [m] }] ∧ t.out = s.out) ∧
   (∀ (s : State) (g : Nat) (c : Coll), s.lnk.colls = [c] → c.group = g → c.op ≠ 0 →
     (c.ended = true → exec (.collectiveEnd g 0) s = .next (endColl s c 0).1) ∧
     (c.ended = false → exec (.collectiveEnd g 0) s = .next s) ∧
     exec (.collectiveEnd g CollSt.MISMATCH) s = .next (endColl s c CollSt.MISMATCH).1 ∧
     exec (.collectiveEnd g CollSt.UNREACHABLE) s = .next (endColl s c CollSt.UNREACHABLE).1) ∧
   (∀ (s : State) (g : Nat) (c : Coll), s.lnk.colls = [c] → c.group = g → c.ended = false →
     (∀ d, c.deadline = some d → d ≤ s.cic.count → exec (.collectiveTimeout g) s = .next (endColl s c CollSt.TIMEOUT).1) ∧
     (c.deadline = none → c.heard + 1250000 ≤ s.cic.count → exec (.collectiveTimeout g) s = .next (endColl s c CollSt.UNREACHABLE).1) ∧
     (c.deadline = none → s.cic.count < c.heard + 1250000 → exec (.collectiveTimeout g) s = .next s)))

/-! ## The mirror -/

/-- A mirrored pair (R376-R391): FORM is refused in a formed pair and with a bad configuration, waits 10 s for an answer, and with one that agrees forms the
pair; the secondary applies a copy as it was stored; five missed heartbeats make the pair suspect; a suspect device acts on the witness's answer only where it carries the
next epoch: the primary goes on alone, or yields; RESYNC after a loss sends the heartbeats by which the two devices settle who copies to whom; RESYNC and DISSOLVE without a pair are refused, and do nothing while FORM waits (a choice: notes/assumptions/28.md). -/
def Obligations.MirrorPairs : Prop :=
  let beat (s : State) : Out :=
    .message 5 (partner s) [0, 0, 0, s.mir.epoch, b2n s.mir.primary, s.mir.st, mirrorLag s, 0]
  (∀ (s : State) (src : Source) (a : Option MirAnswer), Reaches s src (mirReg Reg.MIR_CMD) → s.mir.forming = none →
    let u := setFld s 0 (mirReg Reg.MIR_CMD) 3 0 1
    (s.mir.st ≠ 0 → exec (.form src a) s = .next (mirResult u MirRes.STATE)) ∧
    (s.mir.st = 0 → mirBadConfig u = true → exec (.form src a) s = .next (mirResult u MirRes.BAD_CONFIG)) ∧
    (s.mir.st = 0 → mirBadConfig u = false → 4 ≤ (twinsUp u).length → a = none →
      ∃ t, exec (.form src a) s = .next t ∧ t.mir.forming = some s.cic.count ∧ fld t 0 (mirReg Reg.MIR_CMD) 31 31 = 1) ∧
    (∀ x, s.mir.st = 0 → mirBadConfig u = false → 4 ≤ (twinsUp u).length → a = some x → mirMismatch u x = true →
      exec (.form src a) s = .next (mirResult (tellConfig u false) MirRes.MISMATCH)) ∧
    (∀ x, s.mir.st = 0 → mirBadConfig u = false → 4 ≤ (twinsUp u).length → a = some x → mirMismatch u x = false →
      bit (rd s 0 (mirReg Reg.MIR_CTL)) 31 = false → mirConflict u x = false →
      ∃ t, exec (.form src a) s = .next t ∧ t.mir.st = 2 ∧ t.mir.primary = false ∧ t.mir.epoch = 1 ∧
        fld t 0 (mirReg Reg.MIR_CMD) 27 24 = MirRes.OK)) ∧
  (∀ (s : State) (at_ : Nat), s.mir.forming = some at_ →
    (at_ + 1250000000 ≤ s.cic.count →
      exec .formTimeout s = .next (mirResult { s with mir := { s.mir with forming := none } } MirRes.NO_PARTNER)) ∧
    (s.cic.count < at_ + 1250000000 → exec .formTimeout s = .next s)) ∧
  (∀ (s : State) (src : Source), Reaches s src (mirReg Reg.MIR_CMD) → s.mir.forming ≠ none →
    exec (.dissolve src) s = .next (setFld s 0 (mirReg Reg.MIR_CMD) 3 0 2) ∧
    exec (.resync src) s = .next (setFld s 0 (mirReg Reg.MIR_CMD) 3 0 3)) ∧
  (∀ (s : State) (src : Source), Reaches s src (mirReg Reg.MIR_CMD) → s.mir.forming = none → s.mir.st = 0 →
    exec (.dissolve src) s = .next (mirResult (setFld s 0 (mirReg Reg.MIR_CMD) 3 0 2) MirRes.STATE) ∧
    exec (.resync src) s = .next (mirResult (setFld s 0 (mirReg Reg.MIR_CMD) 3 0 3) MirRes.STATE)) ∧
  (∀ (s : State) (src : Source), Reaches s src (mirReg Reg.MIR_CMD) → s.mir.forming = none → s.mir.st ≠ 0 → s.mir.waiting = [] →
    (s.mir.primary = true ∨ s.mir.peerSt ≠ 1) →
    ∃ t, exec (.dissolve src) s = .next t ∧ t.mir.st = 0 ∧ t.mir.copies = [] ∧ t.mir.acks = [] ∧
      fld t 0 (mirReg Reg.MIR_CMD) 27 24 = MirRes.OK ∧ t.mem = s.mem) ∧
  (∀ (s : State) (src : Source), Reaches s src (mirReg Reg.MIR_CMD) → s.mir.forming = none → (s.mir.st = 1 ∨ s.mir.st = 2) →
    exec (.resync src) s = .next (mirResult (setFld s 0 (mirReg Reg.MIR_CMD) 3 0 3) MirRes.OK)) ∧
  (∀ (s : State) (src : Source), Reaches s src (mirReg Reg.MIR_CMD) → s.mir.forming = none → (s.mir.st = 4 ∨ s.mir.st = 5) →
    (twinsUp s = [] → exec (.resync src) s = .next (mirResult (setFld s 0 (mirReg Reg.MIR_CMD) 3 0 3) MirRes.NO_PARTNER)) ∧
    (twinsUp s ≠ [] → ∃ t, exec (.resync src) s = .next t ∧ fld t 0 (mirReg Reg.MIR_CMD) 27 24 = MirRes.OK ∧
      t.mir = { s.mir with sentAt := s.cic.count } ∧ t.mem = s.mem ∧ t.ctxs = s.ctxs ∧
      t.out = s.out ++ (twinsUp s).map fun _ => beat s)) ∧
  (∀ (s : State) (n g : Nat) (data : List Byte) (poison : List Nat) (key : Nat),
    (s.mir.st = 2 → s.mir.primary = false → s.lnk.partState = 0 → inMirrorRegion s (256 * g) 256 = true → data.length = 256 →
      twinsUp s ≠ [] → s.coh.txns = [] → s.coh.waiting = [] → s.coh.dir = [] →
      ∃ t, exec (.mirrorCopyReceive ⟨n, g⟩ data poison key) s = .next t ∧ (∀ i, i < 256 → memByte t.mem (256 * g + i) = data.getD i 0) ∧
        (∀ b, (b < 256 * g ∨ 256 * g + 256 ≤ b) → memByte t.mem b = memByte s.mem b) ∧
        t.out = s.out ++ [.message 5 (partner s) [0, 0, 0, n]]) ∧
    ((s.mir.st = 0 ∨ s.mir.primary = true ∨ s.lnk.partState ≠ 0) → exec (.mirrorCopyReceive ⟨n, g⟩ data poison key) s = .next s)) ∧
  (∀ (s : State) (n ctx : Nat) (m : Option MirState), ctx < 64 →
    ((s.mir.st = 0 ∨ s.mir.primary = true ∨ s.lnk.partState ≠ 0) → exec (.mirrorStateReceive ctx ⟨n, m⟩) s = .next s) ∧
    (s.mir.st ≠ 0 → s.mir.primary = false → s.lnk.partState = 0 → bit (mirCtxMask s) ctx = true →
      ∃ t, exec (.mirrorStateReceive ctx ⟨n, m⟩) s = .next t ∧ t.mem = s.mem ∧ t.ctxs = s.ctxs ∧
        (∀ x, m = some x → t.slot ctx = { st := 2, key := peerKey + x.key, fromBlob := false } ∧
          ∃ c, tget (fun _ => none) t.mir.ctxs ctx = some c ∧ c.desc = x.desc ∧ c.producer = x.producer ∧ c.completed = x.completed) ∧
        (m = none → t.slot ctx = KeySlot.empty ∧ tget (fun _ => none) t.mir.ctxs ctx = none))) ∧
  (∀ (s : State) (c : MirCopy), s.mir.copies = [c] → s.mir.acks = [] → s.mir.waiting = [] → s.mir.resync = none →
    (∃ t, exec (.mirrorAckReceive c.id) s = .next t ∧ t.mir.copies = [] ∧ t.mir.asyncHeld = false ∧ t.mem = s.mem) ∧
    (∀ id, id ≠ c.id → exec (.mirrorAckReceive id) s = .next s)) ∧
  (∀ s : State,
    (s.mir.st = 0 → exec .heartbeatSend s = .next s ∧ exec .missedHeartbeat s = .next s ∧ ∀ h, exec (.heartbeatReceive h) s = .next s) ∧
    ((s.sec.dike ≠ 0 ∨ s.cic.count < s.mir.sentAt + 12500) → exec .heartbeatSend s = .next s) ∧
    (s.mir.st ≠ 0 → s.sec.dike = 0 → s.mir.sentAt + 12500 ≤ s.cic.count →
      ∃ t, exec .heartbeatSend s = .next t ∧ t.mir = { s.mir with sentAt := s.cic.count } ∧ t.mem = s.mem ∧ t.ctxs = s.ctxs ∧ t.regs = s.regs ∧
        t.out = s.out ++ (twinsUp s).map fun _ => beat s) ∧
    (s.mir.st ≠ 0 → s.cic.count < max s.mir.hbAt s.mir.suspended + 12500 → exec .missedHeartbeat s = .next s) ∧
    (s.mir.st = 2 → max s.mir.hbAt s.mir.suspended + 12500 ≤ s.cic.count → s.mir.missed < 4 →
      ∃ t, exec .missedHeartbeat s = .next t ∧ t.mir.st = 2 ∧ t.mir.missed = s.mir.missed + 1) ∧
    (s.mir.st = 2 → max s.mir.hbAt s.mir.suspended + 12500 ≤ s.cic.count → s.mir.missed = 4 →
      ∃ t, exec .missedHeartbeat s = .next t ∧ t.mir.st = 3 ∧ t.mir.witness = true) ∧
    (s.lnk.partState ≠ 0 → ∀ h, exec (.heartbeatReceive h) s = .next s) ∧
    (∀ h, s.mir.st = 2 → s.mir.primary = true → s.lnk.partState = 0 → h.warm = false → h.primary = false →
      exec (.heartbeatReceive h) s = .next { s with mir := { s.mir with missed := 0, hbAt := s.cic.count, peerSt := h.st, suspended := 0 } }) ∧
    (∀ h, s.mir.st = 2 → s.mir.primary = true → s.lnk.partState = 0 → h.warm = false → h.primary = true → h.st ≠ 5 → h.epoch = s.mir.epoch →
      s.mir.waiting = [] →
      ∃ t, exec (.heartbeatReceive h) s = .next t ∧ t.mir.st = 6)) ∧
  (∀ (s : State) (src : Source) (epoch : Nat), Reaches s src (mirReg Reg.MIR_WITNESS) →
    ((s.mir.st ≠ 3 ∨ epoch % 65536 ≠ (s.mir.epoch + 1) % 65536) →
      exec (.grant src epoch) s = .next s ∧ exec (.yieldAnswer src epoch) s = .next s) ∧
    (s.mir.st = 3 → epoch % 65536 = (s.mir.epoch + 1) % 65536 →
      (s.mir.primary = true → exec (.grant src epoch) s = .next (goSolo s)) ∧
      (s.mir.primary = false → exec (.grant src epoch) s = .next (promote s) ∧ (promote s).mir.st = 4 ∧ (promote s).mir.primary = true ∧
        (promote s).mir.epoch = (s.mir.epoch + 1) % 65536) ∧
      (s.mir.primary = true → ∃ t, exec (.yieldAnswer src epoch) s = .next t ∧ t.mir.st = 5 ∧
        ∀ i, i < 64 → bit (mirCtxMask s) i = true → (t.ctx i).live = false)))

/-! ## The Polder store -/

/-- Commits (R419-R421, R427, R429, R433, R434). The next commit is the oldest of the least priority number; it starts where none runs and its VERSION is not behind the stored one,
and is discarded and counted where the store is unavailable. A record that is programmed ends with its SEQ as the last committed, or makes way for
the next fragment; one that fails in a bank leaves that bank's records as they were, and is tried again. An erase adds one to the block's count, and a failed one retires it.
Held log events are committed once 60 minutes have passed; at an erase rate of 200 a day or more only those that fill records. -/
def Obligations.StoreCommits : Prop :=
  (∀ (s : State) (i : Nat) (c : Commit), nextCommit s = some (i, c) →
    s.pld.queue[i]? = some c ∧ (∀ x ∈ s.pld.queue, c.prio ≤ x.prio) ∧ ∀ j x, j < i → s.pld.queue[j]? = some x → c.prio < x.prio) ∧
  (∀ s : State, (s.pld.running.isSome = true ∨ storeRuns s = false ∨ s.pld.queue = []) → exec .commitStart s = .next s) ∧
  (∀ (s : State) (i : Nat) (c : Commit), s.pld.running = none → storeRuns s = true → nextCommit s = some (i, c) →
    let u := { s with pld := { s.pld with queue := s.pld.queue.eraseIdx i } }
    (s.pld.st = 3 → exec .commitStart s = .next (afterStore (mbxLost (lostCommit u) c MbxRes.UNAVAILABLE))) ∧
    (s.pld.st ≠ 3 → versionAhead u c = true → exec .commitStart s = .next (afterStore (mbxLost (sayAhead (lostCommit u)) c MbxRes.AHEAD))) ∧
    (∀ d, s.pld.st ≠ 3 → versionAhead u c = false → prepare u c = some d →
      exec .commitStart s = .next { u with pld := { u.pld with running := some ⟨d, 0, seqNext s.pld.seq, 0, s.cic.count⟩ } })) ∧
  (∀ (s : State) (ok : Bool) (banks : List Nat), banks.all okBank = true → s.pld.running = none →
    exec (.commitComplete ok banks) s = .next s) ∧
  (∀ (s : State) (r : Running), s.pld.running = some r →
    let x := r.c.record s r.frag r.seq
    let p := placeRec s r.c r.frag r.seq
    (r.c.frags ≤ r.frag + 1 →
      exec (.commitComplete true []) s = .next (afterStore (mbxAfter { p with pld := { p.pld with running := none } } r.c))) ∧
    (r.frag + 1 < r.c.frags →
      exec (.commitComplete true []) s =
        .next { p with pld := { p.pld with running := some ⟨r.c, r.frag + 1, seqNext r.seq, 0, s.cic.count⟩ } }) ∧
    (r.c.mend = none →
      x.type = r.c.type ∧ x.key = r.c.key ∧ x.seq = r.seq ∧ x.frag = r.frag ∧ x.tomb = r.c.tomb ∧
        x.data = if r.c.tomb then [] else fragData r.c.data r.frag) ∧
    (r.c.mend = none → bankUp s 0 = true → bankUp s 1 = true → (∀ y ∈ s.pld.records, y.seq ≠ r.seq) →
      (takePages s 0 (recPages x.data.length)).2 ≠ 512 →
      ∃ a b, a ≠ 512 ∧ p.pld.records = s.pld.records ++ [{ x with inA := a, inB := b }] ∧ p.pld.seq = r.seq)) ∧
  (∀ (s : State) (r : Running) (bank : Nat), bank < 2 → s.pld.running = some r →
    let x := r.c.record s r.frag r.seq
    let p := if bank = 1 then writeCopy s 0 x else s
    (bankUp s bank = true → heldIn s bank x = false → bit r.tries bank = false →
      ∃ t, exec (.commitComplete false [bank]) s = .next t ∧ t.pld.running = some { r with tries := r.tries + 2 ^ bank } ∧
        t.pld.records = p.pld.records ∧ t.pld.seq = p.pld.seq) ∧
    ((bankUp s bank = false ∨ heldIn s bank x = true) → exec (.commitComplete false [bank]) s = .next s)) ∧
  (∀ (s : State) (bank block : Nat) (ok : Bool), bank < 2 →
    let k := 512 * bank + block
    ((block < 4 ∨ 512 ≤ block ∨ (blk s k).st ≠ .erasing) → exec (.blockEraseEnd bank block ok) s = .next s) ∧
    (4 ≤ block → block < 512 → (blk s k).st = .erasing →
      ∃ t, exec (.blockEraseEnd bank block ok) s = .next t ∧ t.pld.seq = s.pld.seq ∧ t.sec.fuses.floors = s.sec.fuses.floors ∧
        (ok = true → (blk t k).erases = (blk s k).erases + 1) ∧ (ok = false → (blk t k).dead = true ∧ (blk t k).erases = (blk s k).erases))) ∧
  (∀ s : State, eraseRate s < 200 → s.pld.logAt + 60 ≤ bootMinutes s →
    exec .logFlush s = .next (flushLogs s) ∧ (s.pld.held.length ≤ 4096 → (flushLogs s).pld.held = [])) ∧
  (∀ s : State, 200 ≤ eraseRate s → exec .logFlush s = .next (flushSecLog s 6 (s.pld.held.length / 63))) ∧
  (∀ s : State, eraseRate s < 200 → bootMinutes s < s.pld.logAt + 60 → exec .logFlush s = .next (flushSummary s 6))

/-- The Polder mailbox (R437, R438). A command that finds another running sets COLLIDE and nothing else. One that ends clears GO, sets RESULT and raises
bit 0. READ returns a fragment, refuses KEY_BLOB and finds nothing of a reserved type; LIST returns what it finds, LOG_READ the pages of the record it finds; the requests, CANCEL and NOTE_WRITE commit their records,
and refuse what is out of range; SYNC is refused within 60 s of the one before, and otherwise runs until nothing is left to commit. -/
def Obligations.PolderMailbox : Prop :=
  let cmd := pldReg Reg.PLD_MBX_CMD
  (∀ (s : State) (src : Source), Reaches s src cmd → s.pld.busy.isSome = true → s.boot.romService = false →
    ∀ c ∈ [Instr.pldRead src, .pldList src, .logRead src, .reqSweep src, .reqHbmTrain src, .reqWayClear src, .pldCancel src, .noteWrite src,
        .pldSync src, .stage src, .policyLoad src, .keyMap src, .keyWrap src, .keyLoad src, .debugChallenge src, .debugUnlock src,
        .ownerEnroll src, .ownerRevoke src, .certInstall src, .svnFuse src, .dikeFloor src, .dikeTest src],
      exec c s = .next (setFld s 0 cmd 30 30 1)) ∧
  (∀ (s : State) (result : Nat), result < 256 →
    (mbxEnd s result).pld.busy = none ∧ fld (mbxEnd s result) 0 cmd 31 31 = 0 ∧ fld (mbxEnd s result) 0 cmd 23 16 = result ∧
    bit (rd (mbxEnd s result) 0 (pldReg Reg.PG_INT_RAW)) 0 = true ∧ (mbxEnd s result).pld.queue = s.pld.queue) ∧
  (∀ (s : State) (src : Source), MailboxFree s src →
    let t := mailTaken s src 1
    (mbxType t = 3 → exec (.pldRead src) s = .next (mbxEnd t MbxRes.DENIED)) ∧
    (mbxType t ≠ 3 → (mbxType t ∉ storeTypes ∨ currentVal t (mbxType t) (mbxKey t) = none) → exec (.pldRead src) s = .next (mbxEnd t MbxRes.ABSENT)) ∧
    (∀ f, mbxType t ≠ 3 → mbxType t ∈ storeTypes → currentVal t (mbxType t) (mbxKey t) = some f → valueAhead t f = true →
      exec (.pldRead src) s = .next (mbxEnd (sayAhead t) MbxRes.AHEAD)) ∧
    (∀ f r, mbxType t ≠ 3 → mbxType t ∈ storeTypes → currentVal t (mbxType t) (mbxKey t) = some f → valueAhead t f = false →
      f.find? (fun r => r.frag = mbxArg2 t % 16) = some r →
      exec (.pldRead src) s = .next (mbxEnd (mbxReturn t r.data r.version r.fragLast r.seq) MbxRes.OK))) ∧
  (∀ (s : State) (data : List Byte) (version seq : Nat) (last : Bool), data.length ≤ 2048 → version < 256 → seq < 2 ^ 32 →
    mbxBuf (mbxReturn s data version last seq) data.length = data ∧
    fld (mbxReturn s data version last seq) 0 (pldReg Reg.PLD_MBX_INFO) 11 0 = data.length ∧
    fld (mbxReturn s data version last seq) 0 (pldReg Reg.PLD_MBX_INFO) 31 24 = version ∧
    rd (mbxReturn s data version last seq) 0 (pldReg Reg.PLD_MBX_SEQ) = seq) ∧
  (∀ (s : State) (src : Source), MailboxFree s src →
    let t := mailTaken s src 2
    let ks := ((rising (if mbxType t ∈ storeTypes then keysOf t (mbxType t) else [])).filter fun k => mbxKey t ≤ k).take 255
    exec (.pldList src) s =
      .next (mbxEnd (mbxReturn t (ks.flatMap (listEntry t (mbxType t)) ++ leBytes 4 ks.length) 0 false 0) MbxRes.OK)) ∧
  (∀ (s : State) (src : Source), MailboxFree s src →
    let t := mailTaken s src 3
    (mbxType t ≠ 0x50 → exec (.logRead src) s = .next (mbxEnd t MbxRes.BAD_ARG)) ∧
    (mbxType t = 0x50 → nextLog t (mbxArg2 t) = none → exec (.logRead src) s = .next (mbxEnd t MbxRes.ABSENT)) ∧
    (∀ r, mbxType t = 0x50 → nextLog t (mbxArg2 t) = some r →
      exec (.logRead src) s = .next (mbxEnd (mbxReturn t r.image r.version r.fragLast r.seq) MbxRes.OK))) ∧
  (∀ (s : State) (src : Source), MailboxFree s src →
    let t (op : Nat) := mailTaken s src op
    exec (.reqSweep src) s = .next (mbxCommit (t 4) (actionCommit 0 false (leBytes 4 (leNat (mbxBuf (t 4) 4) % 2 ^ 21)))) ∧
    exec (.reqHbmTrain src) s = .next (mbxCommit (t 5) (actionCommit 1 false (mbxBuf (t 5) 32))) ∧
    (mbxKey s < 4 → exec (.reqWayClear src) s = .next (mbxCommit (t 6) (actionCommit 2 false (leBytes 4 (mbxKey s) ++ mbxBuf (t 6) 8)))) ∧
    (4 ≤ mbxKey s → exec (.reqWayClear src) s = .next (mbxEnd (t 6) MbxRes.BAD_ARG)) ∧
    (mbxKey s < 3 → exec (.pldCancel src) s = .next (mbxCommit (t 7) (actionCommit (mbxKey s) true []))) ∧
    (3 ≤ mbxKey s → exec (.pldCancel src) s = .next (mbxEnd (t 7) MbxRes.BAD_ARG)) ∧
    ((16 ≤ mbxKey s ∨ 256 < mbxArg2 s % 65536) → exec (.noteWrite src) s = .next (mbxEnd (t 8) MbxRes.BAD_ARG)) ∧
    (mbxKey s < 16 → mbxArg2 s % 65536 ≤ 256 →
      exec (.noteWrite src) s = .next (mbxCommit (t 8)
        { prio := 5, type := 0x70, key := mbxKey s, version := 1, tomb := false, data := mbxBuf (t 8) (mbxArg2 s % 65536) }))) ∧
  (∀ (s : State) (c : Commit), s.pld.st ≠ 3 → versionAhead s c = false →
    (mbxCommit s c).pld.queue = s.pld.queue ++ [{ c with version := knownVersion s c.type, mbx := true }] ∧ (mbxCommit s c).pld.busy.isSome = s.pld.busy.isSome ∧
    (mbxCommit s c).regs = s.regs) ∧
  (∀ (s : State) (src : Source), MailboxFree s src →
    let t := mailTaken s src 9
    (∀ at_, s.pld.syncAt = some at_ → s.cic.count < at_ + 7500000000 → exec (.pldSync src) s = .next (mbxEnd t MbxRes.LIMIT)) ∧
    ((∀ at_, s.pld.syncAt = some at_ → at_ + 7500000000 ≤ s.cic.count) →
      ∃ u, exec (.pldSync src) s = .next u ∧ u.pld.syncAt = some s.cic.count ∧ u.pld.busy = some ⟨9, srcNum src, 0xFFFF, 0⟩ ∧
        ∀ c, drained { u with pld := { u.pld with queue := [], running := none } } = true ∧
          mbxAfter { u with pld := { u.pld with queue := [], running := none } } c =
            mbxEnd { u with pld := { u.pld with queue := [], running := none } } MbxRes.OK))

/-! ## Security -/

/-- Keys, policies and fuses (R439-R445, R452, R453, R456, R457, R465). A staged chunk is there afterwards. A policy, a certificate and a floor take effect only where their image passes every
check; floors and fuse counts only rise. A key-map change sets every granule of its range. A key is wrapped and loaded only under a key-encryption key that can be
used. An owner is enrolled in the lowest free slot, and a revoked slot can no longer be used. Over I3C the key commands are denied. -/
def Obligations.PoliciesKeysAndFuses : Prop :=
  (∀ (s : State) (src : Source), MailboxFree s src →
    let t := mailTaken s src 0x10
    ((mbxArg2 s % 2048 ≠ 0 ∨ 32768 ≤ mbxArg2 s) → exec (.stage src) s = .next (mbxEnd t MbxRes.BAD_ARG)) ∧
    (mbxArg2 s % 2048 = 0 → mbxArg2 s < 32768 →
      ∃ u, exec (.stage src) s = .next u ∧ memBytes u.sec.staging (mbxArg2 s) 2048 = mbxBuf s 2048 ∧
        (∀ a, (a < mbxArg2 s ∨ mbxArg2 s + 2048 ≤ a) → memByte u.sec.staging a = memByte s.sec.staging a) ∧
        fld u 0 (pldReg Reg.PLD_MBX_CMD) 23 16 = MbxRes.OK ∧ u.mem = s.mem)) ∧
  (∀ (s : State) (src : Source), MailboxFree s src → mbxArg2 s ≤ 32768 →
    let t := mailTaken s src 0x11
    let img := staged t
    let r := if imageCheck t img 3 = 0 ∧ imgLen img ≠ 224 then MbxRes.BAD_FORMAT else imageCheck t img 3
    exec (.policyLoad src) s =
      .next (if r = 0 then mbxEnd (applyPolicy (imageNoted t img 3 0) (policyBody (imgBody img))) MbxRes.OK
        else mbxEnd (imageNoted t img 3 r) r)) ∧
  (∀ (s : State) (p : Policy), (applyPolicy s p).sec.policy = some p ∧ (p.guestEn = false → (applyPolicy s p).sec.guestOn = false)) ∧
  (∀ (s : State) (src : Source), MailboxFree s src → overI3c src = true →
    exec (.keyMap src) s = .next (mbxEnd (mailTaken s src 0x12) MbxRes.DENIED) ∧
    exec (.keyWrap src) s = .next (mbxEnd (mailTaken s src 0x13) MbxRes.DENIED) ∧
    exec (.keyLoad src) s = .next (mbxEnd (mailTaken s src 0x14) MbxRes.DENIED)) ∧
  (∀ (s : State) (src : Source), MailboxFree s src → overI3c src = false →
    let t (op : Nat) := mailTaken s src op
    let k := mbxKey s
    let first := leNat (mbxBuf s 4)
    let n := leNat ((mbxBuf s 8).drop 4)
    ((k = 0x7F ∨ (k < 64 ∧ (s.slot k).st = 1)) → first + n ≤ poolGranules →
      ∃ u, exec (.keyMap src) s = .next u ∧ fld u 0 (pldReg Reg.PLD_MBX_CMD) 23 16 = MbxRes.OK ∧
        (∀ g, u.keyMapAt g = if first ≤ g ∧ g < first + n then k else s.keyMapAt g) ∧ u.sec.slots = s.sec.slots ∧ u.mem = s.mem) ∧
    (poolGranules < first + n → exec (.keyMap src) s = .next (mbxEnd (t 0x12) MbxRes.BAD_ARG)) ∧
    ((64 ≤ k ∨ (s.slot k).st ≠ 1 ∨ 256 ≤ mbxArg2 s) → exec (.keyWrap src) s = .next (mbxEnd (t 0x13) MbxRes.BAD_ARG)) ∧
    (k < 64 → (s.slot k).st = 1 → mbxArg2 s < 256 →
      (kekOf s = none →
        exec (.keyWrap src) s = .next (mbxEnd (secEvent (t 0x13) Sev.KEY 0x13 0 MbxRes.KEY_BAD true) MbxRes.KEY_BAD)) ∧
      (∀ o, kekOf s = some o →
        exec (.keyWrap src) s = .next (mbxCommit (secEvent (t 0x13) Sev.KEY 0x13 0 0 true)
          { prio := 3, type := 3, key := mbxArg2 s, version := 1, tomb := false, data := blobData (s.slot k).key o }))) ∧
    ((64 ≤ k ∨ (s.ctx k).live = false ∨ 256 ≤ mbxArg2 s) → exec (.keyLoad src) s = .next (mbxEnd (t 0x14) MbxRes.BAD_ARG)) ∧
    (k < 64 → (s.ctx k).live = true → mbxArg2 s < 256 →
      (storeVal s 3 (mbxArg2 s) = none → exec (.keyLoad src) s = .next (mbxEnd (t 0x14) MbxRes.ABSENT)) ∧
      (storeVal s 3 (mbxArg2 s) ≠ none → unwrapBlob s (mbxArg2 s) = none →
        exec (.keyLoad src) s = .next (mbxEnd (secEvent (t 0x14) Sev.KEY 0x14 0 MbxRes.KEY_BAD true) MbxRes.KEY_BAD)) ∧
      (∀ key, unwrapBlob s (mbxArg2 s) = some key →
        ∃ u, exec (.keyLoad src) s = .next u ∧ u.slot k = { st := 1, key := key, fromBlob := true } ∧ (∀ j, j ≠ k → u.slot j = s.slot j) ∧
          fld u 0 (pldReg Reg.PLD_MBX_CMD) 23 16 = MbxRes.OK))) ∧
  (∀ (s : State) (src : Source), MailboxFree s src → mbxArg2 s ≤ 32768 →
    let l := staged s
    (let r := enrolResult s l
     ∃ u, exec (.ownerEnroll src) s = .next u ∧ fld u 0 (pldReg Reg.PLD_MBX_CMD) 23 16 = r ∧
       u.sec.fuses = if r ≠ 0 then s.sec.fuses
         else { s.sec.fuses with
           ownerKeys := s.sec.fuses.ownerKeys.set ((freeOwner s.sec.fuses).getD 2) (some (keyHash (part l 0 32) (part l 32 1952))) }) ∧
    (let r := revokeResult s l
     ∃ u, exec (.ownerRevoke src) s = .next u ∧ fld u 0 (pldReg Reg.PLD_MBX_CMD) 23 16 = r ∧
       (r ≠ 0 → u.sec.fuses = s.sec.fuses) ∧ (r = 0 → usableKey u.sec.fuses 1 (imgWord l 0) = none)) ∧
    (∃ u, exec (.certInstall src) s = .next u ∧ u.sec.fuses = s.sec.fuses ∧
      (imageCheck s l 4 ≠ 0 → fld u 0 (pldReg Reg.PLD_MBX_CMD) 23 16 = imageCheck s l 4 ∧ ∀ c ∈ u.pld.queue, c.type = 2 → c ∈ s.pld.queue)) ∧
    (∃ u, exec (.dikeFloor src) s = .next u ∧ (∀ n, n < 7 → nth s.sec.fuses.floors n ≤ nth u.sec.fuses.floors n) ∧
      (imageCheck s l 3 ≠ 0 → u.sec.fuses = s.sec.fuses ∧ fld u 0 (pldReg Reg.PLD_MBX_CMD) 23 16 = imageCheck s l 3))) ∧
  (∀ (s : State) (src : Source), MailboxFree s src →
    let cls := mbxKey s
    ((cls = 0 ∨ 3 < cls) → exec (.svnFuse src) s = .next (mbxEnd (mailTaken s src 0x1A) MbxRes.BAD_ARG)) ∧
    (1 ≤ cls → cls ≤ 3 →
      ∃ u, exec (.svnFuse src) s = .next u ∧ fld u 0 (pldReg Reg.PLD_MBX_CMD) 23 16 = MbxRes.OK ∧
        fuseSvn u.sec.fuses cls = max (fuseSvn s.sec.fuses cls) (min (mbxArg2 s) (rollbackOf s cls)) ∧
        ∀ c, c ≠ cls → fuseSvn u.sec.fuses c = fuseSvn s.sec.fuses c))

/-- The Dike (R457-R462, R465). A sensor trips at the larger of its policy level and its floor. At level 0 a trip is an event and a corrected record alone; in boot stage 1 it is
latched; from level 1 on it is a quarantine: every context destroyed, every hart parked, every key gone, the pool zero; from level 2 on a key erase begins. A
DIKE_TEST trips at level 0 whatever the level in force. -/
def Obligations.DikeTripsQuarantine : Prop :=
  (∀ (s : State) (n : Nat), n < 7 → s.sec.armed = false → exec (.dikeTrip n) s = .next s) ∧
  (∀ (s : State) (n : Nat), n < 7 → s.sec.armed = true →
    let lv := dikeLevel s n
    let u := tripNoted s n lv
    (lv = 0 → exec (.dikeTrip n) s = .next (raiseError u { sev := 0, type := 0x0A01, die := 0, inst := n })) ∧
    (1 ≤ lv → s.boot.stage = 1 → s.sec.latchedBoot = none →
      exec (.dikeTrip n) s = .next { u with sec := { u.sec with latchedBoot := some n } }) ∧
    (lv = 1 → s.boot.stage ≠ 1 →
      exec (.dikeTrip n) s = .next (raiseError (quarantine u) { sev := 3, type := 0x0A02, die := 0, inst := n })) ∧
    (2 ≤ lv → s.boot.stage ≠ 1 →
      exec (.dikeTrip n) s = .next (raiseError (eraseBegin (quarantine u) lv n) { sev := 3, type := 0x0A02, die := 0, inst := n }))) ∧
  (∀ (s : State) (n : Nat), dikeLevel s n = max (nth s.sec.fuses.floors n) ((s.sec.policy.map fun p => nth p.levels n).getD 0)) ∧
  (∀ (s : State) (n lv : Nat), n < 7 → lv < 4 →
    bit (rd (tripNoted s n lv) 0 (dkReg Reg.DK_STATUS)) n = true ∧ fld (tripNoted s n lv) 0 (dkReg Reg.DK_LAST) 31 29 = n ∧
    fld (tripNoted s n lv) 0 (dkReg Reg.DK_LAST) 28 27 = lv ∧ (tripNoted s n lv).mem = s.mem ∧ (tripNoted s n lv).ctxs = s.ctxs) ∧
  (∀ s : State,
    let q := quarantine s
    (∀ i, i < 64 → (q.ctx i).live = false) ∧ q.core.harts = [] ∧ q.core.image = none ∧ q.sec.slots = [] ∧ q.sec.keyMap = [] ∧
    (∀ a, a < poolBytes → memByte q.mem a = 0) ∧ q.coh.full = false ∧ q.coh.lines = [] ∧ q.coh.dir = [] ∧ q.str.packets = [] ∧
    q.str.reshards = [] ∧ q.lnk.colls = [] ∧ q.sec.dike = max 1 s.sec.dike ∧ q.sec.fuses = s.sec.fuses ∧ q.pld.records = s.pld.records) ∧
  (∀ (s : State) (lv n : Nat), 2 ≤ lv → s.sec.erase = none → s.sec.dike ≠ 3 →
    let e := eraseBegin s lv n
    e.sec.dike = 2 ∧ e.sec.slots = [] ∧ e.sec.keyMap = [] ∧ e.host.sessions = [] ∧
    e.sec.erase = some { step := 2, level := lv, sensor := n, blocks := blobBlocks s } ∧ typePending e 0x51 = true) ∧
  (∀ (s : State) (src : Source), MailboxFree s src →
    (7 ≤ mbxKey s → exec (.dikeTest src) s = .next (mbxEnd (mailTaken s src 0x1C) MbxRes.BAD_ARG)) ∧
    (mbxKey s < 7 → exec (.dikeTest src) s =
      .next (mbxEnd (raiseError (tripNoted (mailTaken s src 0x1C) (mbxKey s) 0) { sev := 0, type := 0x0A01, die := 0, inst := mbxKey s })
        MbxRes.OK)))

/-- Core images, debug, sessions, the random source and the guest (R29, R30, R316, R448-R450, R464). GO is accepted once, needs a cluster that is online and a range that fits, and starts every
online hart only where the image passes every check. A challenge stands for 60 s; an unlock does what its result says. A fifth session is
refused; ATTESTED needs a session on a port with its measurements and its signature. A source of entropy that fails is reported once, and refuses challenges until the next warm device reset. A guest request outside its
windows is blocked and reported. -/
def Obligations.CoreImagesSessionsAndTheGuest : Prop :=
  (∀ (s : State) (src : Source), Reaches s src (coreReg Reg.CORE_RUN_CTL) →
    let base := rd64 s 0 (coreReg Reg.CORE_IMG_BASE_LO)
    let n := fld s 0 (coreReg Reg.CORE_IMG_SIZE) 15 0
    (s.core.ran = true → exec (.coreRunGo src) s = .next (coreRunEnd s 4)) ∧
    (s.core.ran = false → s.sec.dike ≠ 0 →
      ∃ t, exec (.coreRunGo src) s = .next t ∧ t.core = s.core) ∧
    (s.core.ran = false → s.sec.dike = 0 → onlineHarts s = [] → exec (.coreRunGo src) s = .next (coreRunEnd s 3)) ∧
    (s.core.ran = false → s.sec.dike = 0 → onlineHarts s ≠ [] → (n = 0 ∨ 16384 < n ∨ base % 4096 ≠ 0 ∨ poolBytes < base + n * 4096) →
      exec (.coreRunGo src) s = .next (coreRunEnd s 5)) ∧
    (s.core.ran = false → s.sec.dike = 0 → onlineHarts s ≠ [] → 1 ≤ n → n ≤ 16384 → base % 4096 = 0 → base + n * 4096 ≤ poolBytes →
      let u := { s with core := { s.core with ran := true, image := some (base, n * 4096) } }
      let img := devBytes u base (n * 4096)
      let r := if devPoison u base (n * 4096) then MbxRes.SIG_BAD else imageCheck u img 2
      let v := imageNoted u img 2 r
      exec (.coreRunGo src) s = .next (if r ≠ 0 then coreRunEnd { v with core := { v.core with image := none } } 2
        else
          let w := { v with core := { v.core with imageHash := digest (imgBody img) } }
          coreRunEnd (measureChanged ((onlineHarts w).foldl (fun s h => startHart s base h) w) 8) 1))) ∧
  (∀ (s : State) (base h : Nat),
    ((startHart s base h).hart h).running = true ∧ ((startHart s base h).hart h).priv = 3 ∧ ((startHart s base h).hart h).startPc = base ∧
    tget (fun _ => 0) ((startHart s base h).hart h).xregs 10 = h ∧ tget (fun _ => 0) ((startHart s base h).hart h).xregs 11 = base) ∧
  (∀ (s : State) (src : Source), MailboxFree s src →
    let t := mailTaken s src 0x15
    (mbxArg2 s ≠ 1 → mbxArg2 s ≠ 2 → exec (.debugChallenge src) s = .next (mbxEnd t MbxRes.BAD_ARG)) ∧
    ((mbxArg2 s = 1 ∨ mbxArg2 s = 2) → s.sec.entropyBad = false →
      ∃ u, exec (.debugChallenge src) s = .next u ∧ u.sec.nonce = some (s.sec.nextKey, mbxArg2 s, s.cic.count + 7500000000) ∧
        fld u 0 (pldReg Reg.PLD_MBX_CMD) 23 16 = MbxRes.OK)) ∧
  (∀ (s : State) (src : Source), MailboxFree s src → mbxArg2 s ≤ 32768 →
    let t := mailTaken s src 0x16
    let l := staged t
    let r := unlockResult t l
    let level := (t.sec.nonce.map fun p => p.2.1).getD 0
    exec (.debugUnlock src) s =
      .next (mbxEnd (secEvent (if r = 0 then unlock t level else t) Sev.DEBUG 0x16 level r true) r) ∧
    (s.sec.nonce = none → s.sec.dike = 0 → r = MbxRes.EXPIRED) ∧
    (∀ n lv until_, s.sec.dike = 0 → s.sec.nonce = some (n, lv, until_) → until_ ≤ s.cic.count → r = MbxRes.EXPIRED)) ∧
  (∀ s : State, (unlock s 1).sec.dbgOwner = true ∧ (unlock s 1).sec.dbgVendor = s.sec.dbgVendor ∧ (unlock s 1).sec.nonce = none ∧
    (unlock s 2).sec.dbgVendor = true ∧ (unlock s 2).sec.kekOff = true ∧ (unlock s 2).sec.slots = []) ∧
  (∀ (s : State) (p : Nat), p < 2 → (s.port p).inService = true → 2 ≤ s.boot.stage → s.boot.romService = false →
    (4 ≤ s.host.sessions.length → exec (.spdmRequest (some p) .finish) s = .next (s.emit (.answer [0x7F]))) ∧
    (s.host.sessions.length < 4 →
      ∃ t x, exec (.spdmRequest (some p) .finish) s = .next t ∧ t.host.sessions = s.host.sessions ++ [x] ∧ x.viaHost = true ∧
        x.meas = false ∧ x.sig = false ∧ (∀ y ∈ s.host.sessions, y.id ≠ x.id) ∧ t.host.attested = s.host.attested ∧
        t.out = s.out ++ [.answer [0x65]]) ∧
    (∀ x ∈ s.host.sessions, x.viaHost = true → x.sig = true → certsHeld s = true →
      ∃ t, exec (.spdmRequest (some p) (.measurementsAll x.id)) s = .next t ∧ t.host.attested = true) ∧
    (∀ n m, m = .measurementsAll n ∨ m = .mlSignature n ∨ m = .endSession n → (∀ x ∈ s.host.sessions, x.id ≠ n) →
      ∃ t, exec (.spdmRequest (some p) m) s = .next t ∧ t.host = s.host)) ∧
  (∀ s : State,
    (s.sec.entropyBad = true → exec .entropyFail s = .next s) ∧
    (s.sec.entropyBad = false → exec .entropyFail s =
      .next (raiseError { s with sec := { s.sec with entropyBad := true } } { sev := 2, type := 0x0A05, die := 0, inst := 0 }))) ∧
  (∀ (s : State) (g : GuestReq), s.sec.guestOn = true → s.sec.guestIso = false → s.boot.warmBusy = false → clockStopped s 6 11 0 = false →
    let n := if g.write then g.data.length else g.bytes
    (guestPasses s g.addr n (if g.write then 2 else 1) = false → exec (.guestRequest g) s = .next (leveeBlock s g.write g.addr)) ∧
    (guestPasses s g.addr n (if g.write then 2 else 1) = true → g.write = true → exec (.guestRequest g) s = .next (portWrite s 98 g.addr g.data none true)) ∧
    (guestPasses s g.addr n (if g.write then 2 else 1) = true → g.write = false → s.coh.txns = [] → s.coh.waiting = [] →
      ∃ t b p, exec (.guestRequest g) s = .next t ∧ t.out.getLast? = some (.readData b p) ∧ b.length = n)) ∧
  (∀ (s : State) (g : GuestReq), (s.sec.guestOn = false ∨ s.sec.guestIso = true) → exec (.guestRequest g) s = .next s) ∧
  (∀ (s : State) (line : Nat) (bad : Bool), guestUp s = true → guestPasses s (line * 64) 64 1 = false →
    exec (.rdc 98 ⟨line, bad⟩) s = .next (leveeBlock s false (lineAddr line)))

/-- What destroys a key (R454): DESTROY, the scrub of an abandoned context and a security quarantine each leave the context's slot EMPTY with its key gone, and the key map
without an entry that names it; RESET leaves the slot and the map as they are. -/
def Obligations.KeysDieWithTheirContext : Prop :=
  let gone (t : State) (i : Nat) : Prop := t.slot i = { st := 0, key := 0, fromBlob := false } ∧ ∀ g, t.keyMapAt g ≠ i
  (∀ (s : State) (src : Source) (i : Nat), i < 64 → Reaches s src ctxmCmd → (s.ctx i).live = true →
    cellsQuiet (stopCells (ctxmWrite s 2 i) i) i = true → ∃ t, exec (.destroy src i) s = .next t ∧ gone t i) ∧
  (∀ (s : State) (i at_ : Nat), i < 64 → (s.ctx i).abandonAt = some at_ → (s.ctx i).live = true → (s.ctx i).claimed = false → at_ ≤ s.cic.count →
    (s.ctx i).ending = 0 → cellsQuiet (stopCells s i) i = true → ∃ t, exec (.scrubOnAbandon i) s = .next t ∧ gone t i) ∧
  (∀ (s : State) (n i : Nat), n < 7 → i < 64 → s.sec.armed = true → s.boot.stage ≠ 1 → 1 ≤ dikeLevel s n →
    ∃ t, exec (.dikeTrip n) s = .next t ∧ gone t i) ∧
  (∀ (s : State) (src : Source) (i : Nat), i < 64 → Reaches s src ctxmCmd →
    ∃ t, exec (.reset src i) s = .next t ∧ t.slot i = s.slot i ∧ ∀ g, t.keyMapAt g = s.keyMapAt g)

/-- Firmware runs only where both signatures verify (R16): whatever the command, a state in which the hub firmware has been started (`udsClosed`: it is
set as the firmware starts, and by nothing else), where it had not been before, was reached by ROM_STAGE from a bundle whose Ed25519 and ML-DSA-65 signatures over its header both verify, and a core image that runs
after it and did not before is one whose bytes carry two signatures that verify. -/
def Obligations.NoFirmwareRunsUnsigned : Prop :=
  let signed (img : List Byte) : Prop :=
    Config.edVerify (part img 0x080 32) (part img 0x0A0 64) (part img 0 0x80) = true ∧
    Config.mlVerify (part img 0x0E0 1952) (part img 0x880 3309) (part img 0 0x80) = true ∧
    leNat (part img 0x020 64) = Config.sha512 (imgBody img) % 2 ^ 512
  ∀ (c : Instr) (s t : State), exec c s = .next t →
    (t.sec.udsClosed = true → s.sec.udsClosed = true ∨
      ∃ bundles rail, c = .romStage bundles rail ∧ ∃ img ∈ bundles.take 2, signed img) ∧
    (∀ b n, t.core.image = some (b, n) → s.core.image = some (b, n) ∨
      ∃ u : State, u.mem = t.mem ∧ u.keyTag = t.keyTag ∧ u.coh = t.coh ∧ u.sec.slots = t.sec.slots ∧ u.sec.keyMap = t.sec.keyMap ∧ signed (devBytes u b n))

/-! ## Registers -/

/-- Register accesses (R6-R8, R497, R499, R500, R505). A read returns the register's implemented bits and clears its RC fields; a read of _LO latches _HI, and a read of _HI returns what was latched; a read
whose completion is lost has been made and is recorded (how it is recorded: notes/assumptions/110.md); a write of
_LO is held until the source writes _HI. A misaligned access, one beyond the page's last register, and one that changes a locked field are recorded, and change nothing
else. Interrupt bits are set by PG_INT_SET, cleared by PG_INT_RAW, gated by PG_INT_EN; a lock stays; a counter page's CNT_CLEAR zeroes
its counters; the ring's consumer moves only into its window. -/
def Obligations.RegisterAccesses : Prop :=
  (∀ (s : State) (src : Source) (a : Nat), ReadReaches s src a → a % 4 = 0 → isMsix a = false → beyondPage a = false → fieldsAt a ≠ [] →
    (isHi a = true → exec (.rcRegisterRead src ⟨a, false⟩) s = .next (s.emit (.readValue (latched s src (a - 4)))) ∧
      exec (.loReadLatch src ⟨a, false⟩) s = .next (s.emit (.readValue (latched s src (a - 4))))) ∧
    (isHi a = false → a ≠ hub Pg.ATT Reg.ATT_TOKEN3 →
      ∃ t, exec (.rcRegisterRead src ⟨a, false⟩) s = .next t ∧ exec (.loReadLatch src ⟨a, false⟩) s = .next t ∧
        t = { s with regs := t.regs, latch := t.latch, free := t.free, out := t.out } ∧
        t.out = s.out ++ [.readValue (readMask (fieldsAt a) (regView s a))] ∧
        (∀ f ∈ fieldsAt a, f.acc = .rc → fld t (copyAt s a) a f.hi f.lo = 0) ∧
        (∀ i b, regKey i b ≠ regKey (copyAt s a) a → rd t i b = rd s i b) ∧
        (isLo a = true → latched t src a = readMask (fieldsAt (a + 4)) (regView s (a + 4))) ∧
        (isLo a = false → t.latch = s.latch))) ∧
  (∀ (s t : State) (src : Source) (a v : Nat), ReadReaches s src a → readAs s src a = some (t, v) →
    exec (.rcRegisterRead src ⟨a, true⟩) s = .next (readLost t src a) ∧ exec (.loReadLatch src ⟨a, true⟩) s = .next (readLost t src a)) ∧
  (∀ (t : State) (p h a : Nat),
    readLost t (.host p) a = raiseError t { sev := 2, type := 0x050D, die := 0, inst := p, space := 2, addr := a } ∧
    readLost t (.hart h) a = raiseError t { sev := 2, type := 0x050D, die := 1, inst := h, space := 2, addr := a }) ∧
  (∀ (s : State) (src : Source) (a v : Nat), Reaches s src a →
    (a % 4 ≠ 0 → exec (.registerWrite src a v) s = .next (synd s src a 0x01)) ∧
    (a % 4 = 0 → isMsix a = false → beyondPage a = true → exec (.registerWrite src a v) s = .next (synd s src a 0x03)) ∧
    (a % 4 = 0 → isMsix a = false → beyondPage a = false → fieldsAt a ≠ [] → isDoorbell a = false → 0x040 ≤ a % 0x1000 → isLo a = true →
      exec (.registerWrite src a v) s =
        .next { s with heldLo := tset (fun _ => 0) s.heldLo (regKey (srcLatch src) a) (v % 2 ^ 32 + 1) }) ∧
    (∀ k, a % 4 = 0 → isMsix a = false → beyondPage a = false → fieldsAt a ≠ [] → isDoorbell a = false → 0x040 ≤ a % 0x1000 → isLo a = false →
      isHi a = false → kindAt a = some k → ownWrite s src k (a % 0x1000) (rd s (copyAt s a) a) (v % 2 ^ 32) = none →
      exec (.registerWrite src a v) s = .next (effectAt (fieldWrite s src a (v % 2 ^ 32)) src a (rd s (copyAt s a) a) (v % 2 ^ 32)) ∧
      (changesLocked (fieldsAt a) (pageLocked s a) (rd s (copyAt s a) a) (v % 2 ^ 32) = false →
        fieldWrite s src a (v % 2 ^ 32) =
          wr s (copyAt s a) a (writeFields (fieldsAt a) (pageLocked s a) (rd s (copyAt s a) a) (v % 2 ^ 32))))) ∧
  (∀ (k : PageKind) (off : Nat) (locked : Bool) (old v : Nat), ∀ f ∈ k.at_ off,
    bits (writeFields (k.at_ off) locked old v) f.hi f.lo =
      match f.acc with
      | .rw => bits v f.hi f.lo
      | .rwl => if locked then bits old f.hi f.lo else bits v f.hi f.lo
      | .w1c => bits old f.hi f.lo &&& (2 ^ (f.hi + 1 - f.lo) - 1 - bits v f.hi f.lo)
      | .w1s | .ro | .wo | .rc => bits old f.hi f.lo) ∧
  (∀ (s : State) (src : Source) (v : Nat),
    let lo := coreReg Reg.CORE_IMG_BASE_LO
    let hi := coreReg Reg.CORE_IMG_BASE_HI
    let put (t : State) (a w : Nat) : State := wr t 0 a (writeFields (PageKind.core.at_ (a % 0x1000)) false (rd t 0 a) w)
    Reaches s src hi → pageLocked s hi = false →
    (∀ w, heldLoOf s src lo = some w → exec (.hiWrite src hi v) s = .next (put (put (dropHeldLo s src lo) lo w) hi (v % 2 ^ 32))) ∧
    (heldLoOf s src lo = none → exec (.hiWrite src hi v) s = .next (put s hi (v % 2 ^ 32)))) ∧
  (∀ (s : State) (src : Source) (page v : Nat), okPage page = true →
    let base := pageAt page
    (Reaches s src (base + Reg.PG_INT_SET) →
      ∃ t, exec (.pgIntSet src page v) s = .next t ∧ rd t 0 (base + Reg.PG_INT_RAW) = rd s 0 (base + Reg.PG_INT_RAW) ||| intMask base v ∧
        t = { s with regs := t.regs, host := t.host } ∧ ((intPend s base ≠ 0 ∨ intPend t base = 0) → t.host = s.host)) ∧
    (Reaches s src (base + Reg.PG_INT_RAW) →
      ∃ t, exec (.pgIntRawWrite src page v) s = .next t ∧
        rd t 0 (base + Reg.PG_INT_RAW) = rd s 0 (base + Reg.PG_INT_RAW) &&& (2 ^ 32 - 1 - intMask base v) ∧
        t = { s with regs := t.regs, host := t.host } ∧ (intPend t base = 0 → t.host = s.host)) ∧
    (Reaches s src (base + Reg.PG_INT_EN) →
      ∃ t, exec (.pgIntEnWrite src page v) s = .next t ∧ rd t 0 (base + Reg.PG_INT_EN) = intMask base v ∧
        rd t 0 (base + Reg.PG_INT_RAW) = rd s 0 (base + Reg.PG_INT_RAW) ∧ t = { s with regs := t.regs, host := t.host } ∧
        (intPend t base = 0 → t.host = s.host)) ∧
    (Reaches s src (base + Reg.PG_LOCK) →
      ∃ t, exec (.pgLock src page) s = .next t ∧ pageLocked t base = true ∧ t = { s with regs := t.regs } ∧
        ∀ i b, regKey i b ≠ regKey 0 (base + Reg.PG_LOCK) → rd t i b = rd s i b) ∧
    (∀ k, Reaches s src (base + 0x040) → kindAt base = some k →
      ∃ t, exec (.cntClear src page) s = .next t ∧ t = { s with regs := t.regs } ∧
        (∀ off ∈ counterOffs k, ∀ f ∈ k.at_ off, ((∀ g ∈ k.at_ off, g.acc ≠ .rc) ∨ f.acc = .rc) → fld t 0 (base + off) f.hi f.lo = 0) ∧
        ∀ i b, (∀ off ∈ counterOffs k, regKey i b ≠ regKey 0 (base + off)) → rd t i b = rd s i b)) ∧
  (∀ (s : State) (src : Source) (v : Nat), Reaches s src (rstReg Reg.ERR_RING_CONS) →
    let old := rd s 0 (rstReg Reg.ERR_RING_CONS)
    let room := (rd s 0 (rstReg Reg.ERR_RING_PROD) + 2 ^ 32 - old) % 2 ^ 32
    let step := (v % 2 ^ 32 + 2 ^ 32 - old) % 2 ^ 32
    (1 ≤ step → step ≤ room → exec (.errRingCons src v) s = .next (wr s 0 (rstReg Reg.ERR_RING_CONS) v)) ∧
    ((step = 0 ∨ room < step) → exec (.errRingCons src v) s = .next s))
end

