-- ==== Sys2Proof/Laws/Map.lean ====
section
/-!
SUPPORT. What the sparse tables do: reading after writing, for every table whatever its form; and every operation
keeps the canonical form.
-/

namespace Sys2Proof.Machine

variable {α : Type}

theorem tget_tins_same (d : Nat → α) (m : Table α) (k : Nat) (v : α) (h : ∀ p ∈ m, p.1 ≠ k) :
    tget d (tins m k v) k = v := by
  induction m with
  | nil => simp [tins, tget]
  | cons p t ih =>
    have hp : p.1 ≠ k := h p (by simp)
    have ht := ih fun q hq => h q (List.mem_cons_of_mem _ hq)
    simp only [tins]
    split
    · simp [tget, hp, ht]
    · simp [tget]

theorem tget_tins_other (d : Nat → α) (m : Table α) (k k' : Nat) (v : α) (h : k' ≠ k) :
    tget d (tins m k v) k' = tget d m k' := by
  have h' : ¬ k = k' := fun e => h e.symm
  induction m with
  | nil => simp [tins, tget, h']
  | cons p t ih =>
    simp only [tins]
    split
    · simp [tget, ih]
    · simp [tget, h']

theorem tget_tdel_other (d : Nat → α) (m : Table α) (k k' : Nat) (h : k' ≠ k) :
    tget d (tdel m k) k' = tget d m k' := by
  induction m with
  | nil => simp [tdel, tget]
  | cons p t ih =>
    unfold tdel at *
    by_cases hk : p.1 = k
    · have : ¬ p.1 = k' := fun e => h (e.symm.trans hk)
      simp only [List.filter_cons, hk, bne_self_eq_false, Bool.false_eq_true, if_false, tget]
      rw [ih]
      rw [if_neg (by rw [← hk]; exact this)]
    · simp [hk, tget, ih]

theorem tdel_ne (m : Table α) (k : Nat) : ∀ p ∈ tdel m k, p.1 ≠ k := by
  intro p hp
  simpa [tdel] using (List.mem_filter.mp hp).2

theorem tget_absent (d : Nat → α) (m : Table α) (k : Nat) (h : ∀ p ∈ m, p.1 ≠ k) : tget d m k = d k := by
  induction m with
  | nil => rfl
  | cons p t ih =>
    simp [tget, h p (by simp), ih fun q hq => h q (List.mem_cons_of_mem _ hq)]

/-- A read of the key just written gives the value written. -/
@[simp] theorem tget_tset_same [DecidableEq α] (d : Nat → α) (m : Table α) (k : Nat) (v : α) :
    tget d (tset d m k v) k = v := by
  unfold tset
  split
  · rename_i h; rw [tget_absent d _ k (tdel_ne m k), h]
  · exact tget_tins_same d _ k v (tdel_ne m k)

/-- A write of one key leaves every other key alone. -/
theorem tget_tset_other [DecidableEq α] (d : Nat → α) (m : Table α) (k k' : Nat) (v : α) (h : k' ≠ k) :
    tget d (tset d m k v) k' = tget d m k' := by
  unfold tset
  split
  · exact tget_tdel_other d m k k' h
  · rw [tget_tins_other d _ k k' v h, tget_tdel_other d m k k' h]

/-- Reading a table after one write. -/
theorem tget_tset [DecidableEq α] (d : Nat → α) (m : Table α) (k k' : Nat) (v : α) :
    tget d (tset d m k v) k' = if k' = k then v else tget d m k' := by
  split
  · rename_i h; subst h; simp
  · rename_i h; exact tget_tset_other d m k k' v h

theorem tabove_of_le {m : Table α} {i j : Nat} (h : i ≤ j) (hm : tabove j m = true) : tabove i m = true := by
  induction m with
  | nil => rfl
  | cons p t ih =>
    simp only [tabove, Bool.and_eq_true, decide_eq_true_eq] at hm ⊢
    exact ⟨by omega, ih hm.2⟩

theorem tabove_filter {m : Table α} {i : Nat} (f : Nat × α → Bool) (hm : tabove i m = true) :
    tabove i (m.filter f) = true := by
  induction m with
  | nil => rfl
  | cons p t ih =>
    simp only [tabove, Bool.and_eq_true, decide_eq_true_eq] at hm
    simp only [List.filter_cons]
    split
    · simp [tabove, hm.1, ih hm.2]
    · exact ih hm.2

/-- Taking entries out keeps the canonical form. -/
theorem twf_filter [DecidableEq α] {d : Nat → α} {m : Table α} (f : Nat × α → Bool) (hm : twf d m = true) :
    twf d (m.filter f) = true := by
  induction m with
  | nil => rfl
  | cons p t ih =>
    simp only [twf, Bool.and_eq_true, decide_eq_true_eq] at hm
    simp only [List.filter_cons]
    split
    · simp [twf, hm.1.1, tabove_filter f hm.1.2, ih hm.2]
    · exact ih hm.2

theorem tabove_tins {m : Table α} {i k : Nat} {v : α} (hk : i < k) (hm : tabove i m = true) :
    tabove i (tins m k v) = true := by
  induction m with
  | nil => simp [tins, tabove, hk]
  | cons p t ih =>
    simp only [tabove, Bool.and_eq_true, decide_eq_true_eq] at hm
    simp only [tins]
    split <;> simp [tabove, hk, hm.1, hm.2, ih hm.2]

theorem twf_tins [DecidableEq α] {d : Nat → α} {m : Table α} {k : Nat} {v : α} (hv : v ≠ d k)
    (hn : ∀ p ∈ m, p.1 ≠ k) (hm : twf d m = true) : twf d (tins m k v) = true := by
  induction m with
  | nil => simp [tins, twf, tabove, hv]
  | cons p t ih =>
    have hp : p.1 ≠ k := hn p (by simp)
    simp only [twf, Bool.and_eq_true, decide_eq_true_eq] at hm
    simp only [tins]
    split
    · rename_i hle
      have hpk : p.1 < k := by omega
      simp [twf, hm.1.1, tabove_tins hpk hm.1.2, ih (fun q hq => hn q (List.mem_cons_of_mem _ hq)) hm.2]
    · rename_i hle
      have hlt : k < p.1 := by omega
      simp [twf, tabove, hv, hlt, hm.1.1, hm.1.2, hm.2, tabove_of_le (Nat.le_of_lt hlt) hm.1.2]

/-- A write keeps the canonical form. -/
theorem twf_tset [DecidableEq α] {d : Nat → α} {m : Table α} (k : Nat) (v : α) (hm : twf d m = true) :
    twf d (tset d m k v) = true := by
  unfold tset
  split
  · exact twf_filter _ hm
  · rename_i h; exact twf_tins h (tdel_ne m k) (twf_filter _ hm)

/-! Byte memory. -/

/-- A read of the byte just written gives it. -/
@[simp] theorem memByte_memSet_same (m : List Host.Cell) (a : Nat) (b : Byte) : memByte (memSet m a b) a = b :=
  tget_tset_same _ _ _ _

/-- A write of one byte leaves every other byte alone. -/
theorem memByte_memSet_other (m : List Host.Cell) (a a' : Nat) (b : Byte) (h : a' ≠ a) :
    memByte (memSet m a b) a' = memByte m a' :=
  tget_tset_other _ _ _ _ _ h

/-- A store leaves every byte outside it alone. -/
theorem memByte_memStore_outside (bs : List Byte) (m : List Host.Cell) (a a' : Nat)
    (h : a' < a ∨ a + bs.length ≤ a') : memByte (memStore m a bs) a' = memByte m a' := by
  induction bs generalizing m a with
  | nil => rfl
  | cons b t ih =>
    simp only [List.length_cons] at h
    rw [memStore, ih _ _ (by omega), memByte_memSet_other _ _ _ _ (by omega)]

/-- A store puts its bytes where it says. -/
theorem memByte_memStore_inside (bs : List Byte) (m : List Host.Cell) (a i : Nat) (h : i < bs.length) :
    memByte (memStore m a bs) (a + i) = bs[i] := by
  induction bs generalizing m a i with
  | nil => simp at h
  | cons b t ih =>
    cases i with
    | zero =>
      have := memByte_memStore_outside t (memSet m a b) (a + 1) a (by omega)
      simp only [memStore, Nat.add_zero, List.getElem_cons_zero]
      rw [this, memByte_memSet_same]
    | succ j =>
      have := ih (memSet m a b) (a + 1) j (by simpa using h)
      rw [memStore, show a + (j + 1) = a + 1 + j by omega, this]
      simp

theorem memory_wf_memSet {m : List Host.Cell} (a : Nat) (b : Byte) (h : Memory.wf m = true) :
    Memory.wf (memSet m a b) = true :=
  twf_tset a b h

/-- A store keeps the canonical form of memory. -/
theorem memory_wf_memStore {m : List Host.Cell} (a : Nat) (bs : List Byte) (h : Memory.wf m = true) :
    Memory.wf (memStore m a bs) = true := by
  induction bs generalizing m a with
  | nil => exact h
  | cons b t ih => exact ih _ (memory_wf_memSet a b h)

/-- Clearing a range keeps the canonical form of memory. -/
theorem memory_wf_memClear {m : List Host.Cell} (a n : Nat) (h : Memory.wf m = true) :
    Memory.wf (memClear m a n) = true :=
  twf_filter _ h

end Sys2Proof.Machine
end

