-- ==== Sys2Proof/Laws/State.lean ====
section
/-!
SUPPORT. What each update of State leaves alone: one lemma for each field that an update does not touch, and what the
updated unit reads as afterwards.
-/

namespace Sys2Proof.Machine

@[simp] theorem setCtx_pending (s : State) (i : Nat) (c : Ctx) : (s.setCtx i c).pending = s.pending := rfl
@[simp] theorem setCtx_out (s : State) (i : Nat) (c : Ctx) : (s.setCtx i c).out = s.out := rfl
@[simp] theorem setCtx_free (s : State) (i : Nat) (c : Ctx) : (s.setCtx i c).free = s.free := rfl
@[simp] theorem setCtx_regs (s : State) (i : Nat) (c : Ctx) : (s.setCtx i c).regs = s.regs := rfl
@[simp] theorem setCtx_latch (s : State) (i : Nat) (c : Ctx) : (s.setCtx i c).latch = s.latch := rfl
@[simp] theorem setCtx_heldLo (s : State) (i : Nat) (c : Ctx) : (s.setCtx i c).heldLo = s.heldLo := rfl
@[simp] theorem setCtx_cic (s : State) (i : Nat) (c : Ctx) : (s.setCtx i c).cic = s.cic := rfl
@[simp] theorem setCtx_mem (s : State) (i : Nat) (c : Ctx) : (s.setCtx i c).mem = s.mem := rfl
@[simp] theorem setCtx_poison (s : State) (i : Nat) (c : Ctx) : (s.setCtx i c).poison = s.poison := rfl
@[simp] theorem setCtx_keyTag (s : State) (i : Nat) (c : Ctx) : (s.setCtx i c).keyTag = s.keyTag := rfl
@[simp] theorem setCtx_cells (s : State) (i : Nat) (c : Ctx) : (s.setCtx i c).cells = s.cells := rfl
@[simp] theorem setCtx_mtus (s : State) (i : Nat) (c : Ctx) : (s.setCtx i c).mtus = s.mtus := rfl
@[simp] theorem setCtx_str (s : State) (i : Nat) (c : Ctx) : (s.setCtx i c).str = s.str := rfl
@[simp] theorem setCtx_xlt (s : State) (i : Nat) (c : Ctx) : (s.setCtx i c).xlt = s.xlt := rfl
@[simp] theorem setCtx_held (s : State) (i : Nat) (c : Ctx) : (s.setCtx i c).held = s.held := rfl
@[simp] theorem setCtx_hbm (s : State) (i : Nat) (c : Ctx) : (s.setCtx i c).hbm = s.hbm := rfl
@[simp] theorem setCtx_coh (s : State) (i : Nat) (c : Ctx) : (s.setCtx i c).coh = s.coh := rfl
@[simp] theorem setCtx_core (s : State) (i : Nat) (c : Ctx) : (s.setCtx i c).core = s.core := rfl
@[simp] theorem setCtx_host (s : State) (i : Nat) (c : Ctx) : (s.setCtx i c).host = s.host := rfl
@[simp] theorem setCtx_lnk (s : State) (i : Nat) (c : Ctx) : (s.setCtx i c).lnk = s.lnk := rfl
@[simp] theorem setCtx_mir (s : State) (i : Nat) (c : Ctx) : (s.setCtx i c).mir = s.mir := rfl
@[simp] theorem setCtx_pwr (s : State) (i : Nat) (c : Ctx) : (s.setCtx i c).pwr = s.pwr := rfl
@[simp] theorem setCtx_pld (s : State) (i : Nat) (c : Ctx) : (s.setCtx i c).pld = s.pld := rfl
@[simp] theorem setCtx_sec (s : State) (i : Nat) (c : Ctx) : (s.setCtx i c).sec = s.sec := rfl
@[simp] theorem setCtx_err (s : State) (i : Nat) (c : Ctx) : (s.setCtx i c).err = s.err := rfl
@[simp] theorem setCtx_boot (s : State) (i : Nat) (c : Ctx) : (s.setCtx i c).boot = s.boot := rfl

@[simp] theorem setCell_pending (s : State) (i : Nat) (c : Cell) : (s.setCell i c).pending = s.pending := rfl
@[simp] theorem setCell_out (s : State) (i : Nat) (c : Cell) : (s.setCell i c).out = s.out := rfl
@[simp] theorem setCell_free (s : State) (i : Nat) (c : Cell) : (s.setCell i c).free = s.free := rfl
@[simp] theorem setCell_regs (s : State) (i : Nat) (c : Cell) : (s.setCell i c).regs = s.regs := rfl
@[simp] theorem setCell_latch (s : State) (i : Nat) (c : Cell) : (s.setCell i c).latch = s.latch := rfl
@[simp] theorem setCell_heldLo (s : State) (i : Nat) (c : Cell) : (s.setCell i c).heldLo = s.heldLo := rfl
@[simp] theorem setCell_cic (s : State) (i : Nat) (c : Cell) : (s.setCell i c).cic = s.cic := rfl
@[simp] theorem setCell_mem (s : State) (i : Nat) (c : Cell) : (s.setCell i c).mem = s.mem := rfl
@[simp] theorem setCell_poison (s : State) (i : Nat) (c : Cell) : (s.setCell i c).poison = s.poison := rfl
@[simp] theorem setCell_keyTag (s : State) (i : Nat) (c : Cell) : (s.setCell i c).keyTag = s.keyTag := rfl
@[simp] theorem setCell_ctxs (s : State) (i : Nat) (c : Cell) : (s.setCell i c).ctxs = s.ctxs := rfl
@[simp] theorem setCell_mtus (s : State) (i : Nat) (c : Cell) : (s.setCell i c).mtus = s.mtus := rfl
@[simp] theorem setCell_str (s : State) (i : Nat) (c : Cell) : (s.setCell i c).str = s.str := rfl
@[simp] theorem setCell_xlt (s : State) (i : Nat) (c : Cell) : (s.setCell i c).xlt = s.xlt := rfl
@[simp] theorem setCell_held (s : State) (i : Nat) (c : Cell) : (s.setCell i c).held = s.held := rfl
@[simp] theorem setCell_hbm (s : State) (i : Nat) (c : Cell) : (s.setCell i c).hbm = s.hbm := rfl
@[simp] theorem setCell_coh (s : State) (i : Nat) (c : Cell) : (s.setCell i c).coh = s.coh := rfl
@[simp] theorem setCell_core (s : State) (i : Nat) (c : Cell) : (s.setCell i c).core = s.core := rfl
@[simp] theorem setCell_host (s : State) (i : Nat) (c : Cell) : (s.setCell i c).host = s.host := rfl
@[simp] theorem setCell_lnk (s : State) (i : Nat) (c : Cell) : (s.setCell i c).lnk = s.lnk := rfl
@[simp] theorem setCell_mir (s : State) (i : Nat) (c : Cell) : (s.setCell i c).mir = s.mir := rfl
@[simp] theorem setCell_pwr (s : State) (i : Nat) (c : Cell) : (s.setCell i c).pwr = s.pwr := rfl
@[simp] theorem setCell_pld (s : State) (i : Nat) (c : Cell) : (s.setCell i c).pld = s.pld := rfl
@[simp] theorem setCell_sec (s : State) (i : Nat) (c : Cell) : (s.setCell i c).sec = s.sec := rfl
@[simp] theorem setCell_err (s : State) (i : Nat) (c : Cell) : (s.setCell i c).err = s.err := rfl
@[simp] theorem setCell_boot (s : State) (i : Nat) (c : Cell) : (s.setCell i c).boot = s.boot := rfl

@[simp] theorem setMtu_pending (s : State) (i : Nat) (c : MatchUnitState) : (s.setMtu i c).pending = s.pending := rfl
@[simp] theorem setMtu_out (s : State) (i : Nat) (c : MatchUnitState) : (s.setMtu i c).out = s.out := rfl
@[simp] theorem setMtu_free (s : State) (i : Nat) (c : MatchUnitState) : (s.setMtu i c).free = s.free := rfl
@[simp] theorem setMtu_regs (s : State) (i : Nat) (c : MatchUnitState) : (s.setMtu i c).regs = s.regs := rfl
@[simp] theorem setMtu_latch (s : State) (i : Nat) (c : MatchUnitState) : (s.setMtu i c).latch = s.latch := rfl
@[simp] theorem setMtu_heldLo (s : State) (i : Nat) (c : MatchUnitState) : (s.setMtu i c).heldLo = s.heldLo := rfl
@[simp] theorem setMtu_cic (s : State) (i : Nat) (c : MatchUnitState) : (s.setMtu i c).cic = s.cic := rfl
@[simp] theorem setMtu_mem (s : State) (i : Nat) (c : MatchUnitState) : (s.setMtu i c).mem = s.mem := rfl
@[simp] theorem setMtu_poison (s : State) (i : Nat) (c : MatchUnitState) : (s.setMtu i c).poison = s.poison := rfl
@[simp] theorem setMtu_keyTag (s : State) (i : Nat) (c : MatchUnitState) : (s.setMtu i c).keyTag = s.keyTag := rfl
@[simp] theorem setMtu_ctxs (s : State) (i : Nat) (c : MatchUnitState) : (s.setMtu i c).ctxs = s.ctxs := rfl
@[simp] theorem setMtu_cells (s : State) (i : Nat) (c : MatchUnitState) : (s.setMtu i c).cells = s.cells := rfl
@[simp] theorem setMtu_str (s : State) (i : Nat) (c : MatchUnitState) : (s.setMtu i c).str = s.str := rfl
@[simp] theorem setMtu_xlt (s : State) (i : Nat) (c : MatchUnitState) : (s.setMtu i c).xlt = s.xlt := rfl
@[simp] theorem setMtu_held (s : State) (i : Nat) (c : MatchUnitState) : (s.setMtu i c).held = s.held := rfl
@[simp] theorem setMtu_hbm (s : State) (i : Nat) (c : MatchUnitState) : (s.setMtu i c).hbm = s.hbm := rfl
@[simp] theorem setMtu_coh (s : State) (i : Nat) (c : MatchUnitState) : (s.setMtu i c).coh = s.coh := rfl
@[simp] theorem setMtu_core (s : State) (i : Nat) (c : MatchUnitState) : (s.setMtu i c).core = s.core := rfl
@[simp] theorem setMtu_host (s : State) (i : Nat) (c : MatchUnitState) : (s.setMtu i c).host = s.host := rfl
@[simp] theorem setMtu_lnk (s : State) (i : Nat) (c : MatchUnitState) : (s.setMtu i c).lnk = s.lnk := rfl
@[simp] theorem setMtu_mir (s : State) (i : Nat) (c : MatchUnitState) : (s.setMtu i c).mir = s.mir := rfl
@[simp] theorem setMtu_pwr (s : State) (i : Nat) (c : MatchUnitState) : (s.setMtu i c).pwr = s.pwr := rfl
@[simp] theorem setMtu_pld (s : State) (i : Nat) (c : MatchUnitState) : (s.setMtu i c).pld = s.pld := rfl
@[simp] theorem setMtu_sec (s : State) (i : Nat) (c : MatchUnitState) : (s.setMtu i c).sec = s.sec := rfl
@[simp] theorem setMtu_err (s : State) (i : Nat) (c : MatchUnitState) : (s.setMtu i c).err = s.err := rfl
@[simp] theorem setMtu_boot (s : State) (i : Nat) (c : MatchUnitState) : (s.setMtu i c).boot = s.boot := rfl

@[simp] theorem setStream_pending (s : State) (i : Nat) (c : Stream) : (s.setStream i c).pending = s.pending := rfl
@[simp] theorem setStream_out (s : State) (i : Nat) (c : Stream) : (s.setStream i c).out = s.out := rfl
@[simp] theorem setStream_free (s : State) (i : Nat) (c : Stream) : (s.setStream i c).free = s.free := rfl
@[simp] theorem setStream_regs (s : State) (i : Nat) (c : Stream) : (s.setStream i c).regs = s.regs := rfl
@[simp] theorem setStream_latch (s : State) (i : Nat) (c : Stream) : (s.setStream i c).latch = s.latch := rfl
@[simp] theorem setStream_heldLo (s : State) (i : Nat) (c : Stream) : (s.setStream i c).heldLo = s.heldLo := rfl
@[simp] theorem setStream_cic (s : State) (i : Nat) (c : Stream) : (s.setStream i c).cic = s.cic := rfl
@[simp] theorem setStream_mem (s : State) (i : Nat) (c : Stream) : (s.setStream i c).mem = s.mem := rfl
@[simp] theorem setStream_poison (s : State) (i : Nat) (c : Stream) : (s.setStream i c).poison = s.poison := rfl
@[simp] theorem setStream_keyTag (s : State) (i : Nat) (c : Stream) : (s.setStream i c).keyTag = s.keyTag := rfl
@[simp] theorem setStream_ctxs (s : State) (i : Nat) (c : Stream) : (s.setStream i c).ctxs = s.ctxs := rfl
@[simp] theorem setStream_cells (s : State) (i : Nat) (c : Stream) : (s.setStream i c).cells = s.cells := rfl
@[simp] theorem setStream_mtus (s : State) (i : Nat) (c : Stream) : (s.setStream i c).mtus = s.mtus := rfl
@[simp] theorem setStream_xlt (s : State) (i : Nat) (c : Stream) : (s.setStream i c).xlt = s.xlt := rfl
@[simp] theorem setStream_held (s : State) (i : Nat) (c : Stream) : (s.setStream i c).held = s.held := rfl
@[simp] theorem setStream_hbm (s : State) (i : Nat) (c : Stream) : (s.setStream i c).hbm = s.hbm := rfl
@[simp] theorem setStream_coh (s : State) (i : Nat) (c : Stream) : (s.setStream i c).coh = s.coh := rfl
@[simp] theorem setStream_core (s : State) (i : Nat) (c : Stream) : (s.setStream i c).core = s.core := rfl
@[simp] theorem setStream_host (s : State) (i : Nat) (c : Stream) : (s.setStream i c).host = s.host := rfl
@[simp] theorem setStream_lnk (s : State) (i : Nat) (c : Stream) : (s.setStream i c).lnk = s.lnk := rfl
@[simp] theorem setStream_mir (s : State) (i : Nat) (c : Stream) : (s.setStream i c).mir = s.mir := rfl
@[simp] theorem setStream_pwr (s : State) (i : Nat) (c : Stream) : (s.setStream i c).pwr = s.pwr := rfl
@[simp] theorem setStream_pld (s : State) (i : Nat) (c : Stream) : (s.setStream i c).pld = s.pld := rfl
@[simp] theorem setStream_sec (s : State) (i : Nat) (c : Stream) : (s.setStream i c).sec = s.sec := rfl
@[simp] theorem setStream_err (s : State) (i : Nat) (c : Stream) : (s.setStream i c).err = s.err := rfl
@[simp] theorem setStream_boot (s : State) (i : Nat) (c : Stream) : (s.setStream i c).boot = s.boot := rfl

@[simp] theorem setChan_pending (s : State) (i : Nat) (c : Chan) : (s.setChan i c).pending = s.pending := rfl
@[simp] theorem setChan_out (s : State) (i : Nat) (c : Chan) : (s.setChan i c).out = s.out := rfl
@[simp] theorem setChan_free (s : State) (i : Nat) (c : Chan) : (s.setChan i c).free = s.free := rfl
@[simp] theorem setChan_regs (s : State) (i : Nat) (c : Chan) : (s.setChan i c).regs = s.regs := rfl
@[simp] theorem setChan_latch (s : State) (i : Nat) (c : Chan) : (s.setChan i c).latch = s.latch := rfl
@[simp] theorem setChan_heldLo (s : State) (i : Nat) (c : Chan) : (s.setChan i c).heldLo = s.heldLo := rfl
@[simp] theorem setChan_cic (s : State) (i : Nat) (c : Chan) : (s.setChan i c).cic = s.cic := rfl
@[simp] theorem setChan_mem (s : State) (i : Nat) (c : Chan) : (s.setChan i c).mem = s.mem := rfl
@[simp] theorem setChan_poison (s : State) (i : Nat) (c : Chan) : (s.setChan i c).poison = s.poison := rfl
@[simp] theorem setChan_keyTag (s : State) (i : Nat) (c : Chan) : (s.setChan i c).keyTag = s.keyTag := rfl
@[simp] theorem setChan_ctxs (s : State) (i : Nat) (c : Chan) : (s.setChan i c).ctxs = s.ctxs := rfl
@[simp] theorem setChan_cells (s : State) (i : Nat) (c : Chan) : (s.setChan i c).cells = s.cells := rfl
@[simp] theorem setChan_mtus (s : State) (i : Nat) (c : Chan) : (s.setChan i c).mtus = s.mtus := rfl
@[simp] theorem setChan_str (s : State) (i : Nat) (c : Chan) : (s.setChan i c).str = s.str := rfl
@[simp] theorem setChan_xlt (s : State) (i : Nat) (c : Chan) : (s.setChan i c).xlt = s.xlt := rfl
@[simp] theorem setChan_held (s : State) (i : Nat) (c : Chan) : (s.setChan i c).held = s.held := rfl
@[simp] theorem setChan_coh (s : State) (i : Nat) (c : Chan) : (s.setChan i c).coh = s.coh := rfl
@[simp] theorem setChan_core (s : State) (i : Nat) (c : Chan) : (s.setChan i c).core = s.core := rfl
@[simp] theorem setChan_host (s : State) (i : Nat) (c : Chan) : (s.setChan i c).host = s.host := rfl
@[simp] theorem setChan_lnk (s : State) (i : Nat) (c : Chan) : (s.setChan i c).lnk = s.lnk := rfl
@[simp] theorem setChan_mir (s : State) (i : Nat) (c : Chan) : (s.setChan i c).mir = s.mir := rfl
@[simp] theorem setChan_pwr (s : State) (i : Nat) (c : Chan) : (s.setChan i c).pwr = s.pwr := rfl
@[simp] theorem setChan_pld (s : State) (i : Nat) (c : Chan) : (s.setChan i c).pld = s.pld := rfl
@[simp] theorem setChan_sec (s : State) (i : Nat) (c : Chan) : (s.setChan i c).sec = s.sec := rfl
@[simp] theorem setChan_err (s : State) (i : Nat) (c : Chan) : (s.setChan i c).err = s.err := rfl
@[simp] theorem setChan_boot (s : State) (i : Nat) (c : Chan) : (s.setChan i c).boot = s.boot := rfl

@[simp] theorem setHart_pending (s : State) (i : Nat) (c : Hart) : (s.setHart i c).pending = s.pending := rfl
@[simp] theorem setHart_out (s : State) (i : Nat) (c : Hart) : (s.setHart i c).out = s.out := rfl
@[simp] theorem setHart_free (s : State) (i : Nat) (c : Hart) : (s.setHart i c).free = s.free := rfl
@[simp] theorem setHart_regs (s : State) (i : Nat) (c : Hart) : (s.setHart i c).regs = s.regs := rfl
@[simp] theorem setHart_latch (s : State) (i : Nat) (c : Hart) : (s.setHart i c).latch = s.latch := rfl
@[simp] theorem setHart_heldLo (s : State) (i : Nat) (c : Hart) : (s.setHart i c).heldLo = s.heldLo := rfl
@[simp] theorem setHart_cic (s : State) (i : Nat) (c : Hart) : (s.setHart i c).cic = s.cic := rfl
@[simp] theorem setHart_mem (s : State) (i : Nat) (c : Hart) : (s.setHart i c).mem = s.mem := rfl
@[simp] theorem setHart_poison (s : State) (i : Nat) (c : Hart) : (s.setHart i c).poison = s.poison := rfl
@[simp] theorem setHart_keyTag (s : State) (i : Nat) (c : Hart) : (s.setHart i c).keyTag = s.keyTag := rfl
@[simp] theorem setHart_ctxs (s : State) (i : Nat) (c : Hart) : (s.setHart i c).ctxs = s.ctxs := rfl
@[simp] theorem setHart_cells (s : State) (i : Nat) (c : Hart) : (s.setHart i c).cells = s.cells := rfl
@[simp] theorem setHart_mtus (s : State) (i : Nat) (c : Hart) : (s.setHart i c).mtus = s.mtus := rfl
@[simp] theorem setHart_str (s : State) (i : Nat) (c : Hart) : (s.setHart i c).str = s.str := rfl
@[simp] theorem setHart_xlt (s : State) (i : Nat) (c : Hart) : (s.setHart i c).xlt = s.xlt := rfl
@[simp] theorem setHart_held (s : State) (i : Nat) (c : Hart) : (s.setHart i c).held = s.held := rfl
@[simp] theorem setHart_hbm (s : State) (i : Nat) (c : Hart) : (s.setHart i c).hbm = s.hbm := rfl
@[simp] theorem setHart_coh (s : State) (i : Nat) (c : Hart) : (s.setHart i c).coh = s.coh := rfl
@[simp] theorem setHart_host (s : State) (i : Nat) (c : Hart) : (s.setHart i c).host = s.host := rfl
@[simp] theorem setHart_lnk (s : State) (i : Nat) (c : Hart) : (s.setHart i c).lnk = s.lnk := rfl
@[simp] theorem setHart_mir (s : State) (i : Nat) (c : Hart) : (s.setHart i c).mir = s.mir := rfl
@[simp] theorem setHart_pwr (s : State) (i : Nat) (c : Hart) : (s.setHart i c).pwr = s.pwr := rfl
@[simp] theorem setHart_pld (s : State) (i : Nat) (c : Hart) : (s.setHart i c).pld = s.pld := rfl
@[simp] theorem setHart_sec (s : State) (i : Nat) (c : Hart) : (s.setHart i c).sec = s.sec := rfl
@[simp] theorem setHart_err (s : State) (i : Nat) (c : Hart) : (s.setHart i c).err = s.err := rfl
@[simp] theorem setHart_boot (s : State) (i : Nat) (c : Hart) : (s.setHart i c).boot = s.boot := rfl

@[simp] theorem setPort_pending (s : State) (i : Nat) (c : Port) : (s.setPort i c).pending = s.pending := rfl
@[simp] theorem setPort_out (s : State) (i : Nat) (c : Port) : (s.setPort i c).out = s.out := rfl
@[simp] theorem setPort_free (s : State) (i : Nat) (c : Port) : (s.setPort i c).free = s.free := rfl
@[simp] theorem setPort_regs (s : State) (i : Nat) (c : Port) : (s.setPort i c).regs = s.regs := rfl
@[simp] theorem setPort_latch (s : State) (i : Nat) (c : Port) : (s.setPort i c).latch = s.latch := rfl
@[simp] theorem setPort_heldLo (s : State) (i : Nat) (c : Port) : (s.setPort i c).heldLo = s.heldLo := rfl
@[simp] theorem setPort_cic (s : State) (i : Nat) (c : Port) : (s.setPort i c).cic = s.cic := rfl
@[simp] theorem setPort_mem (s : State) (i : Nat) (c : Port) : (s.setPort i c).mem = s.mem := rfl
@[simp] theorem setPort_poison (s : State) (i : Nat) (c : Port) : (s.setPort i c).poison = s.poison := rfl
@[simp] theorem setPort_keyTag (s : State) (i : Nat) (c : Port) : (s.setPort i c).keyTag = s.keyTag := rfl
@[simp] theorem setPort_ctxs (s : State) (i : Nat) (c : Port) : (s.setPort i c).ctxs = s.ctxs := rfl
@[simp] theorem setPort_cells (s : State) (i : Nat) (c : Port) : (s.setPort i c).cells = s.cells := rfl
@[simp] theorem setPort_mtus (s : State) (i : Nat) (c : Port) : (s.setPort i c).mtus = s.mtus := rfl
@[simp] theorem setPort_str (s : State) (i : Nat) (c : Port) : (s.setPort i c).str = s.str := rfl
@[simp] theorem setPort_xlt (s : State) (i : Nat) (c : Port) : (s.setPort i c).xlt = s.xlt := rfl
@[simp] theorem setPort_held (s : State) (i : Nat) (c : Port) : (s.setPort i c).held = s.held := rfl
@[simp] theorem setPort_hbm (s : State) (i : Nat) (c : Port) : (s.setPort i c).hbm = s.hbm := rfl
@[simp] theorem setPort_coh (s : State) (i : Nat) (c : Port) : (s.setPort i c).coh = s.coh := rfl
@[simp] theorem setPort_core (s : State) (i : Nat) (c : Port) : (s.setPort i c).core = s.core := rfl
@[simp] theorem setPort_lnk (s : State) (i : Nat) (c : Port) : (s.setPort i c).lnk = s.lnk := rfl
@[simp] theorem setPort_mir (s : State) (i : Nat) (c : Port) : (s.setPort i c).mir = s.mir := rfl
@[simp] theorem setPort_pwr (s : State) (i : Nat) (c : Port) : (s.setPort i c).pwr = s.pwr := rfl
@[simp] theorem setPort_pld (s : State) (i : Nat) (c : Port) : (s.setPort i c).pld = s.pld := rfl
@[simp] theorem setPort_sec (s : State) (i : Nat) (c : Port) : (s.setPort i c).sec = s.sec := rfl
@[simp] theorem setPort_err (s : State) (i : Nat) (c : Port) : (s.setPort i c).err = s.err := rfl
@[simp] theorem setPort_boot (s : State) (i : Nat) (c : Port) : (s.setPort i c).boot = s.boot := rfl

@[simp] theorem setLink_pending (s : State) (i : Nat) (c : Link) : (s.setLink i c).pending = s.pending := rfl
@[simp] theorem setLink_out (s : State) (i : Nat) (c : Link) : (s.setLink i c).out = s.out := rfl
@[simp] theorem setLink_free (s : State) (i : Nat) (c : Link) : (s.setLink i c).free = s.free := rfl
@[simp] theorem setLink_regs (s : State) (i : Nat) (c : Link) : (s.setLink i c).regs = s.regs := rfl
@[simp] theorem setLink_latch (s : State) (i : Nat) (c : Link) : (s.setLink i c).latch = s.latch := rfl
@[simp] theorem setLink_heldLo (s : State) (i : Nat) (c : Link) : (s.setLink i c).heldLo = s.heldLo := rfl
@[simp] theorem setLink_cic (s : State) (i : Nat) (c : Link) : (s.setLink i c).cic = s.cic := rfl
@[simp] theorem setLink_mem (s : State) (i : Nat) (c : Link) : (s.setLink i c).mem = s.mem := rfl
@[simp] theorem setLink_poison (s : State) (i : Nat) (c : Link) : (s.setLink i c).poison = s.poison := rfl
@[simp] theorem setLink_keyTag (s : State) (i : Nat) (c : Link) : (s.setLink i c).keyTag = s.keyTag := rfl
@[simp] theorem setLink_ctxs (s : State) (i : Nat) (c : Link) : (s.setLink i c).ctxs = s.ctxs := rfl
@[simp] theorem setLink_cells (s : State) (i : Nat) (c : Link) : (s.setLink i c).cells = s.cells := rfl
@[simp] theorem setLink_mtus (s : State) (i : Nat) (c : Link) : (s.setLink i c).mtus = s.mtus := rfl
@[simp] theorem setLink_str (s : State) (i : Nat) (c : Link) : (s.setLink i c).str = s.str := rfl
@[simp] theorem setLink_xlt (s : State) (i : Nat) (c : Link) : (s.setLink i c).xlt = s.xlt := rfl
@[simp] theorem setLink_held (s : State) (i : Nat) (c : Link) : (s.setLink i c).held = s.held := rfl
@[simp] theorem setLink_hbm (s : State) (i : Nat) (c : Link) : (s.setLink i c).hbm = s.hbm := rfl
@[simp] theorem setLink_coh (s : State) (i : Nat) (c : Link) : (s.setLink i c).coh = s.coh := rfl
@[simp] theorem setLink_core (s : State) (i : Nat) (c : Link) : (s.setLink i c).core = s.core := rfl
@[simp] theorem setLink_host (s : State) (i : Nat) (c : Link) : (s.setLink i c).host = s.host := rfl
@[simp] theorem setLink_mir (s : State) (i : Nat) (c : Link) : (s.setLink i c).mir = s.mir := rfl
@[simp] theorem setLink_pwr (s : State) (i : Nat) (c : Link) : (s.setLink i c).pwr = s.pwr := rfl
@[simp] theorem setLink_pld (s : State) (i : Nat) (c : Link) : (s.setLink i c).pld = s.pld := rfl
@[simp] theorem setLink_sec (s : State) (i : Nat) (c : Link) : (s.setLink i c).sec = s.sec := rfl
@[simp] theorem setLink_err (s : State) (i : Nat) (c : Link) : (s.setLink i c).err = s.err := rfl
@[simp] theorem setLink_boot (s : State) (i : Nat) (c : Link) : (s.setLink i c).boot = s.boot := rfl

@[simp] theorem setDie_pending (s : State) (i : Nat) (c : DiePower) : (s.setDie i c).pending = s.pending := rfl
@[simp] theorem setDie_out (s : State) (i : Nat) (c : DiePower) : (s.setDie i c).out = s.out := rfl
@[simp] theorem setDie_free (s : State) (i : Nat) (c : DiePower) : (s.setDie i c).free = s.free := rfl
@[simp] theorem setDie_regs (s : State) (i : Nat) (c : DiePower) : (s.setDie i c).regs = s.regs := rfl
@[simp] theorem setDie_latch (s : State) (i : Nat) (c : DiePower) : (s.setDie i c).latch = s.latch := rfl
@[simp] theorem setDie_heldLo (s : State) (i : Nat) (c : DiePower) : (s.setDie i c).heldLo = s.heldLo := rfl
@[simp] theorem setDie_cic (s : State) (i : Nat) (c : DiePower) : (s.setDie i c).cic = s.cic := rfl
@[simp] theorem setDie_mem (s : State) (i : Nat) (c : DiePower) : (s.setDie i c).mem = s.mem := rfl
@[simp] theorem setDie_poison (s : State) (i : Nat) (c : DiePower) : (s.setDie i c).poison = s.poison := rfl
@[simp] theorem setDie_keyTag (s : State) (i : Nat) (c : DiePower) : (s.setDie i c).keyTag = s.keyTag := rfl
@[simp] theorem setDie_ctxs (s : State) (i : Nat) (c : DiePower) : (s.setDie i c).ctxs = s.ctxs := rfl
@[simp] theorem setDie_cells (s : State) (i : Nat) (c : DiePower) : (s.setDie i c).cells = s.cells := rfl
@[simp] theorem setDie_mtus (s : State) (i : Nat) (c : DiePower) : (s.setDie i c).mtus = s.mtus := rfl
@[simp] theorem setDie_str (s : State) (i : Nat) (c : DiePower) : (s.setDie i c).str = s.str := rfl
@[simp] theorem setDie_xlt (s : State) (i : Nat) (c : DiePower) : (s.setDie i c).xlt = s.xlt := rfl
@[simp] theorem setDie_held (s : State) (i : Nat) (c : DiePower) : (s.setDie i c).held = s.held := rfl
@[simp] theorem setDie_hbm (s : State) (i : Nat) (c : DiePower) : (s.setDie i c).hbm = s.hbm := rfl
@[simp] theorem setDie_coh (s : State) (i : Nat) (c : DiePower) : (s.setDie i c).coh = s.coh := rfl
@[simp] theorem setDie_core (s : State) (i : Nat) (c : DiePower) : (s.setDie i c).core = s.core := rfl
@[simp] theorem setDie_host (s : State) (i : Nat) (c : DiePower) : (s.setDie i c).host = s.host := rfl
@[simp] theorem setDie_lnk (s : State) (i : Nat) (c : DiePower) : (s.setDie i c).lnk = s.lnk := rfl
@[simp] theorem setDie_mir (s : State) (i : Nat) (c : DiePower) : (s.setDie i c).mir = s.mir := rfl
@[simp] theorem setDie_pld (s : State) (i : Nat) (c : DiePower) : (s.setDie i c).pld = s.pld := rfl
@[simp] theorem setDie_sec (s : State) (i : Nat) (c : DiePower) : (s.setDie i c).sec = s.sec := rfl
@[simp] theorem setDie_err (s : State) (i : Nat) (c : DiePower) : (s.setDie i c).err = s.err := rfl
@[simp] theorem setDie_boot (s : State) (i : Nat) (c : DiePower) : (s.setDie i c).boot = s.boot := rfl

@[simp] theorem setSlot_pending (s : State) (i : Nat) (c : KeySlot) : (s.setSlot i c).pending = s.pending := rfl
@[simp] theorem setSlot_out (s : State) (i : Nat) (c : KeySlot) : (s.setSlot i c).out = s.out := rfl
@[simp] theorem setSlot_free (s : State) (i : Nat) (c : KeySlot) : (s.setSlot i c).free = s.free := rfl
@[simp] theorem setSlot_regs (s : State) (i : Nat) (c : KeySlot) : (s.setSlot i c).regs = s.regs := rfl
@[simp] theorem setSlot_latch (s : State) (i : Nat) (c : KeySlot) : (s.setSlot i c).latch = s.latch := rfl
@[simp] theorem setSlot_heldLo (s : State) (i : Nat) (c : KeySlot) : (s.setSlot i c).heldLo = s.heldLo := rfl
@[simp] theorem setSlot_cic (s : State) (i : Nat) (c : KeySlot) : (s.setSlot i c).cic = s.cic := rfl
@[simp] theorem setSlot_mem (s : State) (i : Nat) (c : KeySlot) : (s.setSlot i c).mem = s.mem := rfl
@[simp] theorem setSlot_poison (s : State) (i : Nat) (c : KeySlot) : (s.setSlot i c).poison = s.poison := rfl
@[simp] theorem setSlot_keyTag (s : State) (i : Nat) (c : KeySlot) : (s.setSlot i c).keyTag = s.keyTag := rfl
@[simp] theorem setSlot_ctxs (s : State) (i : Nat) (c : KeySlot) : (s.setSlot i c).ctxs = s.ctxs := rfl
@[simp] theorem setSlot_cells (s : State) (i : Nat) (c : KeySlot) : (s.setSlot i c).cells = s.cells := rfl
@[simp] theorem setSlot_mtus (s : State) (i : Nat) (c : KeySlot) : (s.setSlot i c).mtus = s.mtus := rfl
@[simp] theorem setSlot_str (s : State) (i : Nat) (c : KeySlot) : (s.setSlot i c).str = s.str := rfl
@[simp] theorem setSlot_xlt (s : State) (i : Nat) (c : KeySlot) : (s.setSlot i c).xlt = s.xlt := rfl
@[simp] theorem setSlot_held (s : State) (i : Nat) (c : KeySlot) : (s.setSlot i c).held = s.held := rfl
@[simp] theorem setSlot_hbm (s : State) (i : Nat) (c : KeySlot) : (s.setSlot i c).hbm = s.hbm := rfl
@[simp] theorem setSlot_coh (s : State) (i : Nat) (c : KeySlot) : (s.setSlot i c).coh = s.coh := rfl
@[simp] theorem setSlot_core (s : State) (i : Nat) (c : KeySlot) : (s.setSlot i c).core = s.core := rfl
@[simp] theorem setSlot_host (s : State) (i : Nat) (c : KeySlot) : (s.setSlot i c).host = s.host := rfl
@[simp] theorem setSlot_lnk (s : State) (i : Nat) (c : KeySlot) : (s.setSlot i c).lnk = s.lnk := rfl
@[simp] theorem setSlot_mir (s : State) (i : Nat) (c : KeySlot) : (s.setSlot i c).mir = s.mir := rfl
@[simp] theorem setSlot_pwr (s : State) (i : Nat) (c : KeySlot) : (s.setSlot i c).pwr = s.pwr := rfl
@[simp] theorem setSlot_pld (s : State) (i : Nat) (c : KeySlot) : (s.setSlot i c).pld = s.pld := rfl
@[simp] theorem setSlot_err (s : State) (i : Nat) (c : KeySlot) : (s.setSlot i c).err = s.err := rfl
@[simp] theorem setSlot_boot (s : State) (i : Nat) (c : KeySlot) : (s.setSlot i c).boot = s.boot := rfl

@[simp] theorem setIface_pending (s : State) (i : Nat) (c : Iface) : (s.setIface i c).pending = s.pending := rfl
@[simp] theorem setIface_out (s : State) (i : Nat) (c : Iface) : (s.setIface i c).out = s.out := rfl
@[simp] theorem setIface_free (s : State) (i : Nat) (c : Iface) : (s.setIface i c).free = s.free := rfl
@[simp] theorem setIface_regs (s : State) (i : Nat) (c : Iface) : (s.setIface i c).regs = s.regs := rfl
@[simp] theorem setIface_latch (s : State) (i : Nat) (c : Iface) : (s.setIface i c).latch = s.latch := rfl
@[simp] theorem setIface_heldLo (s : State) (i : Nat) (c : Iface) : (s.setIface i c).heldLo = s.heldLo := rfl
@[simp] theorem setIface_cic (s : State) (i : Nat) (c : Iface) : (s.setIface i c).cic = s.cic := rfl
@[simp] theorem setIface_mem (s : State) (i : Nat) (c : Iface) : (s.setIface i c).mem = s.mem := rfl
@[simp] theorem setIface_poison (s : State) (i : Nat) (c : Iface) : (s.setIface i c).poison = s.poison := rfl
@[simp] theorem setIface_keyTag (s : State) (i : Nat) (c : Iface) : (s.setIface i c).keyTag = s.keyTag := rfl
@[simp] theorem setIface_ctxs (s : State) (i : Nat) (c : Iface) : (s.setIface i c).ctxs = s.ctxs := rfl
@[simp] theorem setIface_cells (s : State) (i : Nat) (c : Iface) : (s.setIface i c).cells = s.cells := rfl
@[simp] theorem setIface_mtus (s : State) (i : Nat) (c : Iface) : (s.setIface i c).mtus = s.mtus := rfl
@[simp] theorem setIface_str (s : State) (i : Nat) (c : Iface) : (s.setIface i c).str = s.str := rfl
@[simp] theorem setIface_xlt (s : State) (i : Nat) (c : Iface) : (s.setIface i c).xlt = s.xlt := rfl
@[simp] theorem setIface_held (s : State) (i : Nat) (c : Iface) : (s.setIface i c).held = s.held := rfl
@[simp] theorem setIface_hbm (s : State) (i : Nat) (c : Iface) : (s.setIface i c).hbm = s.hbm := rfl
@[simp] theorem setIface_coh (s : State) (i : Nat) (c : Iface) : (s.setIface i c).coh = s.coh := rfl
@[simp] theorem setIface_core (s : State) (i : Nat) (c : Iface) : (s.setIface i c).core = s.core := rfl
@[simp] theorem setIface_host (s : State) (i : Nat) (c : Iface) : (s.setIface i c).host = s.host := rfl
@[simp] theorem setIface_lnk (s : State) (i : Nat) (c : Iface) : (s.setIface i c).lnk = s.lnk := rfl
@[simp] theorem setIface_mir (s : State) (i : Nat) (c : Iface) : (s.setIface i c).mir = s.mir := rfl
@[simp] theorem setIface_pwr (s : State) (i : Nat) (c : Iface) : (s.setIface i c).pwr = s.pwr := rfl
@[simp] theorem setIface_pld (s : State) (i : Nat) (c : Iface) : (s.setIface i c).pld = s.pld := rfl
@[simp] theorem setIface_sec (s : State) (i : Nat) (c : Iface) : (s.setIface i c).sec = s.sec := rfl
@[simp] theorem setIface_err (s : State) (i : Nat) (c : Iface) : (s.setIface i c).err = s.err := rfl

@[simp] theorem emit_pending (s : State) (o : Out) : (s.emit o).pending = s.pending := rfl
@[simp] theorem emit_free (s : State) (o : Out) : (s.emit o).free = s.free := rfl
@[simp] theorem emit_regs (s : State) (o : Out) : (s.emit o).regs = s.regs := rfl
@[simp] theorem emit_latch (s : State) (o : Out) : (s.emit o).latch = s.latch := rfl
@[simp] theorem emit_heldLo (s : State) (o : Out) : (s.emit o).heldLo = s.heldLo := rfl
@[simp] theorem emit_cic (s : State) (o : Out) : (s.emit o).cic = s.cic := rfl
@[simp] theorem emit_mem (s : State) (o : Out) : (s.emit o).mem = s.mem := rfl
@[simp] theorem emit_poison (s : State) (o : Out) : (s.emit o).poison = s.poison := rfl
@[simp] theorem emit_keyTag (s : State) (o : Out) : (s.emit o).keyTag = s.keyTag := rfl
@[simp] theorem emit_ctxs (s : State) (o : Out) : (s.emit o).ctxs = s.ctxs := rfl
@[simp] theorem emit_cells (s : State) (o : Out) : (s.emit o).cells = s.cells := rfl
@[simp] theorem emit_mtus (s : State) (o : Out) : (s.emit o).mtus = s.mtus := rfl
@[simp] theorem emit_str (s : State) (o : Out) : (s.emit o).str = s.str := rfl
@[simp] theorem emit_xlt (s : State) (o : Out) : (s.emit o).xlt = s.xlt := rfl
@[simp] theorem emit_held (s : State) (o : Out) : (s.emit o).held = s.held := rfl
@[simp] theorem emit_hbm (s : State) (o : Out) : (s.emit o).hbm = s.hbm := rfl
@[simp] theorem emit_coh (s : State) (o : Out) : (s.emit o).coh = s.coh := rfl
@[simp] theorem emit_core (s : State) (o : Out) : (s.emit o).core = s.core := rfl
@[simp] theorem emit_host (s : State) (o : Out) : (s.emit o).host = s.host := rfl
@[simp] theorem emit_lnk (s : State) (o : Out) : (s.emit o).lnk = s.lnk := rfl
@[simp] theorem emit_mir (s : State) (o : Out) : (s.emit o).mir = s.mir := rfl
@[simp] theorem emit_pwr (s : State) (o : Out) : (s.emit o).pwr = s.pwr := rfl
@[simp] theorem emit_pld (s : State) (o : Out) : (s.emit o).pld = s.pld := rfl
@[simp] theorem emit_sec (s : State) (o : Out) : (s.emit o).sec = s.sec := rfl
@[simp] theorem emit_err (s : State) (o : Out) : (s.emit o).err = s.err := rfl
@[simp] theorem emit_boot (s : State) (o : Out) : (s.emit o).boot = s.boot := rfl

@[simp] theorem useFree_pending (s : State) : (s.useFree).pending = s.pending := rfl
@[simp] theorem useFree_out (s : State) : (s.useFree).out = s.out := rfl
@[simp] theorem useFree_regs (s : State) : (s.useFree).regs = s.regs := rfl
@[simp] theorem useFree_latch (s : State) : (s.useFree).latch = s.latch := rfl
@[simp] theorem useFree_heldLo (s : State) : (s.useFree).heldLo = s.heldLo := rfl
@[simp] theorem useFree_cic (s : State) : (s.useFree).cic = s.cic := rfl
@[simp] theorem useFree_mem (s : State) : (s.useFree).mem = s.mem := rfl
@[simp] theorem useFree_poison (s : State) : (s.useFree).poison = s.poison := rfl
@[simp] theorem useFree_keyTag (s : State) : (s.useFree).keyTag = s.keyTag := rfl
@[simp] theorem useFree_ctxs (s : State) : (s.useFree).ctxs = s.ctxs := rfl
@[simp] theorem useFree_cells (s : State) : (s.useFree).cells = s.cells := rfl
@[simp] theorem useFree_mtus (s : State) : (s.useFree).mtus = s.mtus := rfl
@[simp] theorem useFree_str (s : State) : (s.useFree).str = s.str := rfl
@[simp] theorem useFree_xlt (s : State) : (s.useFree).xlt = s.xlt := rfl
@[simp] theorem useFree_held (s : State) : (s.useFree).held = s.held := rfl
@[simp] theorem useFree_hbm (s : State) : (s.useFree).hbm = s.hbm := rfl
@[simp] theorem useFree_coh (s : State) : (s.useFree).coh = s.coh := rfl
@[simp] theorem useFree_core (s : State) : (s.useFree).core = s.core := rfl
@[simp] theorem useFree_host (s : State) : (s.useFree).host = s.host := rfl
@[simp] theorem useFree_lnk (s : State) : (s.useFree).lnk = s.lnk := rfl
@[simp] theorem useFree_mir (s : State) : (s.useFree).mir = s.mir := rfl
@[simp] theorem useFree_pwr (s : State) : (s.useFree).pwr = s.pwr := rfl
@[simp] theorem useFree_pld (s : State) : (s.useFree).pld = s.pld := rfl
@[simp] theorem useFree_sec (s : State) : (s.useFree).sec = s.sec := rfl
@[simp] theorem useFree_err (s : State) : (s.useFree).err = s.err := rfl
@[simp] theorem useFree_boot (s : State) : (s.useFree).boot = s.boot := rfl

@[simp] theorem wr_pending (s : State) (i a v : Nat) : (wr s i a v).pending = s.pending := rfl
@[simp] theorem wr_out (s : State) (i a v : Nat) : (wr s i a v).out = s.out := rfl
@[simp] theorem wr_free (s : State) (i a v : Nat) : (wr s i a v).free = s.free := rfl
@[simp] theorem wr_latch (s : State) (i a v : Nat) : (wr s i a v).latch = s.latch := rfl
@[simp] theorem wr_heldLo (s : State) (i a v : Nat) : (wr s i a v).heldLo = s.heldLo := rfl
@[simp] theorem wr_cic (s : State) (i a v : Nat) : (wr s i a v).cic = s.cic := rfl
@[simp] theorem wr_mem (s : State) (i a v : Nat) : (wr s i a v).mem = s.mem := rfl
@[simp] theorem wr_poison (s : State) (i a v : Nat) : (wr s i a v).poison = s.poison := rfl
@[simp] theorem wr_keyTag (s : State) (i a v : Nat) : (wr s i a v).keyTag = s.keyTag := rfl
@[simp] theorem wr_ctxs (s : State) (i a v : Nat) : (wr s i a v).ctxs = s.ctxs := rfl
@[simp] theorem wr_cells (s : State) (i a v : Nat) : (wr s i a v).cells = s.cells := rfl
@[simp] theorem wr_mtus (s : State) (i a v : Nat) : (wr s i a v).mtus = s.mtus := rfl
@[simp] theorem wr_str (s : State) (i a v : Nat) : (wr s i a v).str = s.str := rfl
@[simp] theorem wr_xlt (s : State) (i a v : Nat) : (wr s i a v).xlt = s.xlt := rfl
@[simp] theorem wr_held (s : State) (i a v : Nat) : (wr s i a v).held = s.held := rfl
@[simp] theorem wr_hbm (s : State) (i a v : Nat) : (wr s i a v).hbm = s.hbm := rfl
@[simp] theorem wr_coh (s : State) (i a v : Nat) : (wr s i a v).coh = s.coh := rfl
@[simp] theorem wr_core (s : State) (i a v : Nat) : (wr s i a v).core = s.core := rfl
@[simp] theorem wr_host (s : State) (i a v : Nat) : (wr s i a v).host = s.host := rfl
@[simp] theorem wr_lnk (s : State) (i a v : Nat) : (wr s i a v).lnk = s.lnk := rfl
@[simp] theorem wr_mir (s : State) (i a v : Nat) : (wr s i a v).mir = s.mir := rfl
@[simp] theorem wr_pwr (s : State) (i a v : Nat) : (wr s i a v).pwr = s.pwr := rfl
@[simp] theorem wr_pld (s : State) (i a v : Nat) : (wr s i a v).pld = s.pld := rfl
@[simp] theorem wr_sec (s : State) (i a v : Nat) : (wr s i a v).sec = s.sec := rfl
@[simp] theorem wr_err (s : State) (i a v : Nat) : (wr s i a v).err = s.err := rfl
@[simp] theorem wr_boot (s : State) (i a v : Nat) : (wr s i a v).boot = s.boot := rfl

@[simp] theorem setFld_pending (s : State) (i a hi lo v : Nat) : (setFld s i a hi lo v).pending = s.pending := rfl
@[simp] theorem setFld_out (s : State) (i a hi lo v : Nat) : (setFld s i a hi lo v).out = s.out := rfl
@[simp] theorem setFld_free (s : State) (i a hi lo v : Nat) : (setFld s i a hi lo v).free = s.free := rfl
@[simp] theorem setFld_latch (s : State) (i a hi lo v : Nat) : (setFld s i a hi lo v).latch = s.latch := rfl
@[simp] theorem setFld_heldLo (s : State) (i a hi lo v : Nat) : (setFld s i a hi lo v).heldLo = s.heldLo := rfl
@[simp] theorem setFld_cic (s : State) (i a hi lo v : Nat) : (setFld s i a hi lo v).cic = s.cic := rfl
@[simp] theorem setFld_mem (s : State) (i a hi lo v : Nat) : (setFld s i a hi lo v).mem = s.mem := rfl
@[simp] theorem setFld_poison (s : State) (i a hi lo v : Nat) : (setFld s i a hi lo v).poison = s.poison := rfl
@[simp] theorem setFld_keyTag (s : State) (i a hi lo v : Nat) : (setFld s i a hi lo v).keyTag = s.keyTag := rfl
@[simp] theorem setFld_ctxs (s : State) (i a hi lo v : Nat) : (setFld s i a hi lo v).ctxs = s.ctxs := rfl
@[simp] theorem setFld_cells (s : State) (i a hi lo v : Nat) : (setFld s i a hi lo v).cells = s.cells := rfl
@[simp] theorem setFld_mtus (s : State) (i a hi lo v : Nat) : (setFld s i a hi lo v).mtus = s.mtus := rfl
@[simp] theorem setFld_str (s : State) (i a hi lo v : Nat) : (setFld s i a hi lo v).str = s.str := rfl
@[simp] theorem setFld_xlt (s : State) (i a hi lo v : Nat) : (setFld s i a hi lo v).xlt = s.xlt := rfl
@[simp] theorem setFld_held (s : State) (i a hi lo v : Nat) : (setFld s i a hi lo v).held = s.held := rfl
@[simp] theorem setFld_hbm (s : State) (i a hi lo v : Nat) : (setFld s i a hi lo v).hbm = s.hbm := rfl
@[simp] theorem setFld_coh (s : State) (i a hi lo v : Nat) : (setFld s i a hi lo v).coh = s.coh := rfl
@[simp] theorem setFld_core (s : State) (i a hi lo v : Nat) : (setFld s i a hi lo v).core = s.core := rfl
@[simp] theorem setFld_host (s : State) (i a hi lo v : Nat) : (setFld s i a hi lo v).host = s.host := rfl
@[simp] theorem setFld_lnk (s : State) (i a hi lo v : Nat) : (setFld s i a hi lo v).lnk = s.lnk := rfl
@[simp] theorem setFld_mir (s : State) (i a hi lo v : Nat) : (setFld s i a hi lo v).mir = s.mir := rfl
@[simp] theorem setFld_pwr (s : State) (i a hi lo v : Nat) : (setFld s i a hi lo v).pwr = s.pwr := rfl
@[simp] theorem setFld_pld (s : State) (i a hi lo v : Nat) : (setFld s i a hi lo v).pld = s.pld := rfl
@[simp] theorem setFld_sec (s : State) (i a hi lo v : Nat) : (setFld s i a hi lo v).sec = s.sec := rfl
@[simp] theorem setFld_err (s : State) (i a hi lo v : Nat) : (setFld s i a hi lo v).err = s.err := rfl
@[simp] theorem setFld_boot (s : State) (i a hi lo v : Nat) : (setFld s i a hi lo v).boot = s.boot := rfl

@[simp] theorem wr64_pending (s : State) (i a v : Nat) : (wr64 s i a v).pending = s.pending := rfl
@[simp] theorem wr64_out (s : State) (i a v : Nat) : (wr64 s i a v).out = s.out := rfl
@[simp] theorem wr64_free (s : State) (i a v : Nat) : (wr64 s i a v).free = s.free := rfl
@[simp] theorem wr64_latch (s : State) (i a v : Nat) : (wr64 s i a v).latch = s.latch := rfl
@[simp] theorem wr64_heldLo (s : State) (i a v : Nat) : (wr64 s i a v).heldLo = s.heldLo := rfl
@[simp] theorem wr64_cic (s : State) (i a v : Nat) : (wr64 s i a v).cic = s.cic := rfl
@[simp] theorem wr64_mem (s : State) (i a v : Nat) : (wr64 s i a v).mem = s.mem := rfl
@[simp] theorem wr64_poison (s : State) (i a v : Nat) : (wr64 s i a v).poison = s.poison := rfl
@[simp] theorem wr64_keyTag (s : State) (i a v : Nat) : (wr64 s i a v).keyTag = s.keyTag := rfl
@[simp] theorem wr64_ctxs (s : State) (i a v : Nat) : (wr64 s i a v).ctxs = s.ctxs := rfl
@[simp] theorem wr64_cells (s : State) (i a v : Nat) : (wr64 s i a v).cells = s.cells := rfl
@[simp] theorem wr64_mtus (s : State) (i a v : Nat) : (wr64 s i a v).mtus = s.mtus := rfl
@[simp] theorem wr64_str (s : State) (i a v : Nat) : (wr64 s i a v).str = s.str := rfl
@[simp] theorem wr64_xlt (s : State) (i a v : Nat) : (wr64 s i a v).xlt = s.xlt := rfl
@[simp] theorem wr64_held (s : State) (i a v : Nat) : (wr64 s i a v).held = s.held := rfl
@[simp] theorem wr64_hbm (s : State) (i a v : Nat) : (wr64 s i a v).hbm = s.hbm := rfl
@[simp] theorem wr64_coh (s : State) (i a v : Nat) : (wr64 s i a v).coh = s.coh := rfl
@[simp] theorem wr64_core (s : State) (i a v : Nat) : (wr64 s i a v).core = s.core := rfl
@[simp] theorem wr64_host (s : State) (i a v : Nat) : (wr64 s i a v).host = s.host := rfl
@[simp] theorem wr64_lnk (s : State) (i a v : Nat) : (wr64 s i a v).lnk = s.lnk := rfl
@[simp] theorem wr64_mir (s : State) (i a v : Nat) : (wr64 s i a v).mir = s.mir := rfl
@[simp] theorem wr64_pwr (s : State) (i a v : Nat) : (wr64 s i a v).pwr = s.pwr := rfl
@[simp] theorem wr64_pld (s : State) (i a v : Nat) : (wr64 s i a v).pld = s.pld := rfl
@[simp] theorem wr64_sec (s : State) (i a v : Nat) : (wr64 s i a v).sec = s.sec := rfl
@[simp] theorem wr64_err (s : State) (i a v : Nat) : (wr64 s i a v).err = s.err := rfl
@[simp] theorem wr64_boot (s : State) (i a v : Nat) : (wr64 s i a v).boot = s.boot := rfl

@[simp] theorem raiseVector_pending (s : State) (v : Nat) : (raiseVector s v).pending = s.pending := rfl
@[simp] theorem raiseVector_out (s : State) (v : Nat) : (raiseVector s v).out = s.out := rfl
@[simp] theorem raiseVector_free (s : State) (v : Nat) : (raiseVector s v).free = s.free := rfl
@[simp] theorem raiseVector_regs (s : State) (v : Nat) : (raiseVector s v).regs = s.regs := rfl
@[simp] theorem raiseVector_latch (s : State) (v : Nat) : (raiseVector s v).latch = s.latch := rfl
@[simp] theorem raiseVector_heldLo (s : State) (v : Nat) : (raiseVector s v).heldLo = s.heldLo := rfl
@[simp] theorem raiseVector_cic (s : State) (v : Nat) : (raiseVector s v).cic = s.cic := rfl
@[simp] theorem raiseVector_mem (s : State) (v : Nat) : (raiseVector s v).mem = s.mem := rfl
@[simp] theorem raiseVector_poison (s : State) (v : Nat) : (raiseVector s v).poison = s.poison := rfl
@[simp] theorem raiseVector_keyTag (s : State) (v : Nat) : (raiseVector s v).keyTag = s.keyTag := rfl
@[simp] theorem raiseVector_ctxs (s : State) (v : Nat) : (raiseVector s v).ctxs = s.ctxs := rfl
@[simp] theorem raiseVector_cells (s : State) (v : Nat) : (raiseVector s v).cells = s.cells := rfl
@[simp] theorem raiseVector_mtus (s : State) (v : Nat) : (raiseVector s v).mtus = s.mtus := rfl
@[simp] theorem raiseVector_str (s : State) (v : Nat) : (raiseVector s v).str = s.str := rfl
@[simp] theorem raiseVector_xlt (s : State) (v : Nat) : (raiseVector s v).xlt = s.xlt := rfl
@[simp] theorem raiseVector_held (s : State) (v : Nat) : (raiseVector s v).held = s.held := rfl
@[simp] theorem raiseVector_hbm (s : State) (v : Nat) : (raiseVector s v).hbm = s.hbm := rfl
@[simp] theorem raiseVector_coh (s : State) (v : Nat) : (raiseVector s v).coh = s.coh := rfl
@[simp] theorem raiseVector_core (s : State) (v : Nat) : (raiseVector s v).core = s.core := rfl
@[simp] theorem raiseVector_lnk (s : State) (v : Nat) : (raiseVector s v).lnk = s.lnk := rfl
@[simp] theorem raiseVector_mir (s : State) (v : Nat) : (raiseVector s v).mir = s.mir := rfl
@[simp] theorem raiseVector_pwr (s : State) (v : Nat) : (raiseVector s v).pwr = s.pwr := rfl
@[simp] theorem raiseVector_pld (s : State) (v : Nat) : (raiseVector s v).pld = s.pld := rfl
@[simp] theorem raiseVector_sec (s : State) (v : Nat) : (raiseVector s v).sec = s.sec := rfl
@[simp] theorem raiseVector_err (s : State) (v : Nat) : (raiseVector s v).err = s.err := rfl
@[simp] theorem raiseVector_boot (s : State) (v : Nat) : (raiseVector s v).boot = s.boot := rfl

@[simp] theorem ctx_setCtx (s : State) (i j : Nat) (x : Ctx) : (s.setCtx i x).ctx j = if j = i then x else s.ctx j :=
  tget_tset _ _ _ _ _
@[simp] theorem cell_setCell (s : State) (i j : Nat) (x : Cell) : (s.setCell i x).cell j = if j = i then x else s.cell j :=
  tget_tset _ _ _ _ _
@[simp] theorem mtu_setMtu (s : State) (i j : Nat) (x : MatchUnitState) : (s.setMtu i x).mtu j = if j = i then x else s.mtu j :=
  tget_tset _ _ _ _ _
@[simp] theorem stream_setStream (s : State) (i j : Nat) (x : Stream) : (s.setStream i x).stream j = if j = i then x else s.stream j :=
  tget_tset _ _ _ _ _
@[simp] theorem chan_setChan (s : State) (i j : Nat) (x : Chan) : (s.setChan i x).chan j = if j = i then x else s.chan j :=
  tget_tset _ _ _ _ _
@[simp] theorem hart_setHart (s : State) (i j : Nat) (x : Hart) : (s.setHart i x).hart j = if j = i then x else s.hart j :=
  tget_tset _ _ _ _ _
@[simp] theorem link_setLink (s : State) (i j : Nat) (x : Link) : (s.setLink i x).link j = if j = i then x else s.link j :=
  tget_tset _ _ _ _ _
@[simp] theorem die_setDie (s : State) (i j : Nat) (x : DiePower) : (s.setDie i x).die j = if j = i then x else s.die j :=
  tget_tset _ _ _ _ _
@[simp] theorem slot_setSlot (s : State) (i j : Nat) (x : KeySlot) : (s.setSlot i x).slot j = if j = i then x else s.slot j :=
  tget_tset _ _ _ _ _
@[simp] theorem iface_setIface (s : State) (i j : Nat) (x : Iface) : (s.setIface i x).iface j = if j = i then x else s.iface j :=
  tget_tset _ _ _ _ _

/-! One unit's table is not another's. -/

@[simp] theorem cell_after_setCtx (s : State) (i : Nat) (c : Ctx) (j : Nat) : (s.setCtx i c).cell j = s.cell j := rfl
@[simp] theorem mtu_after_setCtx (s : State) (i : Nat) (c : Ctx) (j : Nat) : (s.setCtx i c).mtu j = s.mtu j := rfl
@[simp] theorem stream_after_setCtx (s : State) (i : Nat) (c : Ctx) (j : Nat) : (s.setCtx i c).stream j = s.stream j := rfl
@[simp] theorem chan_after_setCtx (s : State) (i : Nat) (c : Ctx) (j : Nat) : (s.setCtx i c).chan j = s.chan j := rfl
@[simp] theorem hart_after_setCtx (s : State) (i : Nat) (c : Ctx) (j : Nat) : (s.setCtx i c).hart j = s.hart j := rfl
@[simp] theorem link_after_setCtx (s : State) (i : Nat) (c : Ctx) (j : Nat) : (s.setCtx i c).link j = s.link j := rfl
@[simp] theorem die_after_setCtx (s : State) (i : Nat) (c : Ctx) (j : Nat) : (s.setCtx i c).die j = s.die j := rfl
@[simp] theorem slot_after_setCtx (s : State) (i : Nat) (c : Ctx) (j : Nat) : (s.setCtx i c).slot j = s.slot j := rfl
@[simp] theorem iface_after_setCtx (s : State) (i : Nat) (c : Ctx) (j : Nat) : (s.setCtx i c).iface j = s.iface j := rfl
@[simp] theorem port_after_setCtx (s : State) (i : Nat) (c : Ctx) (j : Nat) : (s.setCtx i c).port j = s.port j := rfl
@[simp] theorem ctx_after_setCell (s : State) (i : Nat) (c : Cell) (j : Nat) : (s.setCell i c).ctx j = s.ctx j := rfl
@[simp] theorem mtu_after_setCell (s : State) (i : Nat) (c : Cell) (j : Nat) : (s.setCell i c).mtu j = s.mtu j := rfl
@[simp] theorem stream_after_setCell (s : State) (i : Nat) (c : Cell) (j : Nat) : (s.setCell i c).stream j = s.stream j := rfl
@[simp] theorem chan_after_setCell (s : State) (i : Nat) (c : Cell) (j : Nat) : (s.setCell i c).chan j = s.chan j := rfl
@[simp] theorem hart_after_setCell (s : State) (i : Nat) (c : Cell) (j : Nat) : (s.setCell i c).hart j = s.hart j := rfl
@[simp] theorem link_after_setCell (s : State) (i : Nat) (c : Cell) (j : Nat) : (s.setCell i c).link j = s.link j := rfl
@[simp] theorem die_after_setCell (s : State) (i : Nat) (c : Cell) (j : Nat) : (s.setCell i c).die j = s.die j := rfl
@[simp] theorem slot_after_setCell (s : State) (i : Nat) (c : Cell) (j : Nat) : (s.setCell i c).slot j = s.slot j := rfl
@[simp] theorem iface_after_setCell (s : State) (i : Nat) (c : Cell) (j : Nat) : (s.setCell i c).iface j = s.iface j := rfl
@[simp] theorem port_after_setCell (s : State) (i : Nat) (c : Cell) (j : Nat) : (s.setCell i c).port j = s.port j := rfl
@[simp] theorem ctx_after_setMtu (s : State) (i : Nat) (c : MatchUnitState) (j : Nat) : (s.setMtu i c).ctx j = s.ctx j := rfl
@[simp] theorem cell_after_setMtu (s : State) (i : Nat) (c : MatchUnitState) (j : Nat) : (s.setMtu i c).cell j = s.cell j := rfl
@[simp] theorem stream_after_setMtu (s : State) (i : Nat) (c : MatchUnitState) (j : Nat) : (s.setMtu i c).stream j = s.stream j := rfl
@[simp] theorem chan_after_setMtu (s : State) (i : Nat) (c : MatchUnitState) (j : Nat) : (s.setMtu i c).chan j = s.chan j := rfl
@[simp] theorem hart_after_setMtu (s : State) (i : Nat) (c : MatchUnitState) (j : Nat) : (s.setMtu i c).hart j = s.hart j := rfl
@[simp] theorem link_after_setMtu (s : State) (i : Nat) (c : MatchUnitState) (j : Nat) : (s.setMtu i c).link j = s.link j := rfl
@[simp] theorem die_after_setMtu (s : State) (i : Nat) (c : MatchUnitState) (j : Nat) : (s.setMtu i c).die j = s.die j := rfl
@[simp] theorem slot_after_setMtu (s : State) (i : Nat) (c : MatchUnitState) (j : Nat) : (s.setMtu i c).slot j = s.slot j := rfl
@[simp] theorem iface_after_setMtu (s : State) (i : Nat) (c : MatchUnitState) (j : Nat) : (s.setMtu i c).iface j = s.iface j := rfl
@[simp] theorem port_after_setMtu (s : State) (i : Nat) (c : MatchUnitState) (j : Nat) : (s.setMtu i c).port j = s.port j := rfl
@[simp] theorem ctx_after_setStream (s : State) (i : Nat) (c : Stream) (j : Nat) : (s.setStream i c).ctx j = s.ctx j := rfl
@[simp] theorem cell_after_setStream (s : State) (i : Nat) (c : Stream) (j : Nat) : (s.setStream i c).cell j = s.cell j := rfl
@[simp] theorem mtu_after_setStream (s : State) (i : Nat) (c : Stream) (j : Nat) : (s.setStream i c).mtu j = s.mtu j := rfl
@[simp] theorem chan_after_setStream (s : State) (i : Nat) (c : Stream) (j : Nat) : (s.setStream i c).chan j = s.chan j := rfl
@[simp] theorem hart_after_setStream (s : State) (i : Nat) (c : Stream) (j : Nat) : (s.setStream i c).hart j = s.hart j := rfl
@[simp] theorem link_after_setStream (s : State) (i : Nat) (c : Stream) (j : Nat) : (s.setStream i c).link j = s.link j := rfl
@[simp] theorem die_after_setStream (s : State) (i : Nat) (c : Stream) (j : Nat) : (s.setStream i c).die j = s.die j := rfl
@[simp] theorem slot_after_setStream (s : State) (i : Nat) (c : Stream) (j : Nat) : (s.setStream i c).slot j = s.slot j := rfl
@[simp] theorem iface_after_setStream (s : State) (i : Nat) (c : Stream) (j : Nat) : (s.setStream i c).iface j = s.iface j := rfl
@[simp] theorem port_after_setStream (s : State) (i : Nat) (c : Stream) (j : Nat) : (s.setStream i c).port j = s.port j := rfl
@[simp] theorem ctx_after_setChan (s : State) (i : Nat) (c : Chan) (j : Nat) : (s.setChan i c).ctx j = s.ctx j := rfl
@[simp] theorem cell_after_setChan (s : State) (i : Nat) (c : Chan) (j : Nat) : (s.setChan i c).cell j = s.cell j := rfl
@[simp] theorem mtu_after_setChan (s : State) (i : Nat) (c : Chan) (j : Nat) : (s.setChan i c).mtu j = s.mtu j := rfl
@[simp] theorem stream_after_setChan (s : State) (i : Nat) (c : Chan) (j : Nat) : (s.setChan i c).stream j = s.stream j := rfl
@[simp] theorem hart_after_setChan (s : State) (i : Nat) (c : Chan) (j : Nat) : (s.setChan i c).hart j = s.hart j := rfl
@[simp] theorem link_after_setChan (s : State) (i : Nat) (c : Chan) (j : Nat) : (s.setChan i c).link j = s.link j := rfl
@[simp] theorem die_after_setChan (s : State) (i : Nat) (c : Chan) (j : Nat) : (s.setChan i c).die j = s.die j := rfl
@[simp] theorem slot_after_setChan (s : State) (i : Nat) (c : Chan) (j : Nat) : (s.setChan i c).slot j = s.slot j := rfl
@[simp] theorem iface_after_setChan (s : State) (i : Nat) (c : Chan) (j : Nat) : (s.setChan i c).iface j = s.iface j := rfl
@[simp] theorem port_after_setChan (s : State) (i : Nat) (c : Chan) (j : Nat) : (s.setChan i c).port j = s.port j := rfl
@[simp] theorem ctx_after_setHart (s : State) (i : Nat) (c : Hart) (j : Nat) : (s.setHart i c).ctx j = s.ctx j := rfl
@[simp] theorem cell_after_setHart (s : State) (i : Nat) (c : Hart) (j : Nat) : (s.setHart i c).cell j = s.cell j := rfl
@[simp] theorem mtu_after_setHart (s : State) (i : Nat) (c : Hart) (j : Nat) : (s.setHart i c).mtu j = s.mtu j := rfl
@[simp] theorem stream_after_setHart (s : State) (i : Nat) (c : Hart) (j : Nat) : (s.setHart i c).stream j = s.stream j := rfl
@[simp] theorem chan_after_setHart (s : State) (i : Nat) (c : Hart) (j : Nat) : (s.setHart i c).chan j = s.chan j := rfl
@[simp] theorem link_after_setHart (s : State) (i : Nat) (c : Hart) (j : Nat) : (s.setHart i c).link j = s.link j := rfl
@[simp] theorem die_after_setHart (s : State) (i : Nat) (c : Hart) (j : Nat) : (s.setHart i c).die j = s.die j := rfl
@[simp] theorem slot_after_setHart (s : State) (i : Nat) (c : Hart) (j : Nat) : (s.setHart i c).slot j = s.slot j := rfl
@[simp] theorem iface_after_setHart (s : State) (i : Nat) (c : Hart) (j : Nat) : (s.setHart i c).iface j = s.iface j := rfl
@[simp] theorem port_after_setHart (s : State) (i : Nat) (c : Hart) (j : Nat) : (s.setHart i c).port j = s.port j := rfl
@[simp] theorem ctx_after_setPort (s : State) (i : Nat) (c : Port) (j : Nat) : (s.setPort i c).ctx j = s.ctx j := rfl
@[simp] theorem cell_after_setPort (s : State) (i : Nat) (c : Port) (j : Nat) : (s.setPort i c).cell j = s.cell j := rfl
@[simp] theorem mtu_after_setPort (s : State) (i : Nat) (c : Port) (j : Nat) : (s.setPort i c).mtu j = s.mtu j := rfl
@[simp] theorem stream_after_setPort (s : State) (i : Nat) (c : Port) (j : Nat) : (s.setPort i c).stream j = s.stream j := rfl
@[simp] theorem chan_after_setPort (s : State) (i : Nat) (c : Port) (j : Nat) : (s.setPort i c).chan j = s.chan j := rfl
@[simp] theorem hart_after_setPort (s : State) (i : Nat) (c : Port) (j : Nat) : (s.setPort i c).hart j = s.hart j := rfl
@[simp] theorem link_after_setPort (s : State) (i : Nat) (c : Port) (j : Nat) : (s.setPort i c).link j = s.link j := rfl
@[simp] theorem die_after_setPort (s : State) (i : Nat) (c : Port) (j : Nat) : (s.setPort i c).die j = s.die j := rfl
@[simp] theorem slot_after_setPort (s : State) (i : Nat) (c : Port) (j : Nat) : (s.setPort i c).slot j = s.slot j := rfl
@[simp] theorem iface_after_setPort (s : State) (i : Nat) (c : Port) (j : Nat) : (s.setPort i c).iface j = s.iface j := rfl
@[simp] theorem ctx_after_setLink (s : State) (i : Nat) (c : Link) (j : Nat) : (s.setLink i c).ctx j = s.ctx j := rfl
@[simp] theorem cell_after_setLink (s : State) (i : Nat) (c : Link) (j : Nat) : (s.setLink i c).cell j = s.cell j := rfl
@[simp] theorem mtu_after_setLink (s : State) (i : Nat) (c : Link) (j : Nat) : (s.setLink i c).mtu j = s.mtu j := rfl
@[simp] theorem stream_after_setLink (s : State) (i : Nat) (c : Link) (j : Nat) : (s.setLink i c).stream j = s.stream j := rfl
@[simp] theorem chan_after_setLink (s : State) (i : Nat) (c : Link) (j : Nat) : (s.setLink i c).chan j = s.chan j := rfl
@[simp] theorem hart_after_setLink (s : State) (i : Nat) (c : Link) (j : Nat) : (s.setLink i c).hart j = s.hart j := rfl
@[simp] theorem die_after_setLink (s : State) (i : Nat) (c : Link) (j : Nat) : (s.setLink i c).die j = s.die j := rfl
@[simp] theorem slot_after_setLink (s : State) (i : Nat) (c : Link) (j : Nat) : (s.setLink i c).slot j = s.slot j := rfl
@[simp] theorem iface_after_setLink (s : State) (i : Nat) (c : Link) (j : Nat) : (s.setLink i c).iface j = s.iface j := rfl
@[simp] theorem port_after_setLink (s : State) (i : Nat) (c : Link) (j : Nat) : (s.setLink i c).port j = s.port j := rfl
@[simp] theorem ctx_after_setDie (s : State) (i : Nat) (c : DiePower) (j : Nat) : (s.setDie i c).ctx j = s.ctx j := rfl
@[simp] theorem cell_after_setDie (s : State) (i : Nat) (c : DiePower) (j : Nat) : (s.setDie i c).cell j = s.cell j := rfl
@[simp] theorem mtu_after_setDie (s : State) (i : Nat) (c : DiePower) (j : Nat) : (s.setDie i c).mtu j = s.mtu j := rfl
@[simp] theorem stream_after_setDie (s : State) (i : Nat) (c : DiePower) (j : Nat) : (s.setDie i c).stream j = s.stream j := rfl
@[simp] theorem chan_after_setDie (s : State) (i : Nat) (c : DiePower) (j : Nat) : (s.setDie i c).chan j = s.chan j := rfl
@[simp] theorem hart_after_setDie (s : State) (i : Nat) (c : DiePower) (j : Nat) : (s.setDie i c).hart j = s.hart j := rfl
@[simp] theorem link_after_setDie (s : State) (i : Nat) (c : DiePower) (j : Nat) : (s.setDie i c).link j = s.link j := rfl
@[simp] theorem slot_after_setDie (s : State) (i : Nat) (c : DiePower) (j : Nat) : (s.setDie i c).slot j = s.slot j := rfl
@[simp] theorem iface_after_setDie (s : State) (i : Nat) (c : DiePower) (j : Nat) : (s.setDie i c).iface j = s.iface j := rfl
@[simp] theorem port_after_setDie (s : State) (i : Nat) (c : DiePower) (j : Nat) : (s.setDie i c).port j = s.port j := rfl
@[simp] theorem ctx_after_setSlot (s : State) (i : Nat) (c : KeySlot) (j : Nat) : (s.setSlot i c).ctx j = s.ctx j := rfl
@[simp] theorem cell_after_setSlot (s : State) (i : Nat) (c : KeySlot) (j : Nat) : (s.setSlot i c).cell j = s.cell j := rfl
@[simp] theorem mtu_after_setSlot (s : State) (i : Nat) (c : KeySlot) (j : Nat) : (s.setSlot i c).mtu j = s.mtu j := rfl
@[simp] theorem stream_after_setSlot (s : State) (i : Nat) (c : KeySlot) (j : Nat) : (s.setSlot i c).stream j = s.stream j := rfl
@[simp] theorem chan_after_setSlot (s : State) (i : Nat) (c : KeySlot) (j : Nat) : (s.setSlot i c).chan j = s.chan j := rfl
@[simp] theorem hart_after_setSlot (s : State) (i : Nat) (c : KeySlot) (j : Nat) : (s.setSlot i c).hart j = s.hart j := rfl
@[simp] theorem link_after_setSlot (s : State) (i : Nat) (c : KeySlot) (j : Nat) : (s.setSlot i c).link j = s.link j := rfl
@[simp] theorem die_after_setSlot (s : State) (i : Nat) (c : KeySlot) (j : Nat) : (s.setSlot i c).die j = s.die j := rfl
@[simp] theorem iface_after_setSlot (s : State) (i : Nat) (c : KeySlot) (j : Nat) : (s.setSlot i c).iface j = s.iface j := rfl
@[simp] theorem port_after_setSlot (s : State) (i : Nat) (c : KeySlot) (j : Nat) : (s.setSlot i c).port j = s.port j := rfl
@[simp] theorem ctx_after_setIface (s : State) (i : Nat) (c : Iface) (j : Nat) : (s.setIface i c).ctx j = s.ctx j := rfl
@[simp] theorem cell_after_setIface (s : State) (i : Nat) (c : Iface) (j : Nat) : (s.setIface i c).cell j = s.cell j := rfl
@[simp] theorem mtu_after_setIface (s : State) (i : Nat) (c : Iface) (j : Nat) : (s.setIface i c).mtu j = s.mtu j := rfl
@[simp] theorem stream_after_setIface (s : State) (i : Nat) (c : Iface) (j : Nat) : (s.setIface i c).stream j = s.stream j := rfl
@[simp] theorem chan_after_setIface (s : State) (i : Nat) (c : Iface) (j : Nat) : (s.setIface i c).chan j = s.chan j := rfl
@[simp] theorem hart_after_setIface (s : State) (i : Nat) (c : Iface) (j : Nat) : (s.setIface i c).hart j = s.hart j := rfl
@[simp] theorem link_after_setIface (s : State) (i : Nat) (c : Iface) (j : Nat) : (s.setIface i c).link j = s.link j := rfl
@[simp] theorem die_after_setIface (s : State) (i : Nat) (c : Iface) (j : Nat) : (s.setIface i c).die j = s.die j := rfl
@[simp] theorem slot_after_setIface (s : State) (i : Nat) (c : Iface) (j : Nat) : (s.setIface i c).slot j = s.slot j := rfl
@[simp] theorem port_after_setIface (s : State) (i : Nat) (c : Iface) (j : Nat) : (s.setIface i c).port j = s.port j := rfl
@[simp] theorem ctx_after_emit (s : State) (o : Out) (j : Nat) : (s.emit o).ctx j = s.ctx j := rfl
@[simp] theorem cell_after_emit (s : State) (o : Out) (j : Nat) : (s.emit o).cell j = s.cell j := rfl
@[simp] theorem mtu_after_emit (s : State) (o : Out) (j : Nat) : (s.emit o).mtu j = s.mtu j := rfl
@[simp] theorem stream_after_emit (s : State) (o : Out) (j : Nat) : (s.emit o).stream j = s.stream j := rfl
@[simp] theorem chan_after_emit (s : State) (o : Out) (j : Nat) : (s.emit o).chan j = s.chan j := rfl
@[simp] theorem hart_after_emit (s : State) (o : Out) (j : Nat) : (s.emit o).hart j = s.hart j := rfl
@[simp] theorem link_after_emit (s : State) (o : Out) (j : Nat) : (s.emit o).link j = s.link j := rfl
@[simp] theorem die_after_emit (s : State) (o : Out) (j : Nat) : (s.emit o).die j = s.die j := rfl
@[simp] theorem slot_after_emit (s : State) (o : Out) (j : Nat) : (s.emit o).slot j = s.slot j := rfl
@[simp] theorem iface_after_emit (s : State) (o : Out) (j : Nat) : (s.emit o).iface j = s.iface j := rfl
@[simp] theorem port_after_emit (s : State) (o : Out) (j : Nat) : (s.emit o).port j = s.port j := rfl
@[simp] theorem ctx_after_useFree (s : State) (j : Nat) : (s.useFree).ctx j = s.ctx j := rfl
@[simp] theorem cell_after_useFree (s : State) (j : Nat) : (s.useFree).cell j = s.cell j := rfl
@[simp] theorem mtu_after_useFree (s : State) (j : Nat) : (s.useFree).mtu j = s.mtu j := rfl
@[simp] theorem stream_after_useFree (s : State) (j : Nat) : (s.useFree).stream j = s.stream j := rfl
@[simp] theorem chan_after_useFree (s : State) (j : Nat) : (s.useFree).chan j = s.chan j := rfl
@[simp] theorem hart_after_useFree (s : State) (j : Nat) : (s.useFree).hart j = s.hart j := rfl
@[simp] theorem link_after_useFree (s : State) (j : Nat) : (s.useFree).link j = s.link j := rfl
@[simp] theorem die_after_useFree (s : State) (j : Nat) : (s.useFree).die j = s.die j := rfl
@[simp] theorem slot_after_useFree (s : State) (j : Nat) : (s.useFree).slot j = s.slot j := rfl
@[simp] theorem iface_after_useFree (s : State) (j : Nat) : (s.useFree).iface j = s.iface j := rfl
@[simp] theorem port_after_useFree (s : State) (j : Nat) : (s.useFree).port j = s.port j := rfl
@[simp] theorem ctx_after_wr (s : State) (i a v : Nat) (j : Nat) : (wr s i a v).ctx j = s.ctx j := rfl
@[simp] theorem cell_after_wr (s : State) (i a v : Nat) (j : Nat) : (wr s i a v).cell j = s.cell j := rfl
@[simp] theorem mtu_after_wr (s : State) (i a v : Nat) (j : Nat) : (wr s i a v).mtu j = s.mtu j := rfl
@[simp] theorem stream_after_wr (s : State) (i a v : Nat) (j : Nat) : (wr s i a v).stream j = s.stream j := rfl
@[simp] theorem chan_after_wr (s : State) (i a v : Nat) (j : Nat) : (wr s i a v).chan j = s.chan j := rfl
@[simp] theorem hart_after_wr (s : State) (i a v : Nat) (j : Nat) : (wr s i a v).hart j = s.hart j := rfl
@[simp] theorem link_after_wr (s : State) (i a v : Nat) (j : Nat) : (wr s i a v).link j = s.link j := rfl
@[simp] theorem die_after_wr (s : State) (i a v : Nat) (j : Nat) : (wr s i a v).die j = s.die j := rfl
@[simp] theorem slot_after_wr (s : State) (i a v : Nat) (j : Nat) : (wr s i a v).slot j = s.slot j := rfl
@[simp] theorem iface_after_wr (s : State) (i a v : Nat) (j : Nat) : (wr s i a v).iface j = s.iface j := rfl
@[simp] theorem port_after_wr (s : State) (i a v : Nat) (j : Nat) : (wr s i a v).port j = s.port j := rfl
@[simp] theorem ctx_after_setFld (s : State) (i a hi lo v : Nat) (j : Nat) : (setFld s i a hi lo v).ctx j = s.ctx j := rfl
@[simp] theorem cell_after_setFld (s : State) (i a hi lo v : Nat) (j : Nat) : (setFld s i a hi lo v).cell j = s.cell j := rfl
@[simp] theorem mtu_after_setFld (s : State) (i a hi lo v : Nat) (j : Nat) : (setFld s i a hi lo v).mtu j = s.mtu j := rfl
@[simp] theorem stream_after_setFld (s : State) (i a hi lo v : Nat) (j : Nat) : (setFld s i a hi lo v).stream j = s.stream j := rfl
@[simp] theorem chan_after_setFld (s : State) (i a hi lo v : Nat) (j : Nat) : (setFld s i a hi lo v).chan j = s.chan j := rfl
@[simp] theorem hart_after_setFld (s : State) (i a hi lo v : Nat) (j : Nat) : (setFld s i a hi lo v).hart j = s.hart j := rfl
@[simp] theorem link_after_setFld (s : State) (i a hi lo v : Nat) (j : Nat) : (setFld s i a hi lo v).link j = s.link j := rfl
@[simp] theorem die_after_setFld (s : State) (i a hi lo v : Nat) (j : Nat) : (setFld s i a hi lo v).die j = s.die j := rfl
@[simp] theorem slot_after_setFld (s : State) (i a hi lo v : Nat) (j : Nat) : (setFld s i a hi lo v).slot j = s.slot j := rfl
@[simp] theorem iface_after_setFld (s : State) (i a hi lo v : Nat) (j : Nat) : (setFld s i a hi lo v).iface j = s.iface j := rfl
@[simp] theorem port_after_setFld (s : State) (i a hi lo v : Nat) (j : Nat) : (setFld s i a hi lo v).port j = s.port j := rfl
@[simp] theorem ctx_after_wr64 (s : State) (i a v : Nat) (j : Nat) : (wr64 s i a v).ctx j = s.ctx j := rfl
@[simp] theorem cell_after_wr64 (s : State) (i a v : Nat) (j : Nat) : (wr64 s i a v).cell j = s.cell j := rfl
@[simp] theorem mtu_after_wr64 (s : State) (i a v : Nat) (j : Nat) : (wr64 s i a v).mtu j = s.mtu j := rfl
@[simp] theorem stream_after_wr64 (s : State) (i a v : Nat) (j : Nat) : (wr64 s i a v).stream j = s.stream j := rfl
@[simp] theorem chan_after_wr64 (s : State) (i a v : Nat) (j : Nat) : (wr64 s i a v).chan j = s.chan j := rfl
@[simp] theorem hart_after_wr64 (s : State) (i a v : Nat) (j : Nat) : (wr64 s i a v).hart j = s.hart j := rfl
@[simp] theorem link_after_wr64 (s : State) (i a v : Nat) (j : Nat) : (wr64 s i a v).link j = s.link j := rfl
@[simp] theorem die_after_wr64 (s : State) (i a v : Nat) (j : Nat) : (wr64 s i a v).die j = s.die j := rfl
@[simp] theorem slot_after_wr64 (s : State) (i a v : Nat) (j : Nat) : (wr64 s i a v).slot j = s.slot j := rfl
@[simp] theorem iface_after_wr64 (s : State) (i a v : Nat) (j : Nat) : (wr64 s i a v).iface j = s.iface j := rfl
@[simp] theorem port_after_wr64 (s : State) (i a v : Nat) (j : Nat) : (wr64 s i a v).port j = s.port j := rfl
@[simp] theorem ctx_after_raiseVector (s : State) (v : Nat) (j : Nat) : (raiseVector s v).ctx j = s.ctx j := rfl
@[simp] theorem cell_after_raiseVector (s : State) (v : Nat) (j : Nat) : (raiseVector s v).cell j = s.cell j := rfl
@[simp] theorem mtu_after_raiseVector (s : State) (v : Nat) (j : Nat) : (raiseVector s v).mtu j = s.mtu j := rfl
@[simp] theorem stream_after_raiseVector (s : State) (v : Nat) (j : Nat) : (raiseVector s v).stream j = s.stream j := rfl
@[simp] theorem chan_after_raiseVector (s : State) (v : Nat) (j : Nat) : (raiseVector s v).chan j = s.chan j := rfl
@[simp] theorem hart_after_raiseVector (s : State) (v : Nat) (j : Nat) : (raiseVector s v).hart j = s.hart j := rfl
@[simp] theorem link_after_raiseVector (s : State) (v : Nat) (j : Nat) : (raiseVector s v).link j = s.link j := rfl
@[simp] theorem die_after_raiseVector (s : State) (v : Nat) (j : Nat) : (raiseVector s v).die j = s.die j := rfl
@[simp] theorem slot_after_raiseVector (s : State) (v : Nat) (j : Nat) : (raiseVector s v).slot j = s.slot j := rfl
@[simp] theorem iface_after_raiseVector (s : State) (v : Nat) (j : Nat) : (raiseVector s v).iface j = s.iface j := rfl

/-! Register words. -/

/-- A register word written reads back; every other word is as it was. -/
theorem rd_wr (s : State) (i a v j b : Nat) :
    rd (wr s i a v) j b = if regKey j b = regKey i a then v % 2 ^ 32 else rd s j b := by
  unfold rd wr
  simp only [tget_tset]
  split <;> simp

@[simp] theorem rd_wr_same (s : State) (i a v : Nat) : rd (wr s i a v) i a = v % 2 ^ 32 := by simp [rd_wr]

/-- A word of another address, both within the register space. -/
theorem rd_wr_other (s : State) (i a v j b : Nat) (h : regKey j b ≠ regKey i a) : rd (wr s i a v) j b = rd s j b := by
  simp [rd_wr, h]

/-- A register word is below 2^32. -/
theorem rd_lt (s : State) (i a : Nat) : rd s i a < 2 ^ 32 := (tget regReset s.regs (regKey i a)).isLt

/-- Registers read alike where the register tables are equal. -/
theorem rd_of_regs (s t : State) (i a : Nat) (h : t.regs = s.regs) : rd t i a = rd s i a := by simp [rd, h]

end Sys2Proof.Machine
end

