-- ==== Sys2Proof/Laws/Ops.lean ====
section
/-!
SUPPORT. What the shared operations can do: those that count and raise change register words and send vectors only; those on
a cell's contents change cells only; the count's step changes the count, the counters of waiting and what was freshly updated.
-/

namespace Sys2Proof.Machine

/-! ## Registers and vectors -/

/-- From `s` to `t` only register words change, and vectors are sent. -/
def RegsOnly (s t : State) : Prop := t = { s with regs := t.regs, host := { s.host with vecs := t.host.vecs } }

theorem RegsOnly.refl (s : State) : RegsOnly s s := rfl

theorem RegsOnly.trans {s t u : State} (h : RegsOnly s t) (k : RegsOnly t u) : RegsOnly s u := by
  unfold RegsOnly at *
  rw [k, h]

theorem RegsOnly.of_ite {s t u : State} {c : Prop} [Decidable c] (ht : RegsOnly s t) (hu : RegsOnly s u) :
    RegsOnly s (if c then t else u) := by
  split
  · exact ht
  · exact hu

theorem regsOnly_wr (s : State) (i a v : Nat) : RegsOnly s (wr s i a v) := rfl

theorem regsOnly_setFld (s : State) (i a hi lo v : Nat) : RegsOnly s (setFld s i a hi lo v) := rfl

theorem regsOnly_wr64 (s : State) (i a v : Nat) : RegsOnly s (wr64 s i a v) := rfl

theorem regsOnly_raiseVector (s : State) (v : Nat) : RegsOnly s (raiseVector s v) := rfl

theorem regsOnly_sendPageVector (s : State) (base : Nat) : RegsOnly s (sendPageVector s base) := by
  unfold sendPageVector
  exact RegsOnly.of_ite (.refl s) (regsOnly_raiseVector s _)

/-- Event bits set (R505): PG_INT_RAW, and the page's vector. -/
theorem regsOnly_raiseBits (s : State) (base m : Nat) : RegsOnly s (raiseBits s base m) := by
  unfold raiseBits
  exact RegsOnly.of_ite ((regsOnly_wr s 0 _ _).trans (regsOnly_sendPageVector _ base)) (regsOnly_wr s 0 _ _)

theorem regsOnly_raiseInt (s : State) (base i : Nat) : RegsOnly s (raiseInt s base i) := regsOnly_raiseBits s base _

/-- A counter field advanced: its register, and bit 0 of its page's events where it saturates. -/
theorem regsOnly_countFld (s : State) (i a hi lo n : Nat) : RegsOnly s (countFld s i a hi lo n) := by
  simp only [countFld]
  split
  · exact .refl s
  · exact RegsOnly.of_ite (.refl s)
      (RegsOnly.of_ite ((regsOnly_setFld s i a hi lo _).trans (regsOnly_raiseInt _ _ 0)) (regsOnly_setFld s i a hi lo _))

theorem regsOnly_count (s : State) (a n : Nat) : RegsOnly s (count s a n) := regsOnly_countFld s 0 a 31 0 n

theorem regsOnly_count64 (s : State) (i a n : Nat) : RegsOnly s (count64 s i a n) := by
  simp only [count64]
  split
  · exact .refl s
  · exact RegsOnly.of_ite (.refl s)
      (RegsOnly.of_ite ((regsOnly_wr64 s i a _).trans (regsOnly_raiseInt _ _ 0)) (regsOnly_wr64 s i a _))

theorem sendPageVector_rd (s : State) (base i a : Nat) : rd (sendPageVector s base) i a = rd s i a := by
  simp only [sendPageVector]
  split <;> rfl

/-- The register words after event bits are set: the page's PG_INT_RAW holds the new bits, every other word is as it was. -/
theorem rd_raiseBits (s : State) (base m i a : Nat) :
    rd (raiseBits s base m) i a =
      if regKey i a = regKey 0 (base + Reg.PG_INT_RAW) then (rd s 0 (base + Reg.PG_INT_RAW) ||| m) % 2 ^ 32 else rd s i a := by
  unfold raiseBits
  simp only [apply_ite (fun t => rd t i a), sendPageVector_rd, rd_wr, ite_self]

/-- A counter advanced leaves every register word alone but its own and its page's PG_INT_RAW. -/
theorem rd_countFld_other (s : State) (i a hi lo n j b : Nat) (h : regKey j b ≠ regKey i a)
    (h' : regKey j b ≠ regKey 0 (a / 0x1000 * 0x1000 + Reg.PG_INT_RAW)) : rd (countFld s i a hi lo n) j b = rd s j b := by
  simp only [countFld]
  split
  · rfl
  · simp only [apply_ite (fun t => rd t j b), raiseInt, rd_raiseBits, if_neg h', setFld, rd_wr_other _ _ _ _ _ _ h, ite_self]

/-! ## Error records -/

/-- From `s` to `t` only the error records held and counted change, register words, vectors, and what leaves the device. -/
def RecordsOnly (s t : State) : Prop :=
  t = { s with out := t.out, regs := t.regs, err := t.err, pld := t.pld, host := { s.host with vecs := t.host.vecs } }

theorem RecordsOnly.refl (s : State) : RecordsOnly s s := rfl

theorem RecordsOnly.of_regs {s t : State} (h : RegsOnly s t) : RecordsOnly s t := by
  unfold RecordsOnly
  rw [h]

theorem RecordsOnly.trans {s t u : State} (h : RecordsOnly s t) (k : RecordsOnly t u) : RecordsOnly s u := by
  unfold RecordsOnly at *
  rw [k, h]

/-- No error ring is in use (R484). -/
def ringOff (s : State) : Bool := !bit (rd s 0 (hub Pg.RST Reg.ERR_RING_CTL)) 31

theorem ringOff_of_regs {s t : State} (h : t.regs = s.regs) : ringOff t = ringOff s := by
  simp only [ringOff, rd_of_regs s t _ _ h]

/-- Without an error ring nothing is written (R484). -/
theorem ringWrite_off {s : State} (h : ringOff s = true) (r : ErrRec) : ringWrite s r = s := by
  simp only [ringOff] at h
  simp [ringWrite, h]

theorem ringOff_holdRecord (s : State) (r : ErrRec) : ringOff (holdRecord s r) = ringOff s := ringOff_of_regs rfl

theorem ringOff_setErr (s : State) (x : ErrState) : ringOff { s with err := x } = ringOff s := ringOff_of_regs rfl

theorem recordsOnly_setErr (s : State) (x : ErrState) : RecordsOnly s { s with err := x } := rfl

theorem recordsOnly_deliverCorrected (s : State) : RecordsOnly s (deliverCorrected s) := by
  have h := RecordsOnly.of_regs (regsOnly_countFld s 0 (hub Pg.RST Reg.ERR_CNT_CE) 31 0 1)
  simp only [deliverCorrected]
  split
  · exact h.trans rfl
  · exact h

theorem recordsOnly_deliverDeferred (s : State) : RecordsOnly s (deliverDeferred s) :=
  .of_regs ((regsOnly_countFld s 0 _ 31 0 1).trans (regsOnly_raiseVector _ _))

theorem recordsOnly_deliverContained (s : State) (e : ErrEvent) (r : ErrRec) : RecordsOnly s (deliverContained s e r) := by
  have h := RecordsOnly.of_regs
    ((regsOnly_countFld s 0 (hub Pg.RST Reg.ERR_CNT_UC) 31 0 1).trans (regsOnly_raiseVector _ 1025))
  simp only [deliverContained]
  split
  · exact h.trans rfl
  · exact h

/-- A record short of a fatal one, delivered where no error ring is in use (R484, R485). -/
theorem recordsOnly_deliver {s : State} {e : ErrEvent} (n : Nat) (hs : e.sev < 3) (h : ringOff s = true) :
    RecordsOnly s (deliver s e n) := by
  have hold (r : ErrRec) : RecordsOnly s (noteRecord (ringWrite (holdRecord s r) r) e r) := by
    rw [ringWrite_off ((ringOff_holdRecord s r).trans h)]
    rfl
  simp only [deliver]
  split
  · exact (hold _).trans (recordsOnly_deliverCorrected _)
  · split
    · exact (hold _).trans (recordsOnly_deliverDeferred _)
    · split
      · exact (hold _).trans (recordsOnly_deliverContained _ _ _)
      · omega

/-- A corrected record leaves the use of the error ring as it is. -/
theorem ringOff_deliver {s : State} {e : ErrEvent} (n : Nat) (hs : e.sev = 0) (h : ringOff s = true) :
    ringOff (deliver s e n) = true := by
  have hc (u : State) : ringOff (deliverCorrected u) = ringOff u := by
    have hu : ringOff (countFld u 0 (hub Pg.RST Reg.ERR_CNT_CE) 31 0 1) = ringOff u := by
      simp only [ringOff]
      rw [rd_countFld_other _ _ _ _ _ _ _ _ (by decide) (by decide)]
    simp only [deliverCorrected]
    split
    · exact (ringOff_of_regs rfl).trans hu
    · exact hu
  simp only [deliver, hs, if_true, hc]
  rw [ringWrite_off ((ringOff_holdRecord s _).trans h)]
  exact (ringOff_of_regs rfl).trans h

/-- An error short of a fatal one, raised where no error ring is in use: nothing but records, register words, vectors and what
leaves the device changes (R479, R483-R485). -/
theorem recordsOnly_raiseError {s : State} {e : ErrEvent} (hs : e.sev < 3) (h : ringOff s = true) :
    RecordsOnly s (raiseError s e) := by
  have opened {u : State} (hu : RecordsOnly s u) (hb : ringOff u = true) : RecordsOnly s (openCoalWin u e) :=
    hu.trans ((recordsOnly_setErr u _).trans (recordsOnly_deliver 1 hs ((ringOff_setErr u _).trans hb)))
  simp only [raiseError]
  split
  · exact recordsOnly_deliver 1 hs h
  · split
    · exact opened (.refl s) h
    · split
      · rfl
      · have hb (x : ErrState) : ringOff { s with err := x } = true := (ringOff_setErr s x).trans h
        unfold deliverWindow
        split
        · exact opened (recordsOnly_setErr s _) (hb _)
        · exact opened ((recordsOnly_setErr s _).trans (recordsOnly_deliver _ (Nat.zero_lt_succ 2) (hb _))) (ringOff_deliver _ rfl (hb _))

/-! ## A cell's contents -/

/-- From `s` to `t` only cells change. -/
def CellsOnly (s t : State) : Prop := t = { s with cells := t.cells }

theorem cellsOnly_setImg (s : State) (cell ctx : Nat) (i : CellImg) : CellsOnly s (setImg s cell ctx i) := by
  unfold setImg
  split <;> rfl

/-- Setting a context's contents of a cell leaves them where they stand. -/
theorem placeOf_setImg (s : State) (cell ctx : Nat) (i : CellImg) :
    placeOf (setImg s cell ctx i) cell ctx = placeOf s cell ctx := by
  unfold setImg
  split
  · next h => rw [h]; simp [placeOf]
  · have ho (x : Cell) : ownerOf (s.setCell cell x) cell = ownerOf s cell := rfl
    have hc (x : Cell) : (s.setCell cell x).cell cell = x := by simp
    simp only [placeOf, ho, hc]
  · rfl

/-- Contents set where a context has some stand there. -/
theorem imgOf_setImg (s : State) (cell ctx : Nat) (i : CellImg) (h : placeOf s cell ctx ≠ none) :
    imgOf (setImg s cell ctx i) cell ctx = some i := by
  unfold imgOf
  rw [placeOf_setImg]
  unfold setImg
  split
  · simp
  · simp
  · next hp => exact absurd hp h

/-- An operation changed: only the cell that holds it changes. -/
theorem cellsOnly_mapOp (s : State) (cell ctx op : Nat) (f : Op → Op) : CellsOnly s (mapOp s cell ctx op f) := by
  unfold mapOp
  split
  · rfl
  · exact cellsOnly_setImg s cell ctx _

theorem cellsOnly_doneOp (s : State) (cell ctx : Nat) (o : Op) : CellsOnly s (doneOp s cell ctx o) := cellsOnly_mapOp s cell ctx _ _

theorem cellsOnly_waitOp (s : State) (cell ctx : Nat) (o : Op) : CellsOnly s (waitOp s cell ctx o) := cellsOnly_mapOp s cell ctx _ _

/-! ## The count -/

/-- The cycles that a cell's tracks waited: its two counters (R74). -/
theorem regsOnly_addWaits (s : State) (cell : Nat) : RegsOnly s (addWaits s cell) := by
  simp only [addWaits]
  have h : RegsOnly s (if (if (s.cell cell).img.started then (s.cell cell).img.tracks.map (trackWaits s cell (s.cell cell).img)
      else []).contains (true, false, false) then count s (cseqReg cell Reg.CSEQ_WAIT_TOKEN_CYC) (tickCycles s cell) else s) :=
    RegsOnly.of_ite (regsOnly_count s _ _) (.refl s)
  exact RegsOnly.of_ite (h.trans (regsOnly_count _ _ _)) h

/-- From `s` to `t` only register words and match units change, and vectors are sent. -/
def CountersOnly (s t : State) : Prop :=
  t = { s with regs := t.regs, mtus := t.mtus, host := { s.host with vecs := t.host.vecs } }

theorem CountersOnly.of_regs {s t : State} (h : RegsOnly s t) : CountersOnly s t := by
  unfold CountersOnly
  rw [h]

theorem CountersOnly.trans {s t u : State} (h : CountersOnly s t) (k : CountersOnly t u) : CountersOnly s u := by
  unfold CountersOnly at *
  rw [k, h]

theorem countersOnly_addMatchWaits (s : State) (die : Nat) (cells : List Nat) : CountersOnly s (addMatchWaits s die cells) := by
  simp only [addMatchWaits]
  split
  · exact CountersOnly.trans (t := s.setMtu die _) rfl (.of_regs (regsOnly_count _ _ _))
  · rfl

/-- What is kept by each step of a fold is kept by the fold. -/
theorem countersOnly_foldl {α : Type} (f : State → α → State) (h : ∀ s x, CountersOnly s (f s x)) (l : List α) (s : State) :
    CountersOnly s (l.foldl f s) := by
  induction l generalizing s with
  | nil => rfl
  | cons x t ih => exact (h s x).trans (ih (f s x))

/-- The cycles counted for an interval of the count change counters, and how long the match units' requests have waited. -/
theorem countersOnly_addCycles (s : State) : CountersOnly s (addCycles s) := by
  simp only [addCycles]
  exact (countersOnly_foldl _ (fun s x => .of_regs (regsOnly_addWaits s x)) _ s).trans
    (countersOnly_foldl _ (fun s d => countersOnly_addMatchWaits s d _) _ _)

/-- The next count: one more, and of the rest only counters, the match units' waits and the freshly updated counters change. -/
theorem nextCount_eq (s : State) :
    nextCount s = { s with
      regs := (addCycles s).regs
      mtus := (addCycles s).mtus
      host := { s.host with vecs := (addCycles s).host.vecs }
      cic := { s.cic with count := s.cic.count + 1 }
      boot := { s.boot with fresh := s.boot.fresh.filter fun p => cellClockStopped s p.1 } } := by
  simp only [nextCount]
  rw [countersOnly_addCycles s]

end Sys2Proof.Machine
end

