-- ==== Sys2Proof/Laws/Steps.lean ====
section
/-!
SUPPORT. What the shared shapes of a command answer: a check that holds, an access that reaches its register, a command's row and
an operation's row.
-/

namespace Sys2Proof.Machine

@[simp] theorem run_true (t : State) : run true t = .next t := rfl

theorem run_ok {b : Bool} (h : b = true) (t : State) : run b t = .next t := by simp [h]

theorem viaReg_ok {s : State} {src : Source} {a : Nat} (h : writeReach s src a = .ok) (t : State) : viaReg s src a t = t := by
  simp [viaReg, h]

/-- A row that a register write asks for, where the write reaches its register. -/
theorem run_viaReg {s : State} {src : Source} {a : Nat} (h : Reaches s src a) (t : State) :
    run (okSource src) (viaReg s src a t) = .next t := by simp [viaReg_ok h.2, h.1]

/-- The same with one more operand checked. -/
theorem run_viaReg_and {s : State} {src : Source} {a : Nat} {b : Bool} (h : Reaches s src a) (hb : b = true) (t : State) :
    run (okSource src && b) (viaReg s src a t) = .next t := by simp [viaReg_ok h.2, h.1, hb]

end Sys2Proof.Machine
end

