-- ==== Sys2Proof/Tests/Slice0.lean ====
section
/-!
SUPPORT. Tests: the smoke test of well-formedness, small checks against the manual's own numbers, and for every statement with
hypotheses concrete states and operands that meet them.
-/

namespace Sys2Proof.Tests

set_option Elab.async false

open Sys2Proof Sys2Proof.Machine

/-! ## States to test on -/

/-- The block once boot stage 8 is complete, with the store in service. -/
def up : State :=
  { State.reset with
    boot := { State.reset.boot with stage := 8 }
    sec := { State.reset.sec with armed := true, udsClosed := true, identity := true }
    pld := { State.reset.pld with st := 1, bankA := true, bankB := true }
    cic := { State.reset.cic with unloaded := [] } }

/-- Context 3 as the tests have it: live, claimed, its queue of 256 commands at 0x10000, owning the cells 0 to 3. -/
def ctx3 : Ctx :=
  { Ctx.idle with live := true, claimed := true, desc := { Ctx.idle.desc with cqLog2 := 8, cqBase := 0x10000, fqLog2 := 4, cellSet := 15, streamLimit := 16 } }

/-- `up` with context 3 live. -/
def one : State := up.setCtx 3 ctx3

/-- `up` with `c` as context 3. -/
def withCtx (c : Ctx) : State := up.setCtx 3 c

/-- A state with registers written. -/
def poke (s : State) (l : List (Nat × Nat)) : State := l.foldl (fun s p => wr s 0 p.1 p.2) s

/-- A state whose count stands at `n`. -/
def at_ (s : State) (n : Nat) : State := { s with cic := { s.cic with count := n } }

/-- Fields at byte offsets of a word. -/
def word (l : List (Nat × Nat)) : Nat := l.foldl (fun a p => a + p.2 * 2 ^ (8 * p.1)) 0

/-- A state with little-endian words put into memory: address, bytes, value. -/
def put (s : State) (l : List (Nat × Nat × Nat)) : State :=
  { s with mem := l.foldl (fun m p => memPut m p.1 p.2.1 p.2.2) s.mem }

/-- A state in which every unit holds a translation of context 3's first 1 GiB to device memory. -/
def mapped (s : State) : State :=
  { s with xlt := { s.xlt with tlb := (List.range 32).map fun u =>
      (u, [{ ctx := 3, root := 0, host := false, va := 0, bytes := 2 ^ 30, space := 0, pa := 0, perm := 0xFF, mark := .used }]) } }

/-- A command of context 3 at ring index 0. -/
def cmd (l : List (Nat × Nat)) : Cmd :=
  { index := 0, raw := word l, stage := .fetched, tested := false, waits := 0, base := 0, begun := 0, ended := 0, flagged := false }

/-- A state whose context 3 has commands in its queue, and its memory mapped. -/
def queued (l : List Cmd) : State := mapped (withCtx { ctx3 with cmds := l })

/-- `queued` with words in memory. -/
def loaded (l : List Cmd) (m : List (Nat × Nat × Nat)) : State := put (queued l) m

/-- An operation of track 0 with its opcode, fields, inputs and outputs. -/
def op (code : Nat) (l : List (Nat × Nat)) (ins outs : List (Nat × Bind)) : Op :=
  { id := 5, track := 0, desc := 0, raw := word ((3, code) :: l), ins := ins, outs := outs, stage := .fired, queued := false, at_ := 0, left := 0,
    issued := 0, word := none, wrote := none, target := none }

/-- Contents of a cell in which a program runs. -/
def img : CellImg := { CellImg.idle with started := true }

/-- `one` with contents in cell 3, run by context 3. -/
def celled (i : CellImg) : State := (mapped one).setCell 3 { Cell.idle with runner := some 3, img := i }

/-- Cell 3 with one operation. -/
def oping (o : Op) : State := celled { img with ops := [o] }

/-- A counter bound to 16 slots of 256 bytes at 0x1000. -/
def counter (v : Nat) : Counter := { Counter.idle with bound := true, slots := 16, size := 1, base := 0x1000, value := v }

/-! ## Witnesses: the queue and what every step keeps -/

theorem witness_StepRunsTheFrontCommand : up.pending = [] := rfl

theorem witness_WellFormedCommandsComplete : Instr.cicadaTick.wellFormed = true ∧ (∀ src r, Instr.cicadaTick ≠ .rcRegisterRead src r) ∧
    (∀ src r, Instr.cicadaTick ≠ .loReadLatch src r) ∧ (∀ src a v, Instr.cicadaTick ≠ .hiWrite src a v) ∧
    (∀ src a v, Instr.cicadaTick ≠ .registerWrite src a v) ∧ ∀ h a, Instr.cicadaTick ≠ .hartAccess h a :=
  ⟨by decide, nofun, nofun, nofun, nofun, nofun⟩

/-- `up` with a tick in its queue. -/
abbrev ticking : State := { up with pending := [.cicadaTick, .wait 3] }

theorem witness_EveryStepKeepsCanonicalForm : Canonical ticking ∧ ∃ t, step ticking = .next t := ⟨by decide +kernel, _, rfl⟩

theorem witness_EveryStepTakesOneCommand : QueueWellFormed ticking ∧ ∃ t, step ticking = .next t := ⟨by decide +kernel, _, rfl⟩

/-- `ticking` of a part that has been retired. -/
abbrev retired : State := { ticking with sec := { ticking.sec with fuses := { ticking.sec.fuses with retired := true } } }

theorem witness_EveryStepKeepsOutputsAndTheRetiredFuse : Retired retired ∧ ∃ t, step retired = .next t := ⟨by decide +kernel, _, rfl⟩

/-! ## Witnesses: boot, resets, rails and time -/

theorem witness_ColdResets : Reaches up .i3c (rstReg Reg.RST_CMD) ∧ (Source.host 1 ≠ .i3c ∧ Reaches up (.host 1) (rstReg Reg.RST_CMD)) ∧
    regKey 1 0 ≠ regKey 0 (rstReg Reg.RST_CAUSE) := by decide +kernel

/-- A state of boot with `n` stages complete. -/
def stage (n : Nat) : State := { up with boot := { up.boot with stage := n } }

theorem witness_RomStageStartsOrStops : atStage State.reset 1 = true ∧ State.reset.sec.udsClosed = false ∧ State.reset.sec.fuses.retired = false := by
  decide +kernel

/-- A store that is read and holds no erase in progress. -/
def store : StoreObs := ⟨false, false, false, 5000, [], [], [], []⟩

/-- What boot stage 2 makes of `stage 1`, before it is complete. -/
def early : State :=
  let r := replayErase (latchedAlarm (restoreCounts (bootNumber (latchedTrip (openStore (stage 1) store))))) store.stuck
  if r.pld.heldNow then flushSecLog r 4 66 else flushSecLog r 6 (r.pld.held.length / 63)

theorem witness_BootStages_2 : atStage (stage 1) 1 = true ∧ (stage 1).sec.udsClosed = true ∧ early.boot.stopped = false ∧
    refusal (setFld { early with boot := { early.boot with level := featureLevel early } } 0 (pkgReg Reg.PKG_FEATURE) 15 0
      (featureLevel early)) = none := by decide +kernel

theorem witness_BootStages_3 : atStage (stage 2) 2 = true ∧
    (((trainAll (stage 2) []).iface 14).st ≠ 2 ∨ ((trainAll (stage 2) []).iface 15).st ≠ 2) := by decide +kernel

theorem witness_BootStages_4_to_8 : atStage (stage 3) 3 = true ∧ atStage (stage 4) 4 = true ∧ (stage 4).offline 8 = false ∧
    atStage (stage 5) 5 = true ∧ atStage (stage 6) 6 = true ∧ atStage (stage 7) 7 = true := by decide +kernel

theorem witness_RailsThermalAndClockEvents_1 : up.boot.railDown = false ∧ { up.boot with railDown := true }.railDown = true ∧
    up.boot.warmBusy = false ∧ up.boot.drainUntil = none ∧ drained up = true ∧ up.sec.erase = none ∧ { up.pwr with pdReq := true }.pdReq = true ∧
    okHoldObs .held = true ∧ okHoldObs (.cut 1) = true := by decide +kernel

theorem witness_RailsThermalAndClockEvents_2 : okDie 15 = true ∧ okDie 24 = true ∧ up.pwr.thermTrip = false ∧
    { up.pwr with emergency := true }.emergency = true ∧ (at_ up 1250000).pwr.coolAt + 1250000 ≤ (at_ up 1250000).cic.count ∧
    (∀ d ∈ dieCodes, tempOf up d ≤ 1600) ∧ clockStopped up 2 3 0 = false ∧
    clockStopped up 0 8 0 = false ∧ clockStopped up 0 9 0 = false ∧
    up.pwr.agedAt + 1440 ≤ powerMinutes (at_ up (1440 * 7500000000)) ∧ powerMinutes up < up.pwr.agedAt + 1440 := by decide +kernel

theorem witness_Cicada_1 : (at_ up 65535).cic.count % 65536 ≠ 0 ∧ (at_ up 65536).cic.count % 65536 = 0 ∧ (64 * 31) / 64 ∈ dieCodes ∧
    (64 * 31) / 64 ∉ (at_ up 65536).cic.unloaded ∧ (∀ p ∈ (at_ up 65536).cic.hold, p.2 + 2 ≤ (at_ up 65536).cic.count) ∧ ((-2 : Int) < -1 ∨ 1 < (-2 : Int)) := by decide +kernel

/-- `up` with timer 7 armed at count 1,000 with a period. -/
def armed (period count : Nat) : State :=
  at_ (wr (wr (wr up 7 (tmr Reg.CIC_TMR_CTL) (2 ^ 31)) 7 (tmr Reg.CIC_TMR_CMP_LO) 1000) 7 (tmr Reg.CIC_TMR_PERIOD) period) count

theorem witness_Cicada_2 : bit (rd (armed 0 1000) 7 (tmr Reg.CIC_TMR_CTL)) 31 = true ∧
    rd64 (armed 0 1000) 7 (tmr Reg.CIC_TMR_CMP_LO) ≤ (armed 0 1000).cic.count ∧ rd (armed 0 1000) 7 (tmr Reg.CIC_TMR_PERIOD) = 0 ∧
    bit (rd (armed 9 1009) 7 (tmr Reg.CIC_TMR_CTL)) 31 = true ∧ rd (armed 9 1009) 7 (tmr Reg.CIC_TMR_PERIOD) ≠ 0 ∧
    rd64 (armed 9 1009) 7 (tmr Reg.CIC_TMR_CMP_LO) ≤ (armed 9 1009).cic.count ∧
    (armed 9 1009).cic.count ≤ rd64 (armed 9 1009) 7 (tmr Reg.CIC_TMR_CMP_LO) + rd (armed 9 1009) 7 (tmr Reg.CIC_TMR_PERIOD) ∧
    (armed 0 999).cic.count < rd64 (armed 0 999) 7 (tmr Reg.CIC_TMR_CMP_LO) ∧ bit (rd up 7 (tmr Reg.CIC_TMR_CTL)) 31 = false ∧
    Reaches up (.hart 95) (tmr Reg.CIC_TMR_CMP_HI) := by decide +kernel

/-- `up` with the watchdog enabled, at a stage, its period over. -/
def barking (st : Nat) : State := wr up 0 (hub Pg.CIC Reg.CIC_WDT_CTL) (2 ^ 31 + 2 ^ 30 + st * 2 ^ 28)

theorem witness_Cicada_3 : Reaches up (.host 0) (hub Pg.CIC Reg.CIC_WDT_KICK) ∧ Reaches up .i3c (hub Pg.CIC Reg.CIC_WDT_CTL) ∧
    bit (2 ^ 31) 31 = true ∧ bit (2 ^ 30) 31 = false ∧ bit (rd up 0 (hub Pg.CIC Reg.CIC_WDT_CTL)) 31 = false ∧
    bit (rd (barking 0) 0 (hub Pg.CIC Reg.CIC_WDT_CTL)) 31 = true ∧ (barking 0).cic.wdtAt ≤ (barking 0).cic.count ∧
    (barking 0).boot.warmBusy = false ∧ fld (barking 0) 0 (hub Pg.CIC Reg.CIC_WDT_CTL) 29 28 = 0 ∧
    bit (rd (barking 1) 0 (hub Pg.CIC Reg.CIC_WDT_CTL)) 30 = true ∧ fld (barking 1) 0 (hub Pg.CIC Reg.CIC_WDT_CTL) 29 28 = 1 ∧
    (at_ up (7500000000 * 60)).cic.committedAt + 60 ≤ bootMinutes (at_ up (7500000000 * 60)) := by decide +kernel

/-! ## Witnesses: power, warm and block resets -/

theorem witness_EnergyAccounts : up.pwr.sampleAt ≤ up.cic.count ∧ up.cic.count < { up.pwr with sampleAt := 1 }.sampleAt := by decide +kernel

theorem witness_PowerLoops_due : up.pwr.fastAt ≤ up.cic.count ∧ up.cic.count < { up.pwr with fastAt := 1 }.fastAt ∧ up.pwr.capAt ≤ up.cic.count ∧
    up.cic.count < { up.pwr with capAt := 1 }.capAt ∧ (∀ p ∈ [(8, 10 ^ 9)], okControlled p.1 = true) ∧ railOver up [(8, 10 ^ 9)] 8 = true ∧
    railOver up [(8, 10 ^ 9)] 15 = false := by decide +kernel

theorem witness_PowerLoops : (∀ d ∈ [1, 8, 15], d = 1 ∨ d ∈ cellDieCodes) ∧ 8 + 7 ∈ [1, 8, 15] ∧ 8 + 1 ∉ [1, 8, 15] ∧ (up.die 9).raiseAt ≤ up.cic.count ∧
    ({ up.die 9 with curCeil := 14 }.curCeil < 15) ∧ (∀ d ∈ [2, 15], d ∈ dieCodes) := by decide +kernel

theorem witness_PowerLoops_held : up.cic.count < ((up.setDie 9 { up.die 9 with raiseAt := 1 }).die 9).raiseAt := by decide +kernel

theorem witness_EstimatorAndMargins : up.pwr.suspect = false ∧ firstRunning (dieCodes.foldl (fun s d => s.setDie d { s.die d with firstRun := false }) up) = false ∧ 15 ∈ dieCodes ∧ 15 ∈ cellDieCodes ∧
    Reaches up (.host 0) (pwrReg Reg.PWR_CTL) ∧ { up.sec with guestOn := true }.guestOn = true ∧ up.sec.guestOn = false := by decide +kernel

theorem witness_WarmReset : Reaches up (.host 0) (rstReg Reg.RST_CMD) ∧ up.boot.warmBusy = false ∧ up.boot.stopped = false ∧
    up.boot.railDown = false ∧ 2 ≤ up.boot.stage ∧ { up.err with escalateAt := some 0 }.escalateAt = some 0 ∧ 0 ≤ up.cic.count ∧ up.err.stuck = false ∧
    { up.boot with warmBusy := true }.warmBusy = true ∧ up.boot.drainUntil = none ∧ up.sec.erase = none ∧
    { up.sec with erase := some { step := 2, level := 2, sensor := 0, blocks := [] } }.erase ≠ none := by decide +kernel

/-- `up` with RST_CMD naming a die and a cluster. -/
def target (die cluster : Nat) : State := wr up 0 (rstReg Reg.RST_CMD) (die * 2 ^ 16 + cluster * 2 ^ 8)

theorem witness_BlockReset : (∀ d ∈ [0, 1, 8, 15, 16, 19, 20], Reaches (target d 24) .i3c (rstReg Reg.RST_CMD) ∧
      fld (setFld (target d 24) 0 (rstReg Reg.RST_CMD) 26 24 2) 0 (rstReg Reg.RST_CMD) 21 16 = d) ∧
    fld (setFld (target 1 24) 0 (rstReg Reg.RST_CMD) 26 24 2) 0 (rstReg Reg.RST_CMD) 12 8 = 24 ∧
    fld (setFld (target 1 23) 0 (rstReg Reg.RST_CMD) 26 24 2) 0 (rstReg Reg.RST_CMD) 12 8 = 23 ∧ (target 1 23).boot.warmBusy = false ∧
    (target 1 23).boot.busyKind < 2 ∧ (target 1 23).boot.stopped = false ∧ (target 1 23).boot.railDown = false ∧
    buffersLeft (target 1 23) (hartsOf 23) = false := by decide +kernel

/-- `up` with the idle test enabled and a coalescing window over. -/
def idling : State :=
  { at_ (wr up 0 (rstReg Reg.ST_IDLE_CTL) (2 ^ 31)) (60 * 7500000000) with err := { up.err with windows := [⟨0x0301, 24, 3, 2, 0⟩, ⟨0x0301, 24, 4, 0, 9⟩] } }

theorem witness_IdleTests : fld idling 0 (rstReg Reg.ST_IDLE_CTL) 31 31 = 1 ∧ ownerOf idling 319 = none ∧ (idling.cell 319).runner = none ∧
    idling.offline (8 + 319 / 40) = false ∧ (ownerOf one 3).isSome = true ∧ (0 : Nat) ≤ idling.cic.count ∧
    tget (fun _ => 0) idling.boot.tested 319 + 60 * max 1 (fld idling 0 (rstReg Reg.ST_IDLE_CTL) 7 0) ≤ powerMinutes idling ∧
    powerMinutes up < tget (fun _ => 0) up.boot.tested 319 + 60 * max 1 (fld up 0 (rstReg Reg.ST_IDLE_CTL) 7 0) := by decide +kernel

theorem witness_CoalesceEnd : idling.err.windows = ⟨0x0301, 24, 3, 2, 0⟩ :: [⟨0x0301, 24, 4, 0, 9⟩] ∧
    ∀ x ∈ [(⟨0x0301, 24, 4, 0, 9⟩ : CoalWin)], x.type = 0x0301 → x.die = 24 → x.inst ≠ 3 := by decide +kernel

/-! ## Witnesses: contexts and command queues -/

/-- `up` with a context descriptor at 0x1000 and CTXM_DESC naming it: a context that owns cell 319, with a phase table at `ph`. -/
def creating (version ph entry : Nat) : State :=
  mapped (put (wr up 0 (hub Pg.CTXM Reg.CTXM_DESC_LO) 0x1000)
    [(0x1000, 256, word [(0, version * 2 ^ 24), (4, 0x0406), (0x28, ph), (0x40, 2 ^ 319)]), (0x2000, 32, entry)])

/-- The code that CREATE of an id finds, and the phase table. -/
def created (s : State) (id : Nat) : Nat × Option (List PhaseEntry) :=
  let u := ctxmWrite s 1 id
  let raw := devLE u 0x1000 256
  let d := CtxDesc.ofRaw raw
  let new := { Ctx.idle with live := true, desc := d, claimed := true, token := u.sec.nextKey + 1, tokenReady := true }
  (createCode u id 0x1000 raw d, (createPhases (u.setCtx id new) id d.phaseTable).2)

theorem witness_Create : Reaches (creating 2 0 0) (.host 0) ctxmCmd ∧ rd64 (ctxmWrite (creating 2 0 0) 1 3) 0 (hub Pg.CTXM Reg.CTXM_DESC_LO) = 0x1000 ∧
    (created (creating 4 0 0) 63).1 ≠ 0 ∧ (created (creating 2 0 0) 0).1 = 0 ∧ (created (creating 2 0 0) 0).2.isSome = true ∧
    (created (creating 3 0x2000 (2 ^ 31 + 1)) 3).1 = 0 ∧ (created (creating 3 0x2000 (2 ^ 31 + 1)) 3).2 = none := by decide +kernel

theorem witness_ContextOperations : Reaches one (.host 0) ctxmCmd ∧ (one.ctx 3).live = true ∧ (one.ctx 3).claimed = true ∧ (one.ctx 63).live = false ∧
    rd64 (ctxmWrite one 5 3) 3 (pwrReg Reg.PWR_CTX_BUDGET_LO) = 0 ∧ cellsQuiet (stopCells (ctxmWrite one 2 3) 3) 3 = true ∧
    ((withCtx { ctx3 with claimed := false }).ctx 3).claimed = false ∧ ((withCtx { ctx3 with claimed := false }).ctx 3).live = true := by
  decide +kernel

/-- Cell 3 with a MOVE that has been fired. -/
def copying : State := oping (op 0x10 [] [] [])

theorem witness_EndingWaits : (copying.ctx 3).live = true ∧ cellsQuiet (stopCells (ctxmWrite copying 2 3) 3) 3 = false ∧
    (let s := one.setCtx 3 { ctx3 with ending := 2 }
     (s.ctx 3).ending = 2 ∧ cellsQuiet s 3 = true) ∧ ({ ctx3 with ending := 4 } : Ctx).ending = 4 := by decide +kernel

/-- Context 3 with a budget of 1 mJ that it has reached. -/
def spent : State := wr64 (withCtx { ctx3 with energyUsed := 1000000 }) 3 (pwrReg Reg.PWR_CTX_BUDGET_LO) 1

theorem witness_ContextOperations_budget : rd64 (ctxmWrite spent 5 3) 3 (pwrReg Reg.PWR_CTX_BUDGET_LO) ≠ 0 ∧
    rd64 (ctxmWrite spent 5 3) 3 (pwrReg Reg.PWR_CTX_BUDGET_LO) ≤ (spent.ctx 3).energyUsed / 1000000 := by decide +kernel

theorem witness_DoorbellWindow : Reaches one (.host 1) (dbAddr 3 Reg.CQ_DOORBELL) ∧ (one.ctx 3).live = true ∧ (one.ctx 3).claimed = true ∧
    (one.ctx 3).producer < 2 ^ 32 ∧ 2 ^ (one.ctx 3).desc.cqLog2 - (0 + 2 ^ 32 - (one.ctx 3).consumer) % 2 ^ 32 = 256 ∧
    0 < (256 + 2 ^ 32 - 0) % 2 ^ 32 ∧ 256 < (257 + 2 ^ 32 - 0) % 2 ^ 32 ∧ 256 < (2 ^ 32 - 1 + 2 ^ 32 - 0) % 2 ^ 32 := by decide +kernel

/-- Context 3 with one command rung, a NOP at the ring's start. -/
def rung : State := mapped (withCtx { ctx3 with producer := 1 })

theorem witness_Fetch : rung.boot.warmBusy = false ∧ rung.boot.fatal = false ∧ (rung.ctx 3).live = true ∧ (rung.ctx 3).halted = false ∧
    (rung.ctx 3).producer ≠ (rung.ctx 3).consumer ∧ (rung.ctx 3).cmds = [] ∧ (rung.ctx 3).ran = [] ∧ (rung.ctx 3).countDue = none ∧
    (rung.ctx 3).ending = 0 ∧ nextUnissued ((queued [cmd []]).ctx 3) = some (cmd []) ∧
    ((withCtx { ctx3 with producer := 1, ran := [0] }).ctx 3).ran.contains 0 = true ∧ (fetchRead rung 3 0x10000).2.isSome = true ∧
    (cmd [(0, leNat ((fetchRead rung 3 0x10000).2.getD []))]).commonCode = 0 := by decide +kernel

theorem witness_FetchResumeAndComplete : (one.ctx 3).producer = (one.ctx 3).consumer ∧ (one.ctx 0).live = false ∧
    ((withCtx { ctx3 with halted := true }).ctx 3).halted = true ∧ Reaches (withCtx { ctx3 with halted := true }) (.hart 0) (dbAddr 3 Reg.CQ_RESUME) ∧
    ((withCtx { ctx3 with cmds := List.replicate 16 (cmd []) }).ctx 3).cmds.length = 16 ∧
    { cmd [(0, 2 ^ 12)] with stage := CmdStage.performed }.stage = .performed ∧ (cmd [(0, 2 ^ 12)]).flagOnDone = false ∧
    copiesOpen one (one.ctx 3).copies = false ∧ (cmd [(0, 2 ^ 12)]).irqOnDone = true ∧ ({ cmd [] with index := 1 } : Cmd).index ≠ 0 := by decide +kernel

theorem witness_Issues : Issues (queued [cmd []]) 3 0 (cmd []) := by decide +kernel

theorem witness_IssueHeld : nextUnissued ((queued [cmd [(0, 2 ^ 9), (8, 1)]]).ctx 3) = some (cmd [(0, 2 ^ 9), (8, 1)]) ∧
    (cmd [(0, 2 ^ 9), (8, 1)]).stamped = true ∧ replica (queued []) (Rep.cmd 3) < (cmd [(0, 2 ^ 9), (8, 1)]).stamp ∧
    (cmd [(0, 2 ^ 10)]).barrier = true ∧
    nextUnissued ((queued [{ cmd [] with stage := .issued, index := 2 ^ 32 - 1 }, cmd [(0, 2 ^ 10)]]).ctx 3) = some (cmd [(0, 2 ^ 10)]) ∧
    (∃ x ∈ ((queued [{ cmd [] with stage := .issued, index := 2 ^ 32 - 1 }, cmd [(0, 2 ^ 10)]]).ctx 3).cmds, ringBefore x.index (cmd [(0, 2 ^ 10)]).index = true) ∧
    ((withCtx { ctx3 with paused := true }).ctx 3).paused = true := by decide +kernel

theorem witness_Nop : (cmd []).zeros [0x20, 0x24, 0x28, 0x2C, 0x30, 0x34, 0x38, 0x3C] = true := by decide +kernel

/-- A WAIT on the word at 0x3000 for a value of at least 7. -/
def waiting : Cmd := cmd [(0, 5), (0x20, 1), (0x28, 0x3000), (0x30, 7)]

/-- `waiting` once issued. -/
def waiting2 : Cmd := { waiting with stage := .issued }

theorem witness_Wait : Issues (loaded [waiting] [(0x3000, 8, 7)]) 3 5 waiting ∧ waiting.f 0x20 31 2 = 0 ∧ waiting.zeros [0x24, 0x38, 0x3C] = true ∧
    waiting.f 0x28 2 0 = 0 ∧
    (cmdRead (issuedState (loaded [waiting] [(0x3000, 8, 7)]) 3 waiting) 3 waiting.seq (waiting.f 0x28 63 0) 8).2.isSome = true ∧
    ((queued [waiting2]).ctx 3).cmds = [waiting2] ∧ waiting2.stage = .issued ∧ waiting2.opcode = 5 ∧
    (cmdRead (queued [waiting2]) 3 waiting2.seq (waiting2.f 0x28 63 0) 8).2.isSome = true := by decide +kernel

/-- An INVALIDATE of one page. -/
def inval : Cmd := cmd [(0, 6), (0x28, 0x5000), (0x30, 1)]

theorem witness_Invalidate : Issues (queued [inval]) 3 6 inval ∧ inval.zeros [0x20, 0x24, 0x38, 0x3C] = true ∧ inval.f 0x28 11 0 = 0 ∧ inval.waits = 0 := by decide +kernel

/-- A CELL_LOAD of 64 bytes from 0x4000 into the cells 0 to 3. -/
def cellLoad : Cmd := cmd [(0, 1), (0x20, 0 + 4 * 2 ^ 16), (0x24, 64), (0x28, 0x4000)]

theorem witness_CellLoad : Issues (queued [cellLoad]) 3 1 cellLoad ∧ cellLoad.f 0x24 31 17 = 0 ∧ cellLoad.zeros [0x30, 0x34, 0x38, 0x3C] = true ∧
    cellLoad.f 0x24 16 0 % 64 = 0 ∧ cellLoad.f 0x24 16 0 ≤ 65536 ∧
    cellRangeOk (issuedState (queued [cellLoad]) 3 cellLoad) 3 (issuedCmd (queued [cellLoad]) 3 cellLoad) = true ∧
    (cmdRead (issuedState (queued [cellLoad]) 3 cellLoad) 3 cellLoad.seq (cellLoad.f 0x28 63 0) (cellLoad.f 0x24 16 0)).2.isSome = true ∧
    cellAt one 3 3 = .ready ∧ runningIn one 3 3 = false := by decide +kernel

/-- A CELL_START of cell 3 with 64 bytes of arguments. -/
def cellStart : Cmd := cmd [(0, 2), (0x20, 3 + 1 * 2 ^ 16), (0x24, 64 * 2 ^ 16 + 1), (0x38, 0x4000)]

theorem witness_CellStart : Issues (queued [cellStart]) 3 2 cellStart ∧ cellStart.f 0x24 31 29 = 0 ∧ cellStart.f 0x24 15 8 = 0 ∧
    cellStart.f 0x24 28 16 ≤ 4032 ∧ cellStart.begun = 0 ∧ cmdCount cellStart.raw ≠ 0 ∧
    cellRangeOk (issuedState (queued [cellStart]) 3 cellStart) 3 (issuedCmd (queued [cellStart]) 3 cellStart) = true ∧
    (cmdRead (openWindow (issuedState (queued [cellStart]) 3 cellStart) 3) 3 cellStart.seq (cellStart.f 0x38 63 0) (cellStart.f 0x24 28 16)).2.isSome = true ∧
    bit 0x80 7 = true := by decide +kernel

/-- A CELL_STOP of no cell. -/
def cellStop : Cmd := cmd [(0, 3)]

/-- Context 3 with a program that runs in cell 3. -/
def running : State := (mapped one).setCell 3 { Cell.idle with runner := some 3, img := { CellImg.idle with started := true } }

theorem witness_CellStop : Issues (queued [cellStop]) 3 3 cellStop ∧ cellStop.f 0x24 31 1 = 0 ∧ cellStop.zeros [0x28, 0x2C, 0x30, 0x34, 0x38, 0x3C] = true ∧
    cmdCount cellStop.raw = 0 ∧ cellRangeOk (issuedState (queued [cellStop]) 3 cellStop) 3 (issuedCmd (queued [cellStop]) 3 cellStop) = true ∧
    cellAt running 3 3 = .ready ∧ runningIn running 3 3 = true ∧ (running.cell 3).img.started = true ∧
    cellAt (oping (op 0 [] [] [])) 3 3 = .ready ∧ runningIn (oping (op 0 [] [] [])) 3 3 = true ∧
    ((oping (op 0 [] [] [])).cell 3).img.started = true ∧ ((oping (op 0 [] [] [])).cell 3).img.ops ≠ [] ∧ (running.cell 3).img.ops = [] := by decide +kernel

/-- A PHASE_TABLE of 16 entries at 0x6000. -/
def phaseTab : Cmd := cmd [(0, 4), (0x20, 16), (0x28, 0x6000)]

theorem witness_PhaseTable : Issues (queued [phaseTab]) 3 4 phaseTab ∧ phaseTab.f 0x20 31 5 = 0 ∧ phaseTab.f 0x20 4 0 ≠ 0 ∧ phaseTab.f 0x20 4 0 ≤ 16 ∧
    phaseTab.zeros [0x24, 0x30, 0x34, 0x38, 0x3C] = true ∧
    ((cmdRead (issuedState (queued [phaseTab]) 3 phaseTab) 3 phaseTab.seq (phaseTab.f 0x28 63 0) (32 * phaseTab.f 0x20 4 0)).2.bind phasesOf).isSome = true := by
  decide +kernel

/-- A CB_TABLE_LOAD and a CB_TABLE_STORE of table 63 of cell 0. -/
def tabLoad : Cmd := cmd [(0, 0x10), (0x20, 0 + 1 * 2 ^ 16), (0x24, 1 * 2 ^ 8 + 63), (0x28, 0x6000)]
def tabStore : Cmd := cmd [(0, 0x11), (0x20, 0 + 1 * 2 ^ 16), (0x24, 1 * 2 ^ 8 + 63), (0x28, 0x6000)]

theorem witness_TableLoad : Issues (queued [tabLoad]) 3 0x10 tabLoad ∧ tabLoad.f 0x24 31 17 = 0 ∧ tabLoad.f 0x24 15 15 = 0 ∧ tabLoad.f 0x24 7 6 = 0 ∧
    tabLoad.zeros [0x30, 0x34, 0x38, 0x3C] = true ∧ tabLoad.f 0x24 14 8 ≠ 0 ∧ tabLoad.f 0x24 5 0 + tabLoad.f 0x24 14 8 ≤ 64 ∧
    cellRangeOk (issuedState (queued [tabLoad]) 3 tabLoad) 3 (issuedCmd (queued [tabLoad]) 3 tabLoad) = true ∧
    (cmdRead (issuedState (queued [tabLoad]) 3 tabLoad) 3 tabLoad.seq (tabLoad.f 0x28 63 0) (64 * tabLoad.f 0x24 14 8)).2.isSome = true := by
  decide +kernel

theorem witness_TableStore : Issues (queued [tabStore]) 3 0x11 tabStore ∧ tabStore.f 0x24 31 15 = 0 ∧ tabStore.f 0x24 7 6 = 0 ∧
    tabStore.zeros [0x30, 0x34, 0x38, 0x3C] = true ∧ cmdCount tabStore.raw = 1 ∧ tabStore.f 0x24 14 8 ≠ 0 ∧
    physOf (issuedState (queued [tabStore]) 3 tabStore) 3 (cmdFirst tabStore.raw) = some 0 ∧
    cellAt (issuedState (queued [tabStore]) 3 tabStore) 3 0 = .ready ∧
    (cmdWrite (issuedState (queued [tabStore]) 3 tabStore) 3 tabStore.seq (tabStore.f 0x28 63 0)
      (((queued [tabStore]).cell 0).img.books.images (tabStore.f 0x24 5 0) (tabStore.f 0x24 14 8))).2 = true := by decide +kernel

/-- A RESHARD. -/
def resharding : Cmd := cmd [(0, 0x0B), (0x28, 0x7000), (0x30, 0x8000), (0x38, 0x9000)]

theorem witness_Reshard : Issues (queued [resharding]) 3 0x0B resharding ∧ resharding.begun = 0 ∧ resharding.zeros [0x20, 0x24] = true ∧
    resharding.f 0x38 63 0 % 8 = 0 ∧ ∀ r ∈ (queued [resharding]).str.reshards, r.ctx ≠ 3 := by decide +kernel

/-- A COLL: a barrier of the devices 0 and 1 of a device that is 0, its descriptor at 0x6000 and its members at 0x6100. -/
def collective : Cmd := cmd [(0, 0x18), (0x28, 0x6000)]
def collecting : State :=
  let s := wr (loaded [collective] [(0x6000, 64, word [(0, 6 * 2 ^ 28 + 2), (8, 0x6100)]), (0x6100, 8, 2 ^ 32)]) 0 (hub Pg.MCH Reg.MCH_DEV_ID) (2 ^ 31)
  { s with lnk := { s.lnk with partState := 0 } }
def collectingRead : State × Option (List Byte) := cmdRead (issuedState collecting 3 collective) 3 collective.seq 0x6000 64
def collectingTab : State × Option (List Byte) := cmdRead collectingRead.1 3 collective.seq 0x6100 8
def collectingColl : Option Coll :=
  collOf collectingTab.1 3 (issuedCmd collecting 3 collective) (leNat (collectingRead.2.getD [])) ((elemsOf 4 (collectingTab.2.getD [])).map (· % 2 ^ 20))

theorem witness_Coll : Issues collecting 3 0x18 collective ∧ collective.zeros [0x20, 0x24, 0x38, 0x3C] = true ∧ collective.f 0x28 63 0 = 0x6000 ∧
    collectingRead.2.isSome = true ∧ dfield (leNat (collectingRead.2.getD [])) 0x08 63 0 = 0x6100 ∧
    4 * dfield (leNat (collectingRead.2.getD [])) 0 15 0 = 8 ∧ collectingTab.2.isSome = true ∧ collectingTab.1.lnk.colls = [] ∧ collectingTab.1.cic.unloaded = [] ∧
    enginesReady collectingTab.1 (issuedCmd collecting 3 collective) = true ∧ collective.f 0x30 2 0 = 0 ∧
    ∃ c, collectingColl = some c ∧ membersInBlock collectingTab.1 c = true ∧
      (startColl { collectingTab.1 with lnk := { collectingTab.1.lnk with colls := [c] } } c).2 = true := by
  have found : ∃ c, collectingColl = some c ∧ membersInBlock collectingTab.1 c = true ∧ (startColl { collectingTab.1 with lnk := { collectingTab.1.lnk with colls := [c] } } c).2 = true :=
    ⟨collectingColl.get (by decide +kernel), by simp, by decide +kernel, by decide +kernel⟩
  and_intros <;> first | exact found | decide +kernel

/-! ## Witnesses: streams and re-shards -/

/-- A window of device memory of 64 KiB at `base`. -/
def window (base : Nat) : Endpoint := ⟨Kind.MEMORY, 0, 0, base, 0x10000, 0, 0⟩

/-- Stream 0 of context 3 between two windows of memory, with its transfers. -/
def stream0 (l : List Xfer) : Stream := { Stream.idle with st := .live, ctx := 3, src := window 0x100000, snk := window 0x200000, xfers := l }

/-- A transfer of `len` bytes of command 0. -/
def xfer0 (len sent acked : Nat) : Xfer :=
  { Xfer.idle with len := len, sent := sent, acked := acked }

/-- A state with stream 0. -/
def streaming (cmds : List Cmd) (x : Stream) : State := (queued cmds).setStream 0 x

/-- A STREAM_CREATE between two windows of memory. -/
def streamCreate : Cmd := cmd [(0, 8), (0x28, 0x6000), (0x30, 0x7000)]
def creatingStream : State :=
  loaded [streamCreate] [(0x6000, 64, word [(0, 2 * 2 ^ 28 + 2 * 2 ^ 24), (8, 0x100000), (16, 0x10000), (0x20, 0x200000), (0x28, 0x10000)])]
def createRead : State × Option (List Byte) := cmdRead (issuedState creatingStream 3 streamCreate) 3 streamCreate.seq 0x6000 64
def createTile : State × Option (List Seg) := tileAll createRead.1 (cmdReq 3 0) true (tiles64 0x7000 8)

theorem witness_StreamCreate : Issues creatingStream 3 8 streamCreate ∧ streamCreate.zeros [0x20, 0x24, 0x38, 0x3C] = true ∧
    streamCreate.f 0x30 63 0 % 8 = 0 ∧ streamCreate.f 0x28 63 0 = 0x6000 ∧
    (∃ b, createRead.2 = some b ∧ bits (leNat b) 9 0 = 0 ∧ dfield (leNat b) 0x04 31 0 = 0 ∧ dfield (leNat b) 0x38 63 0 = 0 ∧
      endpointReserved (dfield (leNat b) 0 31 28) (dfield (leNat b) 0x08 191 0) true = false ∧
      endpointReserved (dfield (leNat b) 0 27 24) (dfield (leNat b) 0x20 191 0) false = false ∧
      (createStream createTile.1 3 (leNat b)).2 = (2 ^ 20, 0)) ∧
    (∃ l, createTile.2 = some l ∧ noPort createTile.1 l = false) := by
  refine ⟨?_, ?_, ?_, ?_, ⟨createRead.2.get (by decide +kernel), by simp, ?_⟩, ⟨createTile.2.get (by decide +kernel), by simp, ?_⟩⟩ <;>
    decide +kernel

/-- A STREAM_DESTROY, an XFER and a STREAM_QUERY of stream 0. -/
def streamDestroy : Cmd := cmd [(0, 9), (0x20, 2 ^ 20)]
def xferring : Cmd := cmd [(0, 0x0A), (0x20, 2 ^ 20), (0x24, 1024)]
def querying : Cmd := cmd [(0, 0x0C), (0x20, 2 ^ 20), (0x28, 0x6000)]

theorem witness_StreamDestroy : Issues (streaming [streamDestroy] (stream0 [])) 3 9 streamDestroy ∧ streamDestroy.begun = 0 ∧
    streamDestroy.zeros [0x24, 0x28, 0x2C, 0x30, 0x34, 0x38, 0x3C] = true ∧
    ownHandle (streaming [streamDestroy] (stream0 [])) 3 (streamDestroy.f 0x20 31 0) = true ∧
    ((streaming [streamDestroy] (stream0 [])).stream (streamDestroy.f 0x20 31 0 % 2 ^ 18)).st ≠ .destroying := by decide +kernel

theorem witness_Xfer : Issues (streaming [xferring] (stream0 [])) 3 10 xferring ∧ xferring.begun = 0 ∧ xferring.zeros [0x38, 0x3C] = true ∧
    xferring.f 0x24 30 0 ≠ 0 ∧ xferring.f 0x24 30 0 ≤ 2 ^ 30 ∧ xferring.f 0x28 63 0 % 64 = 0 ∧ xferring.f 0x30 63 0 % 64 = 0 ∧
    ownHandle (streaming [xferring] (stream0 [])) 3 (xferring.f 0x20 31 0) = true ∧
    xferRangeBad ((streaming [xferring] (stream0 [])).stream 0) (xferring.f 0x28 63 0) (xferring.f 0x30 63 0) (64 * xferring.f 0x24 30 0) = false ∧
    ((streaming [xferring] (stream0 [])).stream 0).xfers.length < 16 := by decide +kernel

theorem witness_StreamQuery : Issues (streaming [querying] (stream0 [])) 3 12 querying ∧ querying.zeros [0x24, 0x30, 0x34, 0x38, 0x3C] = true ∧
    bits (querying.f 0x20 31 0) 19 18 = 0 ∧ currentHandle (streaming [querying] (stream0 [])) (querying.f 0x20 31 0) = true ∧
    ((streaming [querying] (stream0 [])).stream (querying.f 0x20 31 0 % 2 ^ 18)).ctx = 3 ∧
    (cmdWrite (issuedState (streaming [querying] (stream0 [])) 3 querying) 3 querying.seq (querying.f 0x28 63 0)
      (queryRecord (streaming [querying] (stream0 [])) 3 (querying.f 0x20 31 0))).2 = true := by decide +kernel

/-- Stream 0 with a transfer of 64 bytes to send. -/
def sending : State := streaming [] (stream0 [xfer0 64 0 0])
def sendTile : State × Option (List Seg) := tile sending (xferReq sending 0 (xfer0 64 0 0)) 0x100000 64 false

theorem witness_PacketSend : sending.boot.warmBusy = false ∧ sending.boot.fatal = false ∧ sending.offline (2 + 0) = false ∧
    dieLoaded sending (2 + 0) = true ∧ tkeys sending.str.streams = [0] ∧
    (sending.stream 0).st = .live ∧ (sending.stream 0).home = 0 ∧ (sending.stream 0).src.kind = Kind.MEMORY ∧ (sending.stream 0).snk.kind = Kind.MEMORY ∧
    (sending.stream 0).xfers = [xfer0 64 0 0] ∧ (xfer0 64 0 0).stamp = none ∧ (xfer0 64 0 0).sent < (xfer0 64 0 0).len ∧
    (∃ l, sendTile.2 = some l ∧ ∀ g ∈ l, g.space ≠ 1) ∧ (sinkTile sendTile.1 (xferReq sending 0 (xfer0 64 0 0)) 0 0 64).2.isSome = true := by
  have tiled : ∃ l, sendTile.2 = some l ∧ ∀ g ∈ l, g.space ≠ 1 := ⟨sendTile.2.get (by decide +kernel), by simp, by decide +kernel⟩
  and_intros <;> first | exact tiled | decide +kernel

/-- A packet of stream 0 of 32 bytes. -/
def packet (fate : Nat) : Packet :=
  { id := 0, handle := 2 ^ 20, dev := 0, index := 0, xfer := some 0, dst := 0, segs := some [⟨0, 0x9000, 32, 0⟩], data := List.replicate 32 7,
    poison := [], last := true, fate := fate, sentAt := 0, fromUnit := none, copies := [] }

/-- `sending` with a packet in flight. -/
def flying (fate : Nat) : State := { sending with str := { sending.str with packets := [packet fate] } }

theorem witness_PacketReceive : (flying 0).str.packets = [packet 0] ∧ (packet 0).fate = 0 ∧ ((flying 0).stream 0).snk.kind ≠ Kind.REMOTE ∧
    (placeData (flying 0) 0 (packet 0).xfer 0 (packet 0).segs (packet 0).data []).2 = .done ∧ currentHandle up (2 ^ 20) = false ∧
    (up.stream (2 ^ 20 % 2 ^ 18)).st = .free := by decide +kernel

theorem witness_PacketAck : (flying 1).str.packets = [packet 1] ∧ (packet 1).fate = 1 ∧ (flying 2).str.packets = [packet 2] ∧ (packet 2).fate = 2 ∧
    copiesOpen (flying 1) (packet 1).copies = false ∧ ((flying 2).stream 0).st ≠ .destroying ∧ needsCredits ((flying 2).stream 0) = false := by decide +kernel

/-- A transfer to host memory, flushed, all of it acknowledged, that used both ports. -/
def flushing : State :=
  (queued []).setStream 262143 { stream0 [{ xfer0 64 64 64 with flush := true, ports := 3 }] with snk := ⟨Kind.HOST, 0, 0, 0x100000, 0x10000, 3, 0⟩ }

/-- A transfer to another device, its packet on the way for 10 ms. -/
def late : State :=
  { (flying 0).setStream 0 { stream0 [xfer0 64 64 0] with snk := ⟨Kind.REMOTE, 0, 0, 9, 0, 0, 0⟩ } with
    cic := { (flying 0).cic with count := 1250000 } }

theorem witness_TransfersEnd : ((streaming [] (stream0 [xfer0 64 64 64])).stream 0).xfers = [xfer0 64 64 64] ∧ (xfer0 64 64 64).acked = (xfer0 64 64 64).len ∧
    (xfer0 64 64 64).readbacks = 0 ∧ (xfer0 64 64 64).flush = false ∧ (flushing.stream 262143).xfers = [{ xfer0 64 64 64 with flush := true, ports := 3 }] ∧
    (flushing.stream 262143).snk.kind = Kind.HOST ∧ (∃ p ∈ late.str.packets, p.index = 0 ∧ p.xfer = some (xfer0 64 64 0).id ∧ p.sentAt + 1250000 ≤ late.cic.count) ∧
    (late.stream 0).xfers = [xfer0 64 64 0] ∧ (late.stream 0).snk.kind = Kind.REMOTE := by decide +kernel

/-- Stream 0 from a core's ring of 4 slots of 256 bytes with control block at 0x9000, of which the core has produced two. -/
def ringing : State :=
  put (streaming [] { stream0 [] with src := ⟨Kind.CORE, 0, 0, 0x8000, 4, 1, 0x9000⟩ }) [(0x9000, 8, 2)]
def ringProd : State × Option Nat := coreCount ringing (streamReq ringing 0 0 0xFFFF 0) 0x9000
def ringCons : State × Option Nat := coreCount ringProd.1 (streamReq ringing 0 0 0xFFFF 0) 0x9008

theorem witness_CoreRingPoll : (ringing.stream 0).st = .live ∧ (ringing.stream 0).prodDue = false ∧ (ringing.stream 0).consDue = false ∧
    (ringing.stream 0).src.kind = Kind.CORE ∧ (ringing.stream 0).snk.kind ≠ Kind.CORE ∧
    ringProd.2 = some 2 ∧ ringCons.2 = some 0 ∧
    min (ringCons.1.stream 0).src.size ((2 + 2 ^ 64 - 0) % 2 ^ 64)
      - ((ringCons.1.stream 0).hands.map (·.slots (ringCons.1.stream 0).src.opt)).foldl (· + ·) 0 ≠ 0 := by decide +kernel

/-- A re-shard of context 3 that has begun, with one piece that it has sent to device 9, due at count 0. -/
def reshard3 : Reshard :=
  { ctx := 3, cmd := none, mapId := 0, stamp := none, oldAt := 0, newAt := 0, result := 0, begun := true,
    pieces := [{ dev := 9, srcKind := 0, srcCell := 0, dstKind := 0, dstCell := 0, runs := [⟨0, 0, 64⟩], order := 0, floor := 0, sent := true, acked := false, done := 0, ahead := 0 }],
    ready := [], expect := [], awaitBytes := 0, deadline := some 0, places := [] }
def moving : State := { one with str := { one.str with reshards := [reshard3] } }

theorem witness_Reshards : (∃ r ∈ moving.str.reshards, r.ctx = 3 ∧ r.begun = true) ∧ (∀ r ∈ one.str.reshards, r.ctx ≠ 3) ∧ moving.str.reshards = [reshard3] ∧
    (∃ p l, reshard3.pieces = p :: l ∧ p.dev = 9 ∧ p.sent = true ∧ p.acked = false) ∧ reshard3.deadline = some 0 ∧ 0 ≤ moving.cic.count :=
  ⟨by decide +kernel, by decide +kernel, rfl, ⟨_, _, rfl, rfl, rfl, rfl⟩, rfl, by decide⟩

/-! ## Witnesses: the cell sequencer -/

/-- Contents with a descriptor in entry 0, which track 7 has reached, and two bound counters. -/
def program (d : Nat) (armed : Bool) : CellImg :=
  { img with
    prog := [(0, d)]
    counters := [(5, counter 3), (64 + 6, counter 16)]
    tracks := List.replicate 7 Track.idle ++ [{ Track.idle with active := true, armed := armed, first := true }] }

/-- The bindings that a descriptor takes on arming. -/
def bindings (d : Nat) : List Binding := (insOf d).map Prod.snd ++ (outsOf d).map Prod.snd

/-- A NOP that takes two of token counter 5 and all of credit counter 6. -/
def nopDesc : Nat := word [(0x10, 2 ^ 31 + 5 * 2 ^ 24 + 2 * 2 ^ 16), (0x20, 2 ^ 31 + 6 * 2 ^ 24 + 16 * 2 ^ 16)]

theorem witness_DescriptorArm : mayArm (celled (program nopDesc false)) 3 false = true ∧
    ((program nopDesc false).track 7).active = true ∧ ((program nopDesc false).track 7).armed = false ∧ (program nopDesc false).heldTrack 7 = false ∧
    (program nopDesc false).psetAhead 7 = false ∧ ((program nopDesc false).track 7).desc ≤ 1023 ∧ (program nopDesc false).descAt 0 = nopDesc ∧
    (bit nopDesc 15 && bit 0 (bits nopDesc 13 11) == bit nopDesc 14) = false ∧ (bindings nopDesc).any (badBinding (program nopDesc false)) = false ∧
    (bindings nopDesc).length = 2 ∧ bit nopDesc 23 = false ∧
    (bit (2 ^ 15) 15 && bit 0 (bits (2 ^ 15) 13 11) == bit (2 ^ 15) 14) = true ∧ bit (2 ^ 15) 21 = false ∧
    (bindings (word [(0x10, 2 ^ 31 + 9 * 2 ^ 24 + 2 ^ 16)])).any (badBinding (program nopDesc false)) = true := by decide +kernel

theorem witness_Fire : mayArm (celled (program nopDesc true)) 3 false = true ∧ ((celled (program nopDesc true)).cell 3).runner = some 3 ∧
    readyTrack (celled (program nopDesc true)) 3 ((program nopDesc true).track 7) = true ∧ outranked (celled (program nopDesc true)) 3 7 = false ∧
    matchOutranked (celled (program nopDesc true)) 3 7 = false ∧ ((program nopDesc true).track 7).skip = false ∧
    lacks (program nopDesc true) nopDesc false = false ∧ testsFresh (celled (program nopDesc true)) 3 nopDesc false = false ∧
    stampOf (program nopDesc true) nopDesc = none ∧ engineOf nopDesc ≠ 4 ∧ onEngine (program nopDesc true) (engineOf nopDesc) < 2 ∧
    (bindings nopDesc).any (badBinding (program nopDesc true)) = false ∧ bindKindBad nopDesc = false ∧ commonIllegal nopDesc = false ∧
    payloadIllegal nopDesc = false ∧ engineIllegal (program nopDesc true) nopDesc = false ∧ emptyFence nopDesc = false ∧
    readyTrack (celled (program nopDesc true)) 3 ((program nopDesc true).track 0) = false ∧ (program nopDesc true).heldTrack 7 = false ∧
    (∀ c ∈ [0x01, 0x05, 0x08, 0x09, 0x0A, 0x0B], ∃ o ∈ ((oping (op c [] [] [])).cell 3).img.ops, o.track < 8 ∧ opc o.raw = c) ∧
    (∃ o ∈ ((oping { op 0x06 [] [] [] with stage := .waiting }).cell 3).img.ops, opc o.raw = 0x06 ∧ o.stage = .waiting ∧ o.wrote = none) ∧
    (∃ o ∈ ((oping (op 0x03 [] [] [])).cell 3).img.ops, opc o.raw = 0x03 ∧ o.stage = .fired) := by
  decide +kernel

/-- The armed descriptor `d` of track 7, skipped or with the stamp 9. -/
def skipped (d : Nat) : CellImg := { program d true with tracks := (program d true).tracks.map fun t => { t with skip := t.armed } }
def stampDesc : Nat := word [(2, 2 ^ 7), (8, 9)]

/-- What FIRE asks of the descriptor `d` of track 7, with `skip`, in `s`. -/
def mayFire (s : State) (d : Nat) (skip : Bool) : Bool :=
  let i := (s.cell 3).img
  mayArm s 3 false && !i.heldTrack 7 && (i.track 7).armed && (i.track 7).skip == skip && i.descAt (i.track 7).desc == d && !lacks i d skip &&
    !testsFresh s 3 d skip && !outranked s 3 7 && !matchOutranked s 3 7

theorem witness_Fire_skipped : mayFire (celled (skipped nopDesc)) nopDesc true = true := by decide +kernel

theorem witness_Fire_emptyFence : let d := word [(3, 0x0A)]
    mayFire (celled (program d true)) d false = true ∧ emptyFence d = true ∧ (bindings d).any (badBinding (program d true)) = false ∧
      bindKindBad d = false ∧ commonIllegal d = false ∧ payloadIllegal d = false ∧ engineIllegal (program d true) d = false ∧
      ((celled (program d true)).cell 3).saved = none ∧ onEngine (program d true) (engineOf d) < 2 := by decide +kernel

theorem witness_Fire_match : let d := word [(3, 0x40)]
    mayFire (celled (program d true)) d false = true ∧ engineOf d = 4 ∧ matchAccepts (celled (program d true)) 3 = true := by decide +kernel

theorem witness_Fire_stamped : stampOf (program stampDesc true) stampDesc = some 9 ∧
    mayFire (at_ (celled (program stampDesc true)) 9) stampDesc false = true ∧
    replica (at_ (celled (program stampDesc true)) 9) (Rep.cell 3) = 9 ∧ bit stampDesc 15 = false ∧
    stampOf (program stampDesc false) stampDesc = some 9 ∧ mayArm (celled (program stampDesc false)) 3 false = true ∧
    (let d := word [(0, 2 ^ 15 + 2 ^ 21)]
     (bit d 15 && bit 0 (bits d 13 11) == bit d 14) = true ∧ bit d 21 = true) := by decide +kernel

theorem witness_TakeSlots : (⟨true, true, 5, 1⟩ : Binding).hold = true ∧ (⟨true, false, 5, 1⟩ : Binding).hold = false := by decide

/-- A NOP of track 0 that has been carried out, in a program whose track 7 goes on. -/
def doneNop : Op := { op 0 [(0, 4 * 2 ^ 16)] [] [] with stage := .executed }

theorem witness_OperationComplete : ((celled { program nopDesc false with ops := [doneNop] }).cell 3).runner = some 3 ∧
    ((celled { program nopDesc false with ops := [doneNop] }).cell 3).saved = none ∧ doneNop.id = 5 ∧ doneNop.stage = .executed ∧ doneNop.ins = [] ∧
    doneNop.outs = [] ∧ (∃ t ∈ (program nopDesc false).tracks, t.active = true) ∧ ((celled { program nopDesc false with ops := [doneNop] }).ctx 3).ending = 0 ∧
    ({ program nopDesc false with ops := [doneNop] } : CellImg).halted = false ∧ ({ program nopDesc false with ops := [doneNop] } : CellImg).faultCode = 0 ∧
    bits doneNop.raw 31 24 = 0 ∧ bits doneNop.raw 19 16 = 4 ∧
    (op 0 [] [] []).stage ≠ .executed := by decide +kernel

theorem witness_BumpCounter : ((celled (program nopDesc false)).cell 3).img.ctr 5 = counter 3 ∧ (counter 3).bound = true ∧ (counter 3).value + 13 ≤ (counter 3).slots ∧
    (counter 3).slots < (counter 3).value + 14 := by decide +kernel

theorem witness_NopAndHalt : Runs (oping (op 0x00 [] [] [])) 3 5 0x00 3 (op 0x00 [] [] []) ∧ Runs (oping (op 0x01 [] [] [])) 3 5 0x01 3 (op 0x01 [] [] []) := by
  decide +kernel

/-- A BRANCH of track 0, which its track waits for. -/
def branch : Op := op 0x02 [(0x28, 1023)] [] []
def branching (held : Bool) : State :=
  celled { img with ops := [branch], tracks := { Track.idle with active := true, held := held } :: List.replicate 7 Track.idle }

theorem witness_Branch : Runs (branching true) 3 5 0x02 3 branch ∧ ((branching true).cell 3).img.track 0 = { Track.idle with active := true, held := true } ∧
    Track.idle.desc = branch.desc ∧ (∀ p ∈ ((branching true).cell 3).img.ops, p.track = branch.track → opc p.raw = 2 → p.id ≤ branch.id) ∧
    Runs (branching false) 3 5 0x02 3 branch ∧ (((branching false).cell 3).img.track 0).held = false := by decide +kernel

/-- A PSET of p7 on the word at 0x100. -/
def pset : Op := op 0x03 [(0x28, 7), (0x2C, 0x100)] [] []

theorem witness_Pset : Runs (oping { pset with word := some 5 }) 3 5 0x03 3 { pset with word := some 5 } ∧
    Runs (oping pset) 3 5 0x03 3 pset ∧ pset.word = none ∧ pset.stage = .fired ∧ pset.track < 8 := by decide +kernel

theorem witness_Fences : Runs (oping (op 0x08 [] [] [])) 3 5 0x08 3 (op 0x08 [] [] []) ∧ Runs (oping (op 0x09 [] [] [])) 3 5 0x09 3 (op 0x09 [] [] []) ∧
    Runs (oping (op 0x0B [] [] [])) 3 5 0x0B 3 (op 0x0B [] [] []) ∧ Runs (oping (op 0x0A [] [] [])) 3 5 0x0A 3 (op 0x0A [] [] []) ∧
    Runs (oping (op 0x0A [(0x28, 0x33)] [] [])) 3 5 0x0A 3 (op 0x0A [(0x28, 0x33)] [] []) ∧ dfield (op 0x0A [] [] []).raw 0x28 5 4 = 0 ∧
    dfield (op 0x0A [(0x28, 0x33)] [] []).raw 0x28 5 4 ≠ 0 ∧ dfield (op 0x0A [(0x28, 0x33)] [] []).raw 0x28 1 0 ≠ 0 := by decide +kernel

/-- Contents in which a fence `o` comes after an XFER that has not been carried out. -/
def fencing (o : Op) : State := celled { img with ops := [{ op 0x12 [] [] [] with id := 4 }, o] }

/-- A fence `o` after a write to the host that is owed a read-back. -/
def owing (o : Op) : State := { oping o with host := { (oping o).host with unread := [⟨0, .cell 3 3, 4, 0, 0x1000, false⟩] } }

theorem witness_FencesWait : Runs (fencing (op 0x08 [] [] [])) 3 5 0x08 3 (op 0x08 [] [] []) ∧ Runs (fencing (op 0x09 [] [] [])) 3 5 0x09 3 (op 0x09 [] [] []) ∧
    Runs (fencing (op 0x0B [] [] [])) 3 5 0x0B 3 (op 0x0B [] [] []) ∧ Runs (fencing (op 0x0A [(0x28, 0x33)] [] [])) 3 5 0x0A 3 (op 0x0A [(0x28, 0x33)] [] []) ∧
    (∀ e r w, r || w → accessOpen (fencing (op 0x08 [] [] [])) 3 3 e { op 0x12 [] [] [] with id := 4 } r w = true) ∧
    (∀ e, handsOpen (oping (op 0x08 [] [] [])) 3 3 5 e = false) ∧
    Runs (owing (op 0x09 [] [] [])) 3 5 0x09 3 (op 0x09 [] [] []) ∧ Runs (owing (op 0x0B [] [] [])) 3 5 0x0B 3 (op 0x0B [] [] []) ∧
    (∃ k ∈ (owing (op 0x09 [] [] [])).host.unread, k.who = .cell 3 3 ∧ k.op < 5 ∧ k.early = false) := by decide +kernel

/-- A BIND of token counter 63: kind, peer. -/
def binding (kind peer : Nat) : Op := op 0x04 [(0x28, kind * 2 ^ 30 + 63 * 2 ^ 24 + 16 * 2 ^ 16 + 1), (0x2C, 0x1000), (0x30, peer * 2 ^ 30), (0x38, 16)] [] []

/-- Contents in which an earlier operation holds a slot of counter 63. -/
def holding : CellImg :=
  { img with ops := [{ op 0x10 [] [] [] with id := 4 }, binding 0 0], counters := [(63, { counter 3 with takes := [⟨4, 1, false⟩] })] }

/-- Contents in which a descriptor that takes 2 slots of counter 63 is armed, and those contents with a BIND of it to `n` slots. -/
def wanting (n : Nat) : Op := op 0x04 [(0x28, 63 * 2 ^ 24 + n * 2 ^ 16 + 1), (0x2C, 0x1000)] [] []
def armedFor (n : Nat) : CellImg :=
  { img with ops := [wanting n], prog := [(9, word [(0x10, 2 ^ 31 + 63 * 2 ^ 24 + 2 * 2 ^ 16)])]
             tracks := [Track.idle, { Track.idle with active := true, desc := 9, armed := true }] }

/-- What a BIND of counter 63 to `n` slots makes of them. -/
def rebound (n : Nat) : CellImg :=
  carriedOut ((armedFor n).setCtr 63 { counter 0 with slots := n, takes := [], units := 0, peer := 0, pair := 0, handle := 0, ptr := 0 }) 5

theorem witness_BindBroken : Runs (celled (armedFor 1)) 3 5 0x04 3 (wanting 1) ∧ brokenTrack (rebound 1) = some (1, 9) ∧
    Runs (celled (armedFor 2)) 3 5 0x04 3 (wanting 2) ∧ brokenTrack (rebound 2) = none := by decide +kernel

theorem witness_Bind : Runs (oping (binding 2 0)) 3 5 0x04 3 (binding 2 0) ∧ Runs (oping (binding 1 3)) 3 5 0x04 3 (binding 1 3) ∧
    Runs (oping (binding 1 1)) 3 5 0x04 3 (binding 1 1) ∧ dfield (binding 2 0).raw 0x28 31 30 = 2 ∧ dfield (binding 1 3).raw 0x30 31 30 = 3 ∧
    dfield (binding 1 1).raw 0x28 31 30 < 2 ∧ dfield (binding 1 1).raw 0x30 31 30 < 2 ∧
    (∀ t ∈ (((oping (binding 1 1)).cell 3).img.ctr (64 + 63)).takes, ∀ p ∈ ((oping (binding 1 1)).cell 3).img.ops, p.id ≠ t.op) ∧
    (((oping (binding 1 1)).cell 3).img.ctr (64 + 63)).bound = false ∧ Runs (celled holding) 3 5 0x04 3 (binding 0 0) ∧
    (∃ t ∈ (holding.ctr 63).takes, ∃ p ∈ holding.ops, p.id = t.op) := by decide +kernel

/-- A PHASE to entry `n` in a context with one entry and a barrier. -/
def phase (n : Nat) : Op := op 0x05 [(0x28, n)] [] []
def phasing (n : Nat) (b : Option Barrier) : State := (oping (phase n)).setCtx 3 { ctx3 with barrier := b }

theorem witness_Phase : Runs (phasing 1 none) 3 5 0x05 3 (phase 1) ∧ Runs (phasing 0 none) 3 5 0x05 3 (phase 0) ∧ (phase 0).stage = .fired ∧
    phaseIn (((phasing 1 none).ctx 3).nextPhases.getD ((phasing 1 none).ctx 3).phases) 1 = none ∧
    (phaseIn (((phasing 0 none).ctx 3).nextPhases.getD ((phasing 0 none).ctx 3).phases) 0).isSome = true ∧
    dfield (phase 0).raw 0x28 3 0 = 0 ∧ dfield (phase 1).raw 0x28 3 0 = 1 ∧
    Runs (phasing 0 (some ⟨0, [2]⟩)) 3 5 0x05 3 (phase 0) ∧ ((phasing 0 (some ⟨0, [2]⟩)).ctx 3).barrier = some ⟨0, [2]⟩ ∧
    Runs (phasing 0 (some ⟨1, [2]⟩)) 3 5 0x05 3 (phase 0) ∧ ((phasing 0 (some ⟨1, [2]⟩)).ctx 3).barrier = some ⟨1, [2]⟩ := by decide +kernel

/-- A SIGNAL of the word at 0x3000, or at an address that nothing translates. -/
def signal (va : Nat) : Op := op 0x06 [(0x28, va), (0x30, 1), (0x38, 1)] [] []
def signalReq (va : Nat) : Requester :=
  { source := 3, ctx := 3, unit := 8, handle := 0, cell := logicalOf ((oping (signal va)).ctx 3) 3, track := 0, seq := 0 }

theorem witness_Signal : Runs (oping (signal 0x3000)) 3 5 0x06 3 (signal 0x3000) ∧ Runs (oping (signal (2 ^ 40))) 3 5 0x06 3 (signal (2 ^ 40)) ∧
    (∀ p ∈ ((oping (signal 0x3000)).cell 3).img.ops, p.id < 5 → p.track ≠ 0) ∧
    (tile (oping (signal 0x3000)) (signalReq 0x3000) 0x3000 8 true).2 = some [⟨0, 0x3000, 8, 0⟩] ∧
    (tile (oping (signal (2 ^ 40))) (signalReq (2 ^ 40)) (2 ^ 40) 8 true).2 = none ∧
    (signal 0x3000).wrote = none ∧
    Runs (celled { img with ops := [{ op 0x10 [] [] [] with id := 4 }, signal 0] }) 3 5 0x06 3 (signal 0) := by decide +kernel

/-- A SIGNAL that has written, and one that comes after another of the cell's tracks to the same target. -/
def signalled : Op := { signal 0x3000 with stage := .waiting, wrote := some [] }
def signalsTwice : State :=
  celled { img with ops := [{ signal 0x3000 with id := 4, track := 1, stage := .waiting, target := some (signalTarget one [⟨0, 0x3000, 8, 0⟩]) }, signal 0x3000] }

theorem witness_SignalWaits : Runs (oping signalled) 3 5 0x06 3 signalled ∧ signalled.wrote = some [] ∧ signalAcked (oping signalled) 3 3 5 [] = true ∧
    (∀ p ∈ ((oping signalled).cell 3).img.ops, p.id < 5 → p.track ≠ 0) ∧
    Runs signalsTwice 3 5 0x06 3 (signal 0x3000) ∧ (∀ p ∈ (signalsTwice.cell 3).img.ops, p.id < 5 → p.track ≠ 0) ∧
    (let t := tile signalsTwice (signalReq 0x3000) 0x3000 8 true
     t.2 = some [⟨0, 0x3000, 8, 0⟩] ∧ ∃ p ∈ (signalsTwice.cell 3).img.ops, p.id < 5 ∧ p.target = some (signalTarget t.1 [⟨0, 0x3000, 8, 0⟩])) := by
  decide +kernel

/-- Cell 3 at context 3's barrier, going to phase 0 again. -/
def arrived (w : Bool) : State := (celled { img with phaseWait := w }).setCtx 3 { ctx3 with barrier := some ⟨0, [3]⟩ }

theorem witness_PhaseBarrier : (arrived true).str.reshards = [] ∧ ((arrived true).ctx 3).barrier = some ⟨0, [3]⟩ ∧ startedCells (arrived true) 3 = [3] ∧
    (∀ p ∈ startedCells (arrived true) 3, arrivedAt (arrived true) 3 p = true) ∧ phaseReshards ((arrived true).ctx 3) 0 = false ∧
    (∃ p ∈ startedCells (arrived false) 3, arrivedAt (arrived false) 3 p = false) ∧ (one.ctx 3).barrier = none := by decide +kernel

/-! ## Witnesses: moves, streams and engines of the cells -/

/-- Contents with three inputs of 16 slots at 0x1000, 0x2000 and 0x3000 and two outputs at 0x4000 and 0x8000, with an operation. -/
def ported (o : Op) : CellImg :=
  { img with
    ops := [o]
    counters := [(5, counter 16), (6, { counter 16 with base := 0x2000 }), (7, { counter 16 with base := 0x3000 }), (64 + 6, { counter 16 with base := 0x4000 }), (64 + 7, { counter 16 with base := 0x8000 })] }

def in_ (k n : Nat) : Nat × Bind := (k, ⟨5 + k, n, 0, false⟩)
def out_ (k n : Nat) : Nat × Bind := (k, ⟨64 + 6 + k, n, 0, false⟩)
def porting (o : Op) : State := celled (ported o)

/-- A MOVE of formats `f` (source in bits 7:4) of `n` slots into `m` slots. -/
def moveOp (f n m : Nat) : Op := op 0x10 [(0x28, f)] [in_ 0 n] [out_ 0 m]

theorem witness_Move : Runs (porting (moveOp 0x88 2 2)) 3 5 0x10 3 (moveOp 0x88 2 2) ∧
    ((moveOp 0x88 2 2).inAt 0).isSome = true ∧ ((moveOp 0x88 2 2).outAt 0).isSome = true ∧ ((moveOp 0x88 2 2).outAt 1).isNone = true ∧
    ((ported (moveOp 0x88 2 2)).inRun (moveOp 0x88 2 2) 0).len = 512 ∧ ((ported (moveOp 0x88 2 2)).outRun (moveOp 0x88 2 2) 0).len = 512 ∧
    (ported (moveOp 0x88 2 2)).runPoisoned ((ported (moveOp 0x88 2 2)).inRun (moveOp 0x88 2 2) 0) 512 = false ∧
    Runs (porting (moveOp 0xAB 1 2)) 3 5 0x10 3 (moveOp 0xAB 1 2) ∧ dfield (moveOp 0xAB 1 2).raw 0x28 7 0 / 16 = 10 ∧
    dfield (moveOp 0xAB 1 2).raw 0x28 7 0 % 16 = 11 ∧ fmtGrouped 10 = false ∧ fmtBits 10 = 32 ∧ fmtBits 11 = 64 ∧
    ((ported (moveOp 0xAB 1 2)).inRun (moveOp 0xAB 1 2) 0).len = 256 ∧ ((ported (moveOp 0xAB 1 2)).outRun (moveOp 0xAB 1 2) 0).len = 512 ∧
    Runs (porting (moveOp 0xA4 1 2)) 3 5 0x10 3 (moveOp 0xA4 1 2) ∧ readsBooks (moveOp 0xA4 1 2).raw = false ∧
    (let i := { ported (moveOp 0x18 1 2) with ops := [{ op 0x3D [] [] [] with id := 4 }, moveOp 0x18 1 2] }
     Runs (celled i) 3 5 0x10 3 (moveOp 0x18 1 2) ∧ readsBooks (moveOp 0x18 1 2).raw = true ∧ cbSetAhead i (moveOp 0x18 1 2) = true) ∧ Runs (porting (moveOp 0x88 2 1)) 3 5 0x10 3 (moveOp 0x88 2 1) ∧
    ((ported (moveOp 0x88 2 1)).outRun (moveOp 0x88 2 1) 0).len < ((ported (moveOp 0x88 2 1)).inRun (moveOp 0x88 2 1) 0).len := by decide +kernel

/-- A SEND of two slots to stream 0, which starts at this cell. -/
def sendOp : Op := op 0x11 [(0x28, 2 ^ 20)] [in_ 0 2] []
def sendCell : State :=
  (porting sendOp).setStream 0 { Stream.idle with st := .live, ctx := 3, src := ⟨Kind.CELL, 3, 0, 0, 0, 0, 0⟩, snk := window 0x200000 }

theorem witness_Send : Runs sendCell 3 5 0x11 3 sendOp ∧ sendOp.stage = .fired ∧ sendOp.outs = [] ∧ sendOp.inAt 0 = some ⟨5, 2, 0, false⟩ ∧
    ownHandle sendCell 3 (dfield sendOp.raw 0x28 31 0) = true ∧ (sendCell.stream (dfield sendOp.raw 0x28 31 0 % 2 ^ 18)).src.kind = Kind.CELL ∧
    (sendCell.stream (dfield sendOp.raw 0x28 31 0 % 2 ^ 18)).src.unit = logicalOf (sendCell.ctx 3) 3 ∧
    (sendCell.stream (dfield sendOp.raw 0x28 31 0 % 2 ^ 18)).st = .live := by decide +kernel

/-- An XFER of 4 KiB on stream 0. -/
def xferOp : Op := op 0x12 [(0x28, 2 ^ 20), (0x2C, 64)] [] []
def xferCell : State := (porting xferOp).setStream 0 (stream0 [])

theorem witness_CellXfer : Runs xferCell 3 5 0x12 3 xferOp ∧ xferOp.stage = .fired ∧ xferOp.outs = [] ∧
    ownHandle xferCell 3 (dfield xferOp.raw 0x28 31 0) = true ∧
    xferRangeBad (xferCell.stream (dfield xferOp.raw 0x28 31 0 % 2 ^ 18)) (dfield xferOp.raw 0x30 63 0) (dfield xferOp.raw 0x38 63 0)
      (64 * dfield xferOp.raw 0x2C 30 0) = false ∧
    (xferCell.stream (dfield xferOp.raw 0x28 31 0 % 2 ^ 18)).xfers.length < 16 := by decide +kernel

/-- An XFER_LIST of one record, whose slots hold `r`. -/
def listOp : Op := op 0x13 [(0x28, 1)] [in_ 0 1] []
def listCell (r : Nat) : State := (celled ((ported listOp).store 0x1000 (leBytes 64 r) [])).setStream 0 (stream0 [])
def listRecords (r : Nat) : List Nat :=
  (List.range 1).map fun k => (((listCell r).cell 3).img.inRun listOp 0).le ((listCell r).cell 3).img.sram (64 * k) 64

theorem witness_XferList : Runs (listCell (word [(0, 2 ^ 20), (4, 64)])) 3 5 0x13 3 listOp ∧ Runs (listCell 0) 3 5 0x13 3 listOp ∧
    listOp.stage = .fired ∧ listOp.outs = [] ∧ listOp.inAt 0 = some ⟨5, 1, 0, false⟩ ∧ dfield listOp.raw 0x28 15 0 = 1 ∧
    64 ≤ (((listCell 0).cell 3).img.inRun listOp 0).len ∧ ((listCell 0).cell 3).img.runPoisoned (((listCell 0).cell 3).img.inRun listOp 0) 64 = false ∧
    ((listCell (word [(0, 2 ^ 20), (4, 64)])).cell 3).img.runPoisoned (((listCell (word [(0, 2 ^ 20), (4, 64)])).cell 3).img.inRun listOp 0) 64 = false ∧
    (listRecords (word [(0, 2 ^ 20), (4, 64)])).any (recordBad (listCell (word [(0, 2 ^ 20), (4, 64)])) 3) = false ∧
    (listRecords 0).any (recordBad (listCell 0) 3) = true := by decide +kernel

/-- An MM of 4 by 4 by 4 in FP16 with an output in `f`, into `n` slots. -/
def mmOp (f n : Nat) : Op := op 0x20 [(0x28, 9 * 2 ^ 28 + 9 * 2 ^ 24 + f * 2 ^ 20), (0x2C, 4 * 2 ^ 16 + 4), (0x30, 4 * 2 ^ 16 + 1)] [in_ 0 1, in_ 1 1] [out_ 0 n]
def mmState (o : Op) (poison : Table Bool) : State := celled { ported o with poison := poison }

theorem witness_MatrixOperation : Runs (mmState (mmOp 10 1) []) 3 5 0x20 3 (mmOp 10 1) ∧ ((mmState (mmOp 10 1) []).cell 3).move = .steady ∧
    cbSetAhead (ported (mmOp 10 1)) (mmOp 10 1) = false ∧ cbSetAhead (ported (mmOp 4 1)) (mmOp 4 1) = false ∧
    (let o := mmOp 4 1; Runs (mmState o []) 3 5 0x20 3 o ∧ (MMOp.ofRaw o.raw).illegal o.raw = true) ∧
    (let o := { mmOp 10 1 with ins := [in_ 0 1] }
     Runs (mmState o []) 3 5 0x20 3 o ∧ (MMOp.ofRaw o.raw).illegal o.raw = false ∧ mmBindingsBad (MMOp.ofRaw o.raw) o = true) ∧
    (let o := mmOp 10 1
     let p := MMOp.ofRaw o.raw
     let i := ported o
     p.illegal o.raw = false ∧ mmBindingsBad p o = false ∧ p.aBytes ≤ (i.inRun o 0).len ∧ p.bFits i.sram (i.inRun o 1) = true ∧ p.accIn = false ∧
       p.outBytes p.outFmt ≤ (i.outRun o 0).len ∧ p.undecodable i.sram i.books (i.inRun o 0) (i.inRun o 1) = false ∧
       i.piecesPoisoned (i.inRun o 0) p.aPieces = false ∧ i.piecesPoisoned (i.inRun o 1) (p.bPieces i.sram (i.inRun o 1)) = false ∧
       Runs (mmState o [(0x1000 / 32, true)]) 3 5 0x20 3 o ∧
       ({ ported o with poison := [(0x1000 / 32, true)] } : CellImg).piecesPoisoned (i.inRun o 0) p.aPieces = true) := by decide +kernel

/-- CRV_SET and CRV_GET of one table, CB_SET and CB_GET of one slot, by their payload words. -/
def crvSet (first n : Nat) : Op := op 0x31 [(0x28, first * 2 ^ 8 + n)] [in_ 0 9] []
def crvGet (first n : Nat) : Op := op 0x32 [(0x28, first * 2 ^ 8 + n)] [] [out_ 0 9]
def cbSet : Op := op 0x3D [(0x28, 2 ^ 8 + 63)] [in_ 0 1] []
def cbGet : Op := op 0x3E [(0x28, 2 ^ 8 + 63)] [] [out_ 0 1]

theorem witness_CurveTables : Runs (porting (crvSet 7 1)) 3 5 0x31 3 (crvSet 7 1) ∧ crvRange (crvSet 7 1).raw = some (7, 1) ∧
    ((porting (crvSet 7 1)).cell 3).move = .steady ∧ ((crvSet 7 1).inAt 0).isSome = true ∧
    ((ported (crvSet 7 1)).inRun (crvSet 7 1) 0).len = 2304 ∧
    (ported (crvSet 7 1)).runPoisoned ((ported (crvSet 7 1)).inRun (crvSet 7 1) 0) 2304 = false ∧
    Runs (porting (crvGet 7 1)) 3 5 0x32 3 (crvGet 7 1) ∧ crvRange (crvGet 7 1).raw = some (7, 1) ∧ ((crvGet 7 1).outAt 0).isSome = true ∧
    ((ported (crvGet 7 1)).outRun (crvGet 7 1) 0).len = 2304 ∧
    Runs (porting (crvSet 7 2)) 3 5 0x31 3 (crvSet 7 2) ∧ crvRange (crvSet 7 2).raw = none ∧
    Runs (porting (crvGet 7 0)) 3 5 0x32 3 (crvGet 7 0) ∧ crvRange (crvGet 7 0).raw = none := by decide +kernel

theorem witness_CodeBooks : Runs (porting cbSet) 3 5 0x3D 3 cbSet ∧ (∀ p ∈ (ported cbSet).ops, readsBooks p.raw = true → p.id < cbSet.id → p.stage = .executed) ∧
    dfield cbSet.raw 0x28 31 17 = 0 ∧ dfield cbSet.raw 0x28 15 15 = 0 ∧ dfield cbSet.raw 0x28 7 6 = 0 ∧
    zeroWords cbSet.raw [0x2C, 0x30, 0x34, 0x38, 0x3C] = true ∧ dfield cbSet.raw 0x28 14 8 = 1 ∧ dfield cbSet.raw 0x28 5 0 = 63 ∧
    (cbSet.inAt 0).isSome = true ∧ ((ported cbSet).inRun cbSet 0).len = 256 ∧
    (ported cbSet).runPoisoned ((ported cbSet).inRun cbSet 0) 64 = false ∧
    Runs (celled { ported cbSet with ops := [{ mmOp 10 1 with id := 4 }, cbSet] }) 3 5 0x3D 3 cbSet ∧
    (∃ p ∈ [{ mmOp 10 1 with id := 4 }, cbSet], readsBooks p.raw = true ∧ p.id < cbSet.id ∧ p.stage ≠ .executed) ∧
    Runs (porting cbGet) 3 5 0x3E 3 cbGet ∧ dfield cbGet.raw 0x28 31 15 = 0 ∧ dfield cbGet.raw 0x28 7 6 = 0 ∧
    zeroWords cbGet.raw [0x2C, 0x30, 0x34, 0x38, 0x3C] = true ∧ dfield cbGet.raw 0x28 14 8 = 1 ∧ (cbGet.outAt 0).isSome = true ∧
    64 * 2 ≤ ((ported cbGet).outRun cbGet 0).len := by decide +kernel

/-- A CB_ENCODE of 16 FP16 elements to the format `f`. -/
def encode (f : Nat) : Op := op 0x3C [(0x28, 9 * 2 ^ 28 + f * 2 ^ 24), (0x2C, 16)] [in_ 0 1] [out_ 0 3]

theorem witness_CbEncode : (let o := encode 5
     let p := EncOp.ofRaw o.raw
     let i := ported o
     Runs (porting o) 3 5 0x3C 3 o ∧ p.illegal o.raw = false ∧ (o.inAt 0).isSome = true ∧ (o.outAt 0).isSome = true ∧
       elemBytes p.src p.count ≤ (i.inRun o 0).len ∧ groupedBytes p.dst (ceilDiv p.count 256) ≤ (i.outRun o 0).len ∧ (o.outAt 1).isNone = true ∧
       i.runPoisoned (i.inRun o 0) (elemBytes p.src p.count) = false ∧ 2 < p.dst) ∧
    (let o := op 0x3C [(0x28, 9 * 2 ^ 28 + 2 ^ 24 + 0x40), (0x2C, 16)] [in_ 0 1] [out_ 0 3]
     let p := EncOp.ofRaw o.raw
     Runs (porting o) 3 5 0x3C 3 o ∧ p.illegal o.raw = false ∧ groupedBytes p.dst (ceilDiv p.count 256) ≤ ((ported o).outRun o 0).len ∧
       ¬2 < p.dst ∧ (tableValue (ported o).books p.dst p.select 0).isSome = true ∧ (p.candidates (ported o).books).isEmpty = false) := by decide +kernel

/-- The ELEM of one row of four FP32 elements: the program at entry 16 has `code`. -/
def elemOp : Op := op 0x30 [(0x28, 10 * 2 ^ 28 + 10 * 2 ^ 12), (0x2C, 16), (0x30, 2 ^ 16 + 4)] [in_ 0 1] [out_ 0 1]
def elemImg (len : Nat) (code : Nat) : CellImg := { ported elemOp with prog := [(16, word [(0, 2 ^ 30 + len * 2 ^ 16)]), (17, code)] }

/-- LD of port 0 into r1, then ST of r1 to OUT0. -/
def copyCode : Nat := word [(0, 0x20 * 2 ^ 26 + 2 ^ 17), (4, 0x21 * 2 ^ 26 + 2 ^ 12)]

/-- The ELEM is legal and its ports hold its operands. -/
def elemLegal (i : CellImg) : Bool :=
  let p := ElemOp.ofRaw elemOp.raw
  let pr := EProg.read i.prog (dfield elemOp.raw 0x2C 9 0)
  !p.illegal elemOp.raw pr ((List.range 4).map fun k => (elemOp.inAt k).isSome) ((List.range 2).map fun k => (elemOp.outAt k).isSome) &&
    decide (portBytes (nth p.inFmt 0) (nth p.inMode 0) p.rows p.count ≤ (i.inRun elemOp 0).len) &&
    decide (portBytes (nth p.outFmt 0) (nth p.outMode 0) p.rows p.count ≤ (i.outRun elemOp 0).len)

theorem witness_Elem : Runs (celled (elemImg 2 copyCode)) 3 5 0x30 3 elemOp ∧ elemLegal (elemImg 2 copyCode) = true ∧
    (List.range 4).map (fun k => (elemOp.inAt k).isSome) = [true, false, false, false] ∧
    (List.range 2).map (fun k => (elemOp.outAt k).isSome) = [true, false] := by decide +kernel

/-- The fault code with which the match unit refuses a request, if it does. -/
def refusal : MatchAnswer → Option Nat
  | .error e => some e
  | .ok _ => none

/-- A request of cell 3 at its die's match unit. -/
def matching (o : Op) (running waiting : Option MatchReq) : State := (porting o).setMtu 0 ⟨running, waiting, 0, []⟩

/-- TOPK of the `k` largest of 16 FP16 scores; MERGE and INTERSECT of a list set. -/
def topkOp (k : Nat) : Op := op 0x40 [(0x28, 9 * 2 ^ 26 + k), (0x2C, 16)] [in_ 0 1] [out_ 0 1]
def mergeOp (code : Nat) : Op := op code [] [in_ 0 4] [out_ 0 1]

/-- Contents whose IN0 begins a list set of two lists. -/
def listed (o : Op) : CellImg := (ported o).store 0x1000 (leBytes 4 2) []

/-- A DISPATCH of one token to the better of two experts, with room for one each. -/
def dispatchOp : Op := op 0x43 [(0x28, 9 * 2 ^ 28 + 2 ^ 24), (0x2C, 2 * 2 ^ 16 + 1), (0x30, 1)] [in_ 0 1] [out_ 0 3]

theorem witness_MatchUnit : (let o := topkOp 4
     let s := matching o none (some ⟨cellPos 3, 5⟩)
     (s.mtu 0).running = none ∧ (s.mtu 0).waiting = some ⟨cellPos 3, 5⟩ ∧ 40 * 0 + cellPos 3 = 3 ∧ (s.cell 3).runner = some 3 ∧
       (s.cell 3).saved = none ∧ (s.cell 3).img.ops = [o] ∧ o.id = 5 ∧ engineOf o.raw = 4 ∧
       refusal (matchAnswer (s.cell 3).img o (policyOf s 3)) = none) ∧
    (let o := topkOp 0
     refusal (matchAnswer ((matching o none (some ⟨cellPos 3, 5⟩)).cell 3).img o (policyOf (matching o none none) 3)) = some FaultCode.illegalOp) ∧
    (∀ o ∈ [topkOp 4, mergeOp 0x41, mergeOp 0x42, dispatchOp], Runs (matching o none none) 3 5 (opc o.raw) 3 o ∧
      ((matching o none none).mtu (cellDie 3)).running ≠ some ⟨cellPos 3, 5⟩) ∧
    (∀ o ∈ [topkOp 4, mergeOp 0x41, mergeOp 0x42, dispatchOp], refusal (matchAnswer (listed o) o o.left) = none ∧
      Runs (celled (listed o)) 3 5 (opc o.raw) 3 o ∧
      ((matching o (some ⟨cellPos 3, 5⟩) none).mtu (cellDie 3)).running = some ⟨cellPos 3, 5⟩) := by decide +kernel

/-! ## Witnesses: cells lent and debugged -/

/-- Cell 3 being spilled for context 4. -/
def spilling : State := (celled img).setCell 3 { (celled img).cell 3 with move := .spilling 4 }

/-- Cell 3 lent to context 4, its owner's contents in the spill record. -/
def lent (m : CellMove) : State :=
  (one.setCtx 4 { ctx3 with desc := { ctx3.desc with borrowHoldUs := 1 } }).setCell 3
    { Cell.idle with runner := some 4, borrowed := true, move := m, saved := some (3, img), haltedAt := some 0 }

theorem witness_CellsAreLent : (spilling.cell 3).move = .spilling 4 ∧ (spilling.cell 3).runner = some 3 ∧ quietCell spilling (spilling.cell 3).img = true ∧
    (∀ o ∈ (spilling.cell 3).img.ops, ¬(opc o.raw = 0x06 ∧ o.stage = .waiting)) ∧ (spilling.cell 3).startCmd = none ∧
    ((celled img).cell 3).move = .steady ∧
    ({ lent .steady with held := [⟨3, 0x100, [1], []⟩] }.held = ⟨3, 0x100, [1], []⟩ :: []) ∧ ((lent .steady).cell 3).saved = some (3, img) ∧
    ((celled img).cell 3).saved = none ∧
    ((lent .steady).cell 3).runner = some 4 ∧ ((lent .steady).cell 3).haltedAt = some 0 ∧ ((lent .steady).cell 3).borrowed = true ∧
    0 + 125 * ((lent .steady).ctx 4).desc.borrowHoldUs ≤ (at_ (lent .steady) 125).cic.count ∧
    (at_ (lent .steady) 124).cic.count < 0 + 125 * ((lent .steady).ctx 4).desc.borrowHoldUs ∧
    ((lent .restoring).cell 3).move = .restoring ∧ (∀ h ∈ (lent .restoring).held, h.cell ≠ 3) := by decide +kernel

/-- Cell 3 held for debug, with a descriptor ready on track 7. -/
def debugged (hold locked : Bool) : State :=
  let s := celled (program nopDesc true)
  { s.setCell 3 { s.cell 3 with dbgHold := hold } with sec := { s.sec with dbgOwner := !locked } }

theorem witness_CellsAreDebugged : Reaches (debugged true false) (.host 0) (cseqReg 3 Reg.CSEQ_CTL) ∧ ((debugged true false).cell 3).dbgHold = true ∧
    debugOpen (debugged true false) = true ∧ oldestReady (debugged true false) 3 = some 7 ∧ ((debugged false false).cell 3).dbgHold = false ∧
    debugOpen (debugged true true) = false ∧ (((oping (op 0 [] [] [])).cell 3).runner = some 3 ∧ ((oping (op 0 [] [] [])).cell 3).img.started = true ∧
      ((oping (op 0 [] [] [])).cell 3).img.halted = false ∧ ((oping (op 0 [] [] [])).cell 3).img.ops ≠ []) ∧
    (one.cell 3).img.started = false := by decide +kernel

/-! ## Witnesses: memory -/

/-- `one` with every channel trained, and channel 0 as given. -/
def trained (c : Chan) : State :=
  ((List.range 256).foldl (fun s k => s.setChan k { Chan.idle with trained := true }) one).setChan 0 { c with trained := true }

/-- `one` with the first 2 MiB under slot 3, which is EMPTY. -/
def keyless : State := { one with sec := { one.sec with keyMap := [(0, 3)] } }

theorem witness_Memory : (∀ w ∈ wordsOf 30 4, accessTag one w ≠ none) ∧ (∀ w ∈ wordsOf 30 4, w ≠ 64 / 32 * 32) ∧
    (∀ w ∈ wordsOf 30 4, accessTag keyless w = none) ∧ accessTag one 32 ≠ none ∧
    (poolBytes - 1 < poolBytes ∧ chanOf (poolBytes - 1) = chanOf (poolBytes - 1)) ∧ (List.replicate 32 7).length = 32 ∧
    (∀ x ∈ List.replicate 32 7, x < 256) := by decide +kernel

/-- The generator of R207 is x^4 + 15 x^3 + 54 x^2 + 120 x + 64 (its product by hand); a word with one symbol in error is corrected there, one
with two is not, and the poison is told from both. -/
theorem test_symbol_code : gfGenerator = [1, 15, 54, 120, 64] ∧
    (let d := List.replicate 32 0x5A
     decodeWord (withErrors (symbolWord d false) [(35, 0x80)]) = .corrected 35 ∧
     decodeWord (withErrors (symbolWord d false) [(0, 1), (31, 1)]) = .uncorrectable ∧
     decodeWord (symbolWord d true) = .poisoned ∧ decodeWord (withErrors (symbolWord d true) [(3, 3)]) = .uncorrectable) := by decide +kernel

theorem witness_MemoryService : (let s := trained Chan.idle
     let r : MemReq := ⟨.ctx 3, 0, false, false⟩
     servable s 0 [r] = [r] ∧ tierOf s 0 r < 4 ∧ (candidates s 0 [r]).2 = [r] ∧ partOf s r.who = some 3 ∧ r.merge = false) ∧
    (let s := trained Chan.idle
     let r : MemReq := ⟨.ctx 3, 0, true, true⟩
     servable s 0 [r] = [r] ∧ 0 < (sluiceAt (setSluice s 0 3 { sluiceAt s 0 3 with aLeft := 1 }) 0 (3 % 64)).aLeft) ∧
    (let s := setFld (trained Chan.idle) 3 (slu Reg.SLU_STATUS) 25 16 1
     (sluiceAt s 0 3).aLeft = 0 ∧ capOpen s 0 3 = false) ∧
    (sluiceAt (setSluice one 3 63 { sluiceAt one 3 63 with nextAt := 1 }) 3 63).nextAt = 1 ∧ (sluiceAt one 3 63).nextAt ≤ one.cic.count ∧
    (maintAt one 3).nextAt ≤ one.cic.count ∧ (maintAt one 3).owed ≤ 16 * maintShare one ∧
    one.cic.count < (maintAt (setMaint one 3 ⟨0, 1, 0, 0⟩) 3).nextAt ∧
    Reaches one (.host 0) (slu Reg.SLU_SHARE_CTL) ∧ Reaches one (.host 0) (slu Reg.SLU_MAINT) ∧ (one.ctx (fld one 0 (slu Reg.SLU_SEL) 5 0)).live = false ∧
    1024000 < (otherGuar one 0 + clipGuar 1023 0) * 1000 + maintShare one * 1024 ∧
    (otherGuar one 0 + clipGuar 512 0) * 1000 + maintShare one * 1024 ≤ 1024000 ∧ otherGuar one 64 * 1000 ≤ 1024000 := by decide +kernel

/-- A run of the traffic generator. -/
def tgenRun : TgenRun := ⟨0, 0, 1, 0, 256, 0, none, false⟩
/-- A generator's length set to 0. -/
def tgenRange : State := wr (trained Chan.idle) 0 (tgenReg 0 Reg.TGEN_LENGTH) 0

theorem witness_MemoryMaintenance : ((trained Chan.idle).chan 255).trained = true ∧ ((trained Chan.idle).chan 255).held = none ∧
    ((trained Chan.idle).chan 255).scrubAt + 1 < spillFrom ∧ 0 < maintLeft (setMaint (trained Chan.idle) 3 ⟨1, 0, 0, 0⟩) (255 / 64) ∧
    maintLeft (trained Chan.idle) (255 / 64) = 0 ∧
    (trained Chan.idle).hbm.quietOn = none ∧ (trained Chan.idle).hbm.quietAt ≤ (trained Chan.idle).cic.count ∧
    spillingOn (trained Chan.idle) (0 / 64) = false ∧ pinnedNow (dueQuiet (trained Chan.idle) 0 1) 0 = false ∧
    hbmcFld (setHbmc (trained Chan.idle) 0 Reg.HBMC_LANE 31 31 1) 0 Reg.HBMC_LANE 31 31 = 1 ∧
    pinnedNow (dueQuiet (setHbmc (trained Chan.idle) 0 Reg.HBMC_LANE 31 31 1) 0 2) 0 = false ∧
    ((trained { Chan.idle with held := some 1 }).chan 0).held = some 1 ∧
    ({ trained Chan.idle with hbm := { (trained Chan.idle).hbm with quietOn := some 5 } } : State).hbm.quietOn.isSome = true ∧
    ((trained { Chan.idle with quiet := [⟨0, 0, true⟩] }).chan 0).quiet = [⟨0, 0, true⟩] ∧
    (∃ q ∈ ((at_ (trained { Chan.idle with quiet := [⟨0, 0, false⟩] }) 7500000001).chan 0).quiet, q.overdue = false ∧
      q.due + 7500000000 < (at_ (trained { Chan.idle with quiet := [⟨0, 0, false⟩] }) 7500000001).cic.count) := by decide +kernel

theorem witness_TrafficGenerators : Reaches (trained Chan.idle) (.host 0) (tgenReg 0 Reg.TGEN_CTL) ∧ dieLoaded (trained Chan.idle) (24 + 0) = true ∧
    dieLoaded tgenRange (24 + 0) = true ∧ runAt (trained Chan.idle) (32 * 0 + tgenSel (trained Chan.idle) 0) = none ∧
    fld (trained Chan.idle) (tgenSel (trained Chan.idle) 0) (tgenReg 0 Reg.TGEN_CTL) 31 31 = 0 ∧
    ((trained Chan.idle).chan (32 * 0 + tgenSel (trained Chan.idle) 0)).trained = true ∧
    (let u := wr tgenRange 0 (tgenReg 0 Reg.TGEN_CTL) (writeFields (PageKind.tgen.at_ Reg.TGEN_CTL) false (rd tgenRange 0 (tgenReg 0 Reg.TGEN_CTL)) (2 ^ 31))
     tgenSel tgenRange 0 = 0 ∧ runAt tgenRange 0 = none ∧ (tgenRange.chan 0).trained = true ∧ fld tgenRange 0 (tgenReg 0 Reg.TGEN_CTL) 31 31 = 0 ∧
       tgenBadRange 0 (rd u 0 (tgenReg 0 Reg.TGEN_OFFSET)) (rd u 0 (tgenReg 0 Reg.TGEN_LENGTH)) = true) ∧
    (let s := trained Chan.idle
     let u := wr s 0 (tgenReg 0 Reg.TGEN_CTL) (writeFields (PageKind.tgen.at_ Reg.TGEN_CTL) false (rd s 0 (tgenReg 0 Reg.TGEN_CTL)) (2 ^ 31))
     tgenBadRange 0 (rd u 0 (tgenReg 0 Reg.TGEN_OFFSET)) (rd u 0 (tgenReg 0 Reg.TGEN_LENGTH)) = false ∧
       bits (2 ^ 31) 26 24 ≤ 2 ∧ bits (2 ^ 31) 23 20 ≤ 5 ∧ bit (2 ^ 31) 29 = false) ∧
    runAt (setRun one (32 * 0 + tgenSel one 0) (some tgenRun)) (32 * 0 + tgenSel one 0) = some tgenRun ∧ tgenRun.stamp = none := by decide +kernel

/-- A prefetch of line 3 at floor 0 by partition 3, whose sluice there has units left or is at its cap. -/
def fetching (capped : Nat) : State :=
  let s := setFld (trained Chan.idle) 3 (slu Reg.SLU_STATUS) 25 16 capped
  { s with coh := { s.coh with prefetches := [⟨0, 3, some 3⟩] } }

theorem witness_FloorCachesAndSleep : Reaches one (.host 0) (flcReg 3 Reg.FLC_CTL) ∧ (∀ q ∈ one.coh.prefetches, q.floor = 3 → q.line ≠ 0) ∧
    (∀ c ∈ [0, 1], (fetching c).coh.prefetches.find? (fun q => q.floor = 0 && q.line = 3) = some ⟨0, 3, some 3⟩) ∧
    tierAt (fetching 0) 0 3 < 4 ∧ tierAt (fetching 1) 0 3 = 4 ∧ ({ one with host := { one.host with attach := 0 } } : State).host.attach ≠ 2 ∧
    ({ one with host := { one.host with attach := 2 } } : State).host.attach = 2 := by decide +kernel

/-! ## Witnesses: coherence and harts -/

/-- A line's entry and the copies of it: agent and state, each with 64 bytes of 0xA5. -/
def coherent (s : State) (line st : Nat) (l : List (Nat × Mesi)) : State :=
  let s := { s with coh := { s.coh with enabled := [0, 1, 0x21] } }
  l.foldl (fun s p => setLine s p.1 line ⟨p.2, List.replicate 64 0xA5, [], false⟩) (setDir s line ⟨st, l.map Prod.fst, 0⟩)

theorem witness_HomeRequests : (let s := coherent one 5 0 []
     s.coh.txns = [] ∧ s.coh.waiting = [] ∧ s.coh.offers = [] ∧ (dirEntry s 5).st = 0 ∧ (dirEntry s 5).ptrs = [] ∧ (dirSetLines s 5).length < 16 ∧
       (agentLine s 1 5).st = .i ∧ maySend s 1 5 .rdS = true ∧ maySend s 1 5 .rdSN = true ∧ maySend s 1 5 .rdO = true ∧
       leveeBars s 1 5 1 = false ∧ (dirEntry s 5).st ≤ 4 ∧ leveeBars s 1 5 2 = false ∧ writeBarred s (writerOf 1) (5 * 64) 64 = false ∧
       writeWaits s (5 * 64) 64 = false ∧ accessTag s (5 * 64) ≠ none ∧ accessTag s (5 * 64 + 32) ≠ none) ∧
    (let s := coherent one 5 3 [(1, .s)]
     maySend s 1 5 .upg = true ∧ (dirEntry s 5).st = 3 ∧ (dirEntry s 5).ptrs = [1] ∧ (agentLine s 1 5).st ≠ .i) ∧
    (let s := coherent one 5 1 [(1, .m)]
     maySend s 1 5 .wb = true ∧ (dirEntry s 5).st = 1 ∧ (dirEntry s 5).ptrs = [1] ∧ (agentLine s 1 5).st = .m ∧
       (agentLine s 1 5).data.length = 64) := by decide +kernel

/-- The guest up with no window open. -/
def guested : State := { one with sec := { one.sec with guestOn := true } }

theorem witness_HomeRequests_levee : (∀ n ∈ [1, 2, 5, 7], leveeBars guested 0x21 5 n = true ∧ leveeBars guested 98 5 n = true) ∧
    guestAway one 98 = true ∧ guestAway one 64 = false ∧ leveeBars one 64 5 1 = false ∧
    bit (rd guested 0 (hub Pg.RST Reg.ERR_RING_CTL)) 31 = false ∧ (∀ w ∈ one.mir.waiting, w.from_ ≠ 1) := by decide +kernel

/-- Agent 0's request for line 5 in M, and the transaction that it opens. -/
def reqO : HomeReq := { req := .rdO, from_ := 0, line := 5, data := [], mask := 0, stash := none, ctx := none }
def txnO (snoops : List (Nat × Snp)) (answers : List SnpAnswer) : Txn :=
  { r := reqO, snoops := snoops, answers := answers, bcast := false, next := ⟨1, [0], 0⟩, grant := 4, fwd := none, ask := 0, began := 0 }
def snooped (x : Txn) : State :=
  let s := coherent one 5 1 [(1, .m)]
  { s with coh := { s.coh with txns := [(5, some x)] } }
def answerM : SnpAnswer := ⟨1, 1, some (List.replicate 64 0xA5, []), true⟩

theorem witness_Snoops : txnOf (snooped (txnO [(1, .ifw)] [])) 5 = some (txnO [(1, .ifw)] []) ∧ (1, Snp.ifw) ∈ (txnO [(1, .ifw)] []).snoops ∧
    defersSnoop (snooped (txnO [(1, .ifw)] [])) 1 5 = false ∧
    defersSnoop ((snooped (txnO [(1, .ifw)] [])).setHart 4 { Hart.parked with resv := some 1, defer := true }) 1 5 = true ∧
    (snooped (txnO [] [answerM])).coh.txns = [(5, some (txnO [] [answerM]))] ∧ (snooped (txnO [] [answerM])).coh.waiting = [] ∧
    (agentLine (snooped (txnO [] [answerM])) 0 5).st = .i ∧
    (∃ p ∈ (txnO [(1, .ifw)] []).snoops, p.1 = 1) ∧
    (snooped (txnO [(1, .ifw)] [])).cic.count < (txnO [(1, .ifw)] []).began + snoopBound 1 ∧
    (txnO [(1, .ifw)] []).began + snoopBound 1 ≤ (at_ (snooped (txnO [(1, .ifw)] [])) 12500).cic.count := by decide +kernel

/-- Line 5, which nobody holds, offered to agent 1. -/
def offered (o : List (Nat × Nat × Nat)) : State :=
  let s := coherent one 5 0 []
  { s with coh := { s.coh with offers := o } }

theorem witness_StashesAndProbes : (offered [(1, 5, 1)]).coh.txns = [] ∧ (offered [(1, 5, 1)]).coh.waiting = [] ∧
    (offered [(1, 5, 1)]).coh.offers = [(1, 5, 1)] ∧ (dirEntry (offered [(1, 5, 1)]) 5).st = 0 ∧ 1 ∈ (offered [(1, 5, 1)]).coh.enabled ∧
    (dirSetLines (offered [(1, 5, 1)]) 5).length < 16 ∧ 0x20 ∉ holders one (hostLineBase + 5) ∧ 0x20 ∉ (dirEntry one (hostLineBase + 5)).ptrs ∧
    one.mir.waiting = [] ∧
    isHostLine 5 = false ∧ (offered [(1, 5, 2)]).coh.offers = [(1, 5, 2)] ∧ one.coh.offers = [] ∧
    Reaches one (.host 0) (cohReg 3 Reg.COH_PROBE) ∧ homeFloor (rd64 one 0 (cohReg 3 Reg.COH_PROBE_ADDR_LO)) ≠ 3 ∧
    Reaches one (.host 0) (cohReg 0 Reg.COH_PROBE) ∧ rd64 one 0 (cohReg 0 Reg.COH_PROBE_ADDR_LO) < poolBytes ∧
    homeFloor (rd64 one 0 (cohReg 0 Reg.COH_PROBE_ADDR_LO)) = 0 ∧ modifiedBy one (hostLineBase + 5) = none ∧ one.coh.txns = [] := by decide +kernel

/-- Hart 1 runs; its cluster holds the line at 0x140 as given. -/
def harted (st : Mesi) (h : Hart) : State :=
  let s := (coherent one 5 (if st = .i then 0 else 1) (if st = .i then [] else [(0, st)])).setHart 1 { h with running := true }
  { s with core := { s.core with offline := 0 } }

theorem witness_Harts : hartRuns one 1 = false ∧ hartRuns (harted .m Hart.parked) 1 = true ∧ ((harted .m Hart.parked).hart 1).buffer = [] ∧
    holdsRange (harted .m Hart.parked) 1 false 0x140 8 = true ∧ heldPoison (harted .m Hart.parked) 1 0x140 8 = false ∧
    holdsRange (harted .m Hart.parked) 1 true 0x140 64 = true ∧ partPoison (harted .m Hart.parked) 1 0x140 64 = false ∧
    holdsRange (harted .m Hart.parked) 1 false 0x140 4 = true ∧ heldPoison (harted .m Hart.parked) 1 0x140 4 = false ∧
    hartDest (harted .m Hart.parked) 1 poolBytes 8 false = .bad ∧
    ((harted .m { Hart.parked with buffer := [⟨0x140, [1]⟩] }).hart 1).buffer = [⟨0x140, [1]⟩] ∧
    holdsRange (harted .m { Hart.parked with buffer := [⟨0x140, [1]⟩] }) 1 true 0x140 1 = true ∧
    partPoison (harted .m { Hart.parked with buffer := [⟨0x140, [1]⟩] }) 1 0x140 1 = false ∧
    ((harted .m Hart.parked).hart 1).fence = none ∧ (harted .m Hart.parked).host.unread = [] ∧
    devPoison (drainHart (harted .m Hart.parked) 1) 0x140 8 = false := by decide +kernel

/-- `harted` after an uncached write to a peer that is owed a read-back, with a fence that waits for it or without. -/
def owed (f : Option HartFence) : State :=
  let s := harted .m { Hart.parked with fence := f }
  { s with host := { s.host with unread := [⟨0, .hart 1, 0, 0, 0x1000, false⟩], nextWrite := 1 } }
def fence1 : HartFence := ⟨0, 1, 0, 15, false⟩

theorem witness_HartFences : (∃ w ∈ (owed none).host.unread, w.who = .hart 1 ∧ w.op = 0 ∧ w.early = false ∧ w.id < (owed none).host.nextWrite) ∧
    bit 4 2 = true ∧ ((owed none).hart 1).fence = none ∧ ((owed none).hart 1).buffer = [] ∧ hartRuns (owed none) 1 = true ∧
    hartRuns (owed (some fence1)) 1 = true ∧ ((owed (some fence1)).hart 1).fence = some fence1 ∧
    fence1.met (drainHart (owed (some fence1)) 1) 1 = false ∧ ((drainHart (owed (some fence1)) 1).hart 1).fence = some fence1 ∧
    fence1.succ &&& needOf 0x140 false ≠ 0 ∧ fence1.succ &&& needOf 0x140 true ≠ 0 := by decide +kernel

theorem witness_CdbAndCacheBlocks : (let s := setX (harted .m { Hart.parked with priv := 0 }) 1 5 3
     xreg s 1 5 < 64 ∧ hartRuns s 1 = true ∧ (s.hart 1).buffer = [] ∧ (s.ctx (xreg s 1 5)).producer < 2 ^ 32 ∧
       cdbQueueStatus (setX s 1 6 0) 1 (xreg (setX s 1 6 0) 1 5) (xreg (setX s 1 6 0) 1 6) = 2) ∧
    (let s := setX (harted .m { Hart.parked with priv := 3 }) 1 5 3
     hartRuns s 1 = true ∧ (s.ctx (xreg s 1 5)).producer < 2 ^ 32 ∧ cdbQueueStatus s 1 (xreg s 1 5) (xreg s 1 6) = 0) ∧
    (let s := harted .m Hart.parked
     s.coh.txns = [] ∧ s.coh.waiting = [] ∧ (agentLine s (clusterOf 1) (0x140 / 64)).st = .m ∧ (agentLine s (clusterOf 1) (0x140 / 64)).data.length = 64 ∧
       accessTag s 0x140 ≠ none ∧ accessTag s (0x140 + 32) ≠ none ∧ holdsLine s (clusterOf 1) (0x140 / 64) true = true ∧ flcHas s (0x140 / 64) = false) ∧
    (agentLine (harted .e Hart.parked) (clusterOf 1) (0x140 / 64)).st = .e ∧
    (let s := harted .i Hart.parked
     flcHas s (0x140 / 64) = false ∧ holdsLine s (clusterOf 1) (0x140 / 64) false = false ∧ (s.hart 1).fence = none ∧ s.host.unread = []) ∧
    (let s := setFlc (harted .m Hart.parked) (flcKey (homeFloor 0x140) (flcSet 0x140) 0) (some ⟨1, 15⟩)
     flcHas s (0x140 / 64) = true ∧ holdsLine s (clusterOf 1) (0x140 / 64) true = true ∧ hartRuns s 1 = true) := by decide +kernel

/-- A load that reaches a register, as an M-mode hart reaches it. -/
theorem witness_HartRegister : ∃ a t v, hartDest (harted .m { Hart.parked with priv := 3 }) 1 (15 * 2 ^ 52) 4 false = .reg a ∧
    readAs (harted .m { Hart.parked with priv := 3 }) (.hart 1) a = some (t, v) := by
  refine ⟨0, _, _, by decide +kernel, rfl⟩

/-- `harted`, every line of the granule held in M. -/
def reserving (h : Hart) : State := [4, 6, 7].foldl (fun s l => setLine s 0 l ⟨.m, List.replicate 64 0, [], false⟩) (harted .m h)

theorem witness_Reservations : hartRuns (reserving Hart.parked) 1 = true ∧ ((reserving Hart.parked).hart 1).fence = none ∧
    (reserving Hart.parked).mir.waiting = [] ∧ ((reserving Hart.parked).hart 1).buffer = [] ∧ 0x144 % 8 ≠ 0 ∧
    holdsRange (reserving Hart.parked) 1 true 0x140 8 = true ∧ heldPoison (reserving Hart.parked) 1 0x140 8 = false ∧
    holdsRange (reserving Hart.parked) 1 false (0x140 / 256 * 256) 256 = true ∧
    (let s := reserving { Hart.parked with resv := some 1 }
     (s.hart 1).resv = some (0x140 / 256) ∧ holdsRange s 1 true 0x140 8 = true ∧ heldPoison s 1 0x140 8 = false ∧ (s.hart 1).irqs = [] ∧
       (s.hart 1).resv ≠ none ∧ hartRuns s 1 = true) ∧
    ((reserving Hart.parked).hart 1).resv ≠ some (0x140 / 256) ∧
    (let s := one.setHart 1 { Hart.parked with wait := .sto 1000, resv := some 1 }
     (s.hart 1).wait ≠ .none ∧ (s.hart 1).irqs = [] ∧ (s.hart 1).resv ≠ none ∧ (s.hart 1).wait.ovr s.cic.count = false ∧
       (s.hart 1).wait.ovr (at_ s 1000).cic.count = true) ∧
    ((one.setHart 1 { Hart.parked with wait := .nto, irqs := [5] }).hart 1).irqs ≠ [] := by decide +kernel

/-! ## Witnesses: translation, the host, reclaiming -/

/-- A requester of context 3: a command at unit 8. -/
def req3 : Requester := { source := 2, ctx := 3, unit := 8, handle := 0, cell := 0xFFFF, track := 0, seq := 0 }

/-- `one` with a walk of unit 8 in flight for the page at 0x1000, whose table maps its first 1 GiB or nothing. -/
def walking (stale : Bool) (pte : Nat) : State :=
  let s := put one [(0, 8, 0x401), (0x1000, 8, pte)]
  setWalks s [⟨4, req3, 0x1000, 0x1000, 64, false, false, .running, stale⟩]
def leaf1 : TlbEntry := { ctx := 3, root := 0, host := false, va := 0, bytes := 2 ^ 30, space := 0, pa := 0, perm := 0xD7, mark := .demand }

theorem witness_Walks : (∀ p ∈ [(false, 0xD7), (false, 0), (true, 0xD7)], (walking p.1 p.2).xlt.walks.find? (fun j => j.number = 4 && j.stage = .running) =
      some ⟨4, req3, 0x1000, 0x1000, 64, false, false, .running, p.1⟩) ∧
    walkOutcome (walking false 0xD7) 3 0x1000 false = .leaf leaf1 none ∧ (walkNow (walking false 0xD7) 8 3 0x1000 false).2 = .kept ∧
    (walkNow (walking false 0) 8 3 0x1000 false).2 = .fault Cause.NOT_VALID 2 ∧ wants (walkNow (walking false 0) 8 3 0x1000 false).1 req3 = true ∧
    one.xlt.walks = [] ∧ ((celled img).cell 3).runner = some 3 ∧ ((celled img).ctx 3).live = true := by decide +kernel

/-- Context 3 with an entry of its fault queue outstanding. -/
def faulted : State := withCtx { ctx3 with tags := [⟨7, req3⟩], fqProduced := 1 }

theorem witness_FaultAnswers : Reaches faulted (.host 1) (dbAddr 3 0x018) ∧ Reaches faulted (.host 1) (dbAddr 3 0x014) ∧ (faulted.ctx 3).live = true ∧
    (faulted.ctx 3).tags = [⟨7, req3⟩] ∧ (faulted.ctx 3).fqHeld = [] ∧ (7 = 7 % 65536 ∧ bit 7 31 = false) ∧
    (7 = (2 ^ 31 + 7) % 65536 ∧ bit (2 ^ 31 + 7) 31 = true) ∧ 7 ≠ 8 % 65536 ∧ (faulted.ctx 3).fqConsumed = 0 ∧ (faulted.ctx 3).fqProduced = 1 := by decide +kernel

/-- A tile at the host's translation agent, with `n` page requests out. -/
def atsWaiting (st : AtsStage) (n : Nat) : State :=
  setAts ((withCtx { ctx3 with priOut := n }).setPort 0 { Port.down with up := true, memSpace := true, busMaster := true }) [⟨8, req3, 0x123456000, false, st, 0⟩]

theorem witness_HostTranslations : okUnit 8 = true ∧ (atsWaiting .asked 1).xlt.atsWait = [⟨8, req3, 0x123456000, false, .asked, 0⟩] ∧
    (atsWaiting .paged 1).xlt.atsWait = [⟨8, req3, 0x123456000, false, .paged, 0⟩] ∧ req3.ctx = 3 ∧ 0x123456000 / 4096 = 0x123456FFF / 4096 ∧ req3.source < 5 ∧
    ¬(req3.source = 2 ∧ req3.track = fqTrack) ∧ priTotal (atsWaiting .asked 1) < 512 ∧ 512 ≤ priTotal (atsWaiting .asked 512) ∧
    hostPort (atsWaiting .paged 1) 3 0x123456000 = some 0 ∧ wants (setAts (atsWaiting .paged 1) []) req3 = true ∧
    ((atsWaiting .paged 1).port 0).inService = true ∧ (State.reset.port 0).inService = false ∧ (atsWaiting .paged 1).xlt.hostInvals = [] := by decide +kernel

/-- An invalidation that unit 8 has not acknowledged. -/
def atUnit (c : Option Nat) (failed : Bool) : Inval := ⟨1, 3, 0x1000, 0x1000, c, [8], 0, failed, 0⟩
def invalidating (c : Option Nat) : State := { mapped one with xlt := { (mapped one).xlt with invals := [atUnit c false] } }

theorem witness_Invalidations : (∀ c ∈ [none, some 0], (invalidating c).xlt.invals = [atUnit c false] ∧ (atUnit c false).waiting = [8] ∧ (atUnit c false).failed = false ∧
      (atUnit c false).cmd = c) ∧ (invalidating none).cic.count < (atUnit none false).began + 125000 ∧
    (atUnit none false).began + 125000 ≤ (at_ (invalidating none) 125000).cic.count ∧
    Reaches one (.host 0) (hub Pg.XLC Reg.XLC_INV_CTL) ∧ bit (rd one 0 (hub Pg.XLC Reg.XLC_INV_CTL)) 31 = false ∧
    (one.ctx (bits (63 * 2 ^ 8) 13 8)).live = false ∧ (one.ctx (bits (3 * 2 ^ 8) 13 8)).live = true := by decide +kernel

/-- Context 3's stream 0 into memory at VA 0x1000 or to the host, a packet of it on its way, and an invalidation at floor 0's
unit. -/
def landing (kind : Nat) (io : Nat) : State :=
  let s := (flying 0).setStream 0 { (flying 0).stream 0 with snk := ⟨kind, 0, 0, 0x1000, 0x1000, 0, 0⟩ }
  { s with str := { s.str with packets := [{ packet 0 with dst := 0, segs := some [⟨1, 0x2000, 256, io⟩] }] }
           xlt := { s.xlt with invals := [⟨1, (s.stream 0).ctx, 0x1000, 0x1000, none, [2 + (s.stream 0).home], 0, false, 0⟩] } }

theorem witness_InvalidationWaits : (∀ v ∈ (landing Kind.MEMORY 0).xlt.invals, okUnit (2 + ((landing Kind.MEMORY 0).stream 0).home) = true ∧
      v.waiting = [2 + ((landing Kind.MEMORY 0).stream 0).home] ∧ v.failed = false ∧
      usesRange (landing Kind.MEMORY 0) (2 + ((landing Kind.MEMORY 0).stream 0).home) v = true) ∧
    (landing Kind.MEMORY 0).xlt.invals.length = 1 ∧ usesHost (landing Kind.HOST 0x3000) (2 + ((landing Kind.HOST 0x3000).stream 0).home) 0x3000 4096 = true ∧
    usesHost (landing Kind.HOST 0x3000) (2 + ((landing Kind.HOST 0x3000).stream 0).home) 0x4000 4096 = false ∧ (∀ c ∈ [none, some 0], usesRange (invalidating c) 8 (atUnit c false) = false) := by
  decide +kernel

/-- Context 3's deadline window, held until a count. -/
def windowed : State := withCtx { ctx3 with window := true, holdUntil := some 10 }

theorem witness_DeadlineWindow : ((at_ windowed 10).ctx 3).holdUntil = some 10 ∧ ((at_ windowed 10).ctx 3).window = true ∧
    10 ≤ (at_ windowed 10).cic.count ∧ windowed.cic.count < 10 ∧
    (∀ p ∈ List.range 320, ((at_ windowed 10).cell p).runner ≠ some 3 ∧ ((at_ windowed 10).cell p).move ≠ .spilling 3) := by decide +kernel

/-- A port in service, with coherence and MSI-X on. -/
def portUp : Port :=
  { up := true, memSpace := true, busMaster := true, cacheEn := true, memEn := true, biEn := true, msixEn := true, funcMask := false, speed := 6, width := 16 }
def hosted : State := { one.setPort 0 portUp with host := { (one.setPort 0 portUp).host with attach := 0 } }

theorem witness_HostPorts : State.reset.boot.stage < 7 ∧ 7 ≤ hosted.boot.stage ∧ (∀ i ∈ List.range 64, (hosted.ctx i).fqHeld = []) ∧
    (∀ i ∈ tkeys hosted.ctxs, i < 64) ∧ hosted.host.waiting = [] ∧ (hosted.port (1 - 1)).inService = true ∧
    (hosted.port (1 - 0)).inService = false ∧ hosted.host.attach ≠ 2 ∧ (hosted.port 0).inService = true ∧ clockStopped hosted 0 7 0 = false ∧
    hosted.boot.warmBusy = false ∧ hosted.boot.fatal = false ∧ hosted.sec.dike = 0 ∧ poolBytes - 1 < 2 ^ 39 ∧ poolBytes - 1 + 1 ≤ poolBytes ∧
    poolBytes < poolBytes - 1 + 2 := by decide +kernel

/-- `hosted` with a posted write of port 0 that waits. -/
def posting : State := { hosted with mir := { hosted.mir with waiting := [⟨0, [1], none, 96, none, false⟩] } }

theorem witness_PostedWrites : (∀ w ∈ hosted.mir.waiting, w.from_ ≠ 96 + 0) ∧ (∃ w ∈ posting.mir.waiting, w.from_ = 96 + 0) ∧
    (let u := count64 hosted 0 (hpReg 0 Reg.HP_RX_LO) 1
     writeBarred u .host 0x1000 1 = false ∧ writeHeld u .host 0x1000 1 = false ∧ (∀ o, heldBehind u 96 (homeFloor 0x1000) o = false)) ∧
    (let u := count64 posting 0 (hpReg 0 Reg.HP_RX_LO) 1
     writeBarred u .host 0x1000 1 = false ∧ heldBehind u 96 (homeFloor 0x1000) true = true) := by decide +kernel

/-- The read of stream 0's packet, waiting at port 0. -/
def hostRead0 : HostOp := ⟨3, 3, 0x1000, 0x1000, [], 0, 32, (packet 3).id, 0⟩
def reading : State := { flying 3 with host := { (flying 3).host with reads := [hostRead0] } }

theorem witness_HostReads : reading.host.reads = hostRead0 :: [] ∧ hostRead0.port = 0 ∧ reading.str.packets = [packet 3] ∧
    (packet 3).id = hostRead0.packet ∧ (List.replicate 32 (1 : Byte)).length = hostRead0.len ∧ hostRead0.kind = 3 ∧
    (reading.stream (packet 3).index).snk.kind ≠ Kind.REMOTE ∧ { hostRead0 with kind := 4 }.kind = 4 := by decide +kernel

/-- Full coherence on. -/
def coherentHost (sweeping : Bool) : State := { hosted with coh := { hosted.coh with full := true, sweeping := sweeping } }

theorem witness_FullCoherence : Reaches hosted (.host 0) (hub Pg.ATT Reg.ATT_COH) ∧
    ((hosted.port 0).inService && (hosted.port 0).cacheEn && (hosted.port 0).memEn && (hosted.port 0).biEn && !hosted.coh.sweeping) = true ∧
    ((one.port 0).inService && (one.port 0).cacheEn && (one.port 0).memEn && (one.port 0).biEn && !one.coh.sweeping) = false ∧
    one.coh.full = false ∧ (coherentHost false).coh.full = true ∧ (coherentHost false).coh.sweeping = false ∧ hostHeld (coherentHost false) = [] ∧
    Reaches (coherentHost false) (.host 0) (hub Pg.ATT Reg.ATT_COH) ∧ (coherentHost true).coh.sweeping = true ∧ hostHeld (coherentHost true) = [] ∧
    (coherentHost true).coh.txns = [] ∧ hostHeld (setDir hosted 5 ⟨1, [0x20], 0⟩) ≠ [] := by decide +kernel

/-- Vector 48 raised: context 3's first, masked or not in its MSI-X entry, routed to hart 5 or not. -/
def vectored (mask : Nat) (hart : Option (Nat × Nat)) : State :=
  let s := { hosted with ctxs := one.ctxs, core := { hosted.core with offline := 0 }, host := { hosted.host with vecs := [⟨48, hart⟩], pba := [] } }
  wr s 0 (msixEntry 48 + 12) mask

theorem witness_Vectors : (∀ m ∈ [0, 1], (vectored m none).host.pba = [] ∧ (vectored m none).host.vecs = ⟨48, none⟩ :: []) ∧
    (vectored 0 (some (5, 1))).host.vecs = ⟨48, some (5, 1)⟩ :: [] ∧ 1 ∉ ((vectored 0 (some (5, 1))).hart 5).irqs ∧
    bit (vectored 0 (some (5, 1))).core.offline (5 / 4) = false ∧ (vectored 0 (some (5, 1))).core.dieOff = false ∧
    vectorHeld (vectored 0 none) 48 = false ∧ irqPort (vectored 0 none) = some 0 ∧ vectorHeld (vectored 1 none) 48 = true := by decide +kernel

/-- Context 3 unclaimed, the host attested or not. -/
def unclaimed (attested : Bool) (fails : Nat) : State :=
  let s := withCtx { ctx3 with claimed := false, tokenFails := fails, abandonAt := some 10 }
  wr { s with host := { s.host with attested := attested } } 0 (hub Pg.ATT Reg.ATT_SEL) 3

theorem witness_Reclaims : Reaches one (.host 0) (hub Pg.ATT Reg.ATT_CMD) ∧ (one.ctx (fld one 0 (hub Pg.ATT Reg.ATT_SEL) 5 0)).live = false ∧
    (let s := wr one 0 (hub Pg.ATT Reg.ATT_SEL) 3
     Reaches s (.host 0) (hub Pg.ATT Reg.ATT_CMD) ∧ (s.ctx (fld s 0 (hub Pg.ATT Reg.ATT_SEL) 5 0)).live = true ∧ (s.ctx 3).claimed = true) ∧
    (∀ p ∈ [(false, 0), (true, 3), (true, 4)], Reaches (unclaimed p.1 p.2) (.host 0) (hub Pg.ATT Reg.ATT_CMD) ∧
      fld (unclaimed p.1 p.2) 0 (hub Pg.ATT Reg.ATT_SEL) 5 0 = 3 ∧ ((unclaimed p.1 p.2).ctx 3).live = true ∧ ((unclaimed p.1 p.2).ctx 3).claimed = false ∧
      (unclaimed p.1 p.2).host.attested = p.1 ∧ ((unclaimed p.1 p.2).ctx 3).tokenFails = p.2) ∧
    Reaches one (.host 0) (hub Pg.ATT Reg.ATT_TOKEN3) ∧ ((unclaimed true 0).ctx 3).abandonAt = some 10 ∧ (unclaimed true 0).cic.count < 10 ∧
    10 ≤ (at_ (unclaimed true 0) 10).cic.count ∧ (one.ctx 3).claimed = true ∧ ((unclaimed true 0).ctx 3).ending = 0 ∧
    ({ ctx3 with ending := 4 } : Ctx).ending = 4 ∧ cellsQuiet (stopCells (unclaimed true 0) 3) 3 = true ∧
    (let s := copying.setCtx 3 { ctx3 with claimed := false, abandonAt := some 0 }
     (s.ctx 3).ending = 0 ∧ (s.ctx 3).abandonAt = some 0 ∧ cellsQuiet (stopCells s 3) 3 = false) := by decide +kernel

/-! ## Witnesses: links, device ids -/

/-- `one` with link 0 as given. -/
def linked (k : Link) : State := one.setLink 0 k

/-- A link that is up on two lanes. -/
def linkOn : Link := { Link.down with state := 2, lanes := 2 }

/-- A flit that is in order on `linkOn`. -/
def flit0 (type seq : Nat) : FlitObs := ⟨true, type, 0, false, seq, 4095, false, 0, 0, 0, 0⟩

/-- A message of one flit on a lane. -/
def linkMsg (lane : Nat) : LinkMsg := ⟨1, 0, lane, lane, 1, 0, 0, 1, 0, 0, 0, 0, 0, 0, [], [], []⟩

theorem witness_Flits : linkUp (linked linkOn) 0 = true ∧ clockStopped (linked linkOn) (linkDie 0) 6 (linkPort 0) = false ∧
    (flit0 1 4096).crcOk = true ∧ (flit0 1 0).nak = false ∧ 0 % 4096 = (((linked linkOn).link 0).rxSeq + 1) % 4096 ∧
    1 % 4096 ≠ (((linked linkOn).link 0).rxSeq + 1) % 4096 ∧ linkUp one 0 = false ∧ (∀ f ∈ ((linked linkOn).link 0).replay, f.resends < 7) ∧
    linkOn.txSeq < 4096 ∧ linkOn.ackSeq < 4096 := by decide +kernel

theorem witness_Retraining : ((linked { linkOn with state := 4 }).link 0).state = 4 ∧ ((linked Link.down).link 0).state = 0 ∧
    (linked Link.down).offline (linkDie 0) = false ∧ 8 ≤ (linked Link.down).boot.stage ∧ (linked Link.down).boot.fatal = false ∧
    Reaches (linked Link.down) (.host 0) (lkReg 0 Reg.LK_CTL) ∧
    Reaches ({ linked { linkOn with state := 4 } with boot := { up.boot with stage := 7 } } : State) (.host 0) (lkReg 0 Reg.LK_CTL) ∧
    (∀ n ∈ [0, 9], ((linked { Link.down with state := 1, step := n }).link 0).state = 1) ∧
    bits (entryOf { Link.down with step := 9 } 9) 63 56 = 0x0A ∧ 1 ≤ bits (entryOf Link.down 0) 63 56 ∧ bits (entryOf Link.down 0) 63 56 ≤ 7 ∧
    max 1 (bits (entryOf Link.down 0) 39 32) ≤ 0 + 1 ∧ 0 + 1 < max 1 (bits (entryOf Link.down 2) 39 32) ∧
    1 ≤ bits (entryOf Link.down 2) 63 56 ∧ bits (entryOf Link.down 2) 63 56 ≤ 7 ∧ bits (entryOf Link.down 6) 63 56 = 7 ∧
    bits (entryOf Link.down 8) 63 56 = 9 ∧ (∀ n ∈ [0, 1, 2, 3], ((linked { Link.down with state := 1, step := 9, badLanes := n }).link 0).badLanes = n) ∧
    0 < min 5 (nth ((linked { linkOn with rxUsed := [3] }).link 0).rxUsed 0) := by decide +kernel

theorem witness_TablesAndIds : Reaches one (.host 0) (raddr (16 + 3) 2 Reg.LX_TRN_CTL) ∧ pageLocked one (raddr (16 + 3) 2 0) = false ∧
    pageLocked (wr one 0 (raddr (16 + 3) 2 0 + Reg.PG_LOCK) 1) (raddr (16 + 3) 2 0) = true ∧
    Reaches (wr one 0 (raddr (16 + 3) 2 0 + Reg.PG_LOCK) 1) (.host 0) (raddr (16 + 3) 2 Reg.LX_TRN_CTL) ∧
    Reaches one (.host 0) (hub Pg.MCH Reg.MCH_DEV_ID) ∧ pageLocked one (hub Pg.MCH Reg.MCH_DEV_ID) = false ∧
    writeFields (PageKind.mch.at_ Reg.MCH_DEV_ID) false (rd one 0 (hub Pg.MCH Reg.MCH_DEV_ID)) (2 ^ 31 + 5) ≠ rd one 0 (hub Pg.MCH Reg.MCH_DEV_ID) ∧
    writeFields (PageKind.mch.at_ Reg.MCH_DEV_ID) false (rd one 0 (hub Pg.MCH Reg.MCH_DEV_ID)) 0 = rd one 0 (hub Pg.MCH Reg.MCH_DEV_ID) := by decide +kernel

theorem witness_Bursts : (∀ n ∈ [0, 6], let s := linked { linkOn with queue := [linkMsg n] }
      linkUp s 0 = true ∧ s.boot.fatal = false ∧ clockStopped s (linkDie 0) 6 (linkPort 0) = false ∧ (s.link 0).burst = none ∧
        (s.link 0).queue = [linkMsg n] ∧ (linkMsg n).sent = 0 ∧ isBulk (linkMsg n) = decide (n = 0) ∧ hasCredits (s.link 0) (linkMsg n) = true ∧
        (s.link 0).replay.length + (linkMsg n).flits ≤ 1024 ∧ (s.link 0).contenders = []) ∧
    ((linked linkOn).link 0).rxBurst = 0 ∧ ((linked { linkOn with rxBurst := 3 }).link 0).rxBurst ≠ 0 := by decide +kernel

/-- A header for device 1 of pod 0, one hop in X left, and a device 0 whose links of role 0 are up. -/
def head (dst mpart route : Nat) : MsgHead := ⟨0, 1, dst, 9, 0, mpart, 0, 0, 0, route, [], 0, false, []⟩
def forwarding : State :=
  let s := (List.range 96).foldl (fun s l => s.setLink l { linkOn with role := 1 }) (wr one 0 (hub Pg.MCH Reg.MCH_DEV_ID) (2 ^ 31))
  { s with lnk := { s.lnk with partState := 0 } }

theorem witness_Messages : linkUp forwarding 5 = true ∧ (head 32 7 1).mpart ≠ forwarding.lnk.mpart ∧ ¬((head 32 7 1).lane = 6 ∧ (head 32 7 1).mgmt = true) ∧
    deviceId forwarding = some 0 ∧ (head 0 forwarding.lnk.mpart 0).epoch = forwarding.lnk.epoch ∧ forwarding.lnk.partState = 0 ∧
    (head 32 forwarding.lnk.mpart 1).dst ≠ 0 ∧
    (match transitEgress forwarding 0 5 (head 32 forwarding.lnk.mpart 1) with
      | .link _ _ => true
      | .dropped _ => false) = true ∧ okIface 0 = true ∧
    clockStopped forwarding (linkDie 5) 6 (linkPort 5) = false ∧ (head 32 forwarding.lnk.mpart 1).units ≤ 14 := by decide +kernel

/-! ## Witnesses: the machine, jobs, collectives -/

/-- `one` as device 3 of its partition's first pod, with a job start and a partition state. -/
def joining (j : Job) (p : Nat) : State :=
  let s := wr one 0 (hub Pg.MCH Reg.MCH_DEV_ID) (2 ^ 31 + 3)
  { s with lnk := { s.lnk with job := j, partState := p, pods := 1 } }

theorem witness_Partitions : (∀ p ∈ [0, 1, 2], Reaches (joining Job.idle p) (.host 0) (mch Reg.MCH_PART_CMD) ∧ (joining Job.idle p).lnk.partState = p) ∧
    (joining Job.idle 0).lnk.colls = [] ∧ (joining Job.idle 0).str.streams = [] ∧ (joining Job.idle 1).lnk.links = [] ∧ Link.down.replay = [] ∧
    (joining Job.idle 2).mir.copies = [] := by decide +kernel

/-- A PREPARE record of job 5 for context 3 at 0. -/
def recorded : State :=
  let s := put (wr one 0 (hub Pg.MCH Reg.MCH_DEV_ID) (2 ^ 31)) [(0, 64, word [(0, 5), (4, 3 * 2 ^ 8 + 2), (8, 0)])]
  { s with lnk := { s.lnk with mpart := 0, epoch := 0, firstPod := 0, partState := 0 } }

theorem witness_JobCommands : Reaches one (.host 0) (mch Reg.MCH_JOB_CTL) ∧ one.lnk.job.st < 2 ∧
    (jobRecord (setFld one 0 (mch Reg.MCH_JOB_CTL) 30 28 1)).isLeft = true ∧ Reaches recorded (.host 0) (mch Reg.MCH_JOB_CTL) ∧
    jobRecord (setFld recorded 0 (mch Reg.MCH_JOB_CTL) 30 28 1) = .inr (5, 3, 2) ∧ recorded.lnk.job.st < 2 := by decide +kernel

def jobAt (st : Nat) : Job := { Job.idle with id := 5, st := st, ordinal := 3, ctx := 3 }
def jobParent : Job := { jobAt 2 with children := [⟨7, 0, 0⟩] }

theorem witness_Jobs : deviceId (joining (jobAt 1) 0) = some 3 ∧ ordinalOf (joining (jobAt 1) 0) 3 = 3 ∧ (jobAt 1).st = 1 ∧ (jobAt 1).id = 5 ∧
    ((joining (jobAt 1) 0).ctx 3).live = true ∧ (joining (jobAt 1) 0).lnk.partState = 0 ∧ (jobAt 0).st ≠ 1 ∧
    (joining jobParent 0).lnk.job.st = 2 ∧ (joining jobParent 0).lnk.job.children = [⟨7, 0, 0⟩] ∧ (joining jobParent 0).lnk.job.fail = none ∧
    (joining jobParent 0).lnk.job.ordinal ≠ 0 ∧ 0 + 250000 ≤ (at_ (joining jobParent 0) 250000).cic.count ∧
    (at_ (joining jobParent 0) 249999).cic.count < 0 + 250000 ∧
    (joining (jobAt 3) 0).lnk.job.st = 3 ∧ (jobAt 2).progressAt + 62500 ≤ (at_ (joining (jobAt 2) 0) 62500).cic.count ∧
    (jobAt 3).answeredAt + 1250000 ≤ (at_ (joining (jobAt 3) 0) 1250000).cic.count := by decide +kernel

/-- A barrier of three members at its root. -/
def barrier (ended : Bool) (deadline : Option Nat) : Coll :=
  { ctx := 3, cmd := 0, op := CollOp.BARRIER, dtype := 0, redop := 0, wide := false, members := [3, 1, 2], me := 0, root := 0, src := 0, dst := 0,
    count := 0, release := 0, result := 0, group := 9, began := 0, deadline := deadline, done := 0, seq := 0, heard := 0, arrived := [], partials := [],
    bad := [], lags := [0, 0, 0], ended := ended }
def collected (c : Coll) : State := { (joining Job.idle 0) with lnk := { (joining Job.idle 0).lnk with colls := [c] } }

theorem witness_Collectives : (∀ c ∈ one.lnk.colls, c.group ≠ 9) ∧ (collected (barrier false none)).lnk.colls = [barrier false none] ∧
    (barrier false none).op = CollOp.BARRIER ∧ 1 < (barrier false none).size ∧ (barrier false none).parent ≠ some 1 ∧
    (∃ k ∈ (barrier false none).children, k ∉ (barrier false none).arrived ∧ k ≠ 1) ∧ 1 ∉ (barrier false none).arrived ∧
    (barrier false none).op ≠ 0 ∧ (barrier true none).ended = true ∧ (barrier false (some 7)).deadline = some 7 ∧
    7 ≤ (at_ (collected (barrier false (some 7))) 7).cic.count ∧
    (barrier false none).heard + 1250000 ≤ (at_ (collected (barrier false none)) 1250000).cic.count ∧
    (collected (barrier false none)).cic.count < (barrier false none).heard + 1250000 ∧ (barrier false none).ended = false ∧
    (barrier false none).deadline = none ∧
    (let c := barrier false none
     let w := c.words
     c.agrees ⟨nth w 0, nth w 1, nth w 2, nth w 3⟩ = true ∧ c.agrees ⟨nth w 0 + 1, nth w 1, nth w 2, nth w 3⟩ = false) := by decide +kernel

/-! ## Witnesses: the mirror -/

/-- A device with four twins up, whose partner is device 1, in a state of the pair. -/
def mirrored (m : MirSys) (primary : Nat) : State :=
  let s := { one with lnk := { one.lnk with partState := 0 } }
  let s := (List.range 4).foldl (fun s l => s.setLink l { linkOn with peerDev := 1, role := 8 }) s
  let s := wr (wr (wr s 0 (hub Pg.MIR Reg.MIR_TWIN0) 15) 0 (mirReg Reg.MIR_PARTNER) (2 ^ 31 + 1)) 0 (mirReg Reg.MIR_CTL) (primary * 2 ^ 31)
  { wr s 0 (hub Pg.MIR Reg.MIR_REG_SIZE) 1 with mir := m }
def mirAns (primary : Bool) : MirAnswer := ⟨primary, false, [(0, 1)], 0, 0, [], false⟩
def pairSt (st : Nat) (primary : Bool) : MirSys := { one.mir with st := st, primary := primary }
def formed (st primary : Nat) : State := setFld (mirrored (pairSt st false) primary) 0 (mirReg Reg.MIR_CMD) 3 0 1

theorem witness_Form : (∀ st ∈ [0, 2], Reaches (mirrored (pairSt st false) 0) (.host 0) (mirReg Reg.MIR_CMD) ∧
      (mirrored (pairSt st false) 0).mir.forming = none ∧ (mirrored (pairSt st false) 0).mir.st = st) ∧
    mirBadConfig (formed 0 0) = false ∧ 4 ≤ (twinsUp (formed 0 0)).length ∧ mirBadConfig (setFld one 0 (mirReg Reg.MIR_CMD) 3 0 1) = true ∧
    one.mir.st = 0 ∧ one.mir.forming = none ∧ Reaches one (.host 0) (mirReg Reg.MIR_CMD) ∧ mirMismatch (formed 0 0) (mirAns false) = true ∧
    mirMismatch (formed 0 0) (mirAns true) = false ∧ bit (rd (mirrored (pairSt 0 false) 0) 0 (mirReg Reg.MIR_CTL)) 31 = false ∧
    mirConflict (formed 0 0) (mirAns true) = false ∧
    (at_ { one with mir := { one.mir with forming := some 0 } } 1250000000).mir.forming = some 0 := by decide +kernel

theorem witness_Dissolve : (mirrored (pairSt 2 true) 1).mir.st ≠ 0 ∧ (mirrored (pairSt 2 true) 1).mir.waiting = [] ∧
    (mirrored (pairSt 2 true) 1).mir.primary = true ∧ Reaches (mirrored (pairSt 2 true) 1) (.host 0) (mirReg Reg.MIR_CMD) ∧
    ({ pairSt 2 false with peerSt := 2 } : MirSys).peerSt ≠ 1 ∧
    ({ pairSt 0 false with forming := some 0 } : MirSys).forming ≠ none ∧ Reaches (mirrored { pairSt 0 false with forming := some 0 } 0) (.host 0) (mirReg Reg.MIR_CMD) ∧
    (∀ st ∈ [4, 5], (mirrored (pairSt st true) 1).mir.st = st ∧ (mirrored (pairSt st true) 1).mir.forming = none ∧ twinsUp (mirrored (pairSt st true) 1) ≠ [] ∧
      Reaches (mirrored (pairSt st true) 1) (.host 0) (mirReg Reg.MIR_CMD)) ∧
    twinsUp { one with mir := pairSt 4 true } = [] ∧ Reaches { one with mir := pairSt 4 true } (.host 0) (mirReg Reg.MIR_CMD) := by decide +kernel

theorem witness_MirrorMessages : (mirrored (pairSt 2 false) 0).mir.st = 2 ∧ (mirrored (pairSt 2 false) 0).mir.primary = false ∧
    inMirrorRegion (mirrored (pairSt 2 false) 0) (256 * 255) 256 = true ∧ (List.replicate 256 (1 : Byte)).length = 256 ∧
    (mirrored (pairSt 2 false) 0).coh.txns = [] ∧ (mirrored (pairSt 2 false) 0).coh.waiting = [] ∧ (mirrored (pairSt 2 false) 0).coh.dir = [] ∧
    bit (mirCtxMask (wr (mirrored (pairSt 2 false) 0) 0 (mirReg Reg.MIR_CTX_LO) 8)) 3 = true ∧ one.mir.primary = false ∧
    (mirrored { pairSt 2 true with copies := [⟨4, 0, none, 0, 0⟩] } 1).mir.copies = [⟨4, 0, none, 0, 0⟩] ∧ one.mir.acks = [] ∧
    one.mir.resync = none ∧ one.mir.waiting = [] ∧ (mirrored (pairSt 2 false) 0).lnk.partState = 0 ∧ one.lnk.partState ≠ 0 ∧ twinsUp (mirrored (pairSt 2 false) 0) ≠ [] := by decide +kernel

theorem witness_Heartbeats : (let s := at_ (mirrored (pairSt 2 true) 1) 12500
      max s.mir.hbAt s.mir.suspended + 12500 ≤ s.cic.count ∧ s.mir.st = 2) ∧
    (let s := at_ (mirrored (pairSt 2 true) 1) 12499
     s.cic.count < max s.mir.hbAt s.mir.suspended + 12500 ∧ s.mir.st ≠ 0) ∧
    (mirrored (pairSt 2 true) 1).mir.missed < 4 ∧ (mirrored { pairSt 2 true with missed := 4 } 1).mir.missed = 4 ∧
    (mirrored (pairSt 2 true) 1).sec.dike = 0 ∧ (mirrored (pairSt 2 true) 1).mir.sentAt + 12500 ≤ (at_ (mirrored (pairSt 2 true) 1) 12500).cic.count ∧
    (mirrored (pairSt 2 true) 1).cic.count < (mirrored (pairSt 2 true) 1).mir.sentAt + 12500 ∧ one.lnk.partState ≠ 0 ∧
    (mirrored (pairSt 2 true) 1).lnk.partState = 0 ∧ (mirrored (pairSt 2 true) 1).mir.waiting = [] ∧ (mirrored (pairSt 2 true) 1).mir.epoch = 0 ∧
    (∀ p ∈ [false, true], (⟨0, p, 2, 0, none, [], false⟩ : HeartObs).primary = p) := by decide +kernel

theorem witness_Witness : Reaches (mirrored (pairSt 3 true) 1) (.host 0) (mirReg Reg.MIR_WITNESS) ∧ (mirrored (pairSt 3 true) 1).mir.st = 3 ∧
    (mirrored (pairSt 3 true) 1).mir.primary = true ∧ (mirrored (pairSt 3 false) 0).mir.primary = false ∧
    1 % 65536 = ((mirrored (pairSt 3 true) 1).mir.epoch + 1) % 65536 ∧ one.mir.st ≠ 3 ∧ Reaches one .i3c (mirReg Reg.MIR_WITNESS) ∧
    0 % 65536 ≠ (one.mir.epoch + 1) % 65536 := by decide +kernel

/-! ## Witnesses: the store and its mailbox -/

/-- A commit of one NOTE, and `one` with it in the queue or running. -/
def note (n : Nat) : Commit := { prio := 5, type := 0x70, key := 0, version := 1, tomb := false, data := List.replicate n 0 }
def committing (c : Commit) : State := { one with pld := { one.pld with queue := [c] } }
def programming (n : Nat) : State := { one with pld := { one.pld with running := some ⟨note n, 0, 999, 0, 0⟩ } }

/-- The current record of that NOTE, of a VERSION. -/
def noteRec (version : Nat) : PldRec := ⟨0x70, 0, version, 0, true, false, 1, [1, 2], 4, 4⟩
def holding_ (r : PldRec) (s : State) : State := { s with pld := { s.pld with records := [r] } }

theorem witness_CommitStart : nextCommit (committing (note 4)) = some (0, note 4) ∧ storeRuns (committing (note 4)) = true ∧
    (committing (note 4)).pld.running = none ∧ (committing (note 4)).pld.st ≠ 3 ∧ versionAhead (committing (note 4)) (note 4) = false ∧
    (prepare (committing (note 4)) (note 4)).isSome = true ∧ versionAhead (holding_ (noteRec 2) (committing (note 4))) (note 4) = true ∧
    (let s : State := { committing (note 4) with pld := { (committing (note 4)).pld with st := 3 } }
     nextCommit s = some (0, note 4) ∧ storeRuns s = true ∧ s.pld.st = 3) ∧ one.pld.queue = [] := by decide +kernel

theorem witness_CommitComplete : one.pld.running = none ∧ (programming 4).pld.running = some ⟨note 4, 0, 999, 0, 0⟩ ∧ (note 4).frags ≤ 0 + 1 ∧
    0 + 1 < (note 3000).frags ∧ (note 4).mend = none ∧ bankUp (programming 4) 0 = true ∧ (∀ y ∈ (programming 4).pld.records, y.seq ≠ 999) ∧
    (takePages (programming 4) 0 (recPages ((note 4).record (programming 4) 0 999).data.length)).2 ≠ 512 ∧
    (∀ b ∈ [0, 1], heldIn (programming 4) b ((note 4).record (programming 4) 0 999) = false) ∧ [0, 1].all okBank = true ∧ bankUp (programming 4) 1 = true ∧ bit 0 1 = false ∧
    bankUp { programming 4 with pld := { (programming 4).pld with bankB := false } } 1 = false := by decide +kernel

/-- Block 511 of bank B in a state. -/
def block511 (st : BlkState) : State := setBlk one (512 * 1 + 511) { PldBlock.fresh with st := st }

theorem witness_ErasesAndLog : (blk (block511 .erasing) (512 * 1 + 511)).st = .erasing ∧ (blk one (512 * 1 + 511)).st ≠ .erasing ∧ eraseRate one < 200 ∧
    one.pld.logAt + 60 ≤ bootMinutes (at_ one 450000000000) ∧ eraseRate (at_ one 450000000000) < 200 ∧ bootMinutes one < one.pld.logAt + 60 ∧
    one.pld.held.length ≤ 4096 ∧ 200 ≤ eraseRate { one with pld := { one.pld with eraseTimes := List.replicate 1400 0 } } := by decide +kernel

/-- The mailbox with its arguments. -/
def mailbox (type key arg2 : Nat) : State := poke one [(pldReg Reg.PLD_MBX_ARG, type * 2 ^ 16 + key), (pldReg Reg.PLD_MBX_ARG2, arg2)]

theorem witness_MailboxCommands : MailboxFree one (.host 0) ∧ MailboxFree one .i3c ∧
    (let s : State := { one with pld := { one.pld with busy := some ⟨1, 0, 0, 0⟩ } }
     Reaches s (.host 0) (pldReg Reg.PLD_MBX_CMD) ∧ s.pld.busy.isSome = true ∧ s.boot.romService = false) ∧
    mbxType (mailTaken (mailbox 3 0 0) (.host 0) 1) = 3 ∧ MailboxFree (mailbox 3 0 0) (.host 0) ∧
    (let t := mailTaken (mailbox 0x70 0 0) (.host 0) 1
     mbxType t ≠ 3 ∧ currentVal t (mbxType t) (mbxKey t) = none ∧ MailboxFree (mailbox 0x70 0 0) (.host 0)) ∧
    mbxType (mailTaken (mailbox 0x70 0 0) (.host 0) 1) ∈ storeTypes ∧ mbxType (mailTaken (mailbox 0x99 0 0) (.host 0) 1) ∉ storeTypes ∧
    (let t := mailTaken (holding_ (noteRec 2) (mailbox 0x70 0 0)) (.host 0) 1
     currentVal t (mbxType t) (mbxKey t) = some [noteRec 2] ∧ valueAhead t [noteRec 2] = true ∧
       MailboxFree (holding_ (noteRec 2) (mailbox 0x70 0 0)) (.host 0)) ∧
    (let t := mailTaken (holding_ (noteRec 1) (mailbox 0x70 0 0)) (.host 0) 1
     currentVal t (mbxType t) (mbxKey t) = some [noteRec 1] ∧ valueAhead t [noteRec 1] = false ∧
       [noteRec 1].find? (fun r => r.frag = mbxArg2 t % 16) = some (noteRec 1)) ∧
    (let t := mailTaken (mailbox 0x50 0 0) (.host 0) 3
     mbxType t = 0x50 ∧ nextLog t (mbxArg2 t) = none ∧
       nextLog (holding_ { noteRec 1 with type := 0x50 } t) (mbxArg2 t) = some { noteRec 1 with type := 0x50 }) ∧
    mbxType (mailTaken (mailbox 0x70 0 0) (.host 0) 3) ≠ 0x50 := by decide +kernel

theorem witness_MailboxRequests : MailboxFree (mailbox 0 2 0) (.host 0) ∧ MailboxFree (mailbox 0 15 256) .i3c ∧ MailboxFree (mailbox 0 16 0) .i3c ∧
    mbxKey (mailbox 0 2 0) < 3 ∧ mbxKey (mailbox 0 15 256) < 16 ∧ 4 ≤ mbxKey (mailbox 0 15 256) ∧ mbxArg2 (mailbox 0 15 256) % 65536 ≤ 256 ∧
    16 ≤ mbxKey (mailbox 0 16 0) ∧ one.pld.st ≠ 3 ∧ versionAhead one (note 4) = false ∧ one.pld.syncAt = none ∧
    ({ one.pld with syncAt := some 0 }.syncAt = some 0 ∧ one.cic.count < 0 + 7500000000 ∧ 0 + 7500000000 ≤ (at_ one 7500000000).cic.count) := by
  decide +kernel

/-! ## Witnesses: security -/

/-- `one` with slot 3 loaded, a key-encryption key, a blob 5 wrapped under it, and mailbox arguments. -/
def keyed (key arg2 : Nat) : State :=
  let s := (mailbox 0 key arg2).setSlot 3 { st := 1, key := 9, fromBlob := false }
  holding_ { noteRec 1 with type := 3, key := 5, data := blobData 9 0 } { s with sec := { s.sec with kek := some 0 } }

theorem witness_KeysAndStaging : MailboxFree (mailbox 0 0 2048) (.host 0) ∧ mbxArg2 (mailbox 0 0 2048) % 2048 = 0 ∧ mbxArg2 (mailbox 0 0 2048) < 32768 ∧
    mbxArg2 (mailbox 0 0 2049) % 2048 ≠ 0 ∧ 32768 ≤ mbxArg2 (mailbox 0 0 32768) ∧ overI3c .i3c = true ∧ overI3c (.host 0) = false ∧
    MailboxFree (keyed 3 5) (.host 0) ∧ mbxKey (keyed 3 5) = 3 ∧ ((keyed 3 5).slot 3).st = 1 ∧ mbxKey (keyed 0x7F 0) = 0x7F ∧
    leNat (mbxBuf (keyed 3 5) 4) + leNat ((mbxBuf (keyed 3 5) 8).drop 4) ≤ poolGranules ∧
    poolGranules < leNat (mbxBuf (poke (keyed 3 5) [(pldReg 0x800, 2 ^ 31)]) 4) ∧ mbxArg2 (keyed 3 5) < 256 ∧ kekOf (keyed 3 5) = some 0 ∧
    kekOf (mailbox 0 3 5) = none ∧ ((keyed 3 5).ctx 3).live = true ∧ storeVal (keyed 3 6) 3 6 = none ∧ storeVal (keyed 3 5) 3 5 ≠ none ∧
    unwrapBlob (keyed 3 5) 5 = some 9 ∧ unwrapBlob { keyed 3 5 with sec := { (keyed 3 5).sec with kekOff := true } } 5 = none ∧
    64 ≤ mbxKey (keyed 64 0) := by decide +kernel

theorem witness_Fuses : MailboxFree (mailbox 0 3 7) .i3c ∧ mbxArg2 (mailbox 0 3 7) ≤ 32768 ∧ 1 ≤ mbxKey (mailbox 0 3 7) ∧ mbxKey (mailbox 0 3 7) ≤ 3 ∧
    mbxKey (mailbox 0 0 0) = 0 ∧ MailboxFree (mailbox 0 0 0) .i3c ∧ 3 < mbxKey (mailbox 0 4 0) := by decide +kernel

/-- A policy at a level for every sensor. -/
def policy (level : Nat) : Policy := ⟨List.replicate 7 level, false, false, false, 0, [], 0⟩
def policed (level : Nat) : State := { one with sec := { one.sec with policy := some (policy level) } }

theorem witness_DikeTrips : State.reset.sec.armed = false ∧ one.sec.armed = true ∧ dikeLevel (policed 0) 6 = 0 ∧ dikeLevel (policed 1) 6 = 1 ∧
    (policed 1).boot.stage ≠ 1 ∧ dikeLevel (policed 2) 6 = 2 ∧
    (let s : State := { policed 1 with boot := { up.boot with stage := 1 } }
     s.sec.armed = true ∧ s.boot.stage = 1 ∧ s.sec.latchedBoot = none) ∧ one.sec.erase = none ∧ one.sec.dike ≠ 3 ∧
    MailboxFree (mailbox 0 7 0) .i3c ∧ 7 ≤ mbxKey (mailbox 0 7 0) ∧ mbxKey (mailbox 0 6 0) < 7 := by decide +kernel

/-- A core image of one page at 0. -/
def imaged : State := wr one 0 (coreReg Reg.CORE_IMG_SIZE) 1

theorem witness_CoreRuns : Reaches imaged (.host 0) (coreReg Reg.CORE_RUN_CTL) ∧ imaged.core.ran = false ∧ imaged.sec.dike = 0 ∧ onlineHarts imaged ≠ [] ∧
    1 ≤ fld imaged 0 (coreReg Reg.CORE_IMG_SIZE) 15 0 ∧ fld imaged 0 (coreReg Reg.CORE_IMG_SIZE) 15 0 ≤ 16384 ∧
    rd64 imaged 0 (coreReg Reg.CORE_IMG_BASE_LO) % 4096 = 0 ∧ rd64 imaged 0 (coreReg Reg.CORE_IMG_BASE_LO) + 1 * 4096 ≤ poolBytes ∧
    fld one 0 (coreReg Reg.CORE_IMG_SIZE) 15 0 = 0 ∧ onlineHarts { imaged with core := { imaged.core with offline := 2 ^ 24 - 1 } } = [] ∧
    ({ imaged.core with ran := true }.ran = true) ∧ ({ imaged.sec with dike := 1 }.dike ≠ 0) := by decide +kernel

theorem witness_DebugAndSessions : MailboxFree (mailbox 0 0 1) (.host 0) ∧ mbxArg2 (mailbox 0 0 1) = 1 ∧ (mailbox 0 0 1).sec.entropyBad = false ∧
    mbxArg2 (mailbox 0 0 3) ≠ 1 ∧ mbxArg2 (mailbox 0 0 3) ≠ 2 ∧ (mailbox 0 0 1).sec.nonce = none ∧ (mailbox 0 0 1).sec.dike = 0 ∧
    ({ one.sec with nonce := some (1, 1, 0) }.nonce = some (1, 1, 0) ∧ 0 ≤ one.cic.count) ∧
    (hosted.port 0).inService = true ∧ 2 ≤ hosted.boot.stage ∧ hosted.boot.romService = false ∧ hosted.host.sessions.length < 4 ∧
    4 ≤ ({ hosted with host := { hosted.host with sessions := List.replicate 4 ⟨0, true, false, true⟩ } } : State).host.sessions.length ∧
    (∀ x ∈ hosted.host.sessions, x.id ≠ 2) ∧
    (let s : State :=
      { hosted with
        host := { hosted.host with sessions := [⟨0, true, false, true⟩] }
        pld := { hosted.pld with records := [{ noteRec 1 with type := 2 }, { noteRec 1 with type := 2, key := 1 }] } }
     (∃ x ∈ s.host.sessions, x.viaHost = true ∧ x.sig = true) ∧ certsHeld s = true ∧ (s.port 0).inService = true) ∧
    ({ one.sec with entropyBad := true }.entropyBad = true) := by decide +kernel

/-- The guest on, with a window on the first 4 KiB of memory for reads. -/
def windowedGuest : State :=
  { one with sec := { one.sec with guestOn := true, keyMap := [(0, 3)], policy := some { policy 0 with windows := [⟨0, 4096, 3, 1⟩] } } }

theorem witness_Guest : windowedGuest.sec.guestOn = true ∧ windowedGuest.sec.guestIso = false ∧ windowedGuest.boot.warmBusy = false ∧ clockStopped windowedGuest 6 11 0 = false ∧
    guestPasses windowedGuest 0 64 1 = true ∧ guestPasses windowedGuest 0 64 2 = false ∧ windowedGuest.coh.txns = [] ∧ windowedGuest.coh.waiting = [] ∧
    guestPasses { windowedGuest with sec := { windowedGuest.sec with policy := some { policy 0 with windows := [⟨0, 4096, 3, 3⟩] } } } 0 64 2 = true ∧
    one.sec.guestOn = false := by decide +kernel

theorem witness_KeysDie : Reaches one (.host 0) ctxmCmd ∧ (one.ctx 3).live = true ∧ cellsQuiet (stopCells (ctxmWrite one 2 3) 3) 3 = true ∧
    (let s := withCtx { ctx3 with claimed := false, abandonAt := some 0 }
     (s.ctx 3).abandonAt = some 0 ∧ (s.ctx 3).live = true ∧ (s.ctx 3).claimed = false ∧ 0 ≤ s.cic.count) ∧
    (policed 1).sec.armed = true ∧ (policed 1).boot.stage ≠ 1 ∧ 1 ≤ dikeLevel (policed 1) 0 := by decide +kernel

/-- `up` with a core image that runs. -/
def imageRuns : State := { up with core := { up.core with image := some (0, 4096) } }

theorem witness_NoFirmwareRunsUnsigned : exec .homeSweepDone imageRuns = .next imageRuns ∧ imageRuns.sec.udsClosed = true ∧
    imageRuns.core.image = some (0, 4096) := ⟨rfl, rfl, rfl⟩

/-! ## Witnesses: registers -/

theorem witness_RegisterReads : (∀ a ∈ [hub Pg.CIC Reg.CIC_COUNT_LO, hub Pg.CIC (Reg.CIC_COUNT_LO + 4), rstReg Reg.RST_CAUSE], Reaches one (.host 0) a ∧ a % 4 = 0 ∧
      isMsix a = false ∧ beyondPage a = false ∧ fieldsAt a ≠ [] ∧ a ≠ hub Pg.ATT Reg.ATT_TOKEN3) ∧
    isLo (hub Pg.CIC Reg.CIC_COUNT_LO) = true ∧ isHi (hub Pg.CIC (Reg.CIC_COUNT_LO + 4)) = true ∧ isLo (rstReg Reg.RST_CAUSE) = false ∧
    isHi (rstReg Reg.RST_CAUSE) = false := by decide +kernel

theorem witness_RegisterWrites : Reaches one (.host 0) (coreReg Reg.CORE_IMG_BASE_LO) ∧ isLo (coreReg Reg.CORE_IMG_BASE_LO) = true ∧
    (coreReg Reg.CORE_IMG_SIZE + 1) % 4 ≠ 0 ∧ Reaches one (.host 0) (coreReg Reg.CORE_IMG_SIZE + 1) ∧ beyondPage (coreReg 0xFFC) = true ∧
    Reaches one (.host 0) (coreReg 0xFFC) ∧ isMsix (coreReg 0xFFC) = false ∧
    (let a := coreReg Reg.CORE_IMG_SIZE
     Reaches one (.host 0) a ∧ a % 4 = 0 ∧ isMsix a = false ∧ beyondPage a = false ∧ fieldsAt a ≠ [] ∧ isDoorbell a = false ∧ 0x040 ≤ a % 0x1000 ∧
       isLo a = false ∧ isHi a = false ∧ kindAt a = some .core ∧ ownWrite one (.host 0) .core (a % 0x1000) (rd one (copyAt one a) a) 5 = none ∧
       changesLocked (fieldsAt a) (pageLocked one a) (rd one (copyAt one a) a) 5 = false) ∧
    Reaches one (.host 0) (coreReg Reg.CORE_IMG_BASE_HI) ∧ pageLocked one (coreReg Reg.CORE_IMG_BASE_HI) = false ∧
    heldLoOf one (.host 0) (coreReg Reg.CORE_IMG_BASE_LO) = none ∧
    heldLoOf { one with heldLo := tset (fun _ => 0) one.heldLo (regKey (srcLatch (.host 0)) (coreReg Reg.CORE_IMG_BASE_LO)) 8 } (.host 0)
      (coreReg Reg.CORE_IMG_BASE_LO) = some 7 := by decide +kernel

theorem witness_PageRegisters : okPage 4 = true ∧ Reaches one (.host 0) (pageAt 4 + Reg.PG_INT_SET) ∧ Reaches one (.host 0) (pageAt 4 + Reg.PG_INT_RAW) ∧
    Reaches one (.host 0) (pageAt 4 + Reg.PG_INT_EN) ∧ Reaches one (.host 0) (pageAt 4 + Reg.PG_LOCK) ∧ intPend one (pageAt 4) = 0 ∧
    Reaches one (.host 0) (pageAt 4 + 0x040) ∧ kindAt (pageAt 4) = some .cic ∧ Reaches one (.host 0) (rstReg Reg.ERR_RING_CONS) ∧
    1 ≤ (3 + 2 ^ 32 - rd one 0 (rstReg Reg.ERR_RING_CONS)) % 2 ^ 32 ∧
    3 ≤ (rd (poke one [(rstReg Reg.ERR_RING_PROD, 3)]) 0 (rstReg Reg.ERR_RING_PROD) + 2 ^ 32 - 0) % 2 ^ 32 := by decide +kernel

/-! ## Small checks against the manual's own numbers -/

/-- The example of R205: address 0x0ABC_D700 lies on floor 2, in stack 5, on its channel 28, at offset 0x000A_BF00 of it. -/
theorem test_interleave : homeFloor 0x0ABCD700 = 2 ∧ chanOf 0x0ABCD700 = 32 * 5 + 28 ∧ chanOffset 0x0ABCD700 = 0x000ABF00 := by decide

/-- The image of the table in the example of chapter 03, in slot 5. -/
def books5 : Books :=
  (⟨[], 0, 0⟩ : Books).load 5 0
    [0x00, 0x28, 0x30, 0x34, 0x38, 0x3C, 0x40, 0x46, 0x4A, 0xA8, 0xB0, 0xB4, 0xB8, 0xBC, 0xC0, 0xC6]

/-- The four BF16 weights of that example. -/
def weights : List Host.Cell := (ported (encode 1)).store 0x1000 [0x36, 0x3F, 0x9A, 0xBE, 0x80, 0x3D, 0x20, 0x3E] [] |>.sram

/-- The encoding of those weights, no-clip, rounded to nearest. -/
def encoded : EncAcc := (⟨8, 1, 0, 1, 5, 4, 0, 0⟩ : EncOp).run weights books5 ⟨0x1000, 4096, 0, 256⟩ 1

/-- Chapter 03's example: the scale byte is 0x7D, and the four weights take the entries 7, 12, 1 and 2. -/
theorem test_encode_example : encoded.scales.head? = some 0x7D ∧ encoded.codes.take 4 = [7, 12, 1, 2] := by decide +kernel

/-- Element 0 of that example decodes as 3.5 × 2^(125 - 127) = 0.875 (R89). -/
theorem test_table_entry : tableValue books5 1 5 7 = some (decodeE4M3 0x46) := by decide +kernel

/-- The payload of the routing example of chapter 06, and its scores as FP32: four tokens, four experts. -/
def routingOp : Op := op 0x43 [(0x28, 10 * 2 ^ 28 + 2 * 2 ^ 24 + 2 * 2 ^ 20), (0x2C, 4 * 2 ^ 16 + 4), (0x30, 2)] [in_ 0 1] [out_ 0 8]
def scores : List Nat :=
  [0x3F000000, 0x3E99999A, 0x3E19999A, 0x3D4CCCCD, 0x3EE66666, 0x3DCCCCCD, 0x3ECCCCCD, 0x3D4CCCCD,
    0x3F19999A, 0x3D4CCCCD, 0x3D4CCCCD, 0x3E99999A, 0x3E4CCCCD, 0x3EB33333, 0x3E99999A, 0x3E19999A]
def routing : CellImg := (ported routingOp).store 0x1000 (scores.flatMap (leBytes 4)) []

/-- Tokens placed, those at an alternate, and those dropped, of an answer. -/
def placement : MatchAnswer → Nat × Nat × Nat
  | .ok a => (a.placed, a.alternate, a.dropped)
  | .error _ => (0, 0, 0)

/-- Chapter 06's example under next choice: PLACED 8, ALTERNATE 3; under drop: PLACED 7, DROPPED 1. -/
theorem test_dispatch_example : placement (matchAnswer routing routingOp 1) = (8, 3, 0) ∧ placement (matchAnswer routing routingOp 0) = (7, 0, 1) := by
  decide +kernel

/-- Chapter 21's example: the header of floor die 2's coherence page. -/
theorem test_coherence_page : regView State.reset 0x00819000 = 0x33020004 ∧ regView State.reset 0x00819008 = 0x001E0002 ∧
    cohReg 2 0 = 0x00819000 := by decide +kernel

/-- Chapter 09's example: 680 × 1,000 + 20 × 1,024 fits the bound of R217; the bound itself fits, and one more does not. -/
theorem test_shares : shareFits 680 20 = true ∧ shareFits 1024 0 = true ∧ shareFits 1024 1 = false := by decide

/-- Chapter 13's example: hart 20's CDB of 38 on context 2's ring of 256 with 37 commands in it answers 0. -/
theorem test_cdb : cdbQueueStatus (up.setCtx 2 { ctx3 with producer := 37 }) 20 2 38 = 0 ∧
    cdbQueueStatus (up.setCtx 2 { ctx3 with producer := 37 }) 20 2 257 = 1 := by decide +kernel

/-! ## The smoke test of well-formedness: every check refuses the unit above the last, and takes the last -/

/-- Of each pair, the first command is well-formed and the second is not. -/
def told (l : List (Instr × Instr)) : Bool := l.all fun p => p.1.wellFormed && !p.2.wellFormed

theorem smoke_units : told [(.wait 63, .wait 64), (.descriptorArm 319 7, .descriptorArm 320 7), (.descriptorArm 319 7, .descriptorArm 319 8),
    (.drain 95, .drain 96), (.ccnt 0 31, .ccnt 0 32), (.burstGrant 95, .burstGrant 96), (.cohProbe .i3c 3, .cohProbe .i3c 4),
    (.selfRefreshEntry 7, .selfRefreshEntry 8), (.vrefRecal 255, .vrefRecal 256), (.tgenRunEnd 0 31 ⟨0, 0, []⟩, .tgenRunEnd 0 32 ⟨0, 0, []⟩)] = true := by
  decide +kernel

theorem smoke_more_units : told [(.hostLinkReset 1 1, .hostLinkReset 2 1), (.sluiceRefill 3 64, .sluiceRefill 3 65), (.timerFire 7, .timerFire 8),
    (.dikeTrip 6, .dikeTrip 7), (.d2dReplay 20, .d2dReplay 21), (.lr 0 1 0 8, .lr 0 1 0 2),
    (.hartAccess 0 (.load 0 8 1 false false), .hartAccess 0 (.load 0 9 1 false false)),
    (.hartAccess 0 (.store 0 [1] false), .hartAccess 0 (.store 0 [] false)), (.hartAccess 0 (.fetch 0), .hartAccess 96 (.fetch 0)),
    (.hostSnoop (2 ^ 46 - 1) true, .hostSnoop (2 ^ 46) true), (.commitComplete true [1], .commitComplete true [2]),
    (.commitComplete false [1], .commitComplete false [2]), (.railFailure 0 ⟨false, .cut 1⟩, .railFailure 0 ⟨false, .cut 2⟩),
    (.translationWalkDone (.walk 999), .translationWalkDone (.fill 320 0 0 0)),
    (.streamPacketSend 3, .streamPacketSend 4), (.atsInvalidateRequest 1 0 4096, .atsInvalidateRequest 2 0 4096)] = true := by decide +kernel

theorem smoke_last_units : [okAgent 127, okCellDie 7, okCellDieCode 15, okLinkDie 3, okDie 31, okUnit 15, okPage 16383, okBank 1, okControlled 1, okControlled 15,
      okSource (.host 1), okSource (.hart 95), okSource .guest].all id = true ∧
    [okAgent 128, okCellDie 8, okCellDieCode 16, okCellDieCode 7, okLinkDie 4, okDie 6, okDie 7, okDie 20, okDie 32, okUnit 0, okUnit 6, okUnit 16, okPage 16384,
      okBank 2, okControlled 7, okControlled 16, okSource (.host 2), okSource (.hart 96)].any id = false := by
  decide

/-- A command that names no unit faults. -/
theorem smoke_fault : step { up with pending := [.wait 64] } = .fault .noSuchUnit := rfl

end Sys2Proof.Tests
end

section
/-!
What firmware runs (O59, R16). Almost every operation of the machine leaves the hub firmware and the core image as they are: `firm` reads both
off a state, and one lemma for each operation, in the order of the model's files, says that `firm` is the same after it. What is left is what drops
firmware (a quarantine, a reset) and the two places that start it.
-/

namespace Sys2Proof.Machine

/-! ## The firmware of a state -/

/-- Whether the hub firmware has been started, and which core image runs. -/
def firm (s : State) : Bool × Option (Nat × Nat) := (s.sec.udsClosed, s.core.image)

-- The proofs are in brackets so that `simp` rewrites with these lemmas and does not compute the states that they speak of.
@[simp] theorem firm_mk (p o f r l hl ci m po k cx ce mt st x he hb co core h ln mi pw pl sec er bo) :
    firm ⟨p, o, f, r, l, hl, ci, m, po, k, cx, ce, mt, st, x, he, hb, co, core, h, ln, mi, pw, pl, sec, er, bo⟩ =
      (sec.udsClosed, core.image) := (rfl)

@[simp] theorem firm_fold (s : State) : (s.sec.udsClosed, s.core.image) = firm s := (rfl)

@[simp] theorem firm_ite (c : Prop) [Decidable c] (s t : State) :
    firm (if c then s else t) = if c then firm s else firm t := apply_ite firm c s t

/-- What each step of a fold keeps, the fold keeps. -/
theorem firm_foldl_of {α β : Type} (g : β → State) (f : β → α → β) (h : ∀ b x, firm (g (f b x)) = firm (g b)) (l : List α)
    (b : β) : firm (g (l.foldl f b)) = firm (g b) := by
  induction l generalizing b with
  | nil => rfl
  | cons x t ih => exact (ih (f b x)).trans (h b x)

@[simp] theorem firm_foldl {α : Type} (f : State → α → State) (h : ∀ s x, firm (f s x) = firm s) (l : List α) (s : State) :
    firm (l.foldl f s) = firm s := firm_foldl_of id f h l s

theorem firm_of_pair {α : Type} {p : State × α} {t : State} {a : α} (h : p = (t, a)) : firm t = firm p.1 := by rw [h]

/-- Every state that `o` answers has the firmware of `s`. -/
def AllFirm (s : State) (o : Option State) : Prop := ∀ t ∈ o, firm t = firm s

@[simp] theorem allFirm_none (s : State) : AllFirm s none := by simp [AllFirm]

@[simp] theorem allFirm_some (s t : State) : AllFirm s (some t) ↔ firm t = firm s := by simp [AllFirm]

@[simp] theorem allFirm_ite (s : State) (c : Prop) [Decidable c] (o p : Option State) :
    AllFirm s (if c then o else p) ↔ if c then AllFirm s o else AllFirm s p := by
  split <;> rfl

theorem AllFirm.ite {s : State} {c : Prop} [Decidable c] {o p : Option State} (ho : AllFirm s o) (hp : AllFirm s p) :
    AllFirm s (if c then o else p) := by
  split
  · exact ho
  · exact hp

theorem firm_getD {s t : State} {o : Option State} (h : AllFirm s o) (ht : firm t = firm s) : firm (o.getD t) = firm s := by
  cases o with
  | none => exact ht
  | some u => exact h u rfl

theorem allFirm_bind {s : State} {o : Option State} {f : State → Option State} (ho : AllFirm s o) (hf : ∀ t, AllFirm t (f t)) :
    AllFirm s (o.bind f) := by
  cases o with
  | none => simp
  | some t => exact fun u hu => (hf t u hu).trans (ho t rfl)

theorem AllFirm.trans {s t : State} {o : Option State} (h : AllFirm t o) (ht : firm t = firm s) : AllFirm s o :=
  fun u hu => (h u hu).trans ht

/-! ## Machine/Regs -/

@[simp] theorem firm_wr (s : State) (idx a v : Nat) : firm (wr s idx a v) = firm s := by simp [wr]
@[simp] theorem firm_setFld (s : State) (idx a hi lo v : Nat) : firm (setFld s idx a hi lo v) = firm s := by simp [setFld]
@[simp] theorem firm_wr64 (s : State) (idx a v : Nat) : firm (wr64 s idx a v) = firm s := by simp [wr64]
@[simp] theorem firm_setCtx (s : State) (i : Nat) (c : Ctx) : firm (s.setCtx i c) = firm s := by simp [State.setCtx]
@[simp] theorem firm_setCell (s : State) (c : Nat) (x : Cell) : firm (s.setCell c x) = firm s := by simp [State.setCell]
@[simp] theorem firm_setMtu (s : State) (d : Nat) (m : MatchUnitState) : firm (s.setMtu d m) = firm s := by simp [State.setMtu]
@[simp] theorem firm_setStream (s : State) (i : Nat) (x : Stream) : firm (s.setStream i x) = firm s := by simp [State.setStream]
@[simp] theorem firm_setChan (s : State) (c : Nat) (x : Chan) : firm (s.setChan c x) = firm s := by simp [State.setChan]
@[simp] theorem firm_setHart (s : State) (h : Nat) (x : Hart) : firm (s.setHart h x) = firm s := by simp [State.setHart]
@[simp] theorem firm_setPort (s : State) (p : Nat) (x : Port) : firm (s.setPort p x) = firm s := by simp [State.setPort]
@[simp] theorem firm_setLink (s : State) (l : Nat) (x : Link) : firm (s.setLink l x) = firm s := by simp [State.setLink]
@[simp] theorem firm_setDie (s : State) (d : Nat) (x : DiePower) : firm (s.setDie d x) = firm s := by simp [State.setDie]
@[simp] theorem firm_setSlot (s : State) (i : Nat) (x : KeySlot) : firm (s.setSlot i x) = firm s := by simp [State.setSlot]
@[simp] theorem firm_setIface (s : State) (i : Nat) (x : Iface) : firm (s.setIface i x) = firm s := by simp [State.setIface]
@[simp] theorem firm_emit (s : State) (o : Out) : firm (s.emit o) = firm s := by simp [State.emit]
@[simp] theorem firm_useFree (s : State) : firm s.useFree = firm s := by simp [State.useFree]

/-! ## Vectors -/

@[simp] theorem firm_raiseVector (s : State) (v : Nat) : firm (raiseVector s v) = firm s := by simp [raiseVector]
@[simp] theorem firm_raiseCtxVector (s : State) (ctx v : Nat) : firm (raiseCtxVector s ctx v) = firm s := by simp [raiseCtxVector]
@[simp] theorem firm_sendPageVector (s : State) (base : Nat) : firm (sendPageVector s base) = firm s := by simp [sendPageVector]
@[simp] theorem firm_raiseBits (s : State) (base m : Nat) : firm (raiseBits s base m) = firm s := by simp [raiseBits]
@[simp] theorem firm_raiseInt (s : State) (base i : Nat) : firm (raiseInt s base i) = firm s := by simp [raiseInt]
@[simp] theorem firm_paramChange (s : State) : firm (paramChange s) = firm s := by simp [paramChange]

/-! ## Counters -/

@[simp] theorem firm_countFld (s : State) (idx a hi lo n : Nat) : firm (countFld s idx a hi lo n) = firm s := by
  simp only [countFld]
  split <;> simp

@[simp] theorem firm_count (s : State) (a n : Nat) : firm (count s a n) = firm s := by simp [count]

@[simp] theorem firm_count64 (s : State) (idx a n : Nat) : firm (count64 s idx a n) = firm s := by
  simp only [count64]
  split <;> simp

@[simp] theorem firm_toHost (s : State) (p a : Nat) (data : List Byte) (relaxed : Bool) :
    firm (toHost s p a data relaxed) = firm s := by simp [toHost]

/-! ## Where units stop -/

@[simp] theorem firm_abortCells (s : State) : firm (abortCells s) = firm s := by simp [abortCells]
@[simp] theorem firm_haltHarts (s : State) : firm (haltHarts s) = firm s := by simp [haltHarts]
@[simp] theorem firm_dropLinks (s : State) : firm (dropLinks s) = firm s := by simp [dropLinks]
@[simp] theorem firm_enterFatal (s : State) : firm (enterFatal s) = firm s := by simp [enterFatal]

/-! ## Error records -/

@[simp] theorem firm_loseReservations (s : State) (a : Nat) : firm (loseReservations s a) = firm s := by simp [loseReservations]
@[simp] theorem firm_dropPocket (s : State) (line : Nat) : firm (dropPocket s line) = firm s := by simp [dropPocket]
@[simp] theorem firm_dropCopies (s : State) (line : Nat) : firm (dropCopies s line) = firm s := by simp [dropCopies]

@[simp] theorem firm_ringStore (s : State) (slot : Nat) (data : List Byte) : firm (ringStore s slot data) = firm s := by
  simp only [ringStore]
  split <;> simp

@[simp] theorem firm_ringWrite (s : State) (r : ErrRec) : firm (ringWrite s r) = firm s := by simp [ringWrite]
@[simp] theorem firm_holdRecord (s : State) (r : ErrRec) : firm (holdRecord s r) = firm s := by simp [holdRecord]
@[simp] theorem firm_noteRecord (s : State) (e : ErrEvent) (r : ErrRec) : firm (noteRecord s e r) = firm s := by simp [noteRecord]
@[simp] theorem firm_deliverCorrected (s : State) : firm (deliverCorrected s) = firm s := by simp [deliverCorrected]
@[simp] theorem firm_deliverDeferred (s : State) : firm (deliverDeferred s) = firm s := by simp [deliverDeferred]

@[simp] theorem firm_deliverContained (s : State) (e : ErrEvent) (r : ErrRec) : firm (deliverContained s e r) = firm s := by
  simp [deliverContained]

@[simp] theorem firm_noteFatal (s : State) (e : ErrEvent) : firm (noteFatal s e) = firm s := by
  simp only [noteFatal, firm_ite, firm_mk, firm_fold, firm_setFld, ite_self]

@[simp] theorem firm_deliverFatal (s : State) (e : ErrEvent) (r : ErrRec) : firm (deliverFatal s e r) = firm s := by
  simp [deliverFatal]

@[simp] theorem firm_deliver (s : State) (e : ErrEvent) (coalesced : Nat) : firm (deliver s e coalesced) = firm s := by
  simp [deliver]

@[simp] theorem firm_deliverWindow (s : State) (w : CoalWin) : firm (deliverWindow s w) = firm s := by simp [deliverWindow]
@[simp] theorem firm_openCoalWin (s : State) (e : ErrEvent) : firm (openCoalWin s e) = firm s := by simp [openCoalWin]

@[simp] theorem firm_raiseError (s : State) (e : ErrEvent) : firm (raiseError s e) = firm s := by
  simp only [raiseError]
  (repeat' split) <;> simp

/-! ## Keys and code words (R209, R452) -/

@[simp] theorem firm_hbmWriteWord (s : State) (w a : Nat) (data : List Byte) : firm (hbmWriteWord s w a data) = firm s := by
  simp only [hbmWriteWord]
  split <;> simp

@[simp] theorem firm_hbmWrite (s : State) (a : Nat) (data : List Byte) : firm (hbmWrite s a data) = firm s := by simp [hbmWrite]
@[simp] theorem firm_poisonWord (s : State) (a : Nat) : firm (poisonWord s a) = firm s := by simp [poisonWord]

/-! ## The floor cache and the pocket (R226-R233) -/

@[simp] theorem firm_setFlc (s : State) (k : Nat) (b : Option FlcBlock) : firm (setFlc s k b) = firm s := by simp [setFlc]

@[simp] theorem firm_flcFill (s : State) (line : Nat) : firm (flcFill s line) = firm s := by
  simp only [flcFill]
  (repeat' split) <;> simp

@[simp] theorem firm_flcDropLine (s : State) (line : Nat) : firm (flcDropLine s line) = firm s := by
  simp only [flcDropLine]
  split <;> simp

@[simp] theorem firm_prefetchLine (s : State) (part : Option Nat) (line : Nat) : firm (prefetchLine s part line) = firm s := by
  simp [prefetchLine]

@[simp] theorem firm_noKeyRead (s : State) (line : Nat) : firm (noKeyRead s line) = firm s := by simp [noKeyRead]

@[simp] theorem firm_memRead (s : State) (line : Nat) (alloc next : Bool) (part : Option Nat) :
    firm (memRead s line alloc next part) = firm s := by simp [memRead]

/-! ## Lines held by agents (R238, R239) -/

@[simp] theorem firm_setLine (s : State) (agent line : Nat) (l : AgentLine) : firm (setLine s agent line l) = firm s := by
  simp [setLine]

@[simp] theorem firm_setDir (s : State) (line : Nat) (e : DirEntry) : firm (setDir s line e) = firm s := by simp [setDir]
@[simp] theorem firm_snoopHost (s : State) (line : Nat) : firm (snoopHost s line) = firm s := by simp [snoopHost]

@[simp] theorem firm_loseClusterResv (s : State) (agent line : Nat) : firm (loseClusterResv s agent line) = firm s := by
  grind [loseClusterResv, firm_setHart]

@[simp] theorem firm_hbmMasked (s : State) (line mask : Nat) (data : List Byte) : firm (hbmMasked s line mask data) = firm s := by
  simp [hbmMasked]

/-! ## Messages (R345, R348, R358) -/

@[simp] theorem firm_enqueue (s : State) (l : Nat) (m : LinkMsg) : firm (enqueue s l m) = firm s := by simp [enqueue]

@[simp] theorem firm_mirSend (s : State) (l kind lane units offset : Nat) (data : List Byte) (poison extra : List Nat) :
    firm (mirSend s l kind lane units offset data poison extra) = firm s := by simp [mirSend]

@[simp] theorem firm_mirTell (s : State) (l : Nat) (words : List Nat) : firm (mirTell s l words) = firm s := by simp [mirTell]
@[simp] theorem firm_putCopy (s : State) (c : MirCopy) : firm (putCopy s c) = firm s := by simp [putCopy]
@[simp] theorem firm_noteCopy (s : State) (ctx : Option Nat) (g : Nat) : firm (noteCopy s ctx g).1 = firm s := by simp [noteCopy]
@[simp] theorem firm_sendCopy (s : State) (g : Nat) : firm (sendCopy s g) = firm s := by simp [sendCopy]
@[simp] theorem firm_mirrorCopySend (s : State) (a n : Nat) : firm (mirrorCopySend s a n) = firm s := by simp [mirrorCopySend]

@[simp] theorem firm_writeThrough (s : State) (line mask : Nat) (data : List Byte) (poison : List Nat) :
    firm (writeThrough s line mask data poison) = firm s := by
  simp only [writeThrough]
  (repeat' split) <;> simp

/-! ## Transactions at the home (R240-R249) -/

@[simp] theorem firm_setTxn (s : State) (line : Nat) (t : Option Txn) : firm (setTxn s line t) = firm s := by simp [setTxn]

@[simp] theorem firm_takeSnoop (s : State) (line agent : Nat) (k : Snp) : firm (takeSnoop s line agent k) = firm s := by
  simp only [takeSnoop]
  split <;> simp

@[simp] theorem firm_takeAnswer (s : State) (line agent : Nat) : firm (takeAnswer s line agent) = firm s := by
  simp only [takeAnswer]
  (repeat' split) <;> simp

@[simp] theorem firm_sendOffer (s : State) (target line : Nat) : firm (sendOffer s target line) = firm s := by simp [sendOffer]

@[simp] theorem firm_grantTxn (s : State) (line : Nat) (t : Txn) : firm (grantTxn s line t) = firm s := by
  simp only [grantTxn]
  (repeat' split) <;> simp

@[simp] theorem firm_readTxn (s : State) (line : Nat) (t : Txn) : firm (readTxn s line t) = firm s := by
  simp only [readTxn]
  split <;> simp

@[simp] theorem firm_writeTxn (s : State) (line : Nat) (t : Txn) : firm (writeTxn s line t) = firm s := by
  simp only [writeTxn]
  split <;> simp

@[simp] theorem firm_endTxn (s : State) (line : Nat) (t : Txn) : firm (endTxn s line t) = firm s := by
  simp only [endTxn]
  (repeat' split) <;> simp

/-! ## Host lines (R252, R327) -/

@[simp] theorem firm_failTxn (s : State) (line : Nat) (t : Txn) : firm (failTxn s line t) = firm s := by simp [failTxn]

@[simp] theorem firm_askHost (s : State) (line : Nat) (t : Txn) : firm (askHost s line t) = firm s := by
  simp only [askHost]
  split <;> simp

@[simp] theorem firm_finishTxn (s : State) (line : Nat) (t : Txn) : firm (finishTxn s line t) = firm s := by simp [finishTxn]
@[simp] theorem firm_openTxn (s : State) (r : HomeReq) : firm (openTxn s r) = firm s := by simp [openTxn]
@[simp] theorem firm_takeWb (s : State) (r : HomeReq) : firm (takeWb s r) = firm s := by simp [takeWb]
@[simp] theorem firm_waitReq (s : State) (r : HomeReq) : firm (waitReq s r) = firm s := by simp [waitReq]

@[simp] theorem firm_evictEntry (s : State) (line : Nat) : firm (evictEntry s line) = firm s := by
  simp only [evictEntry]
  (repeat' split) <;> simp

@[simp] theorem firm_homeTake (s : State) (r : HomeReq) : firm (homeTake s r) = firm s := by simp [homeTake]
@[simp] theorem firm_placeOffer (s : State) (agent line : Nat) : firm (placeOffer s agent line) = firm s := by simp [placeOffer]

@[simp] theorem firm_homeStep (s : State) : firm (homeStep s) = firm s := by
  simp only [homeStep]
  rw [firm_foldl _ (by simp), firm_mk, firm_fold, firm_foldl _ (by simp)]
  refine firm_foldl _ (fun s l => ?_) _ s
  split <;> simp

@[simp] theorem firm_homeSteps (n : Nat) (s : State) : firm (homeSteps n s) = firm s := by
  induction n generalizing s with
  | zero => rfl
  | succ n ih => simp [homeSteps, ih]

@[simp] theorem firm_homeRun (s : State) : firm (homeRun s) = firm s := by simp [homeRun]
@[simp] theorem firm_homeReq (s : State) (r : HomeReq) : firm (homeReq s r) = firm s := by simp [homeReq]

@[simp] theorem firm_answerAll (s : State) : firm (answerAll s) = firm s := by
  simp only [answerAll, firm_homeRun]
  refine firm_foldl _ (fun s l => ?_) _ s
  split <;> simp

@[simp] theorem firm_settle (s : State) (lines : List Nat) : firm (settle s lines) = firm s := by simp [settle]

@[simp] theorem firm_agentGets (s : State) (req : Req) (agent line : Nat) (ctx : Option Nat) :
    firm (agentGets s req agent line ctx) = firm s := by simp [agentGets]

/-! ## Reads and writes in one step -/

@[simp] theorem firm_readLine (s : State) (line : Nat) (alloc next : Bool) (part : Option Nat) :
    firm (readLine s line alloc next part) = firm s := by
  simp only [readLine]
  split <;> simp

@[simp] theorem firm_readRange (s : State) (a n : Nat) (alloc : Bool) (part : Option Nat) :
    firm (readRange s a n alloc part) = firm s := by simp [readRange]

@[simp] theorem firm_invalidateLine (s : State) (line : Nat) : firm (invalidateLine s line) = firm s := by
  simp only [invalidateLine]
  split <;> simp

@[simp] theorem firm_devWriteNow (s : State) (a : Nat) (data : List Byte) : firm (devWriteNow s a data) = firm s := by
  simp [devWriteNow]

@[simp] theorem firm_devWrite (s : State) (by_ : Writer) (a : Nat) (data : List Byte) : firm (devWrite s by_ a data) = firm s := by
  simp [devWrite]

@[simp] theorem firm_offerLines (s : State) (target a n : Nat) : firm (offerLines s target a n) = firm s := by simp [offerLines]

/-! ## Posted writes (R265, R266) -/

@[simp] theorem firm_make (w : MirWait) (s : State) : firm (MirWait.make w s) = firm s := by
  simp only [MirWait.make]
  (repeat' split) <;> simp

@[simp] theorem firm_postWrite (s : State) (w : MirWait) : firm (postWrite s w) = firm s := by simp [postWrite]
@[simp] theorem firm_replayWaits (s : State) : firm (replayWaits s) = firm s := by simp [replayWaits]

@[simp] theorem firm_portWrite (s : State) (agent a : Nat) (data : List Byte) (stash : Option Nat) (relaxed : Bool) :
    firm (portWrite s agent a data stash relaxed) = firm s := by simp [portWrite]

@[simp] theorem firm_devPut (s : State) (by_ : Writer) (a n v : Nat) : firm (devPut s by_ a n v) = firm s := by simp [devPut]

/-! ## Translation (R277-R285) -/

@[simp] theorem firm_walkRead (s : State) (ctx va ppn : Nat) : firm (walkRead s ctx va ppn) = firm s := by simp [walkRead]
@[simp] theorem firm_setTlb (s : State) (unit : Nat) (l : List TlbEntry) : firm (setTlb s unit l) = firm s := by simp [setTlb]
@[simp] theorem firm_keepXlt (s : State) (unit : Nat) (t : TlbEntry) : firm (keepXlt s unit t) = firm s := by simp [keepXlt]

@[simp] theorem firm_useXlt (s : State) (unit : Nat) (lookup : Bool) (t : TlbEntry) : firm (useXlt s unit lookup t) = firm s := by
  simp [useXlt]

@[simp] theorem firm_useHost (s : State) (unit ctx : Nat) (write lookup : Bool) (pages : List (Nat × Nat)) :
    firm (useHost s unit ctx write lookup pages) = firm s := by
  refine firm_foldl _ (fun s p => ?_) _ s
  cases heldHost s unit ctx p.1 write <;> simp

@[simp] theorem firm_usePages (s : State) (unit ctx : Nat) (write : Bool) (pages : List (Nat × Nat)) :
    firm (usePages s unit ctx write pages) = firm s := by
  refine firm_foldl _ (fun s p => ?_) _ s
  dsimp only
  split <;> simp

@[simp] theorem firm_walkCounted (s : State) (unit ctx va : Nat) : firm (walkCounted s unit ctx va) = firm s := by
  simp [walkCounted]

@[simp] theorem firm_walkNow (s : State) (unit ctx va : Nat) (write : Bool) : firm (walkNow s unit ctx va write).1 = firm s := by
  simp only [walkNow]
  (repeat' split) <;> simp

@[simp] theorem firm_walkPages (s : State) (unit ctx : Nat) (write : Bool) (pages : List (Nat × Nat)) :
    firm (walkPages s unit ctx write pages).1 = firm s := by
  induction pages generalizing s with
  | nil => rfl
  | cons p l ih =>
    have h := firm_walkNow s unit ctx p.1 write
    simp only [walkPages]
    split
    · exact ih s
    · split <;> simp_all

@[simp] theorem firm_translateRange (s : State) (unit ctx : Nat) (write : Bool) (pages : List (Nat × Nat)) :
    firm (translateRange s unit ctx write pages).1 = firm s := by grind [translateRange, firm_walkPages, firm_usePages]

/-! ## Walks in flight (R277, R285, R292) -/

@[simp] theorem firm_setWalks (s : State) (l : List WalkJob) : firm (setWalks s l) = firm s := by simp [setWalks]
@[simp] theorem firm_startWalks (s : State) (unit : Nat) : firm (startWalks s unit) = firm s := by simp [startWalks]

@[simp] theorem firm_beginWalk (s : State) (req : Requester) (va base bytes : Nat) (write prefetch : Bool) :
    firm (beginWalk s req va base bytes write prefetch) = firm s := by simp [beginWalk]

@[simp] theorem firm_setAts (s : State) (l : List AtsWait) : firm (setAts s l) = firm s := by simp [setAts]

@[simp] theorem firm_sendAts (s : State) (w : AtsWait) : firm (sendAts s w) = firm s := by
  simp only [sendAts]
  split <;> simp

@[simp] theorem firm_askXlt (s : State) (req : Requester) (addr : Nat) (write : Bool) : firm (askXlt s req addr write) = firm s := by
  simp only [askXlt]
  split <;> simp

@[simp] theorem firm_sendPage (s : State) (w : AtsWait) : firm (sendPage s w) = firm s := by simp [sendPage]
@[simp] theorem firm_sendQueued (s : State) : firm (sendQueued s) = firm s := by simp [sendQueued]

@[simp] theorem firm_fqFaults (s : State) (ctx slot tag cause : Nat) : firm (fqFaults s ctx slot tag cause) = firm s := by
  simp [fqFaults]

@[simp] theorem firm_readBack (s : State) (p : Nat) : firm (readBack s p) = firm s := by
  simp only [readBack]
  split <;> simp

@[simp] theorem firm_noteWrite (s : State) (who : AccWho) (op port addr : Nat) (early : Bool) :
    firm (noteWrite s who op port addr early) = firm s := by simp [noteWrite]

@[simp] theorem firm_readBacks (s : State) (mine : HostWr → Bool) : firm (readBacks s mine) = firm s := by simp [readBacks]
@[simp] theorem firm_performed (s : State) (p before : Nat) : firm (performed s p before) = firm s := by simp [performed]

@[simp] theorem firm_showRecords (s : State) (ctx n : Nat) : firm (showRecords s ctx n) = firm s := by
  induction n generalizing s with
  | zero => rfl
  | succ n ih => simp only [showRecords]; split <;> simp [ih]

@[simp] theorem firm_showAll (s : State) : firm (showAll s) = firm s := by simp [showAll]

@[simp] theorem firm_writeFaultRecord (s : State) (ctx : Nat) (r : FaultRec) : firm (writeFaultRecord s ctx r).1 = firm s := by
  simp only [writeFaultRecord]
  split
  · rfl
  · split
    · next t segs h =>
      have ht : firm t = firm s := by simp [firm_of_pair h]
      split
      · exact ht
      · simp only [firm_showRecords, firm_setCtx]
        refine (firm_foldl_of Prod.fst _ (fun p g => ?_) _ _).trans ht
        simp
    all_goals next t h => simp [firm_of_pair h]

@[simp] theorem firm_raiseFault (s : State) (req : Requester) (cause level : Nat) (write : Bool) (va base bytes : Nat) :
    firm (raiseFault s req cause level write va base bytes) = firm s := by
  grind [raiseFault, firm_count, firm_setCtx, firm_setFld, firm_raiseInt, firm_raiseCtxVector, firm_writeFaultRecord]

@[simp] theorem firm_dropRange (s : State) (unit ctx va bytes : Nat) : firm (dropRange s unit ctx va bytes) = firm s := by
  simp [dropRange]

@[simp] theorem firm_tile (s : State) (req : Requester) (va n : Nat) (write : Bool) : firm (tile s req va n write).1 = firm s := by
  simp only [tile]
  (repeat' split) <;> simp

@[simp] theorem firm_hostTile (s : State) (req : Requester) (h n : Nat) (write : Bool) :
    firm (hostTile s req h n write).1 = firm s := by
  simp only [hostTile]
  (repeat' split) <;> simp

@[simp] theorem firm_prefetchPage (s : State) (req : Requester) (host write : Bool) (p : Nat × Nat) :
    firm (prefetchPage s req host write p) = firm s := by simp [prefetchPage]

@[simp] theorem firm_prefetchRanges (s : State) (req : Requester) (host write : Bool) (l : List (Nat × Nat)) :
    firm (prefetchRanges s req host write l) = firm s := by simp [prefetchRanges]

@[simp] theorem firm_readSegs (s : State) (ctx : Nat) (l : List Seg) : firm (readSegs s ctx l).1 = firm s := by simp [readSegs]

@[simp] theorem firm_segWrite (s : State) (ctx kind : Nat) (l : List Seg) (data : List Byte) :
    firm (segWrite s ctx kind l data) = firm s := by
  induction l generalizing s data with
  | nil => rfl
  | cons g l ih =>
    simp only [segWrite, ih]
    split
    · simp
    · split <;> simp

@[simp] theorem firm_noteCopies (s : State) (ctx first : Nat) : firm (noteCopies s ctx first) = firm s := by simp [noteCopies]

@[simp] theorem firm_ctxWrite (s : State) (ctx : Nat) (segs : List Seg) (data : List Byte) :
    firm (ctxWrite s ctx segs data) = firm s := by simp [ctxWrite]

/-! ## Accepted and performed (R256, R263) -/

@[simp] theorem firm_tileAll (s : State) (req : Requester) (write : Bool) (l : List (Nat × Nat)) :
    firm (tileAll s req write l).1 = firm s := by
  induction l generalizing s with
  | nil => rfl
  | cons p l ih =>
    have h := firm_tile s req p.1 p.2 write
    simp only [tileAll]
    grind

@[simp] theorem firm_cmdRead (s : State) (ctx seq va n : Nat) : firm (cmdRead s ctx seq va n).1 = firm s := by
  grind [cmdRead, firm_tileAll, firm_readSegs]

@[simp] theorem firm_fetchRead (s : State) (ctx va : Nat) : firm (fetchRead s ctx va).1 = firm s := by
  grind [fetchRead, firm_tileAll, firm_readSegs]

@[simp] theorem firm_cmdWrite (s : State) (ctx seq va : Nat) (data : List Byte) : firm (cmdWrite s ctx seq va data).1 = firm s := by
  grind [cmdWrite, firm_tileAll, firm_ctxWrite]

@[simp] theorem firm_consumedWrite (s : State) (ctx seq va count : Nat) : firm (consumedWrite s ctx seq va count) = firm s := by
  grind [consumedWrite, firm_tileAll, firm_ctxWrite, firm_setCtx]

@[simp] theorem firm_retryCount (s : State) (ctx : Nat) : firm (retryCount s ctx) = firm s := by
  simp only [retryCount]
  split <;> simp

/-! ## Contexts and commands -/

@[simp] theorem firm_haltQueue (s : State) (ctx index code : Nat) : firm (haltQueue s ctx index code) = firm s := by
  simp [haltQueue]

@[simp] theorem firm_setStage (s : State) (ctx index : Nat) (st : CmdStage) : firm (setStage s ctx index st) = firm s := by
  simp [setStage]

@[simp] theorem firm_setWaits (s : State) (ctx index w : Nat) : firm (setWaits s ctx index w) = firm s := by simp [setWaits]

/-! ## Cell faults (R64) -/

@[simp] theorem firm_setImg (s : State) (cell ctx : Nat) (i : CellImg) : firm (setImg s cell ctx i) = firm s := by
  simp only [setImg]
  split <;> simp

@[simp] theorem firm_settleCmd (s : State) (ctx index : Nat) : firm (settleCmd s ctx index) = firm s := by
  simp only [settleCmd]
  split <;> simp

@[simp] theorem firm_noteHalt (s : State) (ctx cell : Nat) (by_ : Option (Nat × Nat)) (faulted : Bool) :
    firm (noteHalt s ctx cell by_ faulted) = firm s := by simp [noteHalt]

@[simp] theorem firm_programHalted (s : State) (p ctx : Nat) : firm (programHalted s p ctx) = firm s := by simp [programHalted]

@[simp] theorem firm_haltIfDone (s : State) (cell ctx : Nat) : firm (haltIfDone s cell ctx) = firm s := by
  simp only [haltIfDone]
  split <;> simp

@[simp] theorem firm_cellFaultOf (s : State) (cell ctx code track desc : Nat) :
    firm (cellFaultOf s cell ctx code track desc) = firm s := by
  simp only [cellFaultOf]
  split <;> simp

@[simp] theorem firm_dropOp (s : State) (cell ctx op : Nat) : firm (dropOp s cell ctx op) = firm s := by
  simp only [dropOp]
  split <;> simp

@[simp] theorem firm_failOp (s : State) (cell ctx op code track desc : Nat) : firm (failOp s cell ctx op code track desc) = firm s := by
  simp [failOp]

@[simp] theorem firm_leaveBarrier (s : State) (ctx cell : Nat) : firm (leaveBarrier s ctx cell) = firm s := by
  simp only [leaveBarrier]
  split <;> simp

@[simp] theorem firm_endProgram (s : State) (cell ctx code : Nat) : firm (endProgram s cell ctx code) = firm s := by
  simp only [endProgram]
  split <;> simp

@[simp] theorem firm_cellFault (s : State) (cell code track desc : Nat) : firm (cellFault s cell code track desc) = firm s := by
  simp only [cellFault]
  split <;> simp

@[simp] theorem allFirm_inboundWrite (s : State) (cell ctx a : Nat) (data : List Byte) (poison : List Nat) :
    AllFirm s (inboundWrite s cell ctx a data poison) := by
  simp only [inboundWrite]
  (repeat' split) <;> simp

@[simp] theorem firm_markCtrs (s : State) (cell : Nat) (keys : List Nat) : firm (markCtrs s cell keys) = firm s := by
  simp [markCtrs]

@[simp] theorem firm_bumpCounter (s : State) (cell ctx k n : Nat) : firm (bumpCounter s cell ctx k n) = firm s := by
  simp only [bumpCounter]
  split <;> simp

/-! ## Machine/Access -/

@[simp] theorem firm_synd (s : State) (src : Source) (a code : Nat) : firm (synd s src a code) = firm s := by simp [synd]

@[simp] theorem firm_viaReg (s : State) (src : Source) (a : Nat) (t : State) (h : firm t = firm s) :
    firm (viaReg s src a t) = firm s := by
  unfold viaReg
  split <;> simp [h]

/-! ## Replicas (R158, R160) -/

@[simp] theorem firm_lateStamp (s : State) (u stamp : Nat) : firm (lateStamp s u stamp) = firm s := by simp [lateStamp]

@[simp] theorem firm_setReplica (s : State) (u : Nat) (d : Int) (least : Nat) : firm (setReplica s u d least) = firm s := by
  simp [setReplica]

@[simp] theorem firm_realign (s : State) (u : Nat) (d : Int) : firm (realign s u d) = firm s := by simp [realign]

@[simp] theorem firm_markDie (s : State) (outOfBounds : List Nat) (die : Nat) : firm (markDie s outOfBounds die) = firm s := by
  simp [markDie]

/-! ## Timers (R170) -/

@[simp] theorem firm_fireTimer (s : State) (t : Nat) : firm (fireTimer s t) = firm s := by simp [fireTimer]

@[simp] theorem firm_dropHeldLo (s : State) (src : Source) (lo : Nat) : firm (dropHeldLo s src lo) = firm s := by
  simp [dropHeldLo]

@[simp] theorem firm_applyHi (s : State) (src : Source) (idx lo value : Nat) : firm (applyHi s src idx lo value) = firm s := by
  simp only [applyHi]
  split <;> simp

/-! ## Watchdog (R171) -/

@[simp] theorem firm_wdtRestart (s : State) : firm (wdtRestart s) = firm s := by simp [wdtRestart]

@[simp] theorem firm_wdtWrite (s : State) (src : Source) (value : Nat) : firm (wdtWrite s src value) = firm s := by
  simp [wdtWrite]

/-! ## Power-on minutes (R167) -/

@[simp] theorem firm_queueCommit (s : State) (c : Commit) : firm (queueCommit s c) = firm s := by simp [queueCommit]

/-! ## Machine/Sluice -/

@[simp] theorem firm_setShare (s : State) (p g c : Nat) : firm (setShare s p g c) = firm s := by simp [setShare]
@[simp] theorem firm_applyShare (s : State) (p : Nat) : firm (applyShare s p) = firm s := by simp [applyShare]
@[simp] theorem firm_writeShare (s : State) (value : Nat) : firm (writeShare s value) = firm s := by simp [writeShare]
@[simp] theorem firm_writeMaint (s : State) (value : Nat) : firm (writeMaint s value) = firm s := by simp [writeMaint]

/-! ## Sluices at work (R215) -/

@[simp] theorem firm_setSluice (s : State) (f p : Nat) (x : Sluice) : firm (setSluice s f p x) = firm s := by simp [setSluice]
@[simp] theorem firm_chargePart (s : State) (f p t n : Nat) : firm (chargePart s f p t n) = firm s := by simp [chargePart]

/-! ## The floor cache -/

@[simp] theorem firm_flcClear (s : State) (f : Nat) : firm (flcClear s f) = firm s := by simp [flcClear]

@[simp] theorem firm_pocketPut (s : State) (f line : Nat) : firm (pocketPut s f line) = firm s := by
  simp only [pocketPut, firm_mk, firm_fold, firm_ite, firm_count]
  split
  · rfl
  · split <;> simp only [firm_count, firm_mk, firm_fold]

@[simp] theorem firm_pocketFill (s : State) (f line : Nat) : firm (pocketFill s f line) = firm s := by
  simp only [pocketFill]
  (repeat' split) <;> simp

/-! ## Requests at the home (R241, R242) -/

@[simp] theorem firm_closeGuest (s : State) : firm (closeGuest s) = firm s := by simp [closeGuest]
@[simp] theorem firm_isolateGuest (s : State) : firm (isolateGuest s) = firm s := by simp [isolateGuest]

@[simp] theorem firm_leveeBlock (s : State) (write : Bool) (addr : Nat) : firm (leveeBlock s write addr) = firm s := by
  simp [leveeBlock]

@[simp] theorem firm_recoverEntry (s : State) (line : Nat) (bad : Bool) : firm (recoverEntry s line bad) = firm s := by
  simp [recoverEntry]

@[simp] theorem firm_cachingReq (s : State) (req : Req) (agent line : Nat) (bad : Bool) (ctx : Option Nat) :
    firm (cachingReq s req agent line bad ctx) = firm s := by simp [cachingReq]

@[simp] theorem firm_uncachedWrite (s : State) (req : Req) (agent line mask : Nat) (bad : Bool) (data : List Byte)
    (stash : Option Nat) : firm (uncachedWrite s req agent line mask bad data stash) = firm s := by simp [uncachedWrite]

/-! ## Stash offers (R246, R247) -/

@[simp] theorem firm_setOffer (s : State) (agent line st : Nat) : firm (setOffer s agent line st) = firm s := by simp [setOffer]

@[simp] theorem firm_stashEnd (s : State) (agent line : Nat) : firm (stashEnd s agent line) = firm s := by
  simp only [stashEnd]
  split <;> simp

/-! ## Timeouts (R32, R250) -/

@[simp] theorem firm_poisonAgent (s : State) (agent : Nat) : firm (poisonAgent s agent) = firm s := by simp [poisonAgent]

@[simp] theorem firm_answerFor (s : State) (agent : Nat) : firm (answerFor s agent) = firm s := by
  simp only [answerFor, firm_homeRun]
  refine (firm_foldl _ (fun s l => ?_) _ _).trans (by simp)
  split <;> simp

@[simp] theorem firm_disableAgent (s : State) (agent : Nat) : firm (disableAgent s agent) = firm s := by simp [disableAgent]

@[simp] theorem firm_offlineCluster (s : State) (c : Nat) : firm (offlineCluster s c) = firm s := by
  grind [offlineCluster, firm, firm_disableAgent, firm_setHart, firm_paramChange, firm_raiseInt]

@[simp] theorem firm_beginSweep (s : State) : firm (beginSweep s) = firm s := by simp [beginSweep]
@[simp] theorem firm_endFull (s : State) : firm (endFull s) = firm s := by simp [endFull]
@[simp] theorem firm_endHostSweep (s : State) : firm (endHostSweep s) = firm s := by simp [endHostSweep]
@[simp] theorem firm_agentFails (s : State) (agent floor : Nat) : firm (agentFails s agent floor) = firm s := by simp [agentFails]

@[simp] theorem firm_snoopLate (s : State) (agent line : Nat) : firm (snoopLate s agent line) = firm s := by
  simp only [snoopLate]
  split <;> simp

/-! ## Probe (R255) -/

@[simp] theorem firm_cohProbe (s : State) (f : Nat) : firm (cohProbe s f) = firm s := by simp [cohProbe]

/-! ## Machine/HartMem -/

@[simp] theorem firm_hartTrap (s : State) (h cause addr : Nat) : firm (hartTrap s h cause addr) = firm s := (rfl)
@[simp] theorem firm_hartPoison (s : State) (h addr : Nat) : firm (hartPoison s h addr) = firm s := by simp [hartPoison]
@[simp] theorem firm_askLine (s : State) (h line : Nat) (own : Bool) : firm (askLine s h line own) = firm s := by simp [askLine]

@[simp] theorem firm_askRange (s : State) (h : Nat) (own : Bool) (a n : Nat) : firm (askRange s h own a n) = firm s := by
  simp [askRange]

@[simp] theorem firm_loseOthers (s : State) (h a : Nat) : firm (loseOthers s h a) = firm s := by
  grind [loseOthers, firm_loseReservations, firm_setHart]

@[simp] theorem firm_putHeld (s : State) (h a : Nat) (data : List Byte) : firm (putHeld s h a data) = firm s := by simp [putHeld]

@[simp] theorem firm_hostDiscard (s : State) (h a : Nat) : firm (hostDiscard s h a) = firm s := by
  grind [hostDiscard, firm_countFld, firm_raiseError, firm_setHart]

@[simp] theorem firm_storeNow (s : State) (h a : Nat) (data : List Byte) : firm (storeNow s h a data).1 = firm s := by
  simp only [storeNow]
  (repeat' split) <;> simp

@[simp] theorem firm_setBuffer (s : State) (h : Nat) (l : List BufStore) : firm (setBuffer s h l) = firm s := by simp [setBuffer]

@[simp] theorem firm_drainList (h : Nat) (keep : Bool) (l : List BufStore) (s : State) : firm (drainList h keep l s) = firm s := by
  induction l generalizing s with
  | nil => simp [drainList]
  | cons b l ih => simp [drainList, ih]

@[simp] theorem firm_drainHart (s : State) (h : Nat) : firm (drainHart s h) = firm s := by simp [drainHart]

/-! ## Fences (R258, R259) -/

@[simp] theorem firm_tryFence (s : State) (h : Nat) : firm (tryFence s h) = firm s := by
  simp only [tryFence]
  (repeat' split) <;> simp

@[simp] theorem firm_beginFence (s : State) (h : Nat) (f : HartFence) : firm (beginFence s h f) = firm s := by simp [beginFence]
@[simp] theorem firm_cleanLine (s : State) (c line : Nat) : firm (cleanLine s c line) = firm s := by simp [cleanLine]
@[simp] theorem firm_cleanCluster (s : State) (c : Nat) : firm (cleanCluster s c) = firm s := by simp [cleanCluster]
@[simp] theorem firm_drainPass (s : State) (harts : List Nat) : firm (drainPass s harts) = firm s := by simp [drainPass]

@[simp] theorem firm_endDrain (s : State) (harts : List Nat) : firm (endDrain s harts) = firm s := by
  simp only [endDrain]
  split <;> simp

/-! ## Operating points -/

@[simp] theorem firm_beginPoint (s : State) (d : Nat) : firm (beginPoint s d) = firm s := by simp [beginPoint]
@[simp] theorem firm_repoint (s : State) : firm (repoint s) = firm s := by simp [repoint]

/-! ## Energy budgets (R410) -/

@[simp] theorem firm_budgetCheck (s : State) (ctx : Nat) : firm (budgetCheck s ctx) = firm s := by simp [budgetCheck]
@[simp] theorem firm_budgetRaised (s : State) (ctx : Nat) : firm (budgetRaised s ctx) = firm s := by simp [budgetRaised]

/-! ## Machine/LinkOps -/

@[simp] theorem firm_sendWith (extra : List Nat) (s : State) (kind lane source dst order handle offset : Nat)
    (data : List Byte) (poison : List Nat) :
    firm (sendWith extra s kind lane source dst order handle offset data poison).1 = firm s := by
  simp only [sendWith]
  (repeat' split) <;> simp

@[simp] theorem firm_sendMsg (s : State) (kind lane source dst order handle offset : Nat) (data : List Byte) (poison : List Nat) :
    firm (sendMsg s kind lane source dst order handle offset data poison).1 = firm s := by simp [sendMsg]

@[simp] theorem firm_sendReply (s : State) (m : HeldReply) : firm (sendReply s m) = firm s := by simp [sendReply]

@[simp] theorem firm_sendAfter (s : State) (first : Nat) (m : HeldReply) : firm (sendAfter s first m) = firm s := by
  simp [sendAfter]

@[simp] theorem firm_sendReplies (s : State) : firm (sendReplies s) = firm s := by simp [sendReplies]

@[simp] theorem firm_sendPacketMsg (s : State) (pre : List Nat) (start last : Bool) (floor lane dst order handle offset : Nat)
    (data : List Byte) (poison : List Nat) :
    firm (sendPacketMsg s pre start last floor lane dst order handle offset data poison).1 = firm s := by
  grind [sendPacketMsg, firm_sendWith]

/-! ## Counters at stream endpoints -/

@[simp] theorem firm_grantCredits (s : State) (i n : Nat) : firm (grantCredits s i n) = firm s := by simp [grantCredits]

/-! ## Packets (R182-R185, R193) -/

/-- Whatever keeps the firmware of each state that a fold may answer is kept by the fold. -/
theorem allFirm_foldl {α β : Type} {s : State} (f : Option State × β → α → Option State × β)
    (hf : ∀ p q, AllFirm s p.1 → AllFirm s (f p q).1) (l : List α) (p : Option State × β) (hp : AllFirm s p.1) :
    AllFirm s (l.foldl f p).1 := by
  induction l generalizing p with
  | nil => exact hp
  | cons q l ih => exact ih _ (hf p q hp)

@[simp] theorem firm_placeCell (s : State) (i : Nat) (c : Counter) (data : List Byte) (poison : List Nat) :
    firm (placeCell s i c data poison).1 = firm s := by
  simp only [placeCell]
  split
  · rfl
  · next t h =>
    have ht : firm t = firm s :=
      allFirm_foldl _ (fun p q hp => allFirm_bind hp fun u => allFirm_inboundWrite u _ _ _ _ _) _ (some s, 0) (by simp) t h
    simp [ht]

@[simp] theorem firm_stashOffers (s : State) (agent : Nat) (segs : List Seg) : firm (stashOffers s agent segs) = firm s := by
  simp [stashOffers]

@[simp] theorem firm_poisonSegs (s : State) (poison : List Nat) (k : Nat) (l : List Seg) : firm (poisonSegs s poison k l) = firm s := by
  induction l generalizing s k with
  | nil => rfl
  | cons g l ih => simp [poisonSegs, ih]

@[simp] theorem firm_vaWrite (s : State) (req : Requester) (va : Nat) (data : List Byte) (poison : List Nat) :
    firm (vaWrite s req va data poison).1 = firm s := by grind [vaWrite, firm_tile, firm_poisonSegs, firm_segWrite]

@[simp] theorem firm_coreCount (s : State) (req : Requester) (addr : Nat) : firm (coreCount s req addr).1 = firm s := by
  grind [coreCount, firm_tile, firm_readSegs]

@[simp] theorem firm_writeCounts (s : State) (i : Nat) : firm (writeCounts s i) = firm s := by
  grind [writeCounts, firm_vaWrite, firm_setStream]

@[simp] theorem firm_placeCore (s : State) (i : Nat) (data : List Byte) (poison : List Nat) :
    firm (placeCore s i data poison).1 = firm s := by
  grind [placeCore, firm_tileAll, firm_poisonSegs, firm_segWrite, firm_setStream, firm_writeCounts]

@[simp] theorem firm_hostTiles (s : State) (req : Requester) (write : Bool) (l : List (Nat × Nat)) :
    firm (hostTiles s req write l).1 = firm s := by
  induction l generalizing s with
  | nil => rfl
  | cons p l ih =>
    have h := firm_hostTile s req p.1 p.2 write
    simp only [hostTiles]
    grind

@[simp] theorem firm_sinkTile (s : State) (req : Requester) (i dst n : Nat) : firm (sinkTile s req i dst n).1 = firm s := by
  simp only [sinkTile]
  (repeat' split) <;> simp

@[simp] theorem firm_hostData (s : State) (i : Nat) (xfer : Option Nat) (port : Nat) (g : Seg) (data : List Byte) :
    firm (hostData s i xfer port g data) = firm s := by
  simp only [hostData]
  (repeat' split) <;> simp

@[simp] theorem firm_placeSegs (s : State) (i : Nat) (xfer : Option Nat) (l : List Seg) (data : List Byte) :
    firm (placeSegs s i xfer l data) = firm s := by
  induction l generalizing s data with
  | nil => rfl
  | cons g l ih => simp [placeSegs, ih]

@[simp] theorem firm_placeAddr (s : State) (i : Nat) (xfer : Option Nat) (segs : List Seg) (data : List Byte)
    (poison : List Nat) : firm (placeAddr s i xfer segs data poison).1 = firm s := by
  simp only [placeAddr]
  split <;> simp

@[simp] theorem firm_placeData (s : State) (i : Nat) (xfer : Option Nat) (dst : Nat) (segs : Option (List Seg)) (data : List Byte)
    (poison : List Nat) : firm (placeData s i xfer dst segs data poison).1 = firm s := by
  have h := firm_sinkTile s (streamReq s i 0 0xFFFF 0) i dst data.length
  simp only [placeData]
  split
  · split <;> simp
  · split
    · simp
    · split
      · split
        · simp
        · split <;> simp_all
      · rfl

@[simp] theorem firm_countStale (s : State) (floor handle dev : Nat) : firm (countStale s floor handle dev) = firm s := by
  simp [countStale]

/-! ## Ends of transfers (R184, R190, R191) -/

@[simp] theorem firm_closeSlot (s : State) (i : Nat) : firm (closeSlot s i) = firm s := by
  simp only [closeSlot]
  split <;> simp

@[simp] theorem firm_mapOp (s : State) (cell ctx op : Nat) (f : Op → Op) : firm (mapOp s cell ctx op f) = firm s := by
  simp only [mapOp]
  split <;> simp

@[simp] theorem firm_opPart (s : State) (cell ctx op : Nat) : firm (opPart s cell ctx op) = firm s := by simp [opPart]

@[simp] theorem firm_writeFlag (s : State) (req : Requester) (addr value : Nat) (port : Option Nat) :
    firm (writeFlag s req addr value port).1 = firm s := by grind [writeFlag, firm_tile, firm_toHost, firm_ctxWrite]

@[simp] theorem firm_setFate (s : State) (id fate : Nat) : firm (setFate s id fate) = firm s := by simp [setFate]
@[simp] theorem firm_dropPackets (s : State) (i : Nat) : firm (dropPackets s i) = firm s := by simp [dropPackets]

@[simp] theorem firm_landPackets (s : State) (i : Nat) (l : List Packet) : firm (landPackets s i l) = firm s := by
  induction l generalizing s with
  | nil => rfl
  | cons p l ih =>
    have h := firm_placeData s i p.xfer p.dst p.segs p.data p.poison
    simp only [landPackets]
    split
    · exact ih s
    · split
      · simp
      · split <;> simp_all

@[simp] theorem firm_landStream (s : State) (i : Nat) : firm (landStream s i) = firm s := by simp [landStream]

@[simp] theorem firm_failXfer (s : State) (i id status : Nat) : firm (failXfer s i id status) = firm s := by
  simp only [failXfer]
  split <;> simp

@[simp] theorem firm_failAll (s : State) (i status : Nat) : firm (failAll s i status) = firm s := by simp [failAll]

@[simp] theorem firm_endXferOk (s : State) (i id : Nat) : firm (endXferOk s i id) = firm s := by
  simp only [endXferOk]
  (repeat' split) <;> simp

@[simp] theorem firm_returnHand (s : State) (i : Nat) (h : Hand) : firm (returnHand s i h) = firm s := by
  simp only [returnHand]
  (repeat' split) <;> simp

@[simp] theorem firm_returnHands (s : State) (i : Nat) (free : Bool) (l : List Hand) : firm (returnHands s i free l) = firm s := by
  induction l generalizing s free with
  | nil => rfl
  | cons h l ih => simp [returnHands, ih]

@[simp] theorem firm_ackPacket (s : State) (p : Packet) : firm (ackPacket s p) = firm s := by
  simp only [ackPacket]
  split <;> simp

/-! ## Destruction (R180) -/

@[simp] theorem firm_freeStream (s : State) (i : Nat) : firm (freeStream s i) = firm s := by simp [freeStream]

@[simp] theorem firm_finishDestroy (s : State) (i : Nat) : firm (finishDestroy s i) = firm s := by
  simp only [finishDestroy]
  (repeat' split) <;> simp

@[simp] theorem firm_beginDestroy (s : State) (i : Nat) (who : Option (Nat × Nat)) : firm (beginDestroy s i who) = firm s := by
  simp [beginDestroy]

@[simp] theorem firm_destroyStream (s : State) (i : Nat) : firm (destroyStream s i) = firm s := by simp [destroyStream]

/-! ## The state a stream takes when its sink refuses it (R194) -/

@[simp] theorem firm_killHands (lost : Hand → Bool) (s : State) (i : Nat) : firm (killHands lost s i) = firm s := by
  simp [killHands]

@[simp] theorem firm_killStream (s : State) (i : Nat) : firm (killStream s i) = firm s := by simp [killStream]

/-! ## Machine/Power -/

@[simp] theorem firm_pwrStatus (s : State) (i : Nat) (b : Bool) : firm (pwrStatus s i b) = firm s := by simp [pwrStatus]

/-! ## Telemetry and energy accounts (R394, R395, R409) -/

@[simp] theorem firm_takeTemp (s : State) (die t : Nat) : firm (takeTemp s die t) = firm s := by simp [takeTemp]
@[simp] theorem firm_takeWatts (s : State) (die mw : Nat) : firm (takeWatts s die mw) = firm s := by simp [takeWatts]

@[simp] theorem firm_chargeAll (s : State) (left : Nat) (l : List (Nat × Nat)) : firm (chargeAll s left l) = firm s := by
  induction l generalizing s left with
  | nil => simp [chargeAll]
  | cons p l ih => simp [chargeAll, ih]

@[simp] theorem firm_sampleIn (s : State) (o : PowerObs) : firm (sampleIn s o) = firm s := by simp [sampleIn]

@[simp] theorem firm_telemetryLost (s : State) (dies failed : List Nat) : firm (telemetryLost s dies failed) = firm s := by
  simp [telemetryLost]

/-! ## The fast loop (R401) -/

@[simp] theorem firm_fastLower (s : State) (d : Nat) : firm (fastLower s d) = firm s := by simp [fastLower]
@[simp] theorem firm_fastRaise (s : State) (d : Nat) : firm (fastRaise s d) = firm s := by simp [fastRaise]
@[simp] theorem firm_fastCore (s : State) (ovr : Bool) : firm (fastCore s ovr) = firm s := by simp [fastCore]
@[simp] theorem firm_fastLoop (s : State) (amps : List (Nat × Nat)) : firm (fastLoop s amps) = firm s := by simp [fastLoop]
@[simp] theorem firm_droop (s : State) (d : Nat) : firm (droop s d) = firm s := by simp [droop]
@[simp] theorem firm_opDone (s : State) (d : Nat) : firm (opDone s d) = firm s := by simp [opDone]

/-! ## The thermal loop (R404) -/

@[simp] theorem firm_thermalLoop (s : State) : firm (thermalLoop s) = firm s := by simp [thermalLoop]

/-! ## The effective cap (R403, R405, R406) -/

@[simp] theorem firm_shiftStep (s : State) : firm (shiftStep s) = firm s := by
  simp only [shiftStep]
  (repeat' split) <;> simp

/-! ## The cap loop (R402) -/

@[simp] theorem firm_setCaps (s : State) (was c : CapSet) : firm (setCaps s was c) = firm s := by simp [setCaps]

@[simp] theorem firm_raiseOne (s : State) : firm (raiseOne s) = firm s := by
  simp only [raiseOne]
  (repeat' split) <;> simp

@[simp] theorem firm_reachCheck (s : State) (pkgMw : Nat) : firm (reachCheck s pkgMw) = firm s := by simp [reachCheck]
@[simp] theorem firm_capMeasure (s : State) : firm (capMeasure s) = firm s := by simp [capMeasure]
@[simp] theorem firm_capMove (s : State) (o : CapObs) : firm (capMove s o) = firm s := by simp [capMove]
@[simp] theorem firm_capLoop (s : State) (o : CapObs) : firm (capLoop s o) = firm s := by simp [capLoop]

/-! ## Emergency and trip (R404, R412, R513, R516) -/

@[simp] theorem firm_emergency (s : State) (throttle : Bool) (die : Nat) : firm (emergency s throttle die) = firm s := by
  simp [emergency]

@[simp] theorem firm_emergencyEnd (s : State) : firm (emergencyEnd s) = firm s := by simp [emergencyEnd]
@[simp] theorem firm_thermTrip (s : State) (die : Nat) : firm (thermTrip s die) = firm s := by simp [thermTrip]

/-! ## The estimator (R406, R407) -/

@[simp] theorem firm_estimatorSuspect (s : State) : firm (estimatorSuspect s) = firm s := by simp [estimatorSuspect]
@[simp] theorem firm_coeffCommit (s : State) (die : Nat) : firm (coeffCommit s die) = firm s := by simp [coeffCommit]

@[simp] theorem firm_recalibrate (s : State) (fits : List (Nat × Nat)) (agreed : Bool) : firm (recalibrate s fits agreed) = firm s := by
  simp only [recalibrate, firm_ite, firm_setFld, firm_pwrStatus, firm_mk, firm_fold, firm_foldl, firm_setDie, firm_coeffCommit,
    ite_self, implies_true]

/-! ## Ageing (R408) -/

@[simp] theorem firm_takeMargin (s : State) (die need : Nat) : firm (takeMargin s die need) = firm s := by simp [takeMargin]

/-! ## Clock stops and the fatal events of R488 -/

@[simp] theorem firm_failCtx (s : State) (c : Nat) : firm (failCtx s c) = firm s := by simp [failCtx]

@[simp] theorem firm_clockStop (s : State) (die domain unit : Nat) : firm (clockStop s die domain unit) = firm s := by
  simp [clockStop]

/-! ## Machine/SecLog -/

@[simp] theorem firm_flushSecLog (s : State) (prio n : Nat) : firm (flushSecLog s prio n) = firm s := by
  induction n generalizing s with
  | zero => rfl
  | succ n ih =>
    simp only [flushSecLog]
    split <;> simp [ih]

@[simp] theorem firm_secEvent (s : State) (type arg level result : Nat) (immediate : Bool) :
    firm (secEvent s type arg level result immediate) = firm s := by simp [secEvent]

@[simp] theorem firm_measureChanged (s : State) (i : Nat) : firm (measureChanged s i) = firm s := by simp [measureChanged]

/-! ## Blocks and banks (R415, R427-R433) -/

@[simp] theorem firm_setBlk (s : State) (k : Nat) (b : PldBlock) : firm (setBlk s k b) = firm s := by simp [setBlk]

@[simp] theorem firm_takePages (s : State) (bank p : Nat) : firm (takePages s bank p).1 = firm s := by
  unfold takePages
  generalize (journal bank).find? (fun k => (blk s k).st = .opened) = o
  extract_lets _ fits t
  have ht : firm t = firm s := by
    cases o with
    | none => rfl
    | some k => exact firm_setBlk s k _
  cases fits with
  | some k => exact firm_setBlk s k _
  | none =>
    cases argMin (fun k => (blk t k).erases) (blocksIn t bank .erased) with
    | some k => exact (firm_setBlk t k _).trans ht
    | none => exact ht

@[simp] theorem firm_queueCopies (s : State) (k prio skip : Nat) : firm (queueCopies s k prio skip) = firm s := by
  simp [queueCopies]

@[simp] theorem firm_beginErase (s : State) (k : Nat) : firm (beginErase s k) = firm s := by simp [beginErase]
@[simp] theorem firm_retireBlk (s : State) (k : Nat) : firm (retireBlk s k) = firm s := by simp [retireBlk]
@[simp] theorem firm_wornCheck (s : State) : firm (wornCheck s) = firm s := by simp [wornCheck]
@[simp] theorem firm_loseBank (s : State) (bank : Nat) : firm (loseBank s bank) = firm s := by simp [loseBank]
@[simp] theorem firm_bankCheck (s : State) : firm (bankCheck s) = firm s := by simp [bankCheck]

@[simp] theorem firm_compactStart (s : State) (bank : Nat) : firm (compactStart s bank) = firm s := by
  simp only [compactStart]
  (repeat' split) <;> simp

@[simp] theorem firm_compactEnd (s : State) : firm (compactEnd s) = firm s := by
  simp only [compactEnd]
  split <;> simp

@[simp] theorem firm_compactUrge (s : State) : firm (compactUrge s) = firm s := by
  simp only [compactUrge]
  split <;> simp

/-! ## Commits (R420, R421, R433, R434) -/

@[simp] theorem firm_lostCommit (s : State) : firm (lostCommit s) = firm s := by simp [lostCommit]
@[simp] theorem firm_sayAhead (s : State) : firm (sayAhead s) = firm s := by simp [sayAhead]
@[simp] theorem firm_writeCopy (s : State) (bank : Nat) (r : PldRec) : firm (writeCopy s bank r) = firm s := by simp [writeCopy]

@[simp] theorem firm_placeRec (s : State) (c : Commit) (frag seq : Nat) : firm (placeRec s c frag seq) = firm s := by
  simp [placeRec]

@[simp] theorem firm_placeAll (c : Commit) (n frag seq : Nat) (s : State) : firm (placeAll c n frag seq s) = firm s := by
  induction n generalizing s frag seq with
  | zero => rfl
  | succ n ih => simp [placeAll, ih]

@[simp] theorem firm_commitNow (s : State) (c : Commit) : firm (commitNow s c) = firm s := by
  simp only [commitNow]
  (repeat' split) <;> simp

/-! ## Mailbox commands (R437, R438) -/

@[simp] theorem firm_mbxEnd (s : State) (result : Nat) : firm (mbxEnd s result) = firm s := by
  simp only [mbxEnd, firm_raiseInt, firm_mk, firm_fold, firm_setFld]

@[simp] theorem firm_mbxGo (s : State) (src : Source) (op : Nat) (f : State → State) (hf : ∀ s, firm (f s) = firm s) :
    firm (mbxGo s src op f) = firm s := by
  simp only [mbxGo, firm_ite, hf, firm_mk, firm_fold, firm_setFld, ite_self]

@[simp] theorem firm_mbxReturn (s : State) (data : List Byte) (version : Nat) (last : Bool) (seq : Nat) :
    firm (mbxReturn s data version last seq) = firm s := by simp [mbxReturn]

@[simp] theorem firm_mbxCommit (s : State) (c : Commit) : firm (mbxCommit s c) = firm s := by simp [mbxCommit]

@[simp] theorem firm_mbxAfter (s : State) (c : Commit) : firm (mbxAfter s c) = firm s := by
  simp only [mbxAfter]
  split <;> simp

@[simp] theorem firm_trainCommit (s : State) (i width : Nat) (map : List Nat) : firm (trainCommit s i width map) = firm s := by
  simp [trainCommit]

/-! ## Machine/Images -/

@[simp] theorem firm_imageNoted (s : State) (img : List Byte) (cls result : Nat) : firm (imageNoted s img cls result) = firm s := by
  simp [imageNoted]

/-! ## Clearing -/

@[simp] theorem firm_regToReset (s : State) (idx a : Nat) : firm (regToReset s idx a) = firm s := by simp [regToReset]
@[simp] theorem firm_resetPartition (s : State) (p : Nat) : firm (resetPartition s p) = firm s := by simp [resetPartition]
@[simp] theorem firm_staleWalks (s : State) (v : Inval) : firm (staleWalks s v) = firm s := by simp [staleWalks]
@[simp] theorem firm_setInvals (s : State) (l : List Inval) : firm (setInvals s l) = firm s := by simp [setInvals]

@[simp] theorem firm_dropTranslations (s : State) (ctx : Nat) : firm (dropTranslations s ctx) = firm s := by
  simp [dropTranslations]

@[simp] theorem firm_zeroiseSlot (s : State) (k : Nat) : firm (zeroiseSlot s k) = firm s := (rfl)
@[simp] theorem firm_dropMatch (s : State) (cell : Nat) : firm (dropMatch s cell) = firm s := by simp [dropMatch]

@[simp] theorem firm_beginReturn (s : State) (cell : Nat) : firm (beginReturn s cell) = firm s := by
  simp only [beginReturn]
  split <;> simp

@[simp] theorem firm_clearCellOf (s : State) (ctx cell : Nat) : firm (clearCellOf s ctx cell) = firm s := by simp [clearCellOf]
@[simp] theorem firm_clearContext (s : State) (ctx : Nat) : firm (clearContext s ctx) = firm s := by simp [clearContext]
@[simp] theorem firm_trainGuest (s : State) : firm (trainGuest s) = firm s := by simp [trainGuest]

@[simp] theorem firm_enableGuest (s : State) : firm (enableGuest s) = firm s := by
  simp only [enableGuest]
  split <;> simp

@[simp] theorem firm_clearPolicy (s : State) (ctx : Nat) : firm (clearPolicy s ctx) = firm s := by simp [clearPolicy]
@[simp] theorem firm_clearPasid (s : State) (ctx : Nat) : firm (clearPasid s ctx) = firm s := by simp [clearPasid]

@[simp] theorem firm_destroyContext (s : State) (ctx : Nat) : firm (destroyContext s ctx) = firm s := by
  simp only [destroyContext]
  split <;> simp

/-! ## The cells of a context stop (R43, R44) -/

@[simp] theorem firm_stopCells (s : State) (ctx : Nat) : firm (stopCells s ctx) = firm s := by simp [stopCells]
@[simp] theorem firm_endContext (s : State) (ctx kind : Nat) : firm (endContext s ctx kind) = firm s := by simp [endContext]

/-! ## The context manager (R43, R44) -/

@[simp] theorem firm_ctxmResult (s : State) (code : Nat) : firm (ctxmResult s code) = firm s := by simp [ctxmResult]

@[simp] theorem firm_createPhases (s : State) (ctx addr : Nat) : firm (createPhases s ctx addr).1 = firm s := by
  grind [createPhases, firm_translateRange, firm_readSegs]

@[simp] theorem firm_createContext (s : State) (ctx : Nat) : firm (createContext s ctx) = firm s := by
  grind [createContext, firm, firm_ctxmResult, firm_createPhases, firm_setCtx, firm_applyShare, firm_clearPasid,
    firm_clearPolicy, firm_setSlot, firm_wr64, firm_setFld]

@[simp] theorem firm_ctxmOp (s : State) (src : Source) (ctx : Nat) (destroy : Bool) (f : State → State)
    (hf : ∀ s, firm (f s) = firm s) : firm (ctxmOp s src ctx destroy f) = firm s := by
  simp only [ctxmOp, firm_ite, hf, firm_ctxmResult, ite_self]

@[simp] theorem firm_finishEnd (s : State) (ctx kind : Nat) : firm (finishEnd s ctx kind) = firm s := by simp [finishEnd]
@[simp] theorem firm_endIfQuiet (s : State) (ctx : Nat) : firm (endIfQuiet s ctx) = firm s := by simp [endIfQuiet]
@[simp] theorem firm_beginEnd (s : State) (ctx kind : Nat) : firm (beginEnd s ctx kind) = firm s := by simp [beginEnd]
@[simp] theorem firm_ctxmWrite (s : State) (op id : Nat) : firm (ctxmWrite s op id) = firm s := by simp [ctxmWrite]

@[simp] theorem firm_ctxmGo (s : State) (src : Source) (op id : Nat) : firm (ctxmGo s src op id) = firm s := by
  simp only [ctxmGo]
  split <;> simp

@[simp] theorem firm_ringDoorbell (s : State) (ctx value : Nat) (cdb : Bool) : firm (ringDoorbell s ctx value cdb) = firm s := by
  simp [ringDoorbell]

@[simp] theorem firm_doorbell (s : State) (src : Source) (ctx value : Nat) : firm (doorbell s src ctx value) = firm s := by
  simp [doorbell]

/-! ## Commands (R45-R50, R517) -/

@[simp] theorem firm_fetchNext (s : State) (ctx : Nat) : firm (fetchNext s ctx) = firm s := by
  grind [fetchNext, firm_consumedWrite, firm_setCtx, firm_fetchRead]

@[simp] theorem firm_failHead (s : State) (ctx : Nat) : firm (failHead s ctx) = firm s := by
  simp only [failHead]
  split <;> simp

@[simp] theorem firm_fetchCommand (s : State) (ctx : Nat) : firm (fetchCommand s ctx) = firm s := by simp [fetchCommand]
@[simp] theorem firm_resumeQueue (s : State) (ctx value : Nat) : firm (resumeQueue s ctx value) = firm s := by simp [resumeQueue]

@[simp] theorem firm_leaveQueue (s : State) (ctx index : Nat) (irq : Bool) : firm (leaveQueue s ctx index irq) = firm s := by
  simp [leaveQueue]

@[simp] theorem firm_completeCommand (s : State) (ctx index : Nat) : firm (completeCommand s ctx index) = firm s := by
  grind [completeCommand, firm_leaveQueue, firm_cmdWrite, firm_setCtx]

/-! ## Quarantine (R459) -/

@[simp] theorem firm_dropCaches (s : State) : firm (dropCaches s) = firm s := by simp [dropCaches]
@[simp] theorem firm_zeroPool (s : State) : firm (zeroPool s) = firm s := by simp [zeroPool]
@[simp] theorem firm_zeroiseAll (s : State) : firm (zeroiseAll s) = firm s := by simp [zeroiseAll]

/-! ## Key erase (R460, R462) -/

@[simp] theorem firm_endSessions (s : State) : firm (endSessions s) = firm s := by simp [endSessions]

@[simp] theorem firm_eraseBegin (s : State) (level sensor : Nat) : firm (eraseBegin s level sensor) = firm s := by
  simp only [eraseBegin]
  split <;> simp

@[simp] theorem firm_setErase (s : State) (f : Erase → Erase) : firm (setErase s f) = firm s := by simp [setErase]
@[simp] theorem firm_eraseTombs (s : State) : firm (eraseTombs s) = firm s := by simp [eraseTombs]
@[simp] theorem firm_eraseCopies (s : State) (e : Erase) : firm (eraseCopies s e) = firm s := by simp [eraseCopies]

@[simp] theorem firm_eraseNext (s : State) (bank : Nat) : firm (eraseNext s bank) = firm s := by
  simp only [eraseNext]
  (repeat' split) <;> simp

@[simp] theorem firm_eraseLast (s : State) (e : Erase) : firm (eraseLast s e) = firm s := by simp [eraseLast]
@[simp] theorem firm_eraseEnd (s : State) (e : Erase) : firm (eraseEnd s e) = firm s := by simp [eraseEnd]

@[simp] theorem firm_eraseStep (s : State) (n : Nat) (ready : State → Bool) (f : State → Erase → State)
    (hf : ∀ s x, firm (f s x) = firm s) : firm (eraseStep s n ready f) = firm s := by grind [eraseStep]

@[simp] theorem firm_eraseAdvance (s : State) : firm (eraseAdvance s) = firm s := by simp [eraseAdvance]

/-! ## Trips (R458, R459, R461) -/

@[simp] theorem firm_tripNoted (s : State) (sensor level : Nat) : firm (tripNoted s sensor level) = firm s := by
  simp only [tripNoted, firm_raiseInt, firm_secEvent, firm_wr64, firm_setFld, firm_countFld]

/-! ## Places -/

@[simp] theorem firm_setHbmc (s : State) (chan off hi lo v : Nat) : firm (setHbmc s chan off hi lo v) = firm s := by
  simp [setHbmc]

@[simp] theorem firm_cntHbmc (s : State) (chan off hi lo n : Nat) : firm (cntHbmc s chan off hi lo n) = firm s := by
  simp [cntHbmc]

/-! ## The maintenance sluice (R213, R216) -/

@[simp] theorem firm_setMaint (s : State) (f : Nat) (m : Maint) : firm (setMaint s f m) = firm s := by simp [setMaint]
@[simp] theorem firm_chargeMaint (s : State) (f n : Nat) : firm (chargeMaint s f n) = firm s := by simp [chargeMaint]
@[simp] theorem firm_bypassWrite (s : State) (chan a : Nat) : firm (bypassWrite s chan a) = firm s := by simp [bypassWrite]

/-! ## Row remap (R211, R212) -/

@[simp] theorem firm_remapCommit (s : State) (chan : Nat) : firm (remapCommit s chan) = firm s := by simp [remapCommit]
@[simp] theorem firm_remapRow (s : State) (chan row : Nat) : firm (remapRow s chan row) = firm s := by simp [remapRow]

@[simp] theorem firm_correctedAt (s : State) (chan off symbol : Nat) (ctx : Option Nat) :
    firm (correctedAt s chan off symbol ctx) = firm s := by simp [correctedAt]

@[simp] theorem firm_uncorrectableAt (s : State) (chan off : Nat) (ctx : Option Nat) :
    firm (uncorrectableAt s chan off ctx) = firm s := by simp [uncorrectableAt]

@[simp] theorem firm_hbmCheck (s : State) (chan off : Nat) (found : Finding) (ctx : Option Nat) :
    firm (hbmCheck s chan off found ctx) = firm s := by
  simp only [hbmCheck]
  (repeat' split) <;> simp

/-! ## Floor-cache ways (R234-R236) -/

@[simp] theorem firm_retireCommit (s : State) (f : Nat) : firm (retireCommit s f) = firm s := by simp [retireCommit]
@[simp] theorem firm_retireWay (s : State) (f g w : Nat) : firm (retireWay s f g w) = firm s := by simp [retireWay]

@[simp] theorem firm_flcCheck (s : State) (f : Nat) (found : Finding) : firm (flcCheck s f found) = firm s := by
  simp only [flcCheck]
  split <;> simp

/-! ## Service (R213-R216, R218) -/

@[simp] theorem firm_chargeUnit (s : State) (f : Nat) (r : MemReq) (t : Nat) : firm (chargeUnit s f r t) = firm s := by
  simp only [chargeUnit]
  split <;> simp

@[simp] theorem firm_noteService (s : State) (f t : Nat) (r : MemReq) : firm (noteService s f t r) = firm s := by
  simp only [noteService]
  (repeat' split) <;> simp

@[simp] theorem firm_noteWaiting (s : State) (f : Nat) (l : List MemReq) : firm (noteWaiting s f l) = firm s := by
  simp [noteWaiting]

@[simp] theorem firm_serveUnit (s : State) (f : Nat) (reqs : List MemReq) (found : Finding) :
    firm (serveUnit s f reqs found) = firm s := by
  simp only [serveUnit]
  (repeat' split) <;> simp

@[simp] theorem firm_refillPart (s : State) (f p : Nat) : firm (refillPart s f p) = firm s := by simp [refillPart]
@[simp] theorem firm_refillMaint (s : State) (f : Nat) : firm (refillMaint s f) = firm s := by simp [refillMaint]

/-! ## Patrol scrub (R210) -/

@[simp] theorem firm_scrubOne (s : State) (chan : Nat) (found : List (Nat × Finding)) : firm (scrubOne s chan found) = firm s := by
  simp [scrubOne]

/-! ## Quiet steps (R220, R221) -/

@[simp] theorem firm_dueQuiet (s : State) (chan kind : Nat) : firm (dueQuiet s chan kind) = firm s := by simp [dueQuiet]

@[simp] theorem firm_quietStep (s : State) (chan kind : Nat) (done : State → State) (hdone : ∀ s, firm (done s) = firm s) :
    firm (quietStep s chan kind done) = firm s := by grind [quietStep, firm, firm_setChan, firm_cntHbmc, firm_dueQuiet]

@[simp] theorem firm_setLanes (s : State) (chan values : Nat) (lanes : List Nat) : firm (setLanes s chan values lanes) = firm s := by
  simp [setLanes]

@[simp] theorem firm_trainRecord (s : State) (chan : Nat) : firm (trainRecord s chan) = firm s := by simp [trainRecord]
@[simp] theorem firm_laneDone (chan : Nat) (s : State) : firm (laneDone chan s) = firm s := by simp [laneDone]
@[simp] theorem firm_overdue (s : State) (chan : Nat) : firm (overdue s chan) = firm s := by simp [overdue]

@[simp] theorem firm_closeWindow (s : State) (ctx : Nat) : firm (closeWindow s ctx) = firm s := by
  simp only [closeWindow]
  split <;> simp

/-! ## Traffic generators (R219, R224) -/

@[simp] theorem firm_setRun (s : State) (c : Nat) (r : Option TgenRun) : firm (setRun s c r) = firm s := by simp [setRun]

@[simp] theorem firm_tgenStatus (s : State) (k c st refuse passes : Nat) : firm (tgenStatus s k c st refuse passes) = firm s := by
  simp [tgenStatus]

@[simp] theorem firm_tgenStart (s : State) (k value : Nat) : firm (tgenStart s k value) = firm s := by
  simp only [tgenStart, firm_ite, firm_setFld, firm_tgenStatus, firm_setRun, firm_lateStamp, firm_wr, ite_self]

@[simp] theorem firm_tgenStop (s : State) (k : Nat) : firm (tgenStop s k) = firm s := by
  simp only [tgenStop]
  split <;> simp

@[simp] theorem firm_tgenEnd (s : State) (k c : Nat) (o : TgenObs) : firm (tgenEnd s k c o) = firm s := by
  simp only [tgenEnd]
  split <;> simp

/-! ## Self-refresh (R334) -/

@[simp] theorem firm_sleepStack (s : State) (k : Nat) : firm (sleepStack s k) = firm s := by simp [sleepStack]

/-! ## Commits (R420, R421, R427) -/

@[simp] theorem firm_afterStore (s : State) : firm (afterStore s) = firm s := by simp [afterStore]

@[simp] theorem firm_mbxLost (s : State) (c : Commit) (result : Nat) : firm (mbxLost s c result) = firm s := by
  simp only [mbxLost]
  split <;> simp

@[simp] theorem firm_commitStart (s : State) : firm (commitStart s) = firm s := by
  simp only [commitStart]
  (repeat' split) <;> simp

@[simp] theorem firm_retireOpen (s : State) (bank : Nat) : firm (retireOpen s bank) = firm s := by
  unfold retireOpen
  split <;> simp only [firm_bankCheck, firm_wornCheck, firm_retireBlk]

@[simp] theorem firm_commitDone (s : State) (r : Running) (weak : List Nat) : firm (commitDone s r weak) = firm s := by
  simp [commitDone]

@[simp] theorem firm_commitFailed (s : State) (r : Running) (bank : Nat) : firm (commitFailed s r bank) = firm s := by
  simp [commitFailed]

@[simp] theorem firm_commitComplete (s : State) (ok : Bool) (banks : List Nat) : firm (commitComplete s ok banks) = firm s := by
  unfold commitComplete
  split
  · rfl
  · simp only [firm_commitDone]
  · cases banks <;> simp

@[simp] theorem firm_eraseEnded (s : State) (k : Nat) (ok : Bool) : firm (eraseEnded s k ok) = firm s := by simp [eraseEnded]

/-! ## Logs and counts (R167, R429) -/

@[simp] theorem firm_flushSummary (s : State) (prio : Nat) : firm (flushSummary s prio) = firm s := by simp [flushSummary]
@[simp] theorem firm_flushLogs (s : State) : firm (flushLogs s) = firm s := by simp [flushLogs]
@[simp] theorem firm_flushWithin (s : State) : firm (flushWithin s) = firm s := by simp [flushWithin]
@[simp] theorem firm_logFlush (s : State) : firm (logFlush s) = firm s := by simp [logFlush]
@[simp] theorem firm_wayCounts (s : State) (f : Nat) : firm (wayCounts s f) = firm s := by simp [wayCounts]
@[simp] theorem firm_commitMinutes (s : State) : firm (commitMinutes s) = firm s := by simp [commitMinutes]

/-! ## Mailbox commands (R437) -/

@[simp] theorem firm_mbxRead (s : State) : firm (mbxRead s) = firm s := by
  simp only [mbxRead]
  (repeat' split) <;> simp

@[simp] theorem firm_mbxList (s : State) : firm (mbxList s) = firm s := by simp [mbxList]

@[simp] theorem firm_mbxLogRead (s : State) : firm (mbxLogRead s) = firm s := by
  simp only [mbxLogRead]
  (repeat' split) <;> simp

@[simp] theorem firm_mbxSweep (s : State) : firm (mbxSweep s) = firm s := by simp [mbxSweep]
@[simp] theorem firm_mbxTrain (s : State) : firm (mbxTrain s) = firm s := by simp [mbxTrain]
@[simp] theorem firm_mbxWays (s : State) : firm (mbxWays s) = firm s := by simp [mbxWays]
@[simp] theorem firm_mbxCancel (s : State) : firm (mbxCancel s) = firm s := by simp [mbxCancel]
@[simp] theorem firm_mbxNote (s : State) : firm (mbxNote s) = firm s := by simp [mbxNote]
@[simp] theorem firm_mbxSync (s : State) : firm (mbxSync s) = firm s := by simp [mbxSync]

/-! ## Machine/Security -/

@[simp] theorem firm_withStaged (s : State) (f : State → List Byte → State) (hf : ∀ s x, firm (f s x) = firm s) :
    firm (withStaged s f) = firm s := by grind [withStaged, firm_mbxEnd]

@[simp] theorem firm_notI3c (s : State) (src : Source) (f : State → State) (hf : ∀ s, firm (f s) = firm s) :
    firm (notI3c s src f) = firm s := by grind [notI3c, firm_mbxEnd]

@[simp] theorem firm_setFuses (s : State) (f : Fuses → Fuses) : firm (setFuses s f) = firm s := by simp [setFuses]

/-! ## Staging and policy (R456, R457) -/

@[simp] theorem firm_mbxStage (s : State) : firm (mbxStage s) = firm s := by simp [mbxStage]
@[simp] theorem firm_applyPolicy (s : State) (p : Policy) : firm (applyPolicy s p) = firm s := by simp [applyPolicy]
@[simp] theorem firm_mbxPolicy (s : State) : firm (mbxPolicy s) = firm s := by simp [mbxPolicy]

/-! ## Keys (R452, R453) -/

@[simp] theorem firm_setKeyMap (s : State) (slot first n : Nat) : firm (setKeyMap s slot first n) = firm s := by simp [setKeyMap]
@[simp] theorem firm_mbxKeyMap (src : Source) (s : State) : firm (mbxKeyMap src s) = firm s := by simp [mbxKeyMap]

@[simp] theorem firm_mbxKeyWrap (src : Source) (s : State) : firm (mbxKeyWrap src s) = firm s := by
  grind [mbxKeyWrap, firm_notI3c, firm_mbxEnd, firm_secEvent, firm_mbxCommit]

@[simp] theorem firm_mbxKeyLoad (src : Source) (s : State) : firm (mbxKeyLoad src s) = firm s := by
  grind [mbxKeyLoad, firm_notI3c, firm_mbxEnd, firm_secEvent, firm_setSlot]

/-! ## Debug (R464) -/

@[simp] theorem firm_mbxChallenge (s : State) : firm (mbxChallenge s) = firm s := by simp [mbxChallenge]

/-! ## Owners and fuses (R443, R445) -/

@[simp] theorem firm_mbxEnrol (s : State) : firm (mbxEnrol s) = firm s := by simp [mbxEnrol]
@[simp] theorem firm_mbxRevoke (s : State) : firm (mbxRevoke s) = firm s := by simp [mbxRevoke]
@[simp] theorem firm_mbxCert (s : State) : firm (mbxCert s) = firm s := by simp [mbxCert]
@[simp] theorem firm_mbxSvn (s : State) : firm (mbxSvn s) = firm s := by simp [mbxSvn]
@[simp] theorem firm_mbxFloor (s : State) : firm (mbxFloor s) = firm s := by simp [mbxFloor]

/-! ## SPDM (R448, R449) -/

@[simp] theorem firm_sessionStep (s : State) (n : Nat) (f : Spdm → Spdm) : firm (sessionStep s n f) = firm s := by
  simp [sessionStep]

@[simp] theorem firm_spdm (s : State) (port : Option Nat) (m : SpdmMsg) : firm (spdm s port m) = firm s := by
  simp only [spdm]
  (repeat' split) <;> simp

/-! ## The random source (R450) -/

@[simp] theorem firm_entropyFails (s : State) : firm (entropyFails s) = firm s := by simp [entropyFails]

/-! ## The levee (R29, R30) -/

@[simp] theorem firm_guestAccess (s : State) (g : GuestReq) : firm (guestAccess s g) = firm s := by simp [guestAccess]

/-! ## Stages (R468, R470, R492) -/

@[simp] theorem firm_stageDone (s : State) (n : Nat) : firm (stageDone s n) = firm s := by simp [stageDone]

@[simp] theorem firm_bootStop (s : State) (stage code dieA dieB : Nat) : firm (bootStop s stage code dieA dieB) = firm s := by
  simp [bootStop]

/-! ## Stage 1: the ROM (R442-R446, R509) -/

@[simp] theorem firm_romStop (s : State) (code : Nat) : firm (romStop s code) = firm s := by simp [romStop]

@[simp] theorem firm_romCheck (s : State) (l : List (List Byte)) : firm (romCheck s l).1 = firm s := by
  induction l generalizing s with
  | nil => rfl
  | cons img l ih =>
    simp only [romCheck]
    split <;> simp [ih]

/-! ## Stage 2: the store's view (R426, R433, R434) -/

@[simp] theorem firm_fullBoot (s : State) : firm (fullBoot s) = firm s := by simp [fullBoot]
@[simp] theorem firm_openStore (s : State) (o : StoreObs) : firm (openStore s o) = firm s := by simp [openStore]
@[simp] theorem firm_bootNumber (s : State) : firm (bootNumber s) = firm s := by simp [bootNumber]
@[simp] theorem firm_restoreCounts (s : State) : firm (restoreCounts s) = firm s := by simp [restoreCounts]

/-! ## Stage 2: the Dike (R459, R461) -/

@[simp] theorem firm_latchedAlarm (s : State) : firm (latchedAlarm s) = firm s := by
  simp only [latchedAlarm]
  split <;> simp

@[simp] theorem firm_replayBlock (s : State) (k : Nat) : firm (replayBlock s k) = firm s := by simp [replayBlock]

@[simp] theorem firm_replayErase (s : State) (stuck : List Nat) : firm (replayErase s stuck) = firm s := by
  simp only [replayErase]
  split <;> simp

/-! ## Stage 2: feature words and dies (R25-R27, R435) -/

@[simp] theorem firm_tombNow (s : State) (type key : Nat) : firm (tombNow s type key) = firm s := by simp [tombNow]

@[simp] theorem firm_compareDies (s : State) : firm (compareDies s) = firm s := by
  simp only [compareDies]
  split <;> simp

/-! ## Stage 2: the rest (R422, R425, R434, R388, R508) -/

@[simp] theorem firm_migrate (s : State) (known : List (Nat × Nat)) : firm (migrate s known) = firm s := by simp [migrate]
@[simp] theorem firm_measureHoldup (s : State) (us : Nat) : firm (measureHoldup s us) = firm s := by simp [measureHoldup]
@[simp] theorem firm_readActions (s : State) : firm (readActions s) = firm s := by simp [readActions]
@[simp] theorem firm_mendBanks (s : State) : firm (mendBanks s) = firm s := by simp [mendBanks]

@[simp] theorem firm_reportRail (s : State) : firm (reportRail s) = firm s := by
  simp only [reportRail]
  split <;> simp

@[simp] theorem firm_restoreMirror (s : State) : firm (restoreMirror s) = firm s := by
  simp only [restoreMirror]
  split <;> simp

/-! ## Orderly power-down (R273, R412, R510) -/

@[simp] theorem firm_powerDown (s : State) : firm (powerDown s) = firm s := by simp [powerDown]
@[simp] theorem firm_powerDrain (s : State) : firm (powerDrain s) = firm s := by simp [powerDrain]
@[simp] theorem firm_pdRequest (s : State) : firm (pdRequest s) = firm s := by simp [pdRequest]

/-! ## Issue (R48, R161, R164) -/

@[simp] theorem firm_mapCmd (s : State) (ctx index : Nat) (f : Cmd → Cmd) : firm (mapCmd s ctx index f) = firm s := by
  simp [mapCmd]

@[simp] theorem firm_issueNext (s : State) (ctx op : Nat) : firm (issueNext s ctx op) = firm s := by
  simp only [issueNext]
  split <;> simp

@[simp] theorem firm_runCmd (s : State) (ctx op : Nat) (f : State → Cmd → Option State) (hf : ∀ s c, AllFirm s (f s c)) :
    firm (runCmd s ctx op f) = firm s := by
  simp only [runCmd]
  refine (firm_getD (s := issueNext (failHead (retryCount s ctx) ctx) ctx op) (fun t ht => ?_) rfl).trans (by simp)
  obtain ⟨c, -, hc⟩ := List.exists_of_findSome?_eq_some ht
  exact hf _ c t hc

@[simp] theorem allFirm_failCmd (s : State) (ctx : Nat) (cmd : Cmd) (code : Nat) : AllFirm s (failCmd s ctx cmd code) := by
  simp [failCmd]

@[simp] theorem allFirm_doneCmd (s : State) (ctx : Nat) (cmd : Cmd) : AllFirm s (doneCmd s ctx cmd) := by simp [doneCmd]
@[simp] theorem allFirm_nopCmd (ctx : Nat) (s : State) (cmd : Cmd) : AllFirm s (nopCmd ctx s cmd) := by simp [nopCmd]

/-! ## Cells named by a command (R41, R49, R68) -/

@[simp] theorem firm_takeCell (s : State) (ctx p : Nat) : firm (takeCell s ctx p) = firm s := by simp [takeCell]

@[simp] theorem firm_eachCell (ctx : Nat) (cmd : Cmd) (f : State → Nat → Nat → Option State) (s : State)
    (hf : ∀ s p lc, AllFirm s (f s p lc)) : firm (eachCell ctx cmd f s) = firm s := by
  refine firm_foldl _ (fun s pos => ?_) _ s
  dsimp only
  split
  · rfl
  · split
    · rfl
    · split
      · rfl
      · next p _ =>
        split
        · next t ht => simpa using hf s p _ t ht
        · simp

@[simp] theorem firm_settleBegun (ctx : Nat) (cmd : Cmd) (s : State) : firm (settleBegun ctx cmd s) = firm s := by
  simp only [settleBegun]
  split <;> simp

/-! ## CELL_LOAD (R47, R52) -/

@[simp] theorem allFirm_loadCell (ctx : Nat) (bytes : List Byte) (s : State) (p _lc : Nat) : AllFirm s (loadCell ctx bytes s p _lc) := by
  simp [loadCell]

@[simp] theorem allFirm_cellLoadCmd (ctx : Nat) (s : State) (cmd : Cmd) : AllFirm s (cellLoadCmd ctx s cmd) := by
  refine .ite (by simp) (.ite (by simp) ?_)
  split <;> next h => simp [firm_of_pair h]

/-! ## CELL_START (R47, R68, R163) -/

@[simp] theorem firm_startCell (s : State) (p ctx : Nat) : firm (startCell s p ctx) = firm s := by simp [startCell]

@[simp] theorem allFirm_startOne (ctx : Nat) (cmd : Cmd) (args : List Byte) (s : State) (p lc : Nat) :
    AllFirm s (startOne ctx cmd args s p lc) := by
  simp only [startOne]
  split <;> simp

@[simp] theorem firm_abandonQuiet (s : State) (chan : Nat) : firm (abandonQuiet s chan) = firm s := by simp [abandonQuiet]

@[simp] theorem firm_openWindow (s : State) (ctx : Nat) : firm (openWindow s ctx) = firm s := by
  simp only [openWindow]
  (repeat' split) <;> simp

@[simp] theorem allFirm_cellStartCmd (ctx : Nat) (s : State) (cmd : Cmd) : AllFirm s (cellStartCmd ctx s cmd) := by
  refine .ite (by simp) (.ite (by simp) (.ite (by simp) (.ite (by simp) ?_)))
  split <;> next h => simp [firm_of_pair h]

/-! ## CELL_STOP (R47, R72, R164) -/

@[simp] theorem allFirm_stopOne (ctx : Nat) (abort : Bool) (s : State) (p _lc : Nat) : AllFirm s (stopOne ctx abort s p _lc) := by
  simp only [stopOne]
  split <;> simp

@[simp] theorem allFirm_cellStopCmd (ctx : Nat) (s : State) (cmd : Cmd) : AllFirm s (cellStopCmd ctx s cmd) := by
  refine .ite (by simp) (.ite (by simp) (.ite (by simp) (.ite (by simp) ?_)))
  simp only [allFirm_some]
  refine (firm_foldl _ (fun s pos => ?_) _ _).trans (by simp)
  split <;> simp

/-! ## PHASE_TABLE, WAIT, INVALIDATE -/

@[simp] theorem allFirm_phaseTableCmd (ctx : Nat) (s : State) (cmd : Cmd) : AllFirm s (phaseTableCmd ctx s cmd) := by
  refine .ite (by simp) ?_
  split
  · next h => simp [firm_of_pair h]
  · next t b h =>
    have ht : firm t = firm s := by simp [firm_of_pair h]
    split
    · exact (allFirm_failCmd t ctx cmd _).trans ht
    · exact (allFirm_doneCmd _ ctx cmd).trans (by simp [ht])

@[simp] theorem allFirm_waitCmd (ctx : Nat) (s : State) (cmd : Cmd) : AllFirm s (waitCmd ctx s cmd) := by
  refine .ite (by simp) ?_
  split
  · next h => simp [firm_of_pair h]
  · next t b h =>
    have ht : firm t = firm s := by simp [firm_of_pair h]
    exact .ite ((allFirm_doneCmd t ctx cmd).trans ht) (by simp [ht])

@[simp] theorem firm_beginInval (s : State) (ctx va bytes : Nat) (cmd : Option Nat) :
    firm (beginInval s ctx va bytes cmd) = firm s := by simp [beginInval]

@[simp] theorem allFirm_invalidateCmd (ctx : Nat) (s : State) (cmd : Cmd) : AllFirm s (invalidateCmd ctx s cmd) := by
  simp [invalidateCmd]

/-! ## Code-book tables (R82, R85, R87) -/

@[simp] theorem allFirm_cbLoadCmd (ctx : Nat) (s : State) (cmd : Cmd) : AllFirm s (cbLoadCmd ctx s cmd) := by
  refine .ite (by simp) (.ite (by simp) ?_)
  split <;> next h => simp [firm_of_pair h]

@[simp] theorem allFirm_cbStoreCmd (ctx : Nat) (s : State) (cmd : Cmd) : AllFirm s (cbStoreCmd ctx s cmd) := by
  refine .ite (by simp) ?_
  split
  · simp
  · split
    · simp
    · simp
    · split
      · next h => simp [firm_of_pair h]
      · next t h => exact (allFirm_doneCmd t ctx cmd).trans (by simp [firm_of_pair h])

/-! ## Releasing and producing slots (R54, R58) -/

@[simp] theorem firm_releaseToken (s : State) (cell ctx t n : Nat) : firm (releaseToken s cell ctx t n) = firm s := by
  simp only [releaseToken]
  split <;> simp

@[simp] theorem firm_produceCredit (s : State) (cell ctx k first : Nat) (l : List Take) :
    firm (produceCredit s cell ctx k first l) = firm s := by
  simp only [produceCredit]
  split <;> simp

@[simp] theorem firm_drainCounter (s : State) (cell ctx k : Nat) : firm (drainCounter s cell ctx k) = firm s := by
  simp only [drainCounter]
  split <;> simp

/-! ## Arming (R53, R55, R59, R60) -/

@[simp] theorem firm_armTrack (s : State) (cell n : Nat) (dbg : Bool) : firm (armTrack s cell n dbg) = firm s := by
  simp only [armTrack]
  (repeat' split) <;> simp

/-! ## Cycles of waiting (R74, R155) -/

@[simp] theorem firm_addWaits (s : State) (cell : Nat) : firm (addWaits s cell) = firm s := by simp [addWaits]

@[simp] theorem firm_addMatchWaits (s : State) (die : Nat) (cells : List Nat) : firm (addMatchWaits s die cells) = firm s := by
  simp [addMatchWaits]

@[simp] theorem firm_addCycles (s : State) : firm (addCycles s) = firm s := by simp [addCycles]

@[simp] theorem firm_completeOp (s : State) (cell ctx id : Nat) : firm (completeOp s cell ctx id) = firm s := by
  simp only [completeOp]
  (repeat' split) <;> simp

@[simp] theorem firm_fireNow (s : State) (cell n ctx : Nat) : firm (fireNow s cell n ctx) = firm s := by simp [fireNow]

@[simp] theorem firm_fireTrack (s : State) (cell n : Nat) (dbg : Bool) : firm (fireTrack s cell n dbg) = firm s := by
  simp only [fireTrack]
  split <;> simp

/-! ## Operation rows -/

@[simp] theorem firm_runOp (s : State) (cell op code : Nat) (f : State → Nat → CellImg → Op → State)
    (hf : ∀ s x y z, firm (f s x y z) = firm s) : firm (runOp s cell op code f) = firm s := by grind [runOp]

@[simp] theorem firm_opFault (s : State) (cell : Nat) (o : Op) (code : Nat) : firm (opFault s cell o code) = firm s := by
  simp only [opFault]
  split <;> simp

@[simp] theorem firm_doneOp (s : State) (cell ctx : Nat) (o : Op) : firm (doneOp s cell ctx o) = firm s := by simp [doneOp]
@[simp] theorem firm_waitOp (s : State) (cell ctx : Nat) (o : Op) : firm (waitOp s cell ctx o) = firm s := by simp [waitOp]

@[simp] theorem firm_faultBroken (s : State) (cell : Nat) : firm (faultBroken s cell) = firm s := by
  simp only [faultBroken]
  split <;> simp

@[simp] theorem firm_bindOp (cell : Nat) (s : State) (ctx : Nat) (i : CellImg) (o : Op) : firm (bindOp cell s ctx i o) = firm s := by
  simp [bindOp]

/-! ## SIGNAL and the fences (R62, R261, R262, R270, R333) -/

@[simp] theorem firm_signalWrite (s : State) (ctx cell : Nat) (o : Op) (segs : List Seg) (add : Bool) (v : Nat) :
    firm (signalWrite s ctx cell o segs add v) = firm s := by simp [signalWrite]

@[simp] theorem firm_signalOp (cell : Nat) (s : State) (ctx : Nat) (i : CellImg) (o : Op) :
    firm (signalOp cell s ctx i o) = firm s := by
  grind [signalOp, firm_doneOp, firm_tile, firm_mapOp, firm_waitOp, firm_signalWrite]

@[simp] theorem firm_fenceOp (cell : Nat) (r w drain : Bool) (s : State) (ctx : Nat) (i : CellImg) (o : Op) :
    firm (fenceOp cell r w drain s ctx i o) = firm s := by simp [fenceOp]

/-! ## Phases (R65-R67) -/

@[simp] theorem firm_faultPhase (s : State) (ctx code : Nat) (l : List Nat) : firm (faultPhase s ctx code l) = firm s := by
  refine firm_foldl _ (fun s p => ?_) l s
  split
  · rfl
  · split <;> simp

@[simp] theorem firm_phaseOp (cell : Nat) (s : State) (ctx : Nat) (i : CellImg) (o : Op) : firm (phaseOp cell s ctx i o) = firm s := by
  simp only [phaseOp]
  (repeat' split) <;> simp

@[simp] theorem firm_phaseFinish (s : State) (ctx : Nat) : firm (phaseFinish s ctx) = firm s := by
  simp only [phaseFinish]
  split
  · rfl
  · refine (firm_foldl _ (fun s p => ?_) _ _).trans (by simp)
    split <;> simp

/-! ## STREAM_CREATE (R176-R179) -/

theorem firm_takeIndex (s : State) {t} (h : takeIndex s = some t) : firm t.2 = firm s := by grind [takeIndex, firm]

@[simp] theorem firm_createStream (s : State) (ctx raw : Nat) : firm (createStream s ctx raw).1 = firm s := by
  simp only [createStream]
  split
  · rfl
  · split
    · rfl
    · next i t h =>
      have ht : firm t = firm s := firm_takeIndex s h
      split <;> simp [ht]

@[simp] theorem allFirm_streamCreateCmd (ctx : Nat) (s : State) (cmd : Cmd) : AllFirm s (streamCreateCmd ctx s cmd) := by
  refine .ite (by simp) ?_
  split
  · next h => simp [firm_of_pair h]
  · next t b h =>
    have ht : firm t = firm s := by simp [firm_of_pair h]
    refine .ite ((allFirm_failCmd t ctx cmd _).trans ht) ?_
    split
    · next h => simp [firm_of_pair h, ht]
    · next u _ h =>
      have hu : firm u = firm s := by simp [firm_of_pair h, ht]
      refine .ite (by simp [hu]) ?_
      split
      next h => exact (allFirm_doneCmd _ ctx cmd).trans (by simp [firm_of_pair h, hu])

@[simp] theorem allFirm_streamDestroyCmd (ctx : Nat) (s : State) (cmd : Cmd) : AllFirm s (streamDestroyCmd ctx s cmd) := by
  simp [streamDestroyCmd]

@[simp] theorem allFirm_streamQueryCmd (ctx : Nat) (s : State) (cmd : Cmd) : AllFirm s (streamQueryCmd ctx s cmd) := by
  refine .ite (by simp) ?_
  split
  · next h => simp [firm_of_pair h]
  · next t h => exact (allFirm_doneCmd t ctx cmd).trans (by simp [firm_of_pair h])

/-! ## Transfers (R187-R192) -/

@[simp] theorem firm_issueXfer (s : State) (i : Nat) (t : Xfer) : firm (issueXfer s i t) = firm s := by
  simp only [issueXfer]
  split <;> simp

@[simp] theorem allFirm_xferCmd (ctx : Nat) (s : State) (cmd : Cmd) : AllFirm s (xferCmd ctx s cmd) := by simp [xferCmd]

/-! ## Sending packets (R182, R185) -/

@[simp] theorem firm_handsData (s : State) (i : Nat) (parts : List (Hand × Nat)) (n : Nat) :
    firm (handsData s i parts n).1 = firm s := by grind [handsData, firm_tileAll, firm_readSegs]

@[simp] theorem firm_sendPacket (s : State) (p : Packet) : firm (sendPacket s p) = firm s := by simp [sendPacket]

@[simp] theorem firm_sendReads (s : State) (l : List Packet) : firm (sendReads s l) = firm s := by
  induction l generalizing s with
  | nil => rfl
  | cons p l ih => simp [sendReads, ih]

@[simp] theorem firm_launch (s : State) (i : Nat) (xfer : Option Nat) (dst : Nat) (segs : Option (List Seg))
    (data : List Byte) (poison : List Nat) (last : Bool) (fate : Nat) (fromUnit : Option Nat) :
    firm (launch s i xfer dst segs data poison last fate fromUnit) = firm s := by
  simp only [launch]
  (repeat' split) <;> simp

@[simp] theorem firm_issueReads (s : State) (i pk at_ : Nat) (l : List Seg) : firm (issueReads s i pk at_ l) = firm s := by
  induction l generalizing s at_ with
  | nil => rfl
  | cons g l ih => simp [issueReads, ih]

@[simp] theorem firm_sendRange (s : State) (i : Nat) (t : Xfer) (n : Nat) : firm (sendRange s i t n).1 = firm s := by
  grind [sendRange, firm_hostTile, firm_tile, firm_sinkTile, firm_setStream, firm_issueReads, firm_launch, firm_readSegs]

@[simp] theorem firm_lookAhead (s : State) (i : Nat) : firm (lookAhead s i) = firm s := by
  simp only [lookAhead]
  split <;> simp

@[simp] theorem firm_sendXfer (s : State) (i : Nat) (t : Xfer) : firm (sendXfer s i t).1 = firm s := by
  simp only [sendXfer]
  (repeat' split) <;> simp

@[simp] theorem firm_sendHand (s : State) (i : Nat) : firm (sendHand s i).1 = firm s := by
  grind [sendHand, firm_handsData, firm_sinkTile, firm_setStream, firm_launch]

@[simp] theorem firm_sendOne (s : State) (i : Nat) : firm (sendOne s i).1 = firm s := by
  simp only [sendOne]
  (repeat' split) <;> simp

@[simp] theorem firm_sendFirst (f : Nat) (l : List Nat) (s : State) : firm (sendFirst f l s) = firm s := by
  induction l generalizing s with
  | nil => rfl
  | cons i l ih =>
    have h := firm_sendOne s i
    simp only [sendFirst]
    split <;> simp_all

/-! ## Receiving packets (R184, R193) -/

@[simp] theorem firm_setCopies (s : State) (id : Nat) (l : List Nat) : firm (setCopies s id l) = firm s := by simp [setCopies]

@[simp] theorem firm_receiveHere (s : State) (id : Nat) : firm (receiveHere s id) = firm s := by
  grind [receiveHere, firm_placeData, firm_setCopies, firm_setFate, firm_countStale]

@[simp] theorem firm_receiveRemote (s : State) (dev sender handle dst : Nat) (data : List Byte) (poison : List Nat)
    (first last : Bool) : firm (receiveRemote s dev sender handle dst data poison first last) = firm s := by
  grind [receiveRemote, firm_closeSlot, firm_placeData, firm_setStream, firm_grantCredits, firm_sendAfter, firm_sendMsg,
    firm_countStale]

/-! ## Ends of transfers -/

@[simp] theorem firm_transferEnd (s : State) (i : Nat) : firm (transferEnd s i) = firm s := by
  simp only [transferEnd]
  split <;> simp

@[simp] theorem firm_corePoll (s : State) (i : Nat) : firm (corePoll s i) = firm s := by
  unfold corePoll
  extract_lets x req t u y
  split
  · rfl
  · have ht : firm t = firm s := by simp [t]
    have hu : firm u = firm s := by
      simp only [u]
      split
      · exact ht
      · split
        · next h => simp [firm_of_pair h, ht]
        · next h =>
          split
          · next h' => simp [firm_of_pair h', firm_of_pair h, ht]
          · next h' => simp [firm_of_pair h', firm_of_pair h, ht]
    clear_value u
    split
    · exact hu
    · split
      · next h => simp [firm_of_pair h, hu]
      · next h =>
        split
        · next h' => simp [firm_of_pair h', firm_of_pair h, hu]
        · next h' => simp [firm_of_pair h', firm_of_pair h, hu]

/-! ## Operands in slots -/

@[simp] theorem firm_opWrites (s : State) (cell ctx : Nat) (o : Op) (i : CellImg) : firm (opWrites s cell ctx o i) = firm s := by
  simp [opWrites]

/-! ## MOVE (R96, R97) -/

@[simp] theorem firm_moveOp (cell : Nat) (s : State) (ctx : Nat) (i : CellImg) (o : Op) : firm (moveOp cell s ctx i o) = firm s := by
  simp only [moveOp]
  (repeat' split) <;> simp

/-! ## The stream operations (R187, R188, R195) -/

@[simp] theorem firm_sendOp (cell : Nat) (s : State) (ctx : Nat) (i : CellImg) (o : Op) : firm (sendOp cell s ctx i o) = firm s := by
  simp only [sendOp]
  (repeat' split) <;> simp

@[simp] theorem firm_cellXferOp (cell : Nat) (s : State) (ctx : Nat) (_i : CellImg) (o : Op) :
    firm (cellXferOp cell s ctx _i o) = firm s := by simp [cellXferOp]

@[simp] theorem firm_staleRecord (s : State) (cell ctx op h seq : Nat) : firm (staleRecord s cell ctx op h seq) = firm s := by
  simp [staleRecord]

@[simp] theorem firm_issueRecords (s : State) (cell ctx op : Nat) (l : List Nat) : firm (issueRecords s cell ctx op l) = firm s := by
  induction l generalizing s with
  | nil => rfl
  | cons r l ih => simp [issueRecords, ih]

@[simp] theorem firm_xferListOp (cell : Nat) (s : State) (ctx : Nat) (i : CellImg) (o : Op) :
    firm (xferListOp cell s ctx i o) = firm s := by simp [xferListOp]

/-! ## MM (R99-R116) -/

@[simp] theorem firm_mmCount (s : State) (cell : Nat) (p : MMOp) (queued : Bool) (r : MMResult) :
    firm (mmCount s cell p queued r) = firm s := by simp [mmCount]

@[simp] theorem firm_mmOp (cell : Nat) (s : State) (ctx : Nat) (i : CellImg) (o : Op) : firm (mmOp cell s ctx i o) = firm s := by
  simp [mmOp]

/-! ## The vector engine (R86-R95, R117-R135) -/

@[simp] theorem firm_vxeCount (s : State) (cell cycles : Nat) (queued : Bool) : firm (vxeCount s cell cycles queued) = firm s := by
  simp [vxeCount]

@[simp] theorem firm_elemOp (cell : Nat) (s : State) (ctx : Nat) (i : CellImg) (o : Op) : firm (elemOp cell s ctx i o) = firm s := by
  simp [elemOp]

@[simp] theorem firm_crvSetOp (cell : Nat) (s : State) (ctx : Nat) (i : CellImg) (o : Op) :
    firm (crvSetOp cell s ctx i o) = firm s := by
  simp only [crvSetOp]
  split <;> simp

@[simp] theorem firm_crvGetOp (cell : Nat) (s : State) (ctx : Nat) (i : CellImg) (o : Op) :
    firm (crvGetOp cell s ctx i o) = firm s := by
  simp only [crvGetOp]
  split <;> simp

@[simp] theorem firm_cbEncodeOp (cell : Nat) (s : State) (ctx : Nat) (i : CellImg) (o : Op) :
    firm (cbEncodeOp cell s ctx i o) = firm s := by simp [cbEncodeOp]

@[simp] theorem firm_cbSetOp (cell : Nat) (s : State) (ctx : Nat) (i : CellImg) (o : Op) : firm (cbSetOp cell s ctx i o) = firm s := by
  simp [cbSetOp]

@[simp] theorem firm_cbGetOp (cell : Nat) (s : State) (ctx : Nat) (i : CellImg) (o : Op) : firm (cbGetOp cell s ctx i o) = firm s := by
  simp [cbGetOp]

/-! ## The match unit (R140-R156) -/

@[simp] theorem firm_matchBegin (s : State) (die : Nat) : firm (matchBegin s die) = firm s := by
  simp only [matchBegin]
  (repeat' split) <;> simp

@[simp] theorem firm_matchRun (cell : Nat) (s : State) (ctx : Nat) (i : CellImg) (o : Op) :
    firm (matchRun cell s ctx i o) = firm s := by
  simp only [matchRun]
  (repeat' split) <;> simp

/-! ## Members (R369) -/

@[simp] theorem firm_mapColl (s : State) (g : Nat) (f : Coll → Coll) : firm (mapColl s g f) = firm s := by simp [mapColl]

/-! ## Reading, writing, sending -/

@[simp] theorem firm_poisonByte (s : State) (l : List Seg) (k : Nat) : firm (poisonByte s l k) = firm s := by
  induction l generalizing s k with
  | nil => rfl
  | cons g l ih => simp [poisonByte, ih]

@[simp] theorem firm_collRead (s : State) (c : Coll) (va n : Nat) : firm (collRead s c va n).1 = firm s := by
  grind [collRead, firm_tileAll, firm_readSegs]

@[simp] theorem firm_collWrite (s : State) (c : Coll) (va : Nat) (data : List Byte) (poison : List Nat) :
    firm (collWrite s c va data poison).1 = firm s := by
  unfold collWrite
  split
  · next h =>
    split <;> simp [firm_of_pair h]
  · next h => simp [firm_of_pair h]

@[simp] theorem firm_sendSegs (s : State) (c : Coll) (w e dst off : Nat) (data : List Byte) (poison : List Nat) :
    firm (sendSegs s c w e dst off data poison) = firm s :=
  firm_foldl_of Prod.fst _ (fun p d => by simp) _ (s, 0)

@[simp] theorem firm_collPartial (s : State) (c : Coll) (dst off : Nat) (data : List Byte) (poison : List Nat) :
    firm (collPartial s c dst off data poison) = firm s := by simp [collPartial]

@[simp] theorem firm_collFinal (s : State) (c : Coll) (dst off : Nat) (data : List Byte) (poison : List Nat) :
    firm (collFinal s c dst off data poison) = firm s := by simp [collFinal]

@[simp] theorem firm_sendArrive (s : State) (c : Coll) (m lag : Nat) : firm (sendArrive s c m lag) = firm s := by
  simp [sendArrive]

/-! ## Ends (R368, R370, R371) -/

@[simp] theorem firm_sendRelease (s : State) (c : Coll) : firm (sendRelease s c).1 = firm s := by
  simp only [sendRelease]
  (repeat' split) <;> simp

@[simp] theorem firm_endColl (s : State) (c : Coll) (status : Nat) : firm (endColl s c status).1 = firm s := by
  grind [endColl, firm, firm_tileAll, firm_sendRelease, firm_ctxWrite, firm_raiseError, firm_raiseCtxVector, firm_setStage]

@[simp] theorem firm_failColl (s : State) (ctx seq : Nat) : firm (failColl s ctx seq) = firm s := by
  grind [failColl, firm_endColl, firm_mapColl]

@[simp] theorem firm_finishOwn (s : State) (c : Coll) : firm (finishOwn s c) = firm s := by simp [finishOwn]
@[simp] theorem firm_collDone (s : State) (c : Coll) (n : Nat) : firm (collDone s c n) = firm s := by simp [collDone]

/-! ## COLL (R368, R369) -/

@[simp] theorem firm_startColl (s : State) (c : Coll) : firm (startColl s c).1 = firm s := by
  simp only [startColl]
  split
  · split <;> simp
  · split
    · split <;> next h => simp [firm_of_pair h]
    · split
      · next h => simp [firm_of_pair h]
      · next t d w h =>
        have ht : firm t = firm s := by simp [firm_of_pair h]
        split
        · split <;> next h => simp [firm_of_pair h, ht]
        · split
          · split <;> next h => simp [firm_of_pair h, ht]
          · split
            · split
              · exact ht
              · split <;> next h => simp [firm_of_pair h, ht]
            · split
              · simp [ht]
              · split <;> simp [ht]

@[simp] theorem firm_badColl (s : State) (ctx : Nat) (cmd : Cmd) (group : Nat) : firm (badColl s ctx cmd group) = firm s := by
  simp [badColl]

@[simp] theorem allFirm_collCmd (ctx : Nat) (s : State) (cmd : Cmd) : AllFirm s (collCmd ctx s cmd) := by
  simp only [collCmd]
  refine .ite (by simp) (.ite (by simp) ?_)
  split
  · next h => simp [firm_of_pair h]
  · next t _ h =>
    have ht : firm t = firm s := by simp [firm_of_pair h]
    split
    · next h => simp [firm_of_pair h, ht]
    · next u _ h =>
      have hu : firm u = firm s := by simp [firm_of_pair h, ht]
      split
      · simp [hu]
      · refine .ite (by simp [hu]) (.ite (by simp) (.ite (by simp [hu]) ?_))
        split <;> next h => simp [firm_of_pair h, hu]

/-! ## Segments (R369, R370) -/

@[simp] theorem firm_ringReduce (s : State) (c : Coll) (hops off : Nat) (data : List Byte) (poison : List Nat) :
    firm (ringReduce s c hops off data poison) = firm s := by
  grind [ringReduce, firm_collRead, firm_collPartial, firm_collWrite, firm_collDone, firm_collFinal]

@[simp] theorem firm_treeReduce (s : State) (c : Coll) (off : Nat) (data : List Byte) (poison : List Nat) :
    firm (treeReduce s c off data poison) = firm s := by
  grind [treeReduce, firm_mapColl, firm_finishOwn, firm_collPartial, firm_collWrite]

@[simp] theorem firm_gatherIn (s : State) (c : Coll) (origin off : Nat) (data : List Byte) (poison : List Nat) :
    firm (gatherIn s c origin off data poison) = firm s := by
  unfold gatherIn
  split <;> next h => simp [firm_of_pair h]

@[simp] theorem firm_arriveIn (s : State) (c : Coll) (m lag : Nat) : firm (arriveIn s c m lag) = firm s := by
  simp only [arriveIn]
  (repeat' split) <;> simp

@[simp] theorem firm_segmentIn (s : State) (g : Nat) (sig : CollSig) (x : CollSeg) : firm (segmentIn s g sig x) = firm s := by
  simp only [segmentIn]
  (repeat' split) <;> simp

@[simp] theorem firm_collEnd (s : State) (g status : Nat) : firm (collEnd s g status) = firm s := by
  simp only [collEnd]
  split <;> simp

@[simp] theorem firm_collTimeout (s : State) (g : Nat) : firm (collTimeout s g) = firm s := by
  simp only [collTimeout]
  split <;> simp

/-! ## Layouts (R196, R197) -/

@[simp] theorem firm_shardRead (s : State) (ctx seq va n : Nat) : firm (shardRead s ctx seq va n).1 = firm s := by
  grind [shardRead, firm_tileAll, firm_readSegs]

@[simp] theorem firm_readTensors (s : State) (ctx seq at_ : Nat) (devs : List Nat) (n k : Nat) :
    firm (readTensors s ctx seq at_ devs n k).1 = firm s := by
  induction n generalizing s k with
  | zero => rfl
  | succ n ih =>
    simp only [readTensors]
    split
    · next h => simp [firm_of_pair h]
    · next t _ h =>
      have ht : firm t = firm s := by simp [firm_of_pair h]
      split
      · exact ht
      · split
        · next h => simp [firm_of_pair h, ht]
        · next u _ h =>
          have hu : firm u = firm s := by simp [firm_of_pair h, ht]
          split
          · exact hu
          · split
            · next h => simp [firm_of_pair h, ih, hu]
            · simp [ih, hu]

@[simp] theorem firm_readLayout (s : State) (ctx seq at_ : Nat) : firm (readLayout s ctx seq at_).1 = firm s := by
  grind [readLayout, firm_shardRead, firm_readTensors]

/-! ## Running a re-shard (R198-R200) -/

@[simp] theorem firm_mapShard (s : State) (ctx : Nat) (f : Reshard → Reshard) : firm (mapShard s ctx f) = firm s := by
  simp [mapShard]

@[simp] theorem firm_shardRegs (s : State) (f : State → Nat → State) (hf : ∀ s n, firm (f s n) = firm s) :
    firm (shardRegs s f) = firm s := by
  simp [shardRegs, hf]

@[simp] theorem firm_shardFetch (s : State) (ctx kind cell floor addr n : Nat) :
    firm (shardFetch s ctx kind cell floor addr n).1 = firm s := by grind [shardFetch, firm_tileAll, firm_readSegs]

@[simp] theorem firm_shardPut (s : State) (ctx kind cell floor addr : Nat) (data : List Byte) (poison : List Nat) :
    firm (shardPut s ctx kind cell floor addr data poison).1 = firm s := by
  simp only [shardPut]
  split
  · split
    · next t h =>
      obtain ⟨p, -, hp⟩ := Option.bind_eq_some_iff.1 h
      exact allFirm_inboundWrite s p ctx addr data poison t hp
    · rfl
  · split <;> next h => simp [firm_of_pair h]

@[simp] theorem firm_spoilPlace (s : State) (ctx : Nat) (p : ShardPlace) : firm (spoilPlace s ctx p) = firm s := by
  simp only [spoilPlace]
  split
  · split <;> simp
  · refine firm_foldl _ (fun s r => ?_) _ s
    split <;> simp

@[simp] theorem firm_endShard (s : State) (r : Reshard) (status : Nat) : firm (endShard s r status) = firm s := by
  simp only [endShard]
  split <;> simp

@[simp] theorem firm_sendPart (s : State) (ctx : Nat) (p : Piece) (r : PieceRun) (final : Bool) :
    firm (sendPart s ctx p r final).1 = firm s := by grind [sendPart, firm_shardFetch, firm_shardPut, firm_sendPacketMsg]

@[simp] theorem firm_mapPiece (s : State) (ctx k : Nat) (f : Piece → Piece) : firm (mapPiece s ctx k f) = firm s := by
  simp [mapPiece]

@[simp] theorem firm_sendPiece (s : State) (ctx k : Nat) (p : Piece) : firm (sendPiece s ctx k p).1 = firm s := by
  have hf (l : List (PieceRun × Nat)) (n : Nat) : firm (l.foldl (fun (q : State × Bool) r =>
      if !q.2 then q
      else
        match sendPart q.1 ctx p r.1 (r.2 + 1 == n) with
        | (s, true) => (mapPiece s ctx k fun y => { y with done := r.2 + 1 }, true)
        | (s, false) => (s, false)) (s, true)).1 = firm s := by
    refine firm_foldl_of Prod.fst _ (fun q r => ?_) l (s, true)
    split
    · rfl
    · split <;> next h => simp [firm_of_pair h]
  simp only [sendPiece]
  split
  · exact hf _ _
  · simp only [firm_mapPiece, firm_ite, firm_count64]
    rw [ite_self]
    exact hf _ _

@[simp] theorem firm_lookPieces (s : State) (ctx : Nat) : firm (lookPieces s ctx) = firm s := by
  simp only [lookPieces]
  split <;> simp

@[simp] theorem firm_sendPieces (s : State) (ctx : Nat) : firm (sendPieces s ctx) = firm s := by
  unfold sendPieces
  split
  · rfl
  · rw [firm_lookPieces]
    refine firm_foldl_of Prod.fst _ (fun q p => ?_) _ (s, true)
    split <;> simp

@[simp] theorem firm_beginShard (s : State) (r : Reshard) : firm (beginShard s r) = firm s := by
  unfold beginShard
  extract_lets ctx held t
  split
  · rfl
  · have ht : firm t = firm s := by simp [t]
    split
    · next h => simp [firm_of_pair h, ht]
    · next h => simp [firm_of_pair h, ht]
    · next u _ h =>
      have hu : firm u = firm s := by simp [firm_of_pair h, ht]
      split
      · next h => simp [firm_of_pair h, hu]
      · next h => simp [firm_of_pair h, hu]
      · next v _ h =>
        have hv : firm v = firm s := by simp [firm_of_pair h, hu]
        simp [hv]

@[simp] theorem firm_shardGo (s : State) (ctx : Nat) : firm (shardGo s ctx) = firm s := by
  simp only [shardGo]
  (repeat' split) <;> simp

@[simp] theorem allFirm_reshardCmd (ctx : Nat) (s : State) (cmd : Cmd) : AllFirm s (reshardCmd ctx s cmd) := by simp [reshardCmd]

@[simp] theorem firm_phaseBarrier (s : State) (ctx : Nat) : firm (phaseBarrier s ctx) = firm s := by
  simp only [phaseBarrier]
  (repeat' split) <;> simp

/-! ## Walks (R277, R284-R286, R292) -/

@[simp] theorem firm_endPrefetch (s : State) (j : WalkJob) : firm (endPrefetch s j) = firm s := by
  simp only [endPrefetch]
  split <;> simp

@[simp] theorem firm_endWalk (s : State) (j : WalkJob) : firm (endWalk s j) = firm s := by
  grind [endWalk, firm_setWalks, firm_endPrefetch, firm_walkNow, firm_raiseFault]

@[simp] theorem firm_walkDone (s : State) (number : Nat) : firm (walkDone s number) = firm s := by
  simp only [walkDone]
  split <;> simp

@[simp] theorem firm_redoWalks (s : State) (unit : Nat) : firm (redoWalks s unit) = firm s := by simp [redoWalks]

@[simp] theorem firm_fillLine (s : State) (cell track va seq : Nat) : firm (fillLine s cell track va seq) = firm s := by
  simp only [fillLine]
  split <;> simp

/-! ## The end of a failed access (R289) -/

@[simp] theorem firm_failStream (s : State) (handle status : Nat) : firm (failStream s handle status) = firm s := by
  simp only [failStream]
  (repeat' split) <;> simp

@[simp] theorem firm_hartAtsFault (s : State) (r : Requester) (addr : Nat) (write : Bool) :
    firm (hartAtsFault s r addr write) = firm s := (rfl)

@[simp] theorem firm_endAccess (s : State) (r : Requester) (status : Nat) : firm (endAccess s r status) = firm s := by
  simp only [endAccess]
  (repeat' split) <;> simp

@[simp] theorem firm_failAccess (s : State) (r : Requester) : firm (failAccess s r) = firm s := by simp [failAccess]

/-! ## Answers (R288-R291, R297) -/

@[simp] theorem firm_freeEntry (s : State) (unit : Nat) : firm (freeEntry s unit) = firm s := by simp [freeEntry]

@[simp] theorem firm_flushFq (s : State) (ctx n : Nat) : firm (flushFq s ctx n) = firm s := by
  induction n generalizing s with
  | zero => rfl
  | succ n ih =>
    simp only [flushFq]
    split
    · rfl
    · split
      · rfl
      · split <;> next h => simp [ih, firm_of_pair h]

@[simp] theorem firm_retryFq (s : State) (ctx : Nat) : firm (retryFq s ctx) = firm s := by simp [retryFq]

@[simp] theorem firm_answerTag (s : State) (ctx value : Nat) : firm (answerTag s ctx value) = firm s := by
  simp only [answerTag]
  (repeat' split) <;> simp

@[simp] theorem firm_consumeFq (s : State) (ctx value : Nat) : firm (consumeFq s ctx value) = firm s := by simp [consumeFq]

/-! ## ATS and PRI (R282, R283, R305) -/

@[simp] theorem firm_dropAts (s : State) (w : AtsWait) : firm (dropAts s w) = firm s := by simp [dropAts]
@[simp] theorem firm_endAts (s : State) (w : AtsWait) (status : Nat) : firm (endAts s w status) = firm s := by simp [endAts]
@[simp] theorem firm_askPage (s : State) (w : AtsWait) : firm (askPage s w) = firm s := by simp [askPage]
@[simp] theorem firm_resumeFq (s : State) (w : AtsWait) : firm (resumeFq s w) = firm s := by simp [resumeFq]

@[simp] theorem firm_atsDone (s : State) (unit ctx addr : Nat) (r : AtsObs) : firm (atsDone s unit ctx addr r) = firm s := by
  simp only [atsDone]
  (repeat' split) <;> simp

@[simp] theorem firm_pageAnswered (s : State) (ctx : Nat) : firm (pageAnswered s ctx) = firm s := by simp [pageAnswered]

@[simp] theorem firm_priDone (s : State) (unit ctx addr : Nat) (ok : Bool) : firm (priDone s unit ctx addr ok) = firm s := by
  simp only [priDone]
  split <;> simp

@[simp] theorem firm_endAtsOf (s : State) (port : Nat) : firm (endAtsOf s port) = firm s := by simp [endAtsOf]
@[simp] theorem firm_sendUnsent (s : State) : firm (sendUnsent s) = firm s := by simp [sendUnsent]

/-! ## Invalidations (R293-R296) -/

@[simp] theorem firm_failContext (s : State) (unit c : Nat) : firm (failContext s unit c) = firm s := by
  have shard (t : State) : firm (((t.str.reshards.find? (·.ctx = c)).map fun r => endShard t r RsSt.FAULT_FAILED).getD t) = firm t := by
    cases t.str.reshards.find? (·.ctx = c) <;> simp
  simp [failContext, shard]

@[simp] theorem firm_clearUnit (s : State) (unit : Nat) : firm (clearUnit s unit) = firm s := by simp [clearUnit]
@[simp] theorem firm_fenceUnit (s : State) (unit : Nat) : firm (fenceUnit s unit) = firm s := by simp [fenceUnit]

@[simp] theorem firm_finishInval (s : State) (v : Inval) : firm (finishInval s v) = firm s := by
  simp only [finishInval]
  (repeat' split) <;> simp

@[simp] theorem firm_finishInvals (s : State) : firm (finishInvals s) = firm s := by simp [finishInvals]
@[simp] theorem firm_ackInval (s : State) (unit number : Nat) : firm (ackInval s unit number) = firm s := by simp [ackInval]

@[simp] theorem firm_dropHost (s : State) (unit addr bytes : Nat) : firm (dropHost s unit addr bytes) = firm s := by
  simp [dropHost]

@[simp] theorem firm_finishHost (s : State) : firm (finishHost s) = firm s := by simp [finishHost]
@[simp] theorem firm_ackRange (s : State) (unit : Nat) (v : Inval) : firm (ackRange s unit v) = firm s := by simp [ackRange]
@[simp] theorem firm_ackHost (s : State) (unit : Nat) (v : Inval) : firm (ackHost s unit v) = firm s := by simp [ackHost]

@[simp] theorem firm_invalAck (s : State) (unit number : Nat) : firm (invalAck s unit number) = firm s := by
  simp only [invalAck]
  split <;> simp

@[simp] theorem firm_silenceUnit (s : State) (unit : Nat) : firm (silenceUnit s unit) = firm s := by simp [silenceUnit]

@[simp] theorem firm_invalTimeout (s : State) (number : Nat) : firm (invalTimeout s number) = firm s := by
  simp only [invalTimeout]
  split <;> simp

@[simp] theorem firm_xlcGo (s : State) (value : Nat) : firm (xlcGo s value) = firm s := by simp [xlcGo]

@[simp] theorem firm_hostInval (s : State) (port addr bytes : Nat) : firm (hostInval s port addr bytes) = firm s := by
  simp [hostInval]

/-! ## Coherence modes (R324-R326) -/

@[simp] theorem firm_fullReq (s : State) : firm (fullReq s) = firm s := by simp [fullReq]

/-! ## Host-link resets (R331-R334) -/

@[simp] theorem firm_dropRead (s : State) (op : HostOp) : firm (dropRead s op) = firm s := by
  simp only [dropRead]
  (repeat' split) <;> simp

@[simp] theorem firm_detachStream (s : State) (p i : Nat) : firm (detachStream s p i) = firm s := by simp [detachStream]
@[simp] theorem firm_resumeStreams (s : State) : firm (resumeStreams s) = firm s := by simp [resumeStreams]
@[simp] theorem firm_dropHostLines (s : State) : firm (dropHostLines s) = firm s := by simp [dropHostLines]
@[simp] theorem firm_hostDetach (s : State) : firm (hostDetach s) = firm s := by simp [hostDetach]
@[simp] theorem firm_linkReset (s : State) (p cause : Nat) : firm (linkReset s p cause) = firm s := by simp [linkReset]

/-! ## A port in service (R331-R333) -/

@[simp] theorem firm_flushHost (s : State) (l : List HostOp) : firm (flushHost s l) = firm s := by
  induction l generalizing s with
  | nil => rfl
  | cons w l ih =>
    simp only [flushHost]
    split <;> simp [ih]

@[simp] theorem firm_portUp (s : State) (p : Nat) (o : PortObs) : firm (portUp s p o) = firm s := by simp [portUp]

/-! ## Interrupts (R313, R322, R323) -/

@[simp] theorem firm_sendMsix (s : State) (v : Nat) : firm (sendMsix s v) = firm s := by
  simp only [sendMsix]
  split <;> simp

@[simp] theorem firm_deliverVector (s : State) : firm (deliverVector s) = firm s := by
  grind [deliverVector, firm, firm_sendMsix, firm_emit, firm_setHart]

/-! ## BAR2 (R320, R324, R474, R488) -/

@[simp] theorem firm_readOut (s : State) (p : Nat) (data : List Byte) (poison : Bool) : firm (readOut s p data poison) = firm s := by
  simp [readOut]

@[simp] theorem firm_poisonOut (s : State) (p n : Nat) : firm (poisonOut s p n) = firm s := by simp [poisonOut]
@[simp] theorem firm_hostRead (s : State) (p off n : Nat) : firm (hostRead s p off n) = firm s := by simp [hostRead]

@[simp] theorem firm_hostAccess (s : State) (p off : Nat) (a : HostAcc) : firm (hostAccess s p off a) = firm s := by
  simp only [hostAccess]
  split <;> simp

@[simp] theorem firm_barAccess (s : State) (p off : Nat) (a : HostAcc) : firm (barAccess s p off a) = firm s := by
  simp [barAccess]

@[simp] theorem firm_hostSnoop (s : State) (line : Nat) (inv : Bool) : firm (hostSnoop s line inv) = firm s := by simp [hostSnoop]

@[simp] theorem firm_packetRead (s : State) (op : HostOp) (ok : Bool) (d : List Byte) : firm (packetRead s op ok d) = firm s := by
  simp only [packetRead]
  split <;> simp

@[simp] theorem firm_lineRead (s : State) (line : Nat) (ok : Bool) (d : List Byte) (grant : Nat) :
    firm (lineRead s line ok d grant) = firm s := by
  simp only [lineRead]
  split <;> simp

@[simp] theorem firm_readDone (s : State) (p : Nat) (ok : Bool) (data : List Byte) (grant : Option Nat) :
    firm (readDone s p ok data grant) = firm s := by
  simp only [readDone]
  split <;> simp

/-! ## Warm re-attach (R335-R339) -/

@[simp] theorem firm_reclaimResult (s : State) (r : Nat) : firm (reclaimResult s r) = firm s := by simp [reclaimResult]

@[simp] theorem firm_reclaim (s : State) : firm (reclaim s) = firm s := by
  simp only [reclaim]
  (repeat' split) <;> simp

@[simp] theorem firm_tokenRead (s : State) : firm (tokenRead s) = firm s := by simp [tokenRead]

@[simp] theorem firm_scrub (s : State) (ctx : Nat) : firm (scrub s ctx) = firm s := by
  simp only [scrub]
  split <;> simp

/-! ## Machine/Mirror -/

@[simp] theorem firm_mirSet (s : State) (st : Nat) : firm (mirSet s st) = firm s := by simp [mirSet]
@[simp] theorem firm_mirResult (s : State) (r : Nat) : firm (mirResult s r) = firm s := by simp [mirResult]
@[simp] theorem firm_commitMirrorId (s : State) (tomb : Bool) : firm (commitMirrorId s tomb) = firm s := by simp [commitMirrorId]

/-! ## What is sent (R379, R382, R383) -/

@[simp] theorem firm_sendWords (s : State) (l kind lane : Nat) (pre words : List Nat) :
    firm (sendWords s l kind lane pre words) = firm s := by simp [sendWords]

@[simp] theorem firm_putMsg (s : State) (c : MirCopy) : firm (putMsg s c) = firm s := by
  simp only [putMsg]
  split <;> simp

@[simp] theorem firm_moveCopies (s : State) : firm (moveCopies s) = firm s := by simp [moveCopies]
@[simp] theorem firm_sendState (s : State) (i : Nat) : firm (sendState s i) = firm s := by simp [sendState]
@[simp] theorem firm_sendStates (s : State) : firm (sendStates s) = firm s := by simp [sendStates]
@[simp] theorem firm_nextCount (s : State) : firm (nextCount s) = firm s := by simp [nextCount]
@[simp] theorem firm_sendKeyMap (s : State) : firm (sendKeyMap s) = firm s := by simp [sendKeyMap]

/-! ## Configuration (R376-R378) -/

@[simp] theorem firm_takeKeyMap (s : State) (l : List (Nat × Nat)) : firm (takeKeyMap s l) = firm s := by simp [takeKeyMap]

/-! ## Copies of dirty blocks (R389) -/

@[simp] theorem firm_nextBlock (s : State) : firm (nextBlock s) = firm s := by
  simp only [nextBlock]
  (repeat' split) <;> simp

@[simp] theorem firm_blockDone (s : State) : firm (blockDone s) = firm s := by
  simp only [blockDone]
  split <;> simp

@[simp] theorem firm_beginCopying (s : State) (dirty : List Nat) : firm (beginCopying s dirty) = firm s := by simp [beginCopying]

/-! ## Forming and ending (R377, R387, R391) -/

@[simp] theorem firm_formed (s : State) (a : MirAnswer) : firm (formed s a) = firm s := by simp [formed]
@[simp] theorem firm_tellConfig (s : State) (conflict : Bool) : firm (tellConfig s conflict) = firm s := by simp [tellConfig]
@[simp] theorem firm_formWith (s : State) (a : MirAnswer) : firm (formWith s a) = firm s := by simp [formWith]

@[simp] theorem firm_formGo (s : State) (answer : Option MirAnswer) : firm (formGo s answer) = firm s := by
  cases answer <;>
    simp only [formGo, firm_ite, firm_formWith, firm_mirResult, firm_tellConfig, firm_setFld, firm_mk, firm_fold, ite_self]

@[simp] theorem firm_formTimeout (s : State) : firm (formTimeout s) = firm s := by
  simp only [formTimeout]
  split <;> simp

@[simp] theorem firm_dropWaits (s : State) : firm (dropWaits s) = firm s := by
  simp only [dropWaits, firm_mk, firm_fold]
  refine firm_foldl _ (fun s w => ?_) _ s
  split <;> simp

@[simp] theorem firm_failAcks (s : State) : firm (failAcks s) = firm s := by simp [failAcks]
@[simp] theorem firm_freeAcks (s : State) : firm (freeAcks s) = firm s := by simp [freeAcks]
@[simp] theorem firm_loseRegions (s : State) : firm (loseRegions s) = firm s := by simp [loseRegions]
@[simp] theorem firm_dissolvePair (s : State) : firm (dissolvePair s) = firm s := by simp [dissolvePair]

/-! ## Rejoining (R389) -/

@[simp] theorem firm_rejoinPrimary (s : State) (theirs : Option (List Nat)) : firm (rejoinPrimary s theirs) = firm s := by
  simp [rejoinPrimary]

@[simp] theorem firm_destroyMirrored (s : State) : firm (destroyMirrored s) = firm s := by simp [destroyMirrored]

@[simp] theorem firm_rejoinSecondary (s : State) (epoch : Nat) (keyMap : List (Nat × Nat)) :
    firm (rejoinSecondary s epoch keyMap) = firm s := by simp [rejoinSecondary]

@[simp] theorem firm_heartbeats (s : State) (warm : Bool) : firm (heartbeats s warm) = firm s := by simp [heartbeats]
@[simp] theorem firm_resyncGo (s : State) : firm (resyncGo s) = firm s := by simp [resyncGo]

/-! ## What the secondary receives (R379, R382, R455) -/

@[simp] theorem firm_copyIn (s : State) (id g : Nat) (data : List Byte) (poison : List Nat) (key : Nat) :
    firm (copyIn s id g data poison key) = firm s := by simp [copyIn]

@[simp] theorem firm_stateIn (s : State) (id ctx : Nat) (m : Option MirState) : firm (stateIn s id ctx m) = firm s := by
  simp only [stateIn]
  (repeat' split) <;> simp

/-! ## Acknowledgements (R380, R389) -/

@[simp] theorem firm_copyAck (s : State) (id : Nat) : firm (copyAck s id) = firm s := by simp [copyAck]

/-! ## Supervision (R383, R391) -/

@[simp] theorem firm_sendHeartbeats (s : State) : firm (sendHeartbeats s) = firm s := by simp [sendHeartbeats]
@[simp] theorem firm_missHeartbeat (s : State) : firm (missHeartbeat s) = firm s := by simp [missHeartbeat]
@[simp] theorem firm_splitPair (s : State) : firm (splitPair s) = firm s := by simp [splitPair]
@[simp] theorem firm_heartbeatIn (s : State) (h : HeartObs) : firm (heartbeatIn s h) = firm s := by simp [heartbeatIn]

/-! ## The witness's answers (R384-R386) -/

@[simp] theorem firm_recreateStream (s : State) (ctx : Nat) (m : MirStream) : firm (recreateStream s ctx m) = firm s := by
  simp [recreateStream]

@[simp] theorem firm_recreate (s : State) (ctx : Nat) : firm (recreate s ctx) = firm s := by
  simp only [recreate]
  split
  · rfl
  · split
    · rfl
    · split
      · simp
      · next h => simp [firm_of_pair h]

@[simp] theorem firm_promote (s : State) : firm (promote s) = firm s := by simp [promote]
@[simp] theorem firm_goSolo (s : State) : firm (goSolo s) = firm s := by simp [goSolo]
@[simp] theorem firm_grantGo (s : State) (epoch : Nat) : firm (grantGo s epoch) = firm s := by simp [grantGo]
@[simp] theorem firm_yieldGo (s : State) (epoch : Nat) : firm (yieldGo s epoch) = firm s := by simp [yieldGo]

/-! ## Spilling (R70, R71) -/

@[simp] theorem firm_orphanSignals (s : State) (cell ctx : Nat) : firm (orphanSignals s cell ctx) = firm s := by
  simp [orphanSignals]

@[simp] theorem firm_spillDone (s : State) (cell : Nat) : firm (spillDone s cell) = firm s := by
  simp only [spillDone]
  (repeat' split) <;> simp

@[simp] theorem firm_holdPlace (s : State) (cell : Nat) : firm (holdPlace s cell) = firm s := by
  simp only [holdPlace]
  (repeat' split) <;> simp

/-! ## Return and restore (R72, R73) -/

@[simp] theorem firm_borrowBack (s : State) (cell : Nat) : firm (borrowBack s cell) = firm s := by
  simp only [borrowBack]
  split <;> simp

@[simp] theorem firm_restoreDone (s : State) (cell : Nat) : firm (restoreDone s cell) = firm s := by
  simp only [restoreDone]
  split <;> simp

/-! ## Debug controls (R74) -/

@[simp] theorem firm_stepCell (s : State) (cell : Nat) : firm (stepCell s cell) = firm s := by
  simp only [stepCell]
  (repeat' split) <;> simp

@[simp] theorem firm_haltReq (s : State) (cell : Nat) : firm (haltReq s cell) = firm s := by
  simp only [haltReq]
  split <;> simp

/-! ## Links that go down and come up (R351, R356, R379) -/

@[simp] theorem firm_setLinkState (s : State) (l st : Nat) : firm (setLinkState s l st) = firm s := by simp [setLinkState]

@[simp] theorem firm_moveMsg (s : State) (l : Nat) (m : LinkMsg) : firm (moveMsg s l m) = firm s := by
  simp only [moveMsg]
  (repeat' split) <;> simp

@[simp] theorem firm_moveQueue (s : State) (l : Nat) : firm (moveQueue s l) = firm s := by
  simp only [moveQueue]
  exact (firm_foldl _ (fun s m => firm_moveMsg s l m) _ _).trans (firm_setLink s l _)

@[simp] theorem firm_linkLost (s : State) (l : Nat) : firm (linkLost s l) = firm s := by simp [linkLost]
@[simp] theorem firm_beginTraining (s : State) (l : Nat) : firm (beginTraining s l) = firm s := by simp [beginTraining]
@[simp] theorem firm_retrain (s : State) (l : Nat) : firm (retrain s l) = firm s := by simp [retrain]

@[simp] theorem firm_setDisable (s : State) (l : Nat) (disable : Bool) : firm (setDisable s l disable) = firm s := by
  simp only [setDisable]
  (repeat' split) <;> simp

@[simp] theorem firm_trnDefault (s : State) (d : Nat) : firm (trnDefault s d) = firm s := by simp [trnDefault]
@[simp] theorem firm_devIdWrite (s : State) (src : Source) (v : Nat) : firm (devIdWrite s src v) = firm s := by simp [devIdWrite]

/-! ## Training steps (R349-R352, R376) -/

@[simp] theorem firm_identity (s : State) (l : Nat) (p : PeerObs) : firm (identity s l p) = firm s := by
  simp only [identity]
  split <;> simp

@[simp] theorem firm_recordLane (s : State) (l : Nat) : firm (recordLane s l) = firm s := by simp [recordLane]

@[simp] theorem firm_linkComesUp (s : State) (l peerLanes : Nat) : firm (linkComesUp s l peerLanes) = firm s := by
  simp [linkComesUp]

@[simp] theorem firm_stepEffect (s : State) (l e badLane : Nat) (fec : FecObs) (peer : PeerObs) :
    firm (stepEffect s l e badLane fec peer).1 = firm s := by
  simp only [stepEffect]
  (repeat' split) <;> simp

@[simp] theorem firm_stepOn (s : State) (l e : Nat) (ok : Bool) : firm (stepOn s l e ok) = firm s := by simp [stepOn]

@[simp] theorem firm_holdDown (s : State) (l e : Nat) : firm (holdDown s l e) = firm s := by
  simp only [holdDown]
  split <;> simp

@[simp] theorem firm_trainStep (s : State) (l : Nat) (ok : Bool) (badLane : Nat) (fec : FecObs) (peer : PeerObs) :
    firm (trainStep s l ok badLane fec peer) = firm s := by
  simp only [trainStep]
  (repeat' split) <;> simp

/-! ## Flits (R344, R347, R360) -/

@[simp] theorem firm_freeRx (s : State) (l lane n : Nat) : firm (freeRx s l lane n) = firm s := by simp [freeRx]
@[simp] theorem firm_abortRx (s : State) (l : Nat) : firm (abortRx s l) = firm s := by simp [abortRx]
@[simp] theorem firm_resend (s : State) (l ack : Nat) : firm (resend s l ack) = firm s := by simp [resend]
@[simp] theorem firm_acceptFlit (s : State) (l : Nat) (f : FlitObs) : firm (acceptFlit s l f) = firm s := by simp [acceptFlit]
@[simp] theorem firm_fecCount (s : State) (l : Nat) (f : FlitObs) : firm (fecCount s l f) = firm s := by simp [fecCount]
@[simp] theorem firm_flitIn (s : State) (l : Nat) (f : FlitObs) : firm (flitIn s l f) = firm s := by simp [flitIn]

/-! ## Egress arbitration (R358-R360) -/

@[simp] theorem firm_putOnLink (s : State) (l : Nat) (m : LinkMsg) : firm (putOnLink s l m) = firm s := by simp [putOnLink]

@[simp] theorem firm_burstGrant (s : State) (l : Nat) : firm (burstGrant s l) = firm s := by
  simp only [burstGrant]
  (repeat' split) <;> simp

@[simp] theorem firm_abortTx (s : State) (l : Nat) (m : LinkMsg) : firm (abortTx s l m) = firm s := by simp [abortTx]

@[simp] theorem firm_immediate (s : State) (l : Nat) : firm (immediate s l) = firm s := by
  simp only [immediate]
  (repeat' split) <;> simp

/-! ## Messages that arrive (R346, R354-R357, R362) -/

@[simp] theorem firm_messageIn (s : State) (l : Nat) (h : MsgHead) (data : List Byte) : firm (messageIn s l h data) = firm s := by
  simp only [messageIn]
  (repeat' split) <;> simp

/-! ## Die-to-die interfaces -/

@[simp] theorem firm_dieOffline (s : State) (d : Nat) : firm (dieOffline s d) = firm s := by simp [dieOffline]
@[simp] theorem firm_dieOnline (s : State) (d : Nat) : firm (dieOnline s d) = firm s := by simp [dieOnline]
@[simp] theorem firm_dropDieLinks (s : State) (d : Nat) : firm (dropDieLinks s d) = firm s := by simp [dropDieLinks]
@[simp] theorem firm_ifaceOut (s : State) (i : Nat) : firm (ifaceOut s i) = firm s := by simp [ifaceOut]

@[simp] theorem firm_trainIface (s : State) (trained : List IfaceObs) (boot sweep : Bool) (i : Nat) :
    firm (trainIface s trained boot sweep i) = firm s := by simp [trainIface]

@[simp] theorem firm_loadReplicas (s : State) (dies : List Nat) : firm (loadReplicas s dies) = firm s := by simp [loadReplicas]
@[simp] theorem firm_reloadDie (s : State) (die : Nat) : firm (reloadDie s die) = firm s := by simp [reloadDie]

/-! ## Stage 3 (R20, R235, R425, R470) -/

@[simp] theorem firm_readTrain (s : State) (i : Nat) : firm (readTrain s i) = firm s := by
  simp only [readTrain]
  split <;> simp

@[simp] theorem firm_readWays (s : State) (f : Nat) : firm (readWays s f) = firm s := by
  simp only [readWays]
  split <;> simp

@[simp] theorem firm_clearWays (s : State) : firm (clearWays s) = firm s := by
  simp only [clearWays]
  split <;> simp

@[simp] theorem firm_trainAll (s : State) (trained : List IfaceObs) : firm (trainAll s trained) = firm s := by simp [trainAll]

@[simp] theorem firm_d2dStage (s : State) (trained : List IfaceObs) (floorBad : List Nat) :
    firm (d2dStage s trained floorBad) = firm s := by
  simp only [d2dStage]
  (repeat' split) <;> simp

/-! ## Stage 4 (R222) -/

@[simp] theorem firm_trainChan (obs : List ChanObs) (s : State) (c : Nat) : firm (trainChan obs s c) = firm s := by
  simp [trainChan]

@[simp] theorem firm_hbmStage (s : State) (dead : List Nat) (obs : List ChanObs) : firm (hbmStage s dead obs) = firm s := by
  simp only [hbmStage]
  (repeat' split) <;> simp

/-! ## Stage 5 (R406, R408, R476) -/

@[simp] theorem firm_fenceCell (s : State) (c : Nat) : firm (fenceCell s c) = firm s := by simp [fenceCell]
@[simp] theorem firm_testDieBad (s : State) (d : Nat) : firm (testDieBad s d) = firm s := by simp [testDieBad]
@[simp] theorem firm_testOne (s : State) (c : Nat) (ok : Bool) : firm (testOne s c ok) = firm s := by simp [testOne]

@[simp] theorem firm_testCells (s : State) (dies badCells badDies : List Nat) : firm (testCells s dies badCells badDies) = firm s := by
  simp [testCells]

@[simp] theorem firm_startEstimator (s : State) (d : Nat) : firm (startEstimator s d) = firm s := by
  simp only [startEstimator]
  split <;> simp

@[simp] theorem firm_readTrim (s : State) (d : Nat) : firm (readTrim s d) = firm s := by
  simp only [readTrim]
  split <;> simp

@[simp] theorem firm_enableAgents (s : State) (l : List Nat) : firm (enableAgents s l) = firm s := by simp [enableAgents]

@[simp] theorem firm_readMargins (s : State) (margins : List (Nat × Nat)) : firm (readMargins s margins) = firm s := by
  simp [readMargins]

@[simp] theorem firm_cellStage (s : State) (badCells badDies : List Nat) (margins : List (Nat × Nat)) :
    firm (cellStage s badCells badDies margins) = firm s := by simp [cellStage]

/-! ## Stage 6 (R315) -/

@[simp] theorem firm_testClusters (s : State) (bad : Nat) : firm (testClusters s bad) = firm s := by simp [testClusters]
@[simp] theorem firm_coreStage (s : State) (bad : Nat) : firm (coreStage s bad) = firm s := by simp [coreStage]

/-! ## Stages 7 and 8 (R324, R350, R468) -/

@[simp] theorem firm_readLane (s : State) (l : Nat) : firm (readLane s l) = firm s := by
  simp only [readLane]
  split <;> simp

@[simp] theorem firm_startLinks (s : State) (l : List Nat) : firm (startLinks s l) = firm s := by simp [startLinks]
@[simp] theorem firm_readyStage (s : State) : firm (readyStage s) = firm s := by simp [readyStage]

/-! ## What a reset does to register pages -/

@[simp] theorem firm_resetPages (s : State) (dies : List Nat) : firm (resetPages s dies) = firm s := by simp [resetPages]

/-! ## Warm device reset, steps 1 to 4 (R473) -/

@[simp] theorem firm_announceWarm (s : State) : firm (announceWarm s) = firm s := by simp [announceWarm]
@[simp] theorem firm_freeSync (s : State) : firm (freeSync s) = firm s := by simp [freeSync]
@[simp] theorem firm_endFullNow (s : State) : firm (endFullNow s) = firm s := by simp [endFullNow]
@[simp] theorem firm_resetContexts (s : State) : firm (resetContexts s) = firm s := by simp [resetContexts]
@[simp] theorem firm_clearCells (s : State) : firm (clearCells s) = firm s := by simp [clearCells]
@[simp] theorem firm_resetLinks (s : State) : firm (resetLinks s) = firm s := by simp [resetLinks]
@[simp] theorem firm_stopWatchdog (s : State) : firm (stopWatchdog s) = firm s := by simp [stopWatchdog]

/-! ## Warm device reset, steps 5 to 7 -/

@[simp] theorem firm_settleDie (s : State) (d : Nat) : firm (settleDie s d) = firm s := by simp [settleDie]
@[simp] theorem firm_leaveFatal (s : State) : firm (leaveFatal s) = firm s := by simp [leaveFatal]
@[simp] theorem firm_endWarm (s : State) : firm (endWarm s) = firm s := by simp [endWarm]
@[simp] theorem firm_rstEnd (s : State) (result : Nat) : firm (rstEnd s result) = firm s := by simp [rstEnd]

/-! ## Block reset (R475) -/

@[simp] theorem firm_blockFault (s : State) (cell ctx : Nat) : firm (blockFault s cell ctx) = firm s := by
  simp only [blockFault]
  split <;> simp

@[simp] theorem firm_resetCell (s : State) (cell : Nat) : firm (resetCell s cell) = firm s := by simp [resetCell]
@[simp] theorem firm_sweepCache (s : State) (agent : Nat) : firm (sweepCache s agent) = firm s := by simp [sweepCache]

@[simp] theorem firm_resetCellDie (s : State) (d : Nat) (badCells badDies : List Nat) (trained : List IfaceObs) :
    firm (resetCellDie s d badCells badDies trained) = firm s := by simp [resetCellDie]

@[simp] theorem firm_resetLinkDie (s : State) (d : Nat) (trained : List IfaceObs) : firm (resetLinkDie s d trained) = firm s := by
  simp [resetLinkDie]

@[simp] theorem firm_startHart (s : State) (base h : Nat) : firm (startHart s base h) = firm s := (rfl)

@[simp] theorem firm_resetCluster (s : State) (c : Nat) (ok : Bool) : firm (resetCluster s c ok) = firm s := by
  simp only [resetCluster]
  (repeat' split) <;> simp

@[simp] theorem firm_blockReset (s : State) (badCells badDies : List Nat) (clusterOk : Bool) (trained : List IfaceObs) :
    firm (blockReset s badCells badDies clusterOk trained) = firm s := by
  simp only [blockReset, firm_ite, firm_setFld, firm_rstEnd, firm_resetCellDie, firm_resetLinkDie, firm_resetCluster, firm_mk, firm_fold,
    firm_foldl, firm_setHart, firm_drainPass, implies_true, ite_self]

@[simp] theorem firm_blockGo (s : State) (badCells badDies : List Nat) (clusterOk : Bool) (trained : List IfaceObs) :
    firm (blockGo s badCells badDies clusterOk trained) = firm s := by simp [blockGo]

/-! ## In service (R478, R483) -/

@[simp] theorem firm_coalesceEnd (s : State) (type die inst : Nat) : firm (coalesceEnd s type die inst) = firm s := by
  simp only [coalesceEnd]
  split <;> simp

/-! ## Machine/CoreRun -/

@[simp] theorem firm_coreRunEnd (s : State) (result : Nat) : firm (coreRunEnd s result) = firm s := by simp [coreRunEnd]

/-! ## Teardown (R363) -/

@[simp] theorem firm_cutStreams (s : State) : firm (cutStreams s) = firm s := by simp [cutStreams]
@[simp] theorem firm_cutQueues (s : State) : firm (cutQueues s) = firm s := by simp [cutQueues]

@[simp] theorem firm_teardown (s : State) : firm (teardown s) = firm s := by
  simp only [teardown]
  split <;> simp

@[simp] theorem firm_setPartition (s : State) : firm (setPartition s) = firm s := by
  simp only [setPartition]
  split <;> simp

/-! ## The tree of a job (R365) -/

@[simp] theorem firm_jobSend (s : State) (o kind : Nat) (words : List Nat) : firm (jobSend s o kind words) = firm s := by
  simp [jobSend]

@[simp] theorem firm_jobUp (s : State) (kind : Nat) (words : List Nat) : firm (jobUp s kind words) = firm s := by simp [jobUp]
@[simp] theorem firm_setJob (s : State) (j : Job) : firm (setJob s j) = firm s := by simp [setJob]
@[simp] theorem firm_jobStatus (s : State) (st : Nat) : firm (jobStatus s st) = firm s := by simp [jobStatus]
@[simp] theorem firm_jobEnd (s : State) (st : Nat) : firm (jobEnd s st) = firm s := by simp [jobEnd]

@[simp] theorem firm_jobFailure (s : State) (reason dev size : Nat) : firm (jobFailure s reason dev size) = firm s := by
  simp [jobFailure]

@[simp] theorem firm_pauseJob (s : State) (p : Bool) : firm (pauseJob s p) = firm s := by simp [pauseJob]

@[simp] theorem firm_jobDown (s : State) (kind : Nat) (words : List Nat) : firm (jobDown s kind words) = firm s := by
  simp [jobDown]

@[simp] theorem firm_jobCommit (s : State) : firm (jobCommit s) = firm s := by simp [jobCommit]
@[simp] theorem firm_jobAbort (s : State) (dev : Nat) : firm (jobAbort s dev) = firm s := by simp [jobAbort]

@[simp] theorem firm_jobAnswered (s : State) : firm (jobAnswered s) = firm s := by
  simp only [jobAnswered]
  split <;> simp

@[simp] theorem firm_jobCheck (s : State) : firm (jobCheck s) = firm s := by simp [jobCheck]
@[simp] theorem firm_jobBegin (s : State) (id ctx f o : Nat) : firm (jobBegin s id ctx f o) = firm s := by simp [jobBegin]

/-! ## Operations of MCH_JOB_CTL (R365, R374) -/

@[simp] theorem firm_jobPrepare (s : State) : firm (jobPrepare s) = firm s := by
  simp only [jobPrepare]
  (repeat' split) <;> simp

@[simp] theorem firm_expectJob (s : State) : firm (expectJob s) = firm s := by
  simp only [expectJob]
  split <;> simp

@[simp] theorem firm_cancelJob (s : State) : firm (cancelJob s) = firm s := by
  simp only [cancelJob]
  split <;> simp

/-! ## Messages of a start (R366, R367) -/

@[simp] theorem firm_prepareIn (s : State) (id ctx f mpart epoch : Nat) : firm (prepareIn s id ctx f mpart epoch) = firm s := by
  simp only [prepareIn]
  split <;> simp

@[simp] theorem firm_answerIn (s : State) (child : Nat) (a : JobAnswer) : firm (answerIn s child a) = firm s := by
  simp only [answerIn]
  (repeat' split) <;> simp

@[simp] theorem firm_abortIn (s : State) (id : Nat) : firm (abortIn s id) = firm s := by simp [abortIn]

@[simp] theorem firm_childLost (s : State) (child : Nat) : firm (childLost s child) = firm s := by
  simp only [childLost]
  (repeat' split) <;> simp

/-! ## Reads -/

@[simp] theorem firm_readReg (s : State) (src : Source) (a : Nat) : firm (readReg s src a).1 = firm s := by
  grind [readReg, firm, firm_synd, firm_wr, firm_setCtx, firm_useFree]

theorem firm_readAs (s : State) (src : Source) (a : Nat) {t} (h : readAs s src a = some t) : firm t.1 = firm s := by
  unfold readAs at h
  split at h <;> first | contradiction | (cases h; simp)

@[simp] theorem firm_readLost (s : State) (src : Source) (a : Nat) : firm (readLost s src a) = firm s := by simp [readLost]

/-! ## The page header (R497, R505) -/

@[simp] theorem firm_vectorAgain (s : State) (base : Nat) : firm (vectorAgain s base) = firm s := by simp [vectorAgain]
@[simp] theorem firm_intRawWrite (s : State) (base v : Nat) : firm (intRawWrite s base v) = firm s := by simp [intRawWrite]
@[simp] theorem firm_intEnWrite (s : State) (base v : Nat) : firm (intEnWrite s base v) = firm s := by simp [intEnWrite]
@[simp] theorem firm_intSetWrite (s : State) (base v : Nat) : firm (intSetWrite s base v) = firm s := by simp [intSetWrite]
@[simp] theorem firm_lockWrite (s : State) (base v : Nat) : firm (lockWrite s base v) = firm s := by simp [lockWrite]

/-! ## Counters of a page -/

@[simp] theorem firm_cntClear (s : State) (base : Nat) : firm (cntClear s base) = firm s := by
  simp only [cntClear]
  split <;> simp

/-! ## The error ring (R484) -/

@[simp] theorem firm_ringConsWrite (s : State) (v : Nat) : firm (ringConsWrite s v) = firm s := by simp [ringConsWrite]

/-! ## What a write starts -/

@[simp] theorem firm_cseqCtl (s : State) (cell v : Nat) : firm (cseqCtl s cell v) = firm s := by simp [cseqCtl]
@[simp] theorem firm_lkCtl (s : State) (base l v : Nat) (was : Bool) : firm (lkCtl s base l v was) = firm s := by simp [lkCtl]

/-! ## Writes -/

@[simp] theorem firm_mirCtlWrite (s : State) (old v : Nat) : firm (mirCtlWrite s old v) = firm s := by simp [mirCtlWrite]

@[simp] theorem firm_dbWrite (s : State) (src : Source) (ctx off v : Nat) : firm (dbWrite s src ctx off v) = firm s := by
  simp [dbWrite]

@[simp] theorem firm_msixWrite (s : State) (a v : Nat) : firm (msixWrite s a v) = firm s := by simp [msixWrite]

@[simp] theorem firm_headerWrite (s : State) (base off v : Nat) : firm (headerWrite s base off v) = firm s := by
  simp [headerWrite]

@[simp] theorem firm_fieldWrite (s : State) (src : Source) (a v : Nat) : firm (fieldWrite s src a v) = firm s := by
  simp [fieldWrite]

@[simp] theorem firm_holdLo (s : State) (src : Source) (a v : Nat) : firm (holdLo s src a v) = firm s := by simp [holdLo]

/-! ## Registers and running -/

@[simp] theorem firm_setX (s : State) (h r v : Nat) : firm (setX s h r v) = firm s := by grind [setX, firm_setHart]

@[simp] theorem firm_hartRow (s : State) (h : Nat) (t : State) (ht : firm t = firm s) : firm (hartRow s h t) = firm s := by
  simp [hartRow, ht]

@[simp] theorem firm_accessRow (s : State) (h need : Nat) (f : State → State) (hf : ∀ s, firm (f s) = firm s) :
    firm (accessRow s h need f) = firm s := by
  refine firm_hartRow s h _ ?_
  simp [hf]

/-! ## Where an address leads (R305) -/

@[simp] theorem firm_hartAts (s : State) (h addr kind : Nat) : firm (hartAts s h addr kind) = firm s := by simp [hartAts]

/-! ## Loads, stores and fetches (R256, R257, R305, R308, R309) -/

@[simp] theorem firm_askAll (s : State) (h : Nat) (own : Bool) (l : List (Nat × Nat)) : firm (askAll s h own l) = firm s := by
  simp [askAll]

@[simp] theorem firm_loadMain (s : State) (h addr rd : Nat) (l : List (Nat × Nat)) : firm (loadMain s h addr rd l) = firm s := by
  simp [loadMain]

@[simp] theorem firm_fetchMain (s : State) (h addr : Nat) (l : List (Nat × Nat)) : firm (fetchMain s h addr l) = firm s := by
  simp [fetchMain]

@[simp] theorem firm_storeMain (s : State) (h : Nat) (l : List (Nat × Nat)) (data : List Byte) :
    firm (storeMain s h l data) = firm s := by simp [storeMain]

@[simp] theorem firm_loadPeer (s : State) (h addr rd n io pa : Nat) : firm (loadPeer s h addr rd n io pa) = firm s := by
  simp only [loadPeer]
  split <;> simp

@[simp] theorem firm_storePeer (s : State) (h io pa : Nat) (data : List Byte) : firm (storePeer s h io pa data) = firm s := by
  simp only [storePeer]
  split <;> simp

@[simp] theorem firm_loadPiece (q : State × List Byte) (part : Nat) (p : Nat × Nat) : firm (loadPiece q part p).1 = firm q.1 := by
  simp only [loadPiece]
  split <;> simp

@[simp] theorem firm_loadUncached (s : State) (h addr rd : Nat) (l : List (Nat × Nat)) :
    firm (loadUncached s h addr rd l) = firm s := by
  have pieces (t : State) : firm (l.foldl (fun q p => loadPiece q (hartPart t h) p) (t, [])).1 = firm t :=
    firm_foldl_of Prod.fst _ (fun q p => firm_loadPiece q _ p) l (t, [])
  simp only [loadUncached, firm_ite, firm_hartTrap, firm_hartPoison, firm_setX, pieces, firm_drainHart, ite_self]

@[simp] theorem firm_storePiece (s : State) (h a : Nat) (data : List Byte) : firm (storePiece s h a data) = firm s := by
  simp [storePiece]

@[simp] theorem firm_storeUncached (s : State) (h addr : Nat) (l : List (Nat × Nat)) (data : List Byte) :
    firm (storeUncached s h addr l data) = firm s := by simp [storeUncached]

@[simp] theorem firm_lostRead (s : State) (h addr : Nat) : firm (lostRead s h addr) = firm s := by simp [lostRead]

@[simp] theorem firm_hartFetch (s : State) (h addr : Nat) : firm (hartFetch s h addr) = firm s := by
  simp only [hartFetch]
  split <;> simp

/-! ## Fences and custom instructions (R258-R260, R310, R311) -/

@[simp] theorem firm_cellDoorbell (s : State) (h rd target value : Nat) : firm (cellDoorbell s h rd target value) = firm s := by
  simp [cellDoorbell]

/-! ## Cache-block management (R303) -/

@[simp] theorem firm_blockOp (s : State) (h addr : Nat) (f : State → Nat → State) (hf : ∀ s x, firm (f s x) = firm s) :
    firm (blockOp s h addr f) = firm s := by grind [blockOp, firm_drainHart, firm_hartAts, firm_hartTrap]

@[simp] theorem firm_flushLine (s : State) (c line : Nat) : firm (flushLine s c line) = firm s := by simp [flushLine]

@[simp] theorem firm_prefetchHint (s : State) (h addr : Nat) (write : Bool) : firm (prefetchHint s h addr write) = firm s := by
  simp only [prefetchHint]
  split <;> simp

/-! ## LR, SC and AMO (R257, R268-R270) -/

@[simp] theorem firm_atomicOp (s : State) (h addr size : Nat) (isLr : Bool) (f : State → Nat → State)
    (hf : ∀ s x, firm (f s x) = firm s) : firm (atomicOp s h addr size isLr f) = firm s := by
  grind [atomicOp, firm_drainHart, firm_hartTrap, firm_hartAts]

@[simp] theorem firm_shareRange (s : State) (h a n : Nat) : firm (shareRange s h a n) = firm s := by simp [shareRange]
@[simp] theorem firm_endDeferral (s : State) : firm (endDeferral s) = firm s := by simp [endDeferral]

@[simp] theorem firm_loadReserved (s : State) (h rd addr size a : Nat) : firm (loadReserved s h rd addr size a) = firm s := by
  grind [loadReserved, firm_setHart, firm_hartTrap, firm_shareRange, firm_askRange, firm_hartPoison, firm_setX]

@[simp] theorem firm_storeConditional (s : State) (h rd addr size value a : Nat) :
    firm (storeConditional s h rd addr size value a) = firm s := by
  grind [storeConditional, firm_useFree, firm_endDeferral, firm_setX, firm_setHart, firm_askRange, firm_hartPoison, firm_putHeld]

@[simp] theorem firm_amoMain (s : State) (h rd addr size : Nat) (f : AmoOp) (value a : Nat) :
    firm (amoMain s h rd addr size f value a) = firm s := by simp [amoMain]

/-! ## Waits (R312) -/

@[simp] theorem firm_hartWait (s : State) (h : Nat) (w : HartWait) : firm (hartWait s h w) = firm s := by simp [hartWait]
@[simp] theorem firm_wakeHart (s : State) (h : Nat) : firm (wakeHart s h) = firm s := by simp [wakeHart]

/-! ## SFENCE.VMA (R306) -/

@[simp] theorem firm_sfence (s : State) (h : Nat) (va : Option Nat) : firm (sfence s h va) = firm s := by simp [sfence]

/-! ## What drops firmware: quarantine, warm and cold resets -/

/-- From firmware `a` to firmware `b` nothing is started: the hub firmware runs only where it ran, and so does the core image. -/
def Kept (a b : Bool × Option (Nat × Nat)) : Prop := (b.1 = true → a.1 = true) ∧ ∀ x, b.2 = some x → a.2 = some x

@[simp] theorem Kept.refl (a : Bool × Option (Nat × Nat)) : Kept a a := ⟨id, fun _ => id⟩

theorem Kept.trans {a b c : Bool × Option (Nat × Nat)} (h : Kept a b) (k : Kept b c) : Kept a c :=
  ⟨fun hc => h.1 (k.1 hc), fun x hx => h.2 x (k.2 x hx)⟩

/-- No core image runs. -/
@[simp] theorem kept_noImage (a : Bool × Option (Nat × Nat)) : Kept a (a.1, none) := ⟨id, fun _ h => nomatch h⟩

/-- Nothing runs. -/
@[simp] theorem kept_nothing (a : Bool × Option (Nat × Nat)) : Kept a (false, none) := by
  simp [Kept]

theorem Kept.ite {c : Prop} [Decidable c] {a x y : Bool × Option (Nat × Nat)} (hx : c → Kept a x) (hy : ¬c → Kept a y) :
    Kept a (if c then x else y) := by
  split
  · exact hx ‹_›
  · exact hy ‹_›

/-- Parking the harts drops the core image (R460). -/
@[simp] theorem firm_parkHarts (s : State) : firm (parkHarts s) = ((firm s).1, none) := by
  simp only [parkHarts, firm_ite, firm_measureChanged, ite_self]
  rfl

@[simp] theorem firm_quarantine (s : State) : firm (quarantine s) = ((firm s).1, none) := by
  simp [quarantine]

theorem kept_tripEffect (s : State) (sensor level : Nat) : Kept (firm s) (firm (tripEffect s sensor level)) := by
  simp only [tripEffect, firm_ite, firm_raiseError]
  refine .ite (by simp) fun _ => ?_
  simp

theorem kept_trip (s : State) (sensor level : Nat) : Kept (firm s) (firm (trip s sensor level)) := by
  simp only [trip, firm_ite]
  refine .ite (by simp) fun _ => ?_
  simpa using kept_tripEffect (tripNoted s sensor level) sensor level

theorem kept_unlock (s : State) (level : Nat) : Kept (firm s) (firm (unlock s level)) := by
  simp only [unlock, firm_ite]
  exact .ite (by simp) (by simp)

theorem kept_withStaged (s : State) (f : State → List Byte → State) (hf : ∀ s l, Kept (firm s) (firm (f s l))) :
    Kept (firm s) (firm (withStaged s f)) := by
  simp only [withStaged, firm_ite]
  exact .ite (by simp) fun _ => hf s _

theorem kept_mbxUnlock (s : State) : Kept (firm s) (firm (mbxUnlock s)) := by
  refine kept_withStaged s _ fun s l => ?_
  simp only [firm_mbxEnd, firm_secEvent, firm_ite]
  exact .ite (fun _ => kept_unlock s _) (by simp)

theorem kept_mbxDikeTest (s : State) : Kept (firm s) (firm (mbxDikeTest s)) := by
  simp only [mbxDikeTest, firm_ite, firm_mbxEnd]
  exact .ite (by simp) fun _ => kept_trip s _ 0

theorem kept_latchedTrip (s : State) : Kept (firm s) (firm (latchedTrip s)) := by
  unfold latchedTrip
  split
  · exact .refl _
  · simp only [firm_ite]
    exact .ite (by simp) (by simp)

theorem kept_mbxResume (s : State) : Kept (firm s) (firm (mbxResume s)) := by
  unfold mbxResume
  split
  · exact .refl _
  · extract_lets src
    split
    case h_16 => exact kept_mbxUnlock s
    case h_22 => exact kept_mbxDikeTest s
    all_goals simp

theorem kept_hubServices (s : State) (o : StoreObs) : Kept (firm s) (firm (hubServices s o)) :=
  .trans (by simp) (kept_mbxResume _)

theorem kept_hubStage (s : State) (o : StoreObs) : Kept (firm s) (firm (hubStage s o)) := by
  unfold hubStage
  split
  · exact .refl _
  · extract_lets t u v lvl _ w
    have hv : Kept (firm s) (firm v) := by
      have hu : firm v = firm (latchedTrip (openStore s o)) := by simp [v, u, t]
      rw [hu]
      exact .trans (by simp) (kept_latchedTrip (openStore s o))
    have hw : firm w = firm v := by simp only [w, firm_setFld, firm_mk, firm_fold]
    clear_value w
    split
    · exact hv
    · split
      · rwa [firm_bootStop, hw]
      · rw [← hw] at hv
        exact hv.trans (kept_hubServices w o)

@[simp] theorem firm_coldState (s : State) (rail : Option Nat) : firm (coldState s rail) = (false, none) := (rfl)

@[simp] theorem firm_coldReset (s : State) (cause : Nat) : firm (coldReset s cause) = (false, none) := by
  simp [coldReset]

theorem kept_coldGo (s : State) (src : Source) : Kept (firm s) (firm (coldGo s src)) := by
  cases src <;> simp [coldGo]

theorem kept_railFailure (s : State) (rail : Nat) (hubUp : Bool) (o : HoldObs) : Kept (firm s) (firm (railFailure s rail hubUp o)) := by
  simp only [railFailure, firm_ite]
  exact .ite (by simp) fun _ => kept_nothing (firm s)

@[simp] theorem firm_resetDies (s : State) : firm (resetDies s) = ((firm s).1, none) := by
  simp [resetDies]

@[simp] theorem firm_warmStop (s : State) : firm (warmStop s) = ((firm s).1, none) := by
  simp [warmStop]

theorem kept_warmDrain (s : State) (until_ : Nat) : Kept (firm s) (firm (warmDrain s until_)) := by
  simp only [warmDrain, firm_ite]
  exact .ite (by simp) (by simp)

theorem kept_beginWarm (s : State) (cause : Nat) : Kept (firm s) (firm (beginWarm s cause)) := by
  simp only [beginWarm, firm_ite]
  exact .ite (by simp) fun _ => .trans (by simp) (kept_warmDrain _ _)

theorem kept_warmGo (s : State) : Kept (firm s) (firm (warmGo s)) := by
  simp only [warmGo, firm_ite]
  exact .ite (by simp) fun _ => .trans (by simp) (kept_beginWarm _ _)

theorem kept_warmDone (s : State) (badCells badDies : List Nat) (badClusters : Nat) (trained : List IfaceObs) :
    Kept (firm s) (firm (warmDone s badCells badDies badClusters trained)) := by
  have drained : Kept (firm s) (firm (match s.boot.drainUntil with
      | some t => if s.boot.warmBusy then warmDrain s t else s
      | none => s)) := by
    split
    · simp only [firm_ite]
      exact .ite (fun _ => kept_warmDrain s _) (by simp)
    · exact .refl _
  simp only [warmDone, firm_ite]
  refine .ite (fun _ => drained) fun _ => ?_
  simp only [firm_startLinks, firm_rstEnd, firm_endWarm, firm_ite, firm_testClusters, firm_enableAgents, firm_testCells, firm_loadReplicas,
    firm_mk, firm_fold, firm_foldl, firm_settleDie, firm_trainIface, implies_true, ite_self]
  exact drained

theorem kept_watchdog (s : State) : Kept (firm s) (firm (watchdog s)) := by
  unfold watchdog
  extract_lets a n _ t
  have ht : firm t = firm s := by simp only [t, firm_setFld, firm_mk, firm_fold]
  clear_value t
  simp only [firm_ite]
  refine .ite (by simp) fun _ => .ite (fun _ => ?_) (by simp [ht])
  exact .trans (by simp [ht]) (kept_beginWarm _ 2)

theorem kept_mbxOp (src : Source) (op : Nat) (s : State) : Kept (firm s) (firm (mbxOp src op s)) := by
  unfold mbxOp
  split
  case h_16 => exact kept_mbxUnlock s
  case h_22 => exact kept_mbxDikeTest s
  all_goals simp

theorem kept_mbxGo (s : State) (src : Source) (op : Nat) (f : State → State) (hf : ∀ s, Kept (firm s) (firm (f s))) :
    Kept (firm s) (firm (mbxGo s src op f)) := by
  simp only [mbxGo, firm_ite]
  refine .ite (by simp) fun _ => .ite (fun _ => ?_) fun _ => .trans ?_ (hf _) <;>
    simp only [firm_mk, firm_fold, firm_setFld, Kept.refl]

theorem kept_mbxWrite (s : State) (src : Source) (v : Nat) : Kept (firm s) (firm (mbxWrite s src v)) := by
  simp only [mbxWrite, firm_ite]
  exact .ite (by simp) fun _ => .trans (by simp) (kept_mbxGo _ src _ _ (kept_mbxOp src _))

theorem kept_rstGo (s : State) (src : Source) (v : Nat) : Kept (firm s) (firm (rstGo s src v)) := by
  unfold rstGo
  split
  · exact kept_warmGo s
  · simp
  · exact kept_coldGo s src
  · simp

theorem kept_hubEffect (s : State) (src : Source) (k : PageKind) (base off v : Nat) :
    Kept (firm s) (firm (hubEffect s src k base off v)) := by
  unfold hubEffect
  cases k
  case rst =>
    simp only [firm_ite]
    exact .ite (fun _ => kept_rstGo s src v) (by simp)
  case mch =>
    simp only [firm_ite]
    exact .ite (fun _ => by split <;> simp) fun _ => .ite (fun _ => by split <;> simp) (by simp)
  case mir =>
    simp only [firm_ite]
    exact .ite (fun _ => by split <;> simp) fun _ => .ite (fun _ => by split <;> simp) (by simp)
  all_goals simp
theorem kept_ownWrite {s t : State} {src : Source} {k : PageKind} {off old v : Nat} (h : ownWrite s src k off old v = some t) :
    Kept (firm s) (firm t) := by
  have one {c : Prop} [Decidable c] {u : State} (hu : Kept (firm s) (firm u)) (h : (if c then some u else none) = some t) :
      Kept (firm s) (firm t) := by
    obtain ⟨-, ht⟩ := Option.ite_none_right_eq_some.1 h
    cases ht
    exact hu
  have two {c : Prop} [Decidable c] {u : State} {o : Option State} (hu : Kept (firm s) (firm u))
      (ho : o = some t → Kept (firm s) (firm t)) (h : (if c then some u else o) = some t) : Kept (firm s) (firm t) := by
    split at h
    · cases h
      exact hu
    · exact ho h
  unfold ownWrite at h
  split at h
  · exact one (by simp) h
  · exact two (by simp) (one (by simp)) h
  · exact one (by simp) h
  · exact one (by simp) h
  · exact one (kept_mbxWrite s src v) h
  · exact two (.refl _) (one (by simp)) h
  · cases h

/-! ## What starts firmware -/

/-- The bytes of an image carry two signatures over its header that verify, and the digest of its body (R16, R442). -/
def SignedImage (img : List Byte) : Prop :=
  Config.edVerify (part img 0x080 32) (part img 0x0A0 64) (part img 0 0x80) = true ∧
  Config.mlVerify (part img 0x0E0 1952) (part img 0x880 3309) (part img 0 0x80) = true ∧
  leNat (part img 0x020 64) = Config.sha512 (imgBody img) % 2 ^ 512

/-- A choice that is not its first branch's value takes its second branch. -/
theorem else_of_ne {c : Prop} [Decidable c] {a b x : Nat} (h : (if c then a else b) = x) (ha : a ≠ x) : ¬ c ∧ b = x := by
  by_cases hc : c
  · rw [if_pos hc] at h
    exact absurd h ha
  · rw [if_neg hc] at h
    exact ⟨hc, h⟩

/-- What passes the checks of R442 is signed. -/
theorem signedImage_of_check {s : State} {img : List Byte} {cls : Nat} (h : imageCheck s img cls = 0) : SignedImage img := by
  unfold imageCheck at h
  obtain ⟨_, h⟩ := else_of_ne h (by decide)
  obtain ⟨_, h⟩ := else_of_ne h (by decide)
  obtain ⟨hsigs, h⟩ := else_of_ne h (by decide)
  obtain ⟨_, h⟩ := else_of_ne h (by decide)
  obtain ⟨hbody, _⟩ := else_of_ne h (by decide)
  simp only [bothSigs, Bool.not_eq_true, Bool.not_eq_false', Bool.and_eq_true] at hsigs
  obtain ⟨hed, hml⟩ := hsigs
  exact ⟨hed, hml, Decidable.of_not_not hbody⟩

/-- What the bytes of device memory rest on is as in some `u`, and there the `n` bytes from `b` are a signed image. -/
def HoldsSigned (t : State) (b n : Nat) : Prop :=
  ∃ u : State, u.mem = t.mem ∧ u.keyTag = t.keyTag ∧ u.coh = t.coh ∧ u.sec.slots = t.sec.slots ∧ u.sec.keyMap = t.sec.keyMap ∧
    SignedImage (devBytes u b n)

/-- From `s` to `t` the hub firmware is not started, and a core image that runs ran before or is signed. -/
def StartsSigned (s t : State) : Prop :=
  (t.sec.udsClosed = true → s.sec.udsClosed = true) ∧
  ∀ b n, t.core.image = some (b, n) → s.core.image = some (b, n) ∨ HoldsSigned t b n

theorem Kept.startsSigned {s t : State} (h : Kept (firm s) (firm t)) : StartsSigned s t :=
  ⟨h.1, fun b n hb => .inl (h.2 (b, n) hb)⟩

theorem startsSigned_of_firm {s t : State} (h : firm t = firm s) : StartsSigned s t :=
  Kept.startsSigned (h ▸ .refl _)

theorem StartsSigned.congr {s u t : State} (h : StartsSigned u t) (hu : firm u = firm s) : StartsSigned s t := by
  obtain ⟨huds, himg⟩ := Prod.mk.inj hu
  exact ⟨fun ht => huds ▸ h.1 ht, fun b n ht => himg ▸ h.2 b n ht⟩

theorem StartsSigned.ite {c : Prop} [Decidable c] {s t u : State} (ht : StartsSigned s t) (hu : StartsSigned s u) :
    StartsSigned s (if c then t else u) := by
  split
  · exact ht
  · exact hu

/-- What the bytes of device memory rest on. -/
def backing (s : State) : List Host.Cell × Table Nat × CohSys × Table KeySlot × Table Nat :=
  (s.mem, s.keyTag, s.coh, s.sec.slots, s.sec.keyMap)

theorem holdsSigned_of_backing {s t : State} {b n : Nat} (h : backing t = backing s) (hs : SignedImage (devBytes s b n)) :
    HoldsSigned t b n := by
  simp only [backing, Prod.mk.injEq] at h
  obtain ⟨hmem, htag, hcoh, hslots, hmap⟩ := h
  exact ⟨s, hmem.symm, htag.symm, hcoh.symm, hslots.symm, hmap.symm, hs⟩

theorem backing_of_regs {s t : State} (h : RegsOnly s t) : backing t = backing s := by
  rw [h]
  rfl

theorem backing_coreRunEnd (s : State) (result : Nat) : backing (coreRunEnd s result) = backing s :=
  backing_of_regs (((regsOnly_setFld s 0 _ 31 31 0).trans (regsOnly_setFld _ 0 _ 26 24 result)).trans (regsOnly_raiseInt _ _ 1))

theorem backing_flushSecLog (s : State) (prio n : Nat) : backing (flushSecLog s prio n) = backing s := by
  induction n generalizing s with
  | zero => rfl
  | succ n ih =>
    simp only [flushSecLog]
    split
    · rfl
    · rw [ih]
      rfl

theorem backing_ite {c : Prop} [Decidable c] {s t u : State} (ht : backing t = backing s) (hu : backing u = backing s) :
    backing (if c then t else u) = backing s := by
  split
  · exact ht
  · exact hu

theorem backing_secEvent (s : State) (type arg level result : Nat) (immediate : Bool) :
    backing (secEvent s type arg level result immediate) = backing s := by
  unfold secEvent
  extract_lets e _ t
  have ht : backing t = backing s := backing_ite rfl rfl
  exact backing_ite ht (backing_ite ((backing_flushSecLog t 4 66).trans ht) (backing_ite ((backing_flushSecLog t 6 1).trans ht) ht))

theorem backing_measureChanged (s : State) (i : Nat) : backing (measureChanged s i) = backing s :=
  backing_secEvent _ _ _ _ _ _

theorem backing_imageNoted (s : State) (img : List Byte) (cls result : Nat) : backing (imageNoted s img cls result) = backing s :=
  backing_ite (backing_secEvent s _ _ _ _ _) (backing_ite rfl rfl)

theorem backing_startHarts (s : State) (base : Nat) (hs : List Nat) : backing (hs.foldl (fun s h => startHart s base h) s) = backing s := by
  induction hs generalizing s with
  | nil => rfl
  | cons h hs ih => exact ih (startHart s base h)

/-- CORE_RUN_CTL.GO: the image that runs is the one whose bytes were checked, and nothing that they rest on changes after the check (R316). -/
theorem startsSigned_coreRun (s : State) : StartsSigned s (coreRun s) := by
  unfold coreRun
  extract_lets base n _ t img r u _ v
  have ended (k : Nat) : StartsSigned s (coreRunEnd s k) := startsSigned_of_firm (by simp)
  refine .ite (ended 4) (.ite (startsSigned_of_firm (by simp)) (.ite (ended 3) (.ite (ended 5) ?_)))
  have hu : firm u = ((firm s).1, some (base, n * 4096)) := firm_imageNoted t img 2 r
  split
  · have hd : firm (coreRunEnd { u with core := { u.core with image := none } } 2) = ((firm s).1, none) := by
      rw [firm_coreRunEnd]
      exact congrArg (fun f => (f.1, none)) hu
    exact Kept.startsSigned (hd ▸ kept_noImage _)
  · next hr =>
    have hsigned : SignedImage (devBytes t base (n * 4096)) := by
      have hr0 : (if devPoison t base (n * 4096) then MbxRes.SIG_BAD else imageCheck t img 2) = 0 := Decidable.of_not_not hr
      split at hr0
      · exact absurd hr0 (by decide)
      · exact signedImage_of_check hr0
    have hw : firm (coreRunEnd (measureChanged ((onlineHarts v).foldl (fun s h => startHart s base h) v) 8) 1) = firm u := by
      rw [firm_coreRunEnd, firm_measureChanged, firm_foldl _ (fun s h => firm_startHart s base h)]
      rfl
    have hback : backing (coreRunEnd (measureChanged ((onlineHarts v).foldl (fun s h => startHart s base h) v) 8) 1) = backing t := by
      rw [backing_coreRunEnd, backing_measureChanged, backing_startHarts]
      exact backing_imageNoted t img 2 r
    obtain ⟨huds, himg⟩ := Prod.mk.inj (hw.trans hu)
    refine ⟨fun h => huds.symm.trans h, fun b m hb => .inr ?_⟩
    obtain ⟨rfl, rfl⟩ := Prod.mk.inj (Option.some.inj (himg.symm.trans hb))
    exact holdsSigned_of_backing hback hsigned

theorem startsSigned_dieEffect (s : State) (k : PageKind) (base off old v : Nat) :
    StartsSigned s (dieEffect s k base off old v) := by
  unfold dieEffect
  cases k
  case core => exact .ite (startsSigned_coreRun s) (startsSigned_of_firm rfl)
  all_goals exact startsSigned_of_firm (by simp)

theorem startsSigned_effectAt (s : State) (src : Source) (a old v : Nat) : StartsSigned s (effectAt s src a old v) := by
  unfold effectAt
  split
  · exact startsSigned_of_firm rfl
  · exact .ite (kept_hubEffect s src _ _ _ v).startsSigned (startsSigned_dieEffect s _ _ _ old v)

theorem startsSigned_hiWrite (s : State) (src : Source) (a v : Nat) : StartsSigned s (hiWrite s src a v) := by
  unfold hiWrite
  extract_lets old fixed t u
  have ht : firm u = firm s := by
    simp only [u, firm_fieldWrite, t]
    split <;> simp
  refine .ite (startsSigned_of_firm (by simp)) (.ite (startsSigned_of_firm (by simp [ht])) ?_)
  exact (startsSigned_effectAt u src a old v).congr ht

theorem startsSigned_writeReg (s : State) (src : Source) (a v : Nat) : StartsSigned s (writeReg s src a v) := by
  simp only [writeReg]
  refine .ite (startsSigned_of_firm (by simp)) (.ite (startsSigned_of_firm (by simp)) (.ite (startsSigned_of_firm (by simp))
    (.ite (startsSigned_of_firm (by simp)) (.ite (startsSigned_of_firm (by simp)) (.ite (startsSigned_of_firm (by simp))
    (.ite (startsSigned_of_firm (by simp)) (.ite (startsSigned_hiWrite s src a _) ?_)))))))
  split
  · exact startsSigned_of_firm rfl
  · split
    · next h => exact (kept_ownWrite h).startsSigned
    · exact (startsSigned_effectAt _ src a _ _).congr (by simp)

theorem startsSigned_writeAs {s t : State} {src : Source} {a v : Nat} (h : writeAs s src a v = some t) : StartsSigned s t := by
  unfold writeAs at h
  split at h <;> simp only [Option.some.injEq, reduceCtorEq] at h
  · exact h ▸ startsSigned_writeReg s src a v
  · exact h ▸ startsSigned_of_firm rfl
  · exact h ▸ startsSigned_of_firm (by simp)


/-! ## Every command -/

/-- Whatever next state a command answers, no firmware has been started but signed images. -/
def RunsSigned (s : State) (o : Host.Outcome State Fault Refusal) : Prop := ∀ t, o = .next t → StartsSigned s t

theorem runsSigned_next {s t : State} (h : StartsSigned s t) : RunsSigned s (.next t) := by
  intro u hu
  cases hu
  exact h

theorem runsSigned_fault (s : State) (f : Fault) : RunsSigned s (.fault f) := fun _ h => nomatch h

theorem runsSigned_refused (s : State) (r : Refusal) : RunsSigned s (.refused r) := fun _ h => nomatch h

theorem RunsSigned.ite {s : State} {c : Prop} [Decidable c] {o p : Host.Outcome State Fault Refusal} (ho : RunsSigned s o)
    (hp : RunsSigned s p) : RunsSigned s (if c then o else p) := by
  split
  · exact ho
  · exact hp

theorem RunsSigned.congr {s t : State} {o : Host.Outcome State Fault Refusal} (h : RunsSigned t o) (ht : firm t = firm s) :
    RunsSigned s o := fun u hu => (h u hu).congr ht

theorem runsSigned_run {s t : State} (b : Bool) (h : StartsSigned s t) : RunsSigned s (run b t) :=
  .ite (runsSigned_next h) (runsSigned_fault s _)

theorem runsSigned_of_run {s t : State} {b : Bool} {o : Host.Outcome State Fault Refusal} (ho : o = run b t) (h : firm t = firm s) :
    RunsSigned s o := ho ▸ runsSigned_run b (startsSigned_of_firm h)

theorem runsSigned_of_next {s t : State} {o : Host.Outcome State Fault Refusal} (ho : o = .next t) (h : firm t = firm s) :
    RunsSigned s o := ho ▸ runsSigned_next (startsSigned_of_firm h)

theorem startsSigned_viaReg {s t : State} (src : Source) (a : Nat) (h : StartsSigned s t) : StartsSigned s (viaReg s src a t) := by
  unfold viaReg
  split
  · exact h
  · exact startsSigned_of_firm rfl
  · exact startsSigned_of_firm rfl
  · exact startsSigned_of_firm (by simp)

theorem runsSigned_writeRow (s : State) (src : Source) (a v : Nat) : RunsSigned s (writeRow src a v s) := by
  refine .ite (runsSigned_fault s _) ?_
  split
  · next h => exact runsSigned_next (startsSigned_writeAs h)
  · exact runsSigned_refused s _

theorem runsSigned_readRow (s : State) (src : Source) (a : Nat) (lost : Bool) : RunsSigned s (readRow src a lost s) := by
  refine .ite (runsSigned_fault s _) ?_
  split
  · next h => exact runsSigned_next (startsSigned_of_firm (by simp [firm_readAs _ _ _ h]))
  · exact runsSigned_refused s _

theorem runsSigned_hartLoad (s : State) (h addr n rd : Nat) (nc lost : Bool) : RunsSigned s (hartLoad s h addr n rd nc lost) := by
  unfold hartLoad
  split
  · exact runsSigned_next (startsSigned_of_firm (by simp))
  · exact runsSigned_next (startsSigned_of_firm (by simp))
  · split
    · next h => exact runsSigned_next (startsSigned_of_firm (by simp [firm_readAs _ _ _ h]))
    · exact runsSigned_refused s _
  · exact runsSigned_next (startsSigned_of_firm (by simp))
  · exact runsSigned_next (startsSigned_of_firm (by simp))

theorem runsSigned_hartStore (s : State) (h addr : Nat) (data : List Byte) (nc : Bool) : RunsSigned s (hartStore s h addr data nc) := by
  unfold hartStore
  split
  · exact runsSigned_next (startsSigned_of_firm (by simp))
  · exact runsSigned_next (startsSigned_of_firm (by simp))
  · split
    · next h => exact runsSigned_next (startsSigned_writeAs h)
    · exact runsSigned_refused s _
  · exact runsSigned_next (startsSigned_of_firm (by simp))
  · exact runsSigned_next (startsSigned_of_firm (by simp))

theorem mem_of_romCheck {s t : State} {l : List (List Byte)} {img : List Byte} {rs : List Nat} (h : romCheck s l = (t, some img, rs)) :
    img ∈ l ∧ SignedImage img := by
  induction l generalizing s t rs with
  | nil => simp [romCheck] at h
  | cons x l ih =>
    simp only [romCheck] at h
    split at h
    · next hx =>
      obtain ⟨-, rfl, -⟩ := by simpa using h
      exact ⟨List.mem_cons_self, signedImage_of_check hx⟩
    · obtain ⟨-, himg, -⟩ := by simpa using h
      obtain ⟨hmem, hs⟩ := ih (Prod.ext rfl (Prod.ext himg rfl))
      exact ⟨List.mem_cons_of_mem _ hmem, hs⟩

/-- ROM_STAGE starts the hub firmware only from a bundle whose signatures verify, and no core image (R444). -/
theorem firm_romStage (s : State) (bundles : List (List Byte)) (rail : Option Nat) :
    firm (romStage s bundles rail) = firm s ∨
      (firm (romStage s bundles rail) = (true, s.core.image) ∧ ∃ img ∈ bundles.take 2, SignedImage img) := by
  unfold romStage
  split
  · exact .inl rfl
  · extract_lets _ u
    have hu : firm u = firm s := rfl
    clear_value u
    split
    · exact .inl (by simp [hu])
    · split
      · exact .inl (by simp [hu])
      · split
        · exact .inl (by simp [hu])
        · split
          · next t img _ h =>
            have ht : firm t = firm s := (firm_of_pair h).trans ((firm_romCheck u _).trans hu)
            exact .inr ⟨congrArg (fun f => (true, f.2)) ht, img, mem_of_romCheck h⟩
          · next h => exact .inl (by simp [firm_of_pair h, hu])

theorem runsSigned_waitEvaluate (s : State) (ctx index : Nat) : RunsSigned s (execWaitEvaluate ctx index s) := by
  refine runsSigned_of_run rfl ?_
  split
  · exact firm_getD (allFirm_waitCmd ctx s _) rfl
  · rfl

theorem runsSigned_operationComplete (s : State) (cell op : Nat) : RunsSigned s (execOperationComplete cell op s) := by
  refine runsSigned_of_run rfl ?_
  split <;> simp

theorem runsSigned_packetReceive (s : State) (p : Arrival) : RunsSigned s (execPacketReceive p s) := by
  cases p <;> exact runsSigned_of_next rfl (by simp)

theorem runsSigned_packetAckReceive (s : State) (packet : Nat) : RunsSigned s (execPacketAckReceive packet s) := by
  refine runsSigned_of_next rfl ?_
  split <;> simp

theorem runsSigned_staleNackReceive (s : State) (packet : Nat) : RunsSigned s (execStaleNackReceive packet s) := by
  refine runsSigned_of_next rfl ?_
  split <;> simp

theorem runsSigned_reshardTimeout (s : State) (ctx : Nat) : RunsSigned s (execReshardTimeout ctx s) := by
  refine runsSigned_of_run rfl ?_
  split
  · rfl
  · split <;> simp

theorem runsSigned_translationWalkDone (s : State) (w : WalkObs) : RunsSigned s (execTranslationWalkDone w s) := by
  cases w <;> exact runsSigned_of_run rfl (by simp)

theorem runsSigned_ageingReading (s : State) (needs : List (Nat × Nat)) : RunsSigned s (execAgeingReading needs s) :=
  .ite (runsSigned_of_next rfl rfl) (runsSigned_of_next rfl (by simp))

theorem runsSigned_cicadaCheckMarker (s : State) (diffs : List (Nat × Int)) : RunsSigned s (execCicadaCheckMarker diffs s) :=
  .ite (runsSigned_of_next rfl rfl) (runsSigned_of_next rfl (by simp))

theorem runsSigned_pset (s : State) (cell op : Nat) : RunsSigned s (execPset cell op s) := by
  refine runsSigned_of_run rfl (firm_runOp s cell op _ _ fun s ctx i o => ?_)
  split <;> simp

theorem runsSigned_autoWarmEscalation (s : State) : RunsSigned s (execAutoWarmEscalation s) := by
  refine runsSigned_next (Kept.startsSigned ?_)
  split
  · simp only [firm_ite]
    exact .ite (fun _ => kept_beginWarm s 3) (by simp)
  · exact .refl _

theorem runsSigned_hartAccess (s : State) (hart : Nat) (a : HartAcc) : RunsSigned s (execHartAccess hart a s) := by
  refine .ite (runsSigned_fault s _) (.ite (runsSigned_of_next rfl rfl) ?_)
  have ht : firm (tryFence s hart) = firm s := firm_tryFence s hart
  cases a with
  | load addr size rd nc lost =>
    exact .ite (runsSigned_of_next rfl ht) ((runsSigned_hartLoad _ hart addr size rd nc lost).congr ht)
  | store addr data nc => exact .ite (runsSigned_of_next rfl ht) ((runsSigned_hartStore _ hart addr data nc).congr ht)
  | fetch addr => exact runsSigned_of_next rfl (by simp)

theorem runsSigned_mbxRow (s : State) (src : Source) (op : Nat) (f : State → State) (hf : ∀ s, Kept (firm s) (firm (f s))) :
    RunsSigned s (mbxRow src op f s) :=
  runsSigned_run _ (.ite (startsSigned_of_firm rfl) (startsSigned_viaReg src _ (kept_mbxGo s src op f hf).startsSigned))

theorem runsSigned_flushReadbackDone (s : State) (index : Nat) : RunsSigned s (execFlushReadbackDone index s) := by
  refine runsSigned_of_run rfl ?_
  dsimp only
  split <;> simp

theorem runsSigned_transferUnreachable (s : State) (index : Nat) : RunsSigned s (execTransferUnreachable index s) := by
  refine runsSigned_of_run rfl ?_
  dsimp only
  split <;> simp

theorem runsSigned_reshardPieceReceive (s : State) (ctx : Nat) (e : PieceEvent) : RunsSigned s (execReshardPieceReceive ctx e s) := by
  refine runsSigned_of_run rfl ?_
  split
  · rfl
  · cases e with
    | piece dev kind cell addr data poison last =>
      dsimp only
      split <;> next h => simp [firm_of_pair h]
    | ack dev =>
      dsimp only
      split <;> simp

theorem runsSigned_dikeTrip (s : State) (sensor : Nat) : RunsSigned s (execDikeTrip sensor s) := by
  refine runsSigned_run _ (Kept.startsSigned ?_)
  rw [firm_ite]
  exact .ite (fun _ => kept_trip s _ _) (by simp)

/-- Every command but ROM_STAGE: those that may drop what runs, those that may start a core image, those whose row is no plain `run` of an
operation, and the rest, whose rows are runs of operations that keep the firmware as it is. -/
theorem runsSigned_exec (c : Instr) (s : State) (hc : ∀ bundles rail, c ≠ .romStage bundles rail) : RunsSigned s (exec c s) := by
  cases c
  case romStage bundles rail => exact absurd rfl (hc bundles rail)
  case pkgRstN => exact runsSigned_next (Kept.startsSigned (by simp))
  case hubFirmwareStage o => exact runsSigned_next (kept_hubStage s o).startsSigned
  case railFailure rail o => exact runsSigned_run _ (kept_railFailure s rail _ _).startsSigned
  case watchdogExpiry => exact runsSigned_next (kept_watchdog s).startsSigned
  case autoWarmEscalation => exact runsSigned_autoWarmEscalation s
  case rstCmdWarm src => exact runsSigned_run _ (startsSigned_viaReg src _ (kept_warmGo s).startsSigned)
  case rstCmdCold src => exact runsSigned_run _ (startsSigned_viaReg src _ (kept_coldGo s src).startsSigned)
  case warmResetDone tests badClusters trained => exact runsSigned_next (kept_warmDone s _ _ badClusters trained).startsSigned
  case debugUnlock src => exact runsSigned_mbxRow s src _ _ kept_mbxUnlock
  case dikeTest src => exact runsSigned_mbxRow s src _ _ kept_mbxDikeTest
  case coreRunGo src => exact runsSigned_run _ (startsSigned_viaReg src _ (startsSigned_coreRun s))
  case hartAccess hart a => exact runsSigned_hartAccess s hart a
  case hiWrite src addr value => exact runsSigned_writeRow s src addr value
  case registerWrite src addr value => exact runsSigned_writeRow s src addr value
  case rcRegisterRead src r => exact runsSigned_readRow s src r.addr r.lost
  case loReadLatch src r => exact runsSigned_readRow s src r.addr r.lost
  case cicadaCheckMarker diffs => exact runsSigned_cicadaCheckMarker s diffs
  case ageingReading needs => exact runsSigned_ageingReading s needs
  case waitEvaluate ctx index => exact runsSigned_waitEvaluate s ctx index
  case operationComplete cell op => exact runsSigned_operationComplete s cell op
  case pset cell op => exact runsSigned_pset s cell op
  case packetReceive p => exact runsSigned_packetReceive s p
  case packetAckReceive packet => exact runsSigned_packetAckReceive s packet
  case staleNackReceive packet => exact runsSigned_staleNackReceive s packet
  case reshardTimeout ctx => exact runsSigned_reshardTimeout s ctx
  case translationWalkDone w => exact runsSigned_translationWalkDone s w
  case flushReadbackDone index => exact runsSigned_flushReadbackDone s index
  case transferUnreachable index => exact runsSigned_transferUnreachable s index
  case reshardPieceReceive ctx e => exact runsSigned_reshardPieceReceive s ctx e
  case dikeTrip sensor => exact runsSigned_dikeTrip s sensor
  case telemetrySample | capLoop | thermalEmergencyEnd | estimatorSuspect | recalibration | guestPower |
      hubFirmwareCheckFail | commitStart | logFlush | powerMinCommit | entropyFail | guestRequest | pdReqN |
      collectiveSegmentReceive | collectiveEnd | collectiveTimeout | invalidationTimeout | homeSweepDone | vectorDeliver |
      cicadaTick | formTimeout | mirrorCopyReceive | mirrorAckReceive | heartbeatSend | missedHeartbeat | heartbeatReceive |
      dieToDieStage | hbmStage | cellDieStage | coreDieStage | hostLinkStage | readyStage | correctedCoalesceEnd |
      teardownDrained | jobAnswerReceive | commitReceive | abortReceive | jobProgress | childLost | orphaned =>
    exact runsSigned_of_next rfl (by simp)
  all_goals exact runsSigned_of_run rfl (by simp)

/-- Settles O59: ROM_STAGE alone starts the hub firmware, and only from a bundle that passes the check of R442; a run of CORE_RUN_CTL alone
starts a core image, and only where the same check passes on the bytes that memory holds; every other command keeps or drops what runs. -/
theorem noFirmwareRunsUnsigned : Obligations.NoFirmwareRunsUnsigned := by
  intro c s t h
  by_cases hc : ∃ bundles rail, c = .romStage bundles rail
  · obtain ⟨bundles, rail, rfl⟩ := hc
    cases h
    rcases firm_romStage s bundles rail with hf | ⟨hf, himg⟩
    · exact ⟨fun ht => .inl ((congrArg Prod.fst hf).symm.trans ht), fun b n hb => .inl ((congrArg Prod.snd hf).symm.trans hb)⟩
    · exact ⟨fun _ => .inr ⟨bundles, rail, rfl, himg⟩, fun b n hb => .inl ((congrArg Prod.snd hf).symm.trans hb)⟩
  · obtain ⟨huds, himg⟩ := runsSigned_exec c s (fun bundles rail h => hc ⟨bundles, rail, h⟩) t h
    exact ⟨fun ht => .inl (huds ht), himg⟩

end Sys2Proof.Machine
end

section
/-!
Register accesses (R6-R8, R497, R499, R500, R505): what a write of a field leaves of the other fields of its word, what a read clears and
latches, which rule a write falls under, the registers of the page header, and O60 from these.
-/

namespace Sys2Proof.Machine

/-! ## Bit fields -/

theorem testBit_bits (n hi lo i : Nat) : (bits n hi lo).testBit i = (decide (i < hi + 1 - lo) && n.testBit (lo + i)) := by
  simp [bits, Nat.testBit_mod_two_pow, Nat.testBit_shiftRight]

theorem bits_lt (n hi lo : Nat) : bits n hi lo < 2 ^ (hi + 1 - lo) := Nat.mod_lt _ (Nat.two_pow_pos _)

theorem bits_eq_zero_iff (n hi lo : Nat) : bits n hi lo = 0 ↔ ∀ i < hi + 1 - lo, n.testBit (lo + i) = false := by
  constructor
  · intro h i hi'
    have hbit : (bits n hi lo).testBit i = false := by simp [h]
    simpa [testBit_bits, hi'] using hbit
  · intro h
    apply Nat.eq_of_testBit_eq
    intro i
    by_cases hi' : i < hi + 1 - lo <;> simp [testBit_bits, hi', h]

/-- A word with a field replaced is the bits above the field, the field's new bits and the bits below it. -/
theorem setBits_eq (n hi lo v : Nat) :
    setBits n hi lo v = 2 ^ lo * (2 ^ (hi + 1 - lo) * (n / 2 ^ lo / 2 ^ (hi + 1 - lo)) + v % 2 ^ (hi + 1 - lo)) + n % 2 ^ lo := by
  have hlow := Nat.div_add_mod n (2 ^ lo)
  have hfield := Nat.div_add_mod (n / 2 ^ lo) (2 ^ (hi + 1 - lo))
  simp only [setBits, bits, Nat.shiftRight_eq_div_pow]
  generalize 2 ^ (hi + 1 - lo) = w at *
  generalize 2 ^ lo = p at *
  generalize n / p = q at *
  generalize q / w = u at *
  generalize q % w = m at *
  generalize n % p = r at *
  subst hfield hlow
  rw [Nat.mul_add, Nat.mul_add, Nat.mul_comm m p, Nat.mul_comm (v % w) p]
  omega

theorem testBit_setBits (n hi lo v i : Nat) :
    (setBits n hi lo v).testBit i = if lo ≤ i ∧ i < hi + 1 then v.testBit (i - lo) else n.testBit i := by
  have hfield : v % 2 ^ (hi + 1 - lo) < 2 ^ (hi + 1 - lo) := Nat.mod_lt _ (Nat.two_pow_pos _)
  have hlow : n % 2 ^ lo < 2 ^ lo := Nat.mod_lt _ (Nat.two_pow_pos _)
  rw [setBits_eq, Nat.testBit_two_pow_mul_add _ hlow, Nat.testBit_two_pow_mul_add _ hfield]
  by_cases hbelow : i < lo
  · rw [if_pos hbelow, if_neg (by omega), Nat.testBit_mod_two_pow, decide_eq_true hbelow, Bool.true_and]
  · rw [if_neg hbelow]
    by_cases hin : i - lo < hi + 1 - lo
    · rw [if_pos hin, if_pos (by omega), Nat.testBit_mod_two_pow, decide_eq_true hin, Bool.true_and]
    · rw [if_neg hin, if_neg (by omega), Nat.testBit_div_two_pow, Nat.testBit_div_two_pow]
      congr 1
      omega

theorem bits_setBits_same (n hi lo v : Nat) : bits (setBits n hi lo v) hi lo = v % 2 ^ (hi + 1 - lo) := by
  apply Nat.eq_of_testBit_eq
  intro i
  rw [testBit_bits, testBit_setBits, Nat.testBit_mod_two_pow]
  by_cases hi' : i < hi + 1 - lo
  · rw [if_pos (by omega), Nat.add_sub_cancel_left]
  · simp [hi']

theorem bits_setBits_apart (n hi lo v hi' lo' : Nat) (h : hi < lo' ∨ hi' < lo) :
    bits (setBits n hi lo v) hi' lo' = bits n hi' lo' := by
  apply Nat.eq_of_testBit_eq
  intro i
  rw [testBit_bits, testBit_bits, testBit_setBits]
  by_cases hi' : i < hi' + 1 - lo'
  · rw [if_neg (by omega)]
  · simp [hi']

/-- Clearing any field leaves a zero field zero. -/
theorem bits_setBits_zero (n hi lo hi' lo' : Nat) (h : bits n hi' lo' = 0) : bits (setBits n hi lo 0) hi' lo' = 0 := by
  rw [bits_eq_zero_iff] at h ⊢
  intro i hi'
  simp [testBit_setBits, h i hi']

theorem bits_mod_zero (n w hi lo : Nat) (h : bits n hi lo = 0) : bits (n % 2 ^ w) hi lo = 0 := by
  rw [bits_eq_zero_iff] at h ⊢
  intro i hi'
  simp [Nat.testBit_mod_two_pow, h i hi']

@[simp] theorem zero_bits (hi lo : Nat) : bits 0 hi lo = 0 := by simp [bits]

/-! ## The fields of a register -/

/-- Two fields of one register share no bit. -/
abbrev FieldsApart (f g : RegField) : Prop := f.hi < g.lo ∨ g.hi < f.lo

/-- No two fields that a page lists at one offset share a bit. -/
theorem fields_pairwise_apart (k : PageKind) : k.fields.Pairwise fun f g => f.off = g.off → FieldsApart f g := by
  cases k <;> decide +kernel

theorem at_pairwise_apart (k : PageKind) (off : Nat) : (k.at_ off).Pairwise FieldsApart := by
  have hrow (f : RegField) : (if off % 4 = 0 then [f] else []).Pairwise FieldsApart := by split <;> simp
  unfold PageKind.at_
  split
  · exact hrow _
  · split
    · exact hrow _
    · refine ((fields_pairwise_apart k).filter fun f => f.off = off).imp_of_mem ?_
      intro f g hf hg hfg
      have hoff (x : RegField) (hx : x ∈ k.fields.filter fun f => f.off = off) : x.off = off :=
        of_decide_eq_true (List.mem_filter.mp hx).2
      exact hfg ((hoff f hf).trans (hoff g hg).symm)

/-- A word after the write of one field, by its access type (R6). -/
def writeField (locked : Bool) (v w : Nat) (f : RegField) : Nat :=
  match f.acc with
  | .rw => setBits w f.hi f.lo (bits v f.hi f.lo)
  | .rwl => if locked then w else setBits w f.hi f.lo (bits v f.hi f.lo)
  | .w1c => setBits w f.hi f.lo (bits w f.hi f.lo &&& (2 ^ (f.hi + 1 - f.lo) - 1 - bits v f.hi f.lo))
  | .w1s | .ro | .wo | .rc => w

/-- A field's value after a write of its register (R6). -/
def fieldAfter (locked : Bool) (old v : Nat) (f : RegField) : Nat :=
  match f.acc with
  | .rw => bits v f.hi f.lo
  | .rwl => if locked then bits old f.hi f.lo else bits v f.hi f.lo
  | .w1c => bits old f.hi f.lo &&& (2 ^ (f.hi + 1 - f.lo) - 1 - bits v f.hi f.lo)
  | .w1s | .ro | .wo | .rc => bits old f.hi f.lo

theorem writeFields_cons (f : RegField) (l : List RegField) (locked : Bool) (old v : Nat) :
    writeFields (f :: l) locked old v = writeFields l locked (writeField locked v old f) v := rfl

theorem bits_writeField_same (locked : Bool) (v w : Nat) (f : RegField) :
    bits (writeField locked v w f) f.hi f.lo = fieldAfter locked w v f := by
  have hfield : bits v f.hi f.lo % 2 ^ (f.hi + 1 - f.lo) = bits v f.hi f.lo := Nat.mod_eq_of_lt (bits_lt ..)
  have hcleared (m : Nat) : (bits w f.hi f.lo &&& m) % 2 ^ (f.hi + 1 - f.lo) = bits w f.hi f.lo &&& m :=
    Nat.mod_eq_of_lt (Nat.lt_of_le_of_lt Nat.and_le_left (bits_lt ..))
  unfold writeField fieldAfter
  cases f.acc with
  | rw => simp only [bits_setBits_same, hfield]
  | rwl => cases locked <;> simp only [bits_setBits_same, hfield, if_true, if_false, Bool.false_eq_true]
  | w1c => simp only [bits_setBits_same, hcleared]
  | w1s | ro | wo | rc => rfl

theorem bits_writeField_apart (locked : Bool) (v w : Nat) {f g : RegField} (h : FieldsApart f g) :
    bits (writeField locked v w f) g.hi g.lo = bits w g.hi g.lo := by
  unfold writeField
  cases f.acc with
  | rw | w1c => exact bits_setBits_apart _ _ _ _ _ _ h
  | rwl => cases locked <;> simp [bits_setBits_apart _ _ _ _ _ _ h]
  | w1s | ro | wo | rc => rfl

theorem bits_writeFields_apart (l : List RegField) (locked : Bool) (old v : Nat) {g : RegField} (h : ∀ f ∈ l, FieldsApart f g) :
    bits (writeFields l locked old v) g.hi g.lo = bits old g.hi g.lo := by
  induction l generalizing old with
  | nil => rfl
  | cons f l ih =>
    rw [writeFields_cons, ih _ fun f' hf' => h f' (List.mem_cons_of_mem _ hf'), bits_writeField_apart _ _ _ (h f List.mem_cons_self)]

/-- A write gives each field what its access type says, where the fields of the register are apart. -/
theorem bits_writeFields (l : List RegField) (hl : l.Pairwise FieldsApart) (locked : Bool) (old v : Nat) {f : RegField} (hf : f ∈ l) :
    bits (writeFields l locked old v) f.hi f.lo = fieldAfter locked old v f := by
  induction l generalizing old with
  | nil => cases hf
  | cons g l ih =>
    obtain ⟨hg, hl⟩ := List.pairwise_cons.mp hl
    rw [writeFields_cons]
    rcases List.mem_cons.mp hf with rfl | hf
    · rw [bits_writeFields_apart l locked _ v fun x hx => (hg x hx).symm, bits_writeField_same]
    · simp only [ih hl _ hf, fieldAfter, bits_writeField_apart locked v old (hg f hf)]

theorem clearRc_cons (f : RegField) (l : List RegField) (w : Nat) :
    clearRc (f :: l) w = clearRc l (if f.acc = .rc then setBits w f.hi f.lo 0 else w) := rfl

theorem bits_clearRc_of_zero (l : List RegField) (w hi lo : Nat) (h : bits w hi lo = 0) : bits (clearRc l w) hi lo = 0 := by
  induction l generalizing w with
  | nil => exact h
  | cons g l ih =>
    rw [clearRc_cons]
    split
    · exact ih _ (bits_setBits_zero _ _ _ _ _ h)
    · exact ih _ h

theorem bits_clearRc (l : List RegField) (w : Nat) {f : RegField} (hf : f ∈ l) (hrc : f.acc = .rc) :
    bits (clearRc l w) f.hi f.lo = 0 := by
  induction l generalizing w with
  | nil => cases hf
  | cons g l ih =>
    rw [clearRc_cons]
    rcases List.mem_cons.mp hf with rfl | hf
    · rw [if_pos hrc]
      exact bits_clearRc_of_zero l _ _ _ (by rw [bits_setBits_same, Nat.zero_mod])
    · exact ih _ hf

/-- A field of a word just written is zero where it is zero in the value. -/
theorem fld_wr_zero (s : State) (i a v hi lo : Nat) (h : bits v hi lo = 0) : fld (wr s i a v) i a hi lo = 0 := by
  rw [fld, rd_wr_same]
  exact bits_mod_zero v 32 hi lo h

/-! ## Reads (R6-R8, R500) -/

/-- The state after the RC fields that a read returned are cleared. -/
def rcCleared (s : State) (a : Nat) : State :=
  if (fieldsAt a).any fun f => f.acc = .rc then wr s (copyAt s a) a (clearRc (fieldsAt a) (rd s (copyAt s a) a)) else s

/-- The table of latched words after a read of `a`: a _LO latches its _HI. -/
def latchAfter (s : State) (src : Source) (a : Nat) : Table Nat :=
  if isLo a then tset (fun _ => 0) s.latch (regKey (srcLatch src) a) (readMask (fieldsAt (a + 4)) (regView s (a + 4))) else s.latch

/-- The state after a read of a register that is no _HI. -/
def afterRead (s : State) (src : Source) (a : Nat) : State :=
  { s with regs := (rcCleared s a).regs, latch := latchAfter s src a, free := if readsFree a then s.free + 1 else s.free }

theorem rcCleared_eq (s : State) (a : Nat) : rcCleared s a = { s with regs := (rcCleared s a).regs } := by
  unfold rcCleared
  split <;> rfl

theorem readReg_hi {s : State} {src : Source} {a : Nat} (h4 : a % 4 = 0) (hm : isMsix a = false) (hb : beyondPage a = false)
    (hl : fieldsAt a ≠ []) (hhi : isHi a = true) : readReg s src a = (s, latched s src (a - 4)) := by
  simp [readReg, h4, hm, hb, hl, hhi]

theorem readReg_plain {s : State} {src : Source} {a : Nat} (h4 : a % 4 = 0) (hm : isMsix a = false) (hb : beyondPage a = false)
    (hl : fieldsAt a ≠ []) (hhi : isHi a = false) (htok : a ≠ hub Pg.ATT Reg.ATT_TOKEN3) :
    readReg s src a = (afterRead s src a, readMask (fieldsAt a) (regView s a)) := by
  have heq : readReg s src a =
      (let t := rcCleared s a
       let t := if isLo a then
           { t with latch := tset (fun _ => 0) t.latch (regKey (srcLatch src) a) (readMask (fieldsAt (a + 4)) (regView s (a + 4))) }
         else t
       (if readsFree a then t.useFree else t, readMask (fieldsAt a) (regView s a))) := by
    simp [readReg, h4, hm, hb, hl, hhi, htok, rcCleared]
  rw [heq, rcCleared_eq]
  simp only [afterRead, latchAfter]
  split <;> split <;> rfl

theorem readRow_ok {s : State} {src : Source} {a : Nat} (h : ReadReaches s src a) :
    readRow src a false s = .next ((readReg s src a).1.emit (.readValue (readReg s src a).2)) := by
  simp [readRow, readAs, h.1, h.2]

/-- A read whose completion is lost leaves the state that the read made, with the loss recorded. -/
theorem readRow_lost {s t : State} {src : Source} {a v : Nat} (h : okSource src = true) (ht : readAs s src a = some (t, v)) :
    readRow src a true s = .next (readLost t src a) := by
  simp [readRow, h, ht]

theorem fld_rcCleared (s : State) (a : Nat) {f : RegField} (hf : f ∈ fieldsAt a) (hrc : f.acc = .rc) :
    fld (rcCleared s a) (copyAt s a) a f.hi f.lo = 0 := by
  have hany : (fieldsAt a).any (fun f => f.acc = .rc) = true := List.any_eq_true.mpr ⟨f, hf, decide_eq_true hrc⟩
  rw [rcCleared, if_pos hany]
  exact fld_wr_zero _ _ _ _ _ _ (bits_clearRc _ _ hf hrc)

theorem rd_rcCleared_other (s : State) (a i b : Nat) (h : regKey i b ≠ regKey (copyAt s a) a) : rd (rcCleared s a) i b = rd s i b := by
  unfold rcCleared
  split
  · exact rd_wr_other _ _ _ _ _ _ h
  · rfl

theorem rd_afterRead (s : State) (src : Source) (a i b : Nat) : rd (afterRead s src a) i b = rd (rcCleared s a) i b :=
  rd_of_regs _ _ _ _ rfl

theorem latched_afterRead (s : State) (src : Source) (a : Nat) (h : isLo a = true) :
    latched (afterRead s src a) src a = readMask (fieldsAt (a + 4)) (regView s (a + 4)) := by
  simp [latched, afterRead, latchAfter, h]

theorem latch_afterRead (s : State) (src : Source) (a : Nat) (h : isLo a = false) : (afterRead s src a).latch = s.latch := by
  simp [afterRead, latchAfter, h]

/-! ## Writes (R6, R499, R500) -/

/-- An aligned, implemented register of a page's block: not of the header, the doorbell pages or the MSI-X table. -/
abbrev BlockReg (a : Nat) : Prop :=
  a % 4 = 0 ∧ isMsix a = false ∧ beyondPage a = false ∧ fieldsAt a ≠ [] ∧ isDoorbell a = false ∧ 0x040 ≤ a % 0x1000

theorem writeRow_ok {s : State} {src : Source} {a : Nat} (h : Reaches s src a) (v : Nat) :
    writeRow src a v s = .next (writeReg s src a v) := by
  simp [writeRow, writeAs, h.1, h.2]

theorem writeReg_misaligned (s : State) (src : Source) (a v : Nat) (h : a % 4 ≠ 0) : writeReg s src a v = synd s src a 0x01 := by
  simp [writeReg, h]

theorem writeReg_beyond (s : State) (src : Source) (a v : Nat) (h4 : a % 4 = 0) (hm : isMsix a = false) (hb : beyondPage a = true) :
    writeReg s src a v = synd s src a 0x03 := by
  simp [writeReg, h4, hm, hb]

theorem writeReg_lo (s : State) (src : Source) {a : Nat} (v : Nat) (h : BlockReg a) (hlo : isLo a = true) :
    writeReg s src a v = holdLo s src a (v % 2 ^ 32) := by
  obtain ⟨h4, hm, hb, hl, hd, hoff⟩ := h
  simp [writeReg, h4, hm, hb, hl, hd, Nat.not_lt.mpr hoff, hlo]

theorem writeReg_hi (s : State) (src : Source) {a : Nat} (v : Nat) (h : BlockReg a) (hlo : isLo a = false) (hhi : isHi a = true) :
    writeReg s src a v = hiWrite s src a (v % 2 ^ 32) := by
  obtain ⟨h4, hm, hb, hl, hd, hoff⟩ := h
  simp [writeReg, h4, hm, hb, hl, hd, Nat.not_lt.mpr hoff, hlo, hhi]

theorem writeReg_plain (s : State) (src : Source) {a : Nat} (v : Nat) (h : BlockReg a) (hlo : isLo a = false) (hhi : isHi a = false)
    {k : PageKind} (hk : kindAt a = some k) (hown : ownWrite s src k (a % 0x1000) (rd s (copyAt s a) a) (v % 2 ^ 32) = none) :
    writeReg s src a v = effectAt (fieldWrite s src a (v % 2 ^ 32)) src a (rd s (copyAt s a) a) (v % 2 ^ 32) := by
  obtain ⟨h4, hm, hb, hl, hd, hoff⟩ := h
  have hown' : ownWrite s src k (a % 4096) (rd s (copyAt s a) a) (v % 4294967296) = none := hown
  simp [writeReg, h4, hm, hb, hl, hd, Nat.not_lt.mpr hoff, hlo, hhi, hk, hown']

theorem fieldWrite_of_unchanged (s : State) (src : Source) (a v : Nat)
    (h : changesLocked (fieldsAt a) (pageLocked s a) (rd s (copyAt s a) a) v = false) :
    fieldWrite s src a v = wr s (copyAt s a) a (writeFields (fieldsAt a) (pageLocked s a) (rd s (copyAt s a) a) v) := by
  simp [fieldWrite, h]

theorem fieldWrite_unlocked (s : State) (src : Source) (a v : Nat) (h : pageLocked s a = false) :
    fieldWrite s src a v = wr s (copyAt s a) a (writeFields (fieldsAt a) false (rd s (copyAt s a) a) v) := by
  rw [fieldWrite_of_unchanged s src a v (by simp [changesLocked, h]), h]

/-! The pair CORE_IMG_BASE. -/

theorem blockReg_coreImgBaseHi : BlockReg (coreReg Reg.CORE_IMG_BASE_HI) := by decide

theorem isHi_coreImgBaseHi : isHi (coreReg Reg.CORE_IMG_BASE_HI) = true := by decide

theorem isLo_coreImgBaseHi : isLo (coreReg Reg.CORE_IMG_BASE_HI) = false := by decide

/-- A value written to a register of the core page that has one copy and that no lock holds. -/
def putCore (s : State) (a v : Nat) : State := wr s 0 a (writeFields (PageKind.core.at_ (a % 0x1000)) false (rd s 0 a) v)

theorem fieldWrite_core (s : State) (src : Source) (off v : Nat) (h : pageLocked s (coreReg off) = false)
    (hk : kindAt (coreReg off) = some .core) (hcopy : copyAt s (coreReg off) = 0) :
    fieldWrite s src (coreReg off) v = putCore s (coreReg off) v := by
  have hfields : fieldsAt (coreReg off) = PageKind.core.at_ (coreReg off % 0x1000) := by simp only [fieldsAt, hk]
  rw [fieldWrite_unlocked s src _ v h, hcopy, hfields, putCore]

/-- A write of CORE_IMG_BASE_HI writes the held _LO, if any, and then _HI, and starts nothing. -/
theorem hiWrite_coreImgBase (s : State) (src : Source) (v : Nat) :
    hiWrite s src (coreReg Reg.CORE_IMG_BASE_HI) v =
      fieldWrite (match heldLoOf s src (coreReg Reg.CORE_IMG_BASE_LO) with
        | some lo => fieldWrite (dropHeldLo s src (coreReg Reg.CORE_IMG_BASE_LO)) src (coreReg Reg.CORE_IMG_BASE_LO) lo
        | none => s) src (coreReg Reg.CORE_IMG_BASE_HI) v := rfl

theorem pageLocked_wr_of_ne (s : State) (i a v b : Nat) (h : regKey 0 (pageBase b + Reg.PG_LOCK) ≠ regKey i a) :
    pageLocked (wr s i a v) b = pageLocked s b := by
  rw [pageLocked, pageLocked, rd_wr_other _ _ _ _ _ _ h]

/-! ## The page header (R497, R505) -/

theorem intBits_le (k : PageKind) : k.intBits ≤ 32 := by cases k <;> decide

theorem intBitsAt_le (base : Nat) : intBitsAt base ≤ 32 := by
  unfold intBitsAt
  split
  · exact intBits_le _
  · split
    · exact Nat.min_le_left ..
    · exact Nat.zero_le _

theorem intMask_lt (base v : Nat) : intMask base v < 2 ^ 32 :=
  Nat.lt_of_lt_of_le (Nat.mod_lt _ (Nat.two_pow_pos _)) (Nat.pow_le_pow_right (by decide) (intBitsAt_le base))

theorem pageBase_pageAt (page : Nat) : pageBase (pageAt page) = pageAt page := by
  simp only [pageBase, pageAt]
  omega

theorem intPend_sendPageVector (s : State) (base : Nat) : intPend (sendPageVector s base) base = intPend s base := by
  simp only [intPend, sendPageVector_rd]

theorem intPend_vectorAgain (s : State) (base : Nat) : intPend (vectorAgain s base) base = intPend s base := by
  unfold vectorAgain
  split
  · rfl
  · exact intPend_sendPageVector s base

theorem rd_vectorAgain (s : State) (base i a : Nat) : rd (vectorAgain s base) i a = rd s i a := by
  unfold vectorAgain
  split
  · rfl
  · exact sendPageVector_rd s base i a

theorem regsOnly_vectorAgain (s : State) (base : Nat) : RegsOnly s (vectorAgain s base) := by
  unfold vectorAgain
  exact .of_ite (.refl s) (regsOnly_sendPageVector s base)

theorem vectorAgain_host (s : State) (base : Nat) (h : intPend s base = 0) : (vectorAgain s base).host = s.host := by
  rw [vectorAgain, if_pos h]

/-- What changes registers and vectors only changes registers and the host's side only. -/
theorem RegsOnly.regs_host {s t : State} (h : RegsOnly s t) : t = { s with regs := t.regs, host := t.host } := by
  unfold RegsOnly at h
  rw [h]

theorem rd_intSetWrite (s : State) (base v : Nat) :
    rd (intSetWrite s base v) 0 (base + Reg.PG_INT_RAW) = rd s 0 (base + Reg.PG_INT_RAW) ||| intMask base v := by
  rw [intSetWrite, rd_raiseBits, if_pos rfl]
  exact Nat.mod_eq_of_lt (Nat.or_lt_two_pow (rd_lt ..) (intMask_lt ..))

/-- The vector goes out only where PG_INT_PEND changes from zero. -/
theorem intSetWrite_host (s : State) (base v : Nat) (h : intPend s base ≠ 0 ∨ intPend (intSetWrite s base v) base = 0) :
    (intSetWrite s base v).host = s.host := by
  simp only [intSetWrite, raiseBits] at h ⊢
  split at h
  next hsent =>
    rw [intPend_sendPageVector] at h
    exact absurd h (by simp [hsent])
  next hquiet => rw [if_neg hquiet]; rfl

theorem rd_intRawWrite (s : State) (base v : Nat) :
    rd (intRawWrite s base v) 0 (base + Reg.PG_INT_RAW) = rd s 0 (base + Reg.PG_INT_RAW) &&& (2 ^ 32 - 1 - intMask base v) := by
  simp only [intRawWrite, rd_vectorAgain, rd_wr_same]
  exact Nat.mod_eq_of_lt (Nat.lt_of_le_of_lt Nat.and_le_left (rd_lt ..))

theorem intRawWrite_host (s : State) (base v : Nat) (h : intPend (intRawWrite s base v) base = 0) : (intRawWrite s base v).host = s.host :=
  vectorAgain_host _ base ((intPend_vectorAgain ..).symm.trans h)

theorem rd_intEnWrite (s : State) (base v : Nat) : rd (intEnWrite s base v) 0 (base + Reg.PG_INT_EN) = intMask base v := by
  rw [intEnWrite, rd_vectorAgain, rd_wr_same]
  exact Nat.mod_eq_of_lt (intMask_lt ..)

theorem rd_intEnWrite_raw (s : State) (base v : Nat) :
    rd (intEnWrite s base v) 0 (base + Reg.PG_INT_RAW) = rd s 0 (base + Reg.PG_INT_RAW) := by
  have hkey : regKey 0 (base + Reg.PG_INT_RAW) ≠ regKey 0 (base + Reg.PG_INT_EN) := by
    simp only [regKey, Reg.PG_INT_RAW, Reg.PG_INT_EN]
    omega
  rw [intEnWrite, rd_vectorAgain, rd_wr_other _ _ _ _ _ _ hkey]

theorem intEnWrite_host (s : State) (base v : Nat) (h : intPend (intEnWrite s base v) base = 0) : (intEnWrite s base v).host = s.host :=
  vectorAgain_host _ base ((intPend_vectorAgain ..).symm.trans h)

theorem regsOnly_intRawWrite (s : State) (base v : Nat) : RegsOnly s (intRawWrite s base v) :=
  (regsOnly_wr s 0 _ _).trans (regsOnly_vectorAgain _ base)

theorem regsOnly_intEnWrite (s : State) (base v : Nat) : RegsOnly s (intEnWrite s base v) :=
  (regsOnly_wr s 0 _ _).trans (regsOnly_vectorAgain _ base)

theorem lockWrite_one (s : State) (base : Nat) : lockWrite s base 1 = setFld s 0 (base + Reg.PG_LOCK) 0 0 1 := rfl

theorem pageLocked_lockWrite (s : State) (page : Nat) : pageLocked (lockWrite s (pageAt page) 1) (pageAt page) = true := by
  have hbit (n : Nat) : (setBits n 0 0 1 % 2 ^ 32).testBit 0 = true := by
    rw [Nat.testBit_mod_two_pow, testBit_setBits]
    rfl
  rw [pageLocked, pageBase_pageAt, lockWrite_one, setFld, rd_wr_same]
  simpa [bit, Nat.testBit_zero] using hbit (rd s 0 (pageAt page + Reg.PG_LOCK))

/-! ## CNT_CLEAR -/

/-- The state with the counters at one offset of a page zero. -/
def counterCleared (k : PageKind) (base : Nat) (s : State) (off : Nat) : State :=
  wr s 0 (base + off) (if (k.at_ off).any fun f => f.acc = .rc then clearRc (k.at_ off) (rd s 0 (base + off)) else 0)

theorem cntClear_eq (s : State) {base : Nat} {k : PageKind} (h : kindAt base = some k) :
    cntClear s base = (counterOffs k).foldl (counterCleared k base) s := by
  simp only [cntClear, h]
  rfl

/-- A field that CNT_CLEAR zeroes: of a register without RC fields, or an RC field itself. -/
abbrev CounterField (k : PageKind) (off : Nat) (f : RegField) : Prop :=
  f ∈ k.at_ off ∧ ((∀ g ∈ k.at_ off, g.acc ≠ .rc) ∨ f.acc = .rc)

theorem fld_counterCleared (k : PageKind) (base : Nat) (s : State) (off : Nat) {f : RegField} (hf : CounterField k off f) :
    fld (counterCleared k base s off) 0 (base + off) f.hi f.lo = 0 := by
  obtain ⟨hf, hcnt⟩ := hf
  apply fld_wr_zero
  split
  next hany =>
    obtain ⟨g, hg, hgrc⟩ := List.any_eq_true.mp hany
    rcases hcnt with hnone | hrc
    · exact absurd (of_decide_eq_true hgrc) (hnone g hg)
    · exact bits_clearRc _ _ hf hrc
  next => exact zero_bits ..

/-- A counter that is zero stays zero when another, or the same, is cleared. -/
theorem fld_counterCleared_of_zero (k : PageKind) (base : Nat) (s : State) (off off' : Nat) {f : RegField} (hf : CounterField k off f)
    (h : fld s 0 (base + off) f.hi f.lo = 0) : fld (counterCleared k base s off') 0 (base + off) f.hi f.lo = 0 := by
  by_cases heq : off' = off
  · subst heq
    exact fld_counterCleared k base s off' hf
  · rw [counterCleared, fld, rd_wr_other]
    · exact h
    · simp only [regKey]
      omega

theorem fld_countersCleared_of_zero (k : PageKind) (base : Nat) (l : List Nat) (s : State) (off : Nat) {f : RegField}
    (hf : CounterField k off f) (h : fld s 0 (base + off) f.hi f.lo = 0) :
    fld (l.foldl (counterCleared k base) s) 0 (base + off) f.hi f.lo = 0 := by
  induction l generalizing s with
  | nil => exact h
  | cons off' l ih => exact ih _ (fld_counterCleared_of_zero k base s off off' hf h)

theorem fld_countersCleared (k : PageKind) (base : Nat) (l : List Nat) (s : State) {off : Nat} {f : RegField} (hoff : off ∈ l)
    (hf : CounterField k off f) : fld (l.foldl (counterCleared k base) s) 0 (base + off) f.hi f.lo = 0 := by
  induction l generalizing s with
  | nil => cases hoff
  | cons off' l ih =>
    rcases List.mem_cons.mp hoff with rfl | hoff
    · exact fld_countersCleared_of_zero k base l _ off hf (fld_counterCleared k base s off hf)
    · exact ih _ hoff

theorem rd_countersCleared_other (k : PageKind) (base : Nat) (l : List Nat) (s : State) (i b : Nat)
    (h : ∀ off ∈ l, regKey i b ≠ regKey 0 (base + off)) : rd (l.foldl (counterCleared k base) s) i b = rd s i b := by
  induction l generalizing s with
  | nil => rfl
  | cons off l ih =>
    rw [List.foldl_cons, ih _ fun o ho => h o (List.mem_cons_of_mem _ ho), counterCleared, rd_wr_other _ _ _ _ _ _ (h off List.mem_cons_self)]

theorem countersCleared_regs (k : PageKind) (base : Nat) (l : List Nat) (s : State) :
    l.foldl (counterCleared k base) s = { s with regs := (l.foldl (counterCleared k base) s).regs } := by
  induction l generalizing s with
  | nil => rfl
  | cons off l ih =>
    rw [List.foldl_cons, ih]
    rfl

/-! ## The parts of O60 -/

/-- A read of a _HI returns what its reader latched. -/
theorem exec_read_hi {s : State} {src : Source} {a : Nat} (h : ReadReaches s src a) (h4 : a % 4 = 0) (hm : isMsix a = false)
    (hb : beyondPage a = false) (hl : fieldsAt a ≠ []) (hhi : isHi a = true) :
    readRow src a false s = .next (s.emit (.readValue (latched s src (a - 4)))) := by
  rw [readRow_ok h, readReg_hi h4 hm hb hl hhi]

theorem exec_read_plain {s : State} {src : Source} {a : Nat} (h : ReadReaches s src a) (h4 : a % 4 = 0) (hm : isMsix a = false)
    (hb : beyondPage a = false) (hl : fieldsAt a ≠ []) (hhi : isHi a = false) (htok : a ≠ hub Pg.ATT Reg.ATT_TOKEN3) :
    readRow src a false s = .next ((afterRead s src a).emit (.readValue (readMask (fieldsAt a) (regView s a)))) := by
  rw [readRow_ok h, readReg_plain h4 hm hb hl hhi htok]

/-- CORE_IMG_BASE written as a pair: the held _LO with _HI, or _HI alone. -/
theorem exec_hiWrite_coreImgBase {s : State} {src : Source} (v : Nat) (h : Reaches s src (coreReg Reg.CORE_IMG_BASE_HI)) :
    exec (.hiWrite src (coreReg Reg.CORE_IMG_BASE_HI) v) s =
      .next (hiWrite s src (coreReg Reg.CORE_IMG_BASE_HI) (v % 2 ^ 32)) := by
  rw [← writeReg_hi s src v blockReg_coreImgBaseHi isLo_coreImgBaseHi isHi_coreImgBaseHi]
  exact writeRow_ok h v

theorem hiWrite_coreImgBase_held {s : State} {src : Source} {w : Nat} (v : Nat)
    (hlock : pageLocked s (coreReg Reg.CORE_IMG_BASE_HI) = false) (hw : heldLoOf s src (coreReg Reg.CORE_IMG_BASE_LO) = some w) :
    hiWrite s src (coreReg Reg.CORE_IMG_BASE_HI) v =
      putCore (putCore (dropHeldLo s src (coreReg Reg.CORE_IMG_BASE_LO)) (coreReg Reg.CORE_IMG_BASE_LO) w)
        (coreReg Reg.CORE_IMG_BASE_HI) v := by
  have hlo : fieldWrite (dropHeldLo s src (coreReg Reg.CORE_IMG_BASE_LO)) src (coreReg Reg.CORE_IMG_BASE_LO) w =
      putCore (dropHeldLo s src (coreReg Reg.CORE_IMG_BASE_LO)) (coreReg Reg.CORE_IMG_BASE_LO) w :=
    fieldWrite_core _ src _ w hlock rfl rfl
  rw [hiWrite_coreImgBase, hw]
  refine (congrArg (fun t => fieldWrite t src _ v) hlo).trans (fieldWrite_core _ src _ v ?_ rfl rfl)
  rw [putCore, pageLocked_wr_of_ne _ _ _ _ _ (by decide)]
  exact hlock

theorem hiWrite_coreImgBase_alone {s : State} {src : Source} (v : Nat)
    (hlock : pageLocked s (coreReg Reg.CORE_IMG_BASE_HI) = false) (hw : heldLoOf s src (coreReg Reg.CORE_IMG_BASE_LO) = none) :
    hiWrite s src (coreReg Reg.CORE_IMG_BASE_HI) v = putCore s (coreReg Reg.CORE_IMG_BASE_HI) v := by
  rw [hiWrite_coreImgBase, hw]
  exact fieldWrite_core s src _ v hlock rfl rfl

/-- Settles O60: a read returns `readMask` of the view and leaves `afterRead`; each write falls under one rule of `writeReg`, whose fields
are apart; the header's registers and CNT_CLEAR do to their words what their lemmas say. -/
theorem registerAccesses : Obligations.RegisterAccesses := by
  refine ⟨?reads, ?lost, ?lostRecord, ?writes, ?fields, ?pair, ?page, ?ring⟩
  case reads =>
    intro s src a hr h4 hm hb hl
    refine ⟨fun hhi => ?_, fun hhi htok => ?_⟩
    · exact ⟨exec_read_hi hr h4 hm hb hl hhi, exec_read_hi hr h4 hm hb hl hhi⟩
    · have hread := exec_read_plain hr h4 hm hb hl hhi htok
      refine ⟨_, hread, hread, rfl, rfl, fun f hf hrc => ?_, fun i b hib => ?_, latched_afterRead s src a, latch_afterRead s src a⟩
      · exact fld_rcCleared s a hf hrc
      · exact rd_rcCleared_other s a i b hib
  case lost => exact fun s t src a v hr ht => ⟨readRow_lost hr.1 ht, readRow_lost hr.1 ht⟩
  case lostRecord => exact fun t p h a => ⟨rfl, rfl⟩
  case writes =>
    intro s src a v hr
    refine ⟨fun h4 => ?_, fun h4 hm hb => ?_, fun h4 hm hb hl hd hoff hlo => ?_, fun k h4 hm hb hl hd hoff hlo hhi hk hown => ⟨?_, ?_⟩⟩
    · exact (writeRow_ok hr v).trans (congrArg _ (writeReg_misaligned s src a v h4))
    · exact (writeRow_ok hr v).trans (congrArg _ (writeReg_beyond s src a v h4 hm hb))
    · refine (writeRow_ok hr v).trans (congrArg _ ((writeReg_lo s src v ⟨h4, hm, hb, hl, hd, hoff⟩ hlo).trans ?_))
      rw [holdLo, Nat.mod_mod]
    · exact (writeRow_ok hr v).trans (congrArg _ (writeReg_plain s src v ⟨h4, hm, hb, hl, hd, hoff⟩ hlo hhi hk hown))
    · exact fieldWrite_of_unchanged s src a _
  case fields => exact fun k off locked old v f hf => bits_writeFields _ (at_pairwise_apart k off) locked old v hf
  case pair =>
    intro s src v lo hi put hr hlock
    refine ⟨fun w hw => ?_, fun hw => ?_⟩
    · exact (exec_hiWrite_coreImgBase v hr).trans (congrArg _ (hiWrite_coreImgBase_held _ hlock hw))
    · exact (exec_hiWrite_coreImgBase v hr).trans (congrArg _ (hiWrite_coreImgBase_alone _ hlock hw))
  case page =>
    intro s src page v hpage base
    refine ⟨fun hr => ?_, fun hr => ?_, fun hr => ?_, fun hr => ?_, fun k hr hk => ?_⟩
    · exact ⟨_, run_viaReg_and hr hpage _, rd_intSetWrite s base v, (regsOnly_raiseBits s base _).regs_host, intSetWrite_host s base v⟩
    · exact ⟨_, run_viaReg_and hr hpage _, rd_intRawWrite s base v, (regsOnly_intRawWrite s base v).regs_host, intRawWrite_host s base v⟩
    · exact ⟨_, run_viaReg_and hr hpage _, rd_intEnWrite s base v, rd_intEnWrite_raw s base v,
        (regsOnly_intEnWrite s base v).regs_host, intEnWrite_host s base v⟩
    · exact ⟨_, run_viaReg_and hr hpage _, pageLocked_lockWrite s page, rfl, fun i b hib => rd_wr_other _ _ _ _ _ _ hib⟩
    · refine ⟨_, (run_viaReg_and hr hpage _).trans (congrArg _ (cntClear_eq s hk)), countersCleared_regs k base _ s, ?_, ?_⟩
      · exact fun off hoff f hf hcnt => fld_countersCleared k base _ s hoff ⟨hf, hcnt⟩
      · exact fun i b hib => rd_countersCleared_other k base _ s i b hib
  case ring =>
    intro s src v hr old room step
    refine ⟨fun hpos hle => ?_, fun hout => ?_⟩
    · exact (run_viaReg hr _).trans (congrArg _ (if_pos ⟨hpos, hle⟩))
    · exact (run_viaReg hr _).trans (congrArg _ (if_neg fun h => by omega))

end Sys2Proof.Machine
end

section
/-!
What the operations of a cell's engines share (R55, R57): a row acts on the operation that `Runs` finds, its results stand in the cell's
own contents with the operation carried out, and its counters change register words only.
-/

namespace Sys2Proof.Machine

/-! ## A key written twice -/

theorem tdel_of_absent {α : Type} {m : Table α} {k : Nat} (h : ∀ p ∈ m, p.1 ≠ k) : tdel m k = m :=
  List.filter_eq_self.mpr fun p hp => by simp [h p hp]

theorem tdel_cons_of_ne {α : Type} {p : Nat × α} {k : Nat} (h : p.1 ≠ k) (m : Table α) : tdel (p :: m) k = p :: tdel m k := by
  simp [tdel, h]

theorem tdel_tins {α : Type} {m : Table α} {k : Nat} (v : α) (h : ∀ p ∈ m, p.1 ≠ k) : tdel (tins m k v) k = m := by
  induction m with
  | nil => simp [tins, tdel]
  | cons p m ih =>
    have hm : ∀ q ∈ m, q.1 ≠ k := fun q hq => h q (List.mem_cons_of_mem _ hq)
    have hp : p.1 ≠ k := h p List.mem_cons_self
    rw [tins]
    split
    · rw [tdel_cons_of_ne hp, ih hm]
    · rw [tdel, List.filter_cons_of_neg (by simp)]
      exact tdel_of_absent h

/-- The second of two writes of one key stands alone. -/
theorem tset_tset {α : Type} [DecidableEq α] (d : Nat → α) (m : Table α) (k : Nat) (v w : α) :
    tset d (tset d m k v) k w = tset d m k w := by
  have hdel : tdel (tset d m k v) k = tdel m k := by
    rw [tset]
    split
    · exact tdel_of_absent (tdel_ne m k)
    · exact tdel_tins v (tdel_ne m k)
  rw [tset, hdel, tset]

theorem setCell_setCell (s : State) (c : Nat) (x y : Cell) : (s.setCell c x).setCell c y = s.setCell c y := by
  simp only [State.setCell, tset_tset]

/-! ## The operation that a row acts on -/

section
variable {s : State} {cell op code ctx : Nat} {o : Op}

theorem Runs.id_eq (h : Runs s cell op code ctx o) : o.id = op := by
  obtain ⟨_, _, _, _, hfind, _⟩ := h
  have hp := List.find?_some hfind
  simp only [Bool.and_eq_true, decide_eq_true_eq] at hp
  exact hp.1.1

theorem Runs.opc_eq (h : Runs s cell op code ctx o) : opc o.raw = code := by
  obtain ⟨_, _, _, _, hfind, _⟩ := h
  have hp := List.find?_some hfind
  simp only [Bool.and_eq_true, beq_iff_eq] at hp
  exact hp.1.2

theorem Runs.placeOf_eq (h : Runs s cell op code ctx o) : placeOf s cell ctx = some .cell := by
  obtain ⟨_, hrunner, hsaved, _, _, _⟩ := h
  have hrec : (s.cell cell).saved.map Prod.fst ≠ some ctx := by
    cases hx : (s.cell cell).saved with
    | none => simp
    | some p => simpa using hsaved p hx
  simp [placeOf, hrec, hrunner]

theorem Runs.opRow_eq (h : Runs s cell op code ctx o) (f : State → Nat → CellImg → Op → State) :
    opRow cell op code f s = .next (f s ctx (s.cell cell).img o) := by
  obtain ⟨hcell, hrunner, _, hclock, hfind, hfront⟩ := h
  have hrun : runOp s cell op code f = f s ctx (s.cell cell).img o := by
    simp only [runOp, hrunner, hclock, hfind, hfront, Option.filter_some, Bool.not_false, Bool.false_eq_true, if_true, if_false]
  rw [opRow, hrun]
  exact run_ok (decide_eq_true hcell) _

/-- An engine's row acts in a cell that is not being spilled (R70). -/
theorem Runs.engineRow_eq (h : Runs s cell op code ctx o) (hm : (s.cell cell).move = .steady)
    (f : State → Nat → CellImg → Op → State) : engineRow cell op code f s = .next (f s ctx (s.cell cell).img o) := by
  rw [engineRow, h.opRow_eq, if_pos hm]

end

/-! ## Results in a cell's contents -/

section
variable {s : State} {cell ctx : Nat} (h : placeOf s cell ctx = some .cell)
include h

theorem imgOf_of_place : imgOf s cell ctx = some (s.cell cell).img := by simp only [imgOf, h]

theorem setImg_of_place (i : CellImg) : setImg s cell ctx i = withImg s cell i := by simp only [setImg, h, withImg]

theorem mapOp_of_place (op : Nat) (f : Op → Op) :
    mapOp s cell ctx op f =
      withImg s cell { (s.cell cell).img with ops := (s.cell cell).img.ops.map fun x => if x.id = op then f x else x } := by
  simp only [mapOp, imgOf_of_place h, setImg_of_place h]

theorem opWrites_of_place (o : Op) (i : CellImg) : opWrites s cell ctx o i = withImg s cell (carriedOut i o.id) := by
  have himg : imgOf (withImg s cell i) cell ctx = some i := by
    rw [← setImg_of_place h]
    exact imgOf_setImg s cell ctx i (by simp [h])
  have hplace : placeOf (withImg s cell i) cell ctx = some .cell := by
    rw [← setImg_of_place h, placeOf_setImg, h]
  rw [opWrites, setImg_of_place h, doneOp, mapOp, himg]
  simp only [setImg_of_place hplace]
  simp only [withImg, cell_setCell, if_true, setCell_setCell, carriedOut]

end

theorem Runs.opWrites_eq {s : State} {cell op code ctx : Nat} {o : Op} (h : Runs s cell op code ctx o) (i : CellImg) :
    opWrites s cell ctx o i = withImg s cell (carriedOut i op) := by
  rw [opWrites_of_place h.placeOf_eq, h.id_eq]

/-! ## The fields of a payload -/

/-- The upper part of a field. -/
theorem dfield_div (raw off hi lo k : Nat) (hk : lo + k ≤ hi + 1) :
    dfield raw off hi (lo + k) = dfield raw off hi lo / 2 ^ k := by
  apply Nat.eq_of_testBit_eq
  intro i
  simp only [dfield, Nat.testBit_div_two_pow, testBit_bits]
  by_cases hi' : i + k < 8 * off + hi + 1 - (8 * off + lo)
  · rw [decide_eq_true hi', decide_eq_true (by omega)]
    congr 2
    omega
  · rw [decide_eq_false hi', decide_eq_false (by omega)]
    simp only [Bool.false_and]

/-- The lower part of a field. -/
theorem dfield_mod (raw off hi lo hi' : Nat) (h : hi' ≤ hi) : dfield raw off hi' lo = dfield raw off hi lo % 2 ^ (hi' + 1 - lo) := by
  apply Nat.eq_of_testBit_eq
  intro i
  simp only [dfield, Nat.testBit_mod_two_pow, testBit_bits]
  by_cases hin : i < hi' + 1 - lo
  · rw [decide_eq_true (show i < 8 * off + hi' + 1 - (8 * off + lo) by omega),
      decide_eq_true (show i < 8 * off + hi + 1 - (8 * off + lo) by omega), decide_eq_true hin]
    simp only [Bool.true_and]
  · rw [decide_eq_false (show ¬ i < 8 * off + hi' + 1 - (8 * off + lo) by omega), decide_eq_false hin]
    simp only [Bool.false_and]

end Sys2Proof.Machine
end

section
/-!
MOVE and the stream operations (R96, R97, R187, R188, R195): what each does on each of its ways, and O34 from these.
-/

namespace Sys2Proof.Machine

/-! ## MOVE (R87, R96) -/

/-- The formats that a MOVE converts from and to (R96). -/
def moveSrc (raw : Nat) : Nat := dfield raw 0x28 7 0 / 16
def moveDst (raw : Nat) : Nat := dfield raw 0x28 7 0 % 16

theorem moveSrc_eq (raw : Nat) : dfield raw 0x28 7 4 = moveSrc raw := dfield_div raw 0x28 7 0 4 (by decide)

theorem moveDst_eq (raw : Nat) : dfield raw 0x28 3 0 = moveDst raw := dfield_mod raw 0x28 7 0 3 (by decide)

theorem moveIllegal_copy {raw : Nat} (h : moveSrc raw = moveDst raw) : moveIllegal raw = false := by
  simp [moveIllegal, moveSrc_eq, moveDst_eq, h]

/-- A conversion is illegal where R96 has no such source or no such destination. -/
theorem moveIllegal_convert {raw : Nat} (h : moveSrc raw ≠ moveDst raw) :
    moveIllegal raw = true ↔ moveSrc raw = 0 ∨ 11 < moveSrc raw ∨ moveDst raw < 5 ∨ 11 < moveDst raw := by
  simp [moveIllegal, moveSrc_eq, moveDst_eq, h, or_assoc]

/-- A MOVE decodes through tables where it converts a grouped format. -/
theorem readsBooks_move {raw : Nat} (h : opc raw = 0x10) :
    readsBooks raw = (fmtGrouped (moveSrc raw) && moveSrc raw != moveDst raw) := by
  have hop : bits raw 31 24 = 0x10 := h
  have hsrc : bits raw 327 324 = moveSrc raw := moveSrc_eq raw
  have hdst : bits raw 323 320 = moveDst raw := moveDst_eq raw
  simp [readsBooks, hop, hsrc, hdst]

section
variable {cell ctx : Nat} {s : State} {i : CellImg} {o : Op}

/-- A MOVE's one input and one output are bound. -/
abbrev MoveBound (o : Op) : Prop := (o.inAt 0).isSome = true ∧ (o.outAt 0).isSome = true ∧ (o.outAt 1).isNone = true

/-- The bytes that a MOVE of plain elements writes: the slots at IN0, or each of their elements converted. -/
def movedData (i : CellImg) (o : Op) : List Byte :=
  let r := i.inRun o 0
  if moveSrc o.raw = moveDst o.raw then r.bytes i.sram r.len
  else (List.range (r.len * 8 / fmtBits (moveSrc o.raw))).flatMap fun e =>
    leBytes (fmtBits (moveDst o.raw) / 8)
      (convertTo (moveDst o.raw) false (decodeElem (moveSrc o.raw) (elemCode i.sram r 0 (moveSrc o.raw) e))).code

/-- The bytes that OUT0 must have room for. -/
def movedBytes (i : CellImg) (o : Op) : Nat :=
  if moveSrc o.raw = moveDst o.raw then (i.inRun o 0).len
  else (i.inRun o 0).len * 8 / fmtBits (moveSrc o.raw) * (fmtBits (moveDst o.raw) / 8)

theorem moveOp_waits (hr : readsBooks o.raw = true) (hc : cbSetAhead i o = true) : moveOp cell s ctx i o = s :=
  if_pos ⟨hr, hc⟩

theorem moveOp_illegal (hw : readsBooks o.raw = false ∨ cbSetAhead i o = false) (hill : moveIllegal o.raw = true) :
    moveOp cell s ctx i o = opFault s cell o CellFault.ILLEGAL_OP := by
  rw [moveOp, if_neg (by rintro ⟨hr, hc⟩; simp [hr, hc] at hw), if_pos hill]

/-- A MOVE that copies, or converts a format whose elements stand by themselves, writes all that it has or faults. -/
theorem moveOp_plain (hop : opc o.raw = 0x10) (hill : moveIllegal o.raw = false) (hb : MoveBound o)
    (hplain : moveSrc o.raw = moveDst o.raw ∨ fmtGrouped (moveSrc o.raw) = false) :
    moveOp cell s ctx i o =
      if (i.outRun o 0).len < movedBytes i o then opFault s cell o CellFault.BAD_BINDING
      else if i.runPoisoned (i.inRun o 0) (i.inRun o 0).len then opFault s cell o CellFault.SRAM_UNCORRECTED
      else opWrites s cell ctx o (i.storeRun (i.outRun o 0) 0 (movedData i o)) := by
  obtain ⟨hin, hout, hout1⟩ := hb
  obtain ⟨b, hin⟩ := Option.isSome_iff_exists.mp hin
  obtain ⟨c, hout⟩ := Option.isSome_iff_exists.mp hout
  rw [Option.isNone_iff_eq_none] at hout1
  have hbooks : readsBooks o.raw = false := by
    rcases hplain with heq | hg <;> simp [readsBooks_move hop, *]
  simp only [moveOp, movedBytes, movedData, moveSrc, moveDst] at hplain ⊢
  by_cases heq : dfield o.raw 0x28 7 0 / 16 = dfield o.raw 0x28 7 0 % 16
  · simp [hbooks, hill, hin, hout, hout1, heq, movePieces, CellImg.runPoisoned]
  · have hg := hplain.resolve_left heq
    simp [hbooks, hill, hin, hout, hout1, heq, hg, movePieces, moveConvert, CellImg.runPoisoned]

end

/-! ## The stream operations (R187, R188, R195) -/

section
variable {cell ctx : Nat} {s : State} {i : CellImg} {o : Op}

/-- A hand-over joins its stream behind the others, and starts where the stream has come to (R183). -/
theorem handOver_one (x : Stream) (h : Hand) :
    x.handOver [h] = { x with hands := x.hands ++ [{ h with start := x.handed }], handed := x.handed + h.units } := rfl

theorem stream_mapOp (s : State) (cell ctx op : Nat) (f : Op → Op) (j : Nat) : (mapOp s cell ctx op f).stream j = s.stream j := by
  rw [cellsOnly_mapOp s cell ctx op f]
  rfl

/-- The stream that a SEND or an XFER names. -/
def opStream (o : Op) : Nat := dfield o.raw 0x28 31 0 % 2 ^ 18

/-- The hand-over that a SEND of the slots of binding `b` makes. -/
def sendHandOf (cell : Nat) (i : CellImg) (op : Nat) (b : Bind) : Hand :=
  let c := i.ctr b.counter
  { cell := cell, counter := b.counter, op := op, send := true, ptr := c.base + b.ptr * c.size * 256, units := b.count * c.size,
    start := 0, sent := 0, acked := 0 }

theorem sendOp_hands {b : Bind} (hst : o.stage = .fired) (houts : o.outs = []) (hin : o.inAt 0 = some b) (hhold : b.hold = false)
    (hown : ownHandle s ctx (dfield o.raw 0x28 31 0) = true) (hkind : (s.stream (opStream o)).src.kind = Kind.CELL)
    (hunit : (s.stream (opStream o)).src.unit = logicalOf (s.ctx ctx) cell)
    (hlive : (s.stream (opStream o)).st = .live) :
    sendOp cell s ctx i o =
      mapOp (s.setStream (opStream o) ((s.stream (opStream o)).handOver [sendHandOf cell i o.id b]))
        cell ctx o.id fun y => { y with stage := .waiting, left := 1 } := by
  have hb : streamBindingsOk o true = true := by simp [streamBindingsOk, houts, hin, hhold]
  simp only [opStream, Nat.reducePow] at hkind hunit hlive ⊢
  simp [sendOp, hst, hb, hown, hkind, hunit, hlive, hin, sendHandOf]

theorem cellXferOp_issues (hst : o.stage = .fired) (houts : o.outs = []) (hown : ownHandle s ctx (dfield o.raw 0x28 31 0) = true)
    (hrange : xferRangeBad (s.stream (opStream o)) (dfield o.raw 0x30 63 0) (dfield o.raw 0x38 63 0)
      (64 * dfield o.raw 0x2C 30 0) = false)
    (hroom : (s.stream (opStream o)).xfers.length < 16) :
    cellXferOp cell s ctx i o =
      issueXfer (mapOp s cell ctx o.id fun y => { y with stage := .waiting, left := 1 }) (opStream o)
        { Xfer.idle with issuer := 2, owner := cell, op := o.id, len := 64 * dfield o.raw 0x2C 30 0, src := dfield o.raw 0x30 63 0,
                         dst := dfield o.raw 0x38 63 0, flush := (s.stream (opStream o)).flush, seq := o.desc } := by
  have hb : streamBindingsOk o false = true := by simp [streamBindingsOk, houts]
  simp only [opStream, Nat.reducePow] at hrange hroom ⊢
  simp [cellXferOp, hst, hb, hown, hrange, Nat.not_le.mpr hroom, stream_mapOp]

/-- The records of an XFER_LIST (R188). -/
def xferRecords (i : CellImg) (o : Op) : List Nat :=
  (List.range (dfield o.raw 0x28 15 0)).map fun k => (i.inRun o 0).le i.sram (64 * k) 64

/-- An XFER_LIST whose records are all there and whole issues them all, or none. -/
theorem xferListOp_checks {b : Bind} (hst : o.stage = .fired) (houts : o.outs = []) (hin : o.inAt 0 = some b) (hhold : b.hold = false)
    (hlen : 64 * dfield o.raw 0x28 15 0 ≤ (i.inRun o 0).len) (hp : i.runPoisoned (i.inRun o 0) (64 * dfield o.raw 0x28 15 0) = false) :
    xferListOp cell s ctx i o =
      if (xferRecords i o).any (recordBad s ctx) then opFault s cell o CellFault.ENGINE_FAULT
      else issueRecords (mapOp s cell ctx o.id fun y => { y with stage := .waiting, left := dfield o.raw 0x28 15 0 }) cell ctx o.id
        (xferRecords i o) := by
  have hb : streamBindingsOk o true = true := by simp [streamBindingsOk, houts, hin, hhold]
  simp [xferListOp, hst, hb, Nat.not_lt.mpr hlen, hp, xferRecords]

end

/-! ## The parts of O34 -/

section
variable {s : State} {cell op ctx : Nat} {o : Op}

theorem exec_move (h : Runs s cell op 0x10 ctx o) : exec (.move cell op) s = .next (moveOp cell s ctx (s.cell cell).img o) :=
  h.opRow_eq (moveOp cell)

/-- A MOVE of plain elements that has the room writes them and is carried out. -/
theorem exec_move_plain (h : Runs s cell op 0x10 ctx o) (hill : moveIllegal o.raw = false) (hb : MoveBound o)
    (hplain : moveSrc o.raw = moveDst o.raw ∨ fmtGrouped (moveSrc o.raw) = false)
    (hlen : movedBytes (s.cell cell).img o ≤ ((s.cell cell).img.outRun o 0).len)
    (hp : (s.cell cell).img.runPoisoned ((s.cell cell).img.inRun o 0) ((s.cell cell).img.inRun o 0).len = false) :
    exec (.move cell op) s = .next (withImg s cell (carriedOut
      ((s.cell cell).img.storeRun ((s.cell cell).img.outRun o 0) 0 (movedData (s.cell cell).img o)) op)) := by
  rw [exec_move h, moveOp_plain h.opc_eq hill hb hplain, if_neg (Nat.not_lt.mpr hlen), hp, if_neg Bool.false_ne_true, h.opWrites_eq]

/-- The stream that a SEND changes has the new hand-over last, the operation waits, and the rest of the machine is as it was. -/
theorem exec_send {b : Bind} (h : Runs s cell op 0x11 ctx o) (hst : o.stage = .fired) (houts : o.outs = []) (hin : o.inAt 0 = some b)
    (hhold : b.hold = false) (hown : ownHandle s ctx (dfield o.raw 0x28 31 0) = true)
    (hkind : (s.stream (opStream o)).src.kind = Kind.CELL) (hunit : (s.stream (opStream o)).src.unit = logicalOf (s.ctx ctx) cell)
    (hlive : (s.stream (opStream o)).st = .live) :
    exec (.send cell op) s = .next (withImg
      (s.setStream (opStream o) ((s.stream (opStream o)).handOver [sendHandOf cell (s.cell cell).img op b])) cell
      { (s.cell cell).img with
        ops := (s.cell cell).img.ops.map fun y => if y.id = op then { y with stage := .waiting, left := 1 } else y }) := by
  have hplace (x : Stream) : placeOf (s.setStream (opStream o) x) cell ctx = some .cell := h.placeOf_eq
  refine (h.opRow_eq (sendOp cell)).trans (congrArg _ ?_)
  rw [sendOp_hands hst houts hin hhold hown hkind hunit hlive, h.id_eq, mapOp_of_place (hplace _)]
  rfl

end

/-- Settles O34: a MOVE by the formats it names (`moveOp_waits`, `moveOp_illegal`, `moveOp_plain`), then SEND, XFER and XFER_LIST. -/
theorem movesAndStreamOperations : Obligations.MovesAndStreamOperations := by
  refine ⟨?move, ?send, ?xfer, ?list⟩
  case move =>
    intro s cell op ctx o h i src dst r w
    refine ⟨?copy, ?convert, ?waits, ?illegal, ?short⟩
    case copy =>
      intro heq hin hout hout1 hlen hp
      have heq : moveSrc o.raw = moveDst o.raw := heq
      have hdone := exec_move_plain h (moveIllegal_copy heq) ⟨hin, hout, hout1⟩ (.inl heq)
      simp only [movedBytes, movedData, if_pos heq] at hdone
      exact hdone hlen hp
    case convert =>
      intro hne hsrc hsrc' hdst hdst' hin hout hout1 hg hlen hp
      have hne : moveSrc o.raw ≠ moveDst o.raw := hne
      have hill : moveIllegal o.raw = false := by
        rw [← Bool.not_eq_true, moveIllegal_convert hne]
        simp only [moveSrc, moveDst]
        omega
      have hdone := exec_move_plain h hill ⟨hin, hout, hout1⟩ (.inr hg)
      simp only [movedBytes, movedData, if_neg hne] at hdone
      exact hdone hlen hp
    case waits =>
      intro hr hc
      rw [exec_move h, moveOp_waits hr hc]
    case illegal =>
      intro hne hbad hw
      rw [exec_move h, moveOp_illegal hw ((moveIllegal_convert hne).mpr hbad)]
    case short =>
      intro heq hin hout hout1 hlen
      have heq : moveSrc o.raw = moveDst o.raw := heq
      rw [exec_move h, moveOp_plain h.opc_eq (moveIllegal_copy heq) ⟨hin, hout, hout1⟩ (.inl heq), movedBytes, if_pos heq, if_pos hlen]
  case send =>
    intro s cell op ctx o b h hst houts hin hhold hown x hkind hunit hlive c
    refine ⟨_, exec_send h hst houts hin hhold hown hkind hunit hlive, ?_, ?_, ?_, rfl, rfl, rfl⟩
    · simp [withImg, opStream, handOver_one, sendHandOf, x, c]
    · simp [withImg, opStream, handOver_one, sendHandOf, x, c]
    · simp [withImg]
  case xfer =>
    intro s cell op ctx o h hst houts hown idx len hrange hroom
    refine (h.opRow_eq (cellXferOp cell)).trans (congrArg _ ?_)
    rw [cellXferOp_issues hst houts hown hrange hroom, h.id_eq]
    rfl
  case list =>
    intro s cell op ctx o b h hst houts hin hhold n i recs hlen hp
    have hrow : exec (.xferList cell op) s = .next _ := h.opRow_eq (xferListOp cell)
    rw [hrow, xferListOp_checks hst houts hin hhold hlen hp, h.id_eq]
    exact ⟨fun hok => congrArg _ (if_neg (ne_true_of_eq_false hok)), fun hbad => congrArg _ (if_pos hbad)⟩

end Sys2Proof.Machine
end

section
/-!
The vector engine (R86-R95, R118-R135): what each operation does where its payload, its bindings and its words are in order, that its
counters are register words, and O36 from these.
-/

namespace Sys2Proof.Machine

/-! ## An operation that completes -/

/-- Command `c` carries operation `op` out: the cell's contents become `j` with the operation carried out; of the rest only register
words, the model's free counter and the vectors sent change. -/
def Completes (s : State) (cell op : Nat) (c : Instr) (j : CellImg) : Prop :=
  ∃ t, exec c s = .next t ∧ (t.cell cell).img = carriedOut j op ∧
    t = { s with cells := t.cells, regs := t.regs, free := t.free, host := { s.host with vecs := t.host.vecs } } ∧
    ∀ q, q ≠ cell → t.cell q = s.cell q

theorem RegsOnly.cell_eq {s t : State} (h : RegsOnly s t) (c : Nat) : t.cell c = s.cell c := by
  rw [h]
  rfl

/-- An operation that writes its results, from a state with its free counter wherever it is, and then counts. -/
theorem completes_of_writes {s t : State} {cell op : Nat} {c : Instr} {j : CellImg} (n : Nat) (hexec : exec c s = .next t)
    (hcount : RegsOnly (withImg { s with free := n } cell (carriedOut j op)) t) : Completes s cell op c j := by
  refine ⟨t, hexec, ?_, ?_, fun q hq => ?_⟩
  · rw [hcount.cell_eq]
    simp [withImg]
  · rw [hcount]
    rfl
  · rw [hcount.cell_eq]
    simp only [withImg, cell_setCell, if_neg hq]
    rfl

theorem regsOnly_vxeCount (s : State) (cell cycles : Nat) (queued : Bool) : RegsOnly s (vxeCount s cell cycles queued) :=
  (regsOnly_count64 s 0 _ _).trans (regsOnly_count64 _ 0 _ _)

/-- A vector operation that writes its results, perhaps with the free counter moved on, and counts is carried out. -/
theorem Runs.completes_of_row {s : State} {cell op code ctx : Nat} {o : Op} {c : Instr} {j : CellImg}
    {f : State → Nat → CellImg → Op → State} (n : Nat) (h : Runs s cell op code ctx o) (hm : (s.cell cell).move = .steady)
    (hc : exec c s = engineRow cell op code f s)
    (hf : RegsOnly (opWrites { s with free := n } cell ctx o j) (f s ctx (s.cell cell).img o)) : Completes s cell op c j := by
  have hplace : placeOf { s with free := n } cell ctx = some .cell := h.placeOf_eq
  rw [opWrites_of_place hplace, h.id_eq] at hf
  exact completes_of_writes n (hc.trans (h.engineRow_eq hm f)) hf

/-- The same of an operation that counts its cycles only. -/
theorem Runs.completes_of_vxeCount {s : State} {cell op code ctx : Nat} {o : Op} {c : Instr} {j : CellImg} {cycles : Nat}
    {f : State → Nat → CellImg → Op → State} (h : Runs s cell op code ctx o) (hm : (s.cell cell).move = .steady)
    (hc : exec c s = engineRow cell op code f s)
    (hf : f s ctx (s.cell cell).img o = vxeCount (opWrites s cell ctx o j) cell cycles o.queued) : Completes s cell op c j :=
  h.completes_of_row s.free hm hc (hf ▸ regsOnly_vxeCount _ _ _ _)

/-! ## What each operation does -/

section
variable {cell ctx : Nat} {s : State} {i : CellImg} {o : Op}

theorem crvSetOp_loads {f k : Nat} (hr : crvRange o.raw = some (f, k)) (hin : (o.inAt 0).isSome = true) (hlen : 2304 * k ≤ (i.inRun o 0).len)
    (hp : i.runPoisoned (i.inRun o 0) (2304 * k) = false) :
    crvSetOp cell s ctx i o = vxeCount (opWrites s cell ctx o { i with curves := (List.range k).foldl (fun m t =>
      (List.range 2304).foldl (fun m b => tset (fun _ => 0) m (4096 * (f + t) + b) ((i.inRun o 0).byte i.sram (2304 * t + b))) m) i.curves })
      cell (9 * k) o.queued := by
  obtain ⟨b, hin⟩ := Option.isSome_iff_exists.mp hin
  simp [crvSetOp, hr, hin, Nat.not_lt.mpr hlen, hp]

theorem crvSetOp_illegal (hr : crvRange o.raw = none) : crvSetOp cell s ctx i o = opFault s cell o CellFault.ILLEGAL_OP := by
  simp only [crvSetOp, hr]

theorem crvGetOp_stores {f k : Nat} (hr : crvRange o.raw = some (f, k)) (hout : (o.outAt 0).isSome = true)
    (hlen : 2304 * k ≤ (i.outRun o 0).len) :
    crvGetOp cell s ctx i o = vxeCount (opWrites s cell ctx o (i.storeRun (i.outRun o 0) 0 ((List.range k).flatMap fun t =>
      (List.range 2304).map fun b => BitVec.ofNat 8 (curveByte i.curves (f + t) b)))) cell (9 * k) o.queued := by
  obtain ⟨b, hout⟩ := Option.isSome_iff_exists.mp hout
  simp [crvGetOp, hr, hout, Nat.not_lt.mpr hlen]

theorem crvGetOp_illegal (hr : crvRange o.raw = none) : crvGetOp cell s ctx i o = opFault s cell o CellFault.ILLEGAL_OP := by
  simp only [crvGetOp, hr]

/-- The code-book tables that CB_SET and CB_GET name: their first slot and their number (R86). -/
def bookFirst (raw : Nat) : Nat := dfield raw 0x28 5 0
def bookCount (raw : Nat) : Nat := dfield raw 0x28 14 8

theorem slotRangeBad_of_fits {raw : Nat} (hn : bookCount raw ≠ 0) (hfit : bookFirst raw + bookCount raw ≤ 64) :
    slotRangeBad raw = false := by
  simp only [bookFirst, bookCount] at hn hfit
  simp [slotRangeBad, hn, hfit]

/-- A table write waits for an operation that decodes through tables (R87). -/
theorem cbSetOp_waits (hw : ∃ p ∈ i.ops, readsBooks p.raw = true ∧ p.id < o.id ∧ p.stage ≠ .executed) : cbSetOp cell s ctx i o = s :=
  if_pos (List.any_eq_true.mpr (by simpa [and_assoc] using hw))

theorem cbSetOp_loads (hw : ∀ p ∈ i.ops, readsBooks p.raw = true → p.id < o.id → p.stage = .executed) (hill : cbSetIllegal o.raw = false)
    (hin : (o.inAt 0).isSome = true) (hlen : 64 * bookCount o.raw ≤ (i.inRun o 0).len)
    (hp : i.runPoisoned (i.inRun o 0) (64 * bookCount o.raw) = false) :
    cbSetOp cell s ctx i o = vxeCount (opWrites s cell ctx o { i with
      books := i.books.loadAll (bookFirst o.raw) (bookCount o.raw) (dfield o.raw 0x28 16 16)
        ((i.inRun o 0).bytes i.sram (64 * bookCount o.raw)) }) cell (bookCount o.raw) o.queued := by
  have hquiet : (i.ops.any fun p => readsBooks p.raw && decide (p.id < o.id) && !decide (p.stage = .executed)) = false := by
    simpa [List.any_eq_false] using hw
  obtain ⟨b, hin⟩ := Option.isSome_iff_exists.mp hin
  simp only [bookCount, bookFirst] at hlen hp ⊢
  simp [cbSetOp, hquiet, hill, hin, Nat.not_lt.mpr hlen, hp]

theorem cbGetOp_stores (hill : cbGetIllegal o.raw = false) (hout : (o.outAt 0).isSome = true)
    (hlen : 64 * (bookCount o.raw + 1) ≤ (i.outRun o 0).len) :
    cbGetOp cell s ctx i o = vxeCount (opWrites s cell ctx o
      (i.storeRun (i.outRun o 0) 0 (i.books.images (bookFirst o.raw) (bookCount o.raw)))) cell (bookCount o.raw + 1) o.queued := by
  obtain ⟨b, hout⟩ := Option.isSome_iff_exists.mp hout
  simp only [bookCount, bookFirst] at hlen ⊢
  simp [cbGetOp, hill, hout, Nat.not_lt.mpr hlen]

/-- The grouped elements that a CB_ENCODE `p` writes, with the seed that it has or takes from the count (R91). -/
def encoded (p : EncOp) (i : CellImg) (o : Op) : EncAcc :=
  p.run i.sram i.books (i.inRun o 0) (if p.seed = 0 then o.at_ % 2 ^ 32 else p.seed)

/-- The tables that a CB_ENCODE needs are there: none, or one at its own selector with a candidate (R91). -/
abbrev EncTables (p : EncOp) (i : CellImg) : Prop :=
  2 < p.dst ∨ ((tableValue i.books p.dst p.select 0).isSome = true ∧ (p.candidates i.books).isEmpty = false)

/-- CB_ENCODE with no report bound. -/
theorem cbEncodeOp_stores {p : EncOp} (hop : EncOp.ofRaw o.raw = p) (hill : p.illegal o.raw = false) (hin : (o.inAt 0).isSome = true)
    (hout : (o.outAt 0).isSome = true) (hlen : elemBytes p.src p.count ≤ (i.inRun o 0).len)
    (hroom : groupedBytes p.dst (ceilDiv p.count 256) ≤ (i.outRun o 0).len) (hrep : (o.outAt 1).isNone = true)
    (hp : i.runPoisoned (i.inRun o 0) (elemBytes p.src p.count) = false) (htab : EncTables p i) :
    cbEncodeOp cell s ctx i o =
      count (vxeCount (opWrites s cell ctx o ((p.output (encoded p i o)).foldl (fun j d => j.storeRun (i.outRun o 0) d.1 d.2) i)) cell
        (8 * ceilDiv p.count 256) o.queued) (vxeReg cell Reg.VXE_NAN_OUT) (32 * (encoded p i o).nanBlocks) := by
  obtain ⟨b, hin⟩ := Option.isSome_iff_exists.mp hin
  obtain ⟨c, hout⟩ := Option.isSome_iff_exists.mp hout
  have htables : ¬ (p.dst ≤ 2 ∧ (tableValue i.books p.dst p.select 0 = none ∨ p.candidates i.books = [])) := by
    rintro ⟨hdst, hmissing⟩
    rcases htab with htab | ⟨hval, hcand⟩
    · omega
    · rcases hmissing with h | h <;> simp [h] at hval hcand
  simp [cbEncodeOp, hop, encoded, hill, hin, hout, Nat.not_lt.mpr hlen, Nat.not_lt.mpr hroom, Option.isNone_iff_eq_none.mp hrep, hp, htables]

/-! ELEM (R119). -/

/-- Which inputs and outputs of an ELEM are bound. -/
def elemIns (o : Op) : List Bool := (List.range 4).map fun k => (o.inAt k).isSome
def elemOuts (o : Op) : List Bool := (List.range 2).map fun k => (o.outAt k).isSome

/-- The program that an ELEM runs. -/
def elemProg (i : CellImg) (o : Op) : EProg := EProg.read i.prog (dfield o.raw 0x2C 9 0)

/-- What an ELEM's program gives for its inputs. -/
def elemRan (s : State) (i : CellImg) (o : Op) : ElemAcc :=
  runElem { op := ElemOp.ofRaw o.raw, prog := elemProg i o, sram := i.sram, poison := i.poison, books := i.books, curves := i.curves,
            inRuns := (List.range 4).map fun k => i.inRun o k } s.free

/-- Every bound input holds its elements, and every bound output has room for its own. -/
abbrev ElemFits (i : CellImg) (o : Op) : Prop :=
  let p := ElemOp.ofRaw o.raw
  (∀ k, k < 4 → (elemIns o).getD k false = true → portBytes (nth p.inFmt k) (nth p.inMode k) p.rows p.count ≤ (i.inRun o k).len) ∧
  (∀ k, k < 2 → (elemOuts o).getD k false = true → portBytes (nth p.outFmt k) (nth p.outMode k) p.rows p.count ≤ (i.outRun o k).len)

/-- The counters that a completed ELEM adds to (R133, R135). -/
def elemCounted (s : State) (cell : Nat) (i : CellImg) (o : Op) (r : ElemAcc) : State :=
  let s := vxeCount s cell (elemCycles (ElemOp.ofRaw o.raw) (elemProg i o) true) o.queued
  let s := count64 s 0 (vxeReg cell Reg.VXE_LANE_OPS_LO) r.laneOps
  let s := count s (vxeReg cell Reg.VXE_TAIL_LANES) r.tail
  let s := count s (vxeReg cell Reg.VXE_CRV_CLAMP) r.clamp
  let s := count s (vxeReg cell Reg.VXE_NAN_OUT) r.nan
  count s (vxeReg cell Reg.VXE_SAT_OUT) r.sat

theorem regsOnly_elemCounted (s : State) (cell : Nat) (i : CellImg) (o : Op) (r : ElemAcc) : RegsOnly s (elemCounted s cell i o r) := by
  unfold elemCounted
  exact (regsOnly_vxeCount s cell _ _).trans ((regsOnly_count64 _ _ _ _).trans ((regsOnly_count _ _ _).trans
    ((regsOnly_count _ _ _).trans ((regsOnly_count _ _ _).trans (regsOnly_count _ _ _)))))

/-- No bound operand is shorter than it has to be. -/
theorem noneShort_of_fit {n : Nat} {bound : List Bool} {need : Nat → Nat} {run : Nat → Run}
    (h : ∀ k, k < n → bound.getD k false = true → need k ≤ (run k).len) :
    ((List.range n).any fun k => bound.getD k false && decide ((run k).len < need k)) = false := by
  simpa [List.any_eq_false] using h

/-- A legal ELEM whose operands fit runs its program, and faults the cell or writes what the program gave. -/
theorem elemOp_runs (hill : (ElemOp.ofRaw o.raw).illegal o.raw (elemProg i o) (elemIns o) (elemOuts o) = false) (hfits : ElemFits i o) :
    elemOp cell s ctx i o =
      if (elemRan s i o).bad ≠ 0 then opFault s.useFree cell o (elemRan s i o).bad
      else elemCounted (opWrites s.useFree cell ctx o
        ((elemRan s i o).outs.foldl (fun i d => i.storeRun (i.outRun o d.1) d.2.1 d.2.2) i)) cell i o (elemRan s i o) := by
  obtain ⟨hins, houts⟩ := hfits
  refine (if_neg (ne_true_of_eq_false hill)).trans ((if_neg ?_).trans rfl)
  rintro (hshort | hshort)
  · exact ne_true_of_eq_false (noneShort_of_fit hins) hshort
  · exact ne_true_of_eq_false (noneShort_of_fit houts) hshort

end

/-! ## The parts of O36 -/

theorem cbSetIllegal_of_fields {raw : Nat} (hhigh : dfield raw 0x28 31 17 = 0) (hmid : dfield raw 0x28 15 15 = 0) (hlow : dfield raw 0x28 7 6 = 0)
    (hz : zeroWords raw [0x2C, 0x30, 0x34, 0x38, 0x3C] = true) (hn : bookCount raw ≠ 0) (hfit : bookFirst raw + bookCount raw ≤ 64) :
    cbSetIllegal raw = false := by
  simp [cbSetIllegal, hhigh, hmid, hlow, hz, slotRangeBad_of_fits hn hfit]

theorem cbGetIllegal_of_fields {raw : Nat} (hhigh : dfield raw 0x28 31 15 = 0) (hlow : dfield raw 0x28 7 6 = 0)
    (hz : zeroWords raw [0x2C, 0x30, 0x34, 0x38, 0x3C] = true) (hn : bookCount raw ≠ 0) (hfit : bookFirst raw + bookCount raw ≤ 64) :
    cbGetIllegal raw = false := by
  simp [cbGetIllegal, hhigh, hlow, hz, slotRangeBad_of_fits hn hfit]

theorem exec_elem {s : State} {cell op ctx : Nat} {o : Op} (h : Runs s cell op 0x30 ctx o) (hm : (s.cell cell).move = .steady) :
    exec (.elem cell op) s = .next (elemOp cell s ctx (s.cell cell).img o) := h.engineRow_eq hm (elemOp cell)

/-- Settles O36: each operation writes its results and counts (`Runs.completes_of_row`), or faults, or waits. -/
theorem vectorOperations : Obligations.VectorOperations := by
  intro s cell op ctx o hm i r w completes n first
  refine ⟨?crvSet, ?crvGet, ?crvIllegal, ?cbSet, ?cbSetWaits, ?cbGet, ?cbEncode, ?elem⟩
  case crvSet =>
    intro f k h hr hin hlen hp
    exact h.completes_of_vxeCount hm rfl (crvSetOp_loads hr hin hlen hp)
  case crvGet =>
    intro f k h hr hout hlen
    exact h.completes_of_vxeCount hm rfl (crvGetOp_stores hr hout hlen)
  case crvIllegal =>
    exact ⟨fun h hr => (h.engineRow_eq hm (crvSetOp cell)).trans (congrArg _ (crvSetOp_illegal hr)),
      fun h hr => (h.engineRow_eq hm (crvGetOp cell)).trans (congrArg _ (crvGetOp_illegal hr))⟩
  case cbSet =>
    intro h hw hhigh hmid hlow hz hn hfit hin hlen hp
    exact h.completes_of_vxeCount hm rfl (cbSetOp_loads hw (cbSetIllegal_of_fields hhigh hmid hlow hz hn hfit) hin hlen hp)
  case cbSetWaits =>
    exact fun h hw => (h.engineRow_eq hm (cbSetOp cell)).trans (congrArg _ (cbSetOp_waits hw))
  case cbGet =>
    intro h hhigh hlow hz hn hfit hout hlen
    exact h.completes_of_vxeCount hm rfl (cbGetOp_stores (cbGetIllegal_of_fields hhigh hlow hz hn hfit) hout hlen)
  case cbEncode =>
    intro p h hill hin hout hlen hroom hrep hp htab
    refine h.completes_of_row s.free hm rfl ?_
    rw [cbEncodeOp_stores rfl hill hin hout hlen hroom hrep hp htab]
    exact (regsOnly_vxeCount _ _ _ _).trans (regsOnly_count _ _ _)
  case elem =>
    intro p pr inV outV h hill hins houts e
    have hruns := elemOp_runs (cell := cell) (ctx := ctx) (s := s) hill ⟨hins, houts⟩
    refine ⟨fun hok => ?_, fun hbad => ?_⟩
    · have hok : ¬ (elemRan s i o).bad ≠ 0 := not_not_intro hok
      refine h.completes_of_row (s.free + 1) hm rfl ?_
      rw [hruns, if_neg hok]
      exact regsOnly_elemCounted _ _ _ _ _
    · rw [exec_elem h hm, hruns]
      exact congrArg _ (if_pos hbad)

end Sys2Proof.Machine
end

section
/-!
The matrix engine (R99-R116): which rule an MM breaks first, what one that breaks none writes and counts, and O35 from these.
-/

namespace Sys2Proof.Machine

/-! ## The counters of a completed MM (R116, R505) -/

theorem RegsOnly.exists_regs_vecs {s t : State} (h : RegsOnly s t) :
    ∃ regs vecs, t = { s with regs := regs, host := { s.host with vecs := vecs } } := ⟨t.regs, t.host.vecs, h⟩

theorem regsOnly_mmCount (s : State) (cell : Nat) (p : MMOp) (queued : Bool) (r : MMResult) : RegsOnly s (mmCount s cell p queued r) := by
  unfold mmCount
  exact (regsOnly_count64 s 0 _ _).trans ((regsOnly_count64 _ 0 _ _).trans ((regsOnly_count64 _ 0 _ _).trans
    ((regsOnly_count64 _ 0 _ _).trans ((regsOnly_count _ _ _).trans ((regsOnly_count _ _ _).trans ((regsOnly_count _ _ _).trans
      ((regsOnly_count _ _ _).trans (regsOnly_count _ _ _))))))))

/-! ## What an MM does -/

/-- An MM's bindings do not hold its operands (R99, R103). -/
def mmShort (i : CellImg) (o : Op) : Bool :=
  let p := MMOp.ofRaw o.raw
  mmBindingsBad p o || decide ((i.inRun o 0).len < p.aBytes) || !p.bFits i.sram (i.inRun o 1) ||
    (p.accIn && decide ((i.inRun o 2).len < p.outBytes p.accFmt)) || decide ((i.outRun o 0).len < p.outBytes p.outFmt)

/-- An MM reads a poisoned word (R109). -/
def mmPoisoned (i : CellImg) (o : Op) : Bool :=
  let p := MMOp.ofRaw o.raw
  i.piecesPoisoned (i.inRun o 0) p.aPieces || i.piecesPoisoned (i.inRun o 1) (p.bPieces i.sram (i.inRun o 1)) ||
    (p.accIn && i.piecesPoisoned (i.inRun o 2) p.cPieces)

/-- What an MM gives for its operands; with `noskipAll` it visits the steps whose activations are zero (R115). -/
def mmResult (i : CellImg) (o : Op) (noskipAll : Bool) : MMResult :=
  (MMOp.ofRaw o.raw).run i.sram i.books (i.inRun o 0) (i.inRun o 1) (i.inRun o 2) noskipAll

/-- A cell's contents with the result of an MM written to its OUT0. -/
def mmWritten (i : CellImg) (o : Op) (r : MMResult) : CellImg := r.data.foldl (fun j d => j.storeRun (i.outRun o 0) d.1 d.2) i

section
variable {cell ctx : Nat} {s : State} {i : CellImg} {o : Op}

theorem mmShort_iff : mmShort i o = true ↔
    mmBindingsBad (MMOp.ofRaw o.raw) o ∨ (i.inRun o 0).len < (MMOp.ofRaw o.raw).aBytes ∨ !(MMOp.ofRaw o.raw).bFits i.sram (i.inRun o 1) ∨
      ((MMOp.ofRaw o.raw).accIn ∧ (i.inRun o 2).len < (MMOp.ofRaw o.raw).outBytes (MMOp.ofRaw o.raw).accFmt) ∨
      (i.outRun o 0).len < (MMOp.ofRaw o.raw).outBytes (MMOp.ofRaw o.raw).outFmt := by
  simp only [mmShort, Bool.or_eq_true, Bool.and_eq_true, decide_eq_true_eq, or_assoc]

theorem mmPoisoned_iff : mmPoisoned i o = true ↔
    i.piecesPoisoned (i.inRun o 0) (MMOp.ofRaw o.raw).aPieces ∨
      i.piecesPoisoned (i.inRun o 1) ((MMOp.ofRaw o.raw).bPieces i.sram (i.inRun o 1)) ∨
      ((MMOp.ofRaw o.raw).accIn ∧ i.piecesPoisoned (i.inRun o 2) (MMOp.ofRaw o.raw).cPieces) := by
  simp only [mmPoisoned, Bool.or_eq_true, Bool.and_eq_true, or_assoc]

/-- An MM that waits for no table write breaks the first of its rules, in the model's order (notes/assumptions/96.md), or is
carried out. -/
theorem mmOp_eq (hw : cbSetAhead i o = false) :
    mmOp cell s ctx i o =
      if (MMOp.ofRaw o.raw).illegal o.raw then opFault s cell o CellFault.ILLEGAL_OP
      else if mmShort i o then opFault s cell o CellFault.BAD_BINDING
      else if mmPoisoned i o then opFault s cell o CellFault.SRAM_UNCORRECTED
      else if (MMOp.ofRaw o.raw).undecodable i.sram i.books (i.inRun o 0) (i.inRun o 1) then opFault s cell o CellFault.ENGINE_FAULT
      else
        let r := mmResult i o (bit (rd s 0 (mxeReg cell Reg.MXE_CTL)) 0)
        mmCount (opWrites s cell ctx o (mmWritten i o r)) cell (MMOp.ofRaw o.raw) o.queued r := by
  simp only [mmShort_iff, mmPoisoned_iff]
  exact if_neg (ne_true_of_eq_false hw)

theorem mmOp_illegal (hw : cbSetAhead i o = false) (hill : (MMOp.ofRaw o.raw).illegal o.raw = true) :
    mmOp cell s ctx i o = opFault s cell o CellFault.ILLEGAL_OP := by
  rw [mmOp_eq hw, if_pos hill]

section
variable (hw : cbSetAhead i o = false) (hill : (MMOp.ofRaw o.raw).illegal o.raw = false)
include hw hill

theorem mmOp_short (hs : mmShort i o = true) : mmOp cell s ctx i o = opFault s cell o CellFault.BAD_BINDING := by
  simp only [mmOp_eq hw, hill, hs, Bool.false_eq_true, if_false, if_true]

theorem mmOp_poisoned (hs : mmShort i o = false) (hp : mmPoisoned i o = true) :
    mmOp cell s ctx i o = opFault s cell o CellFault.SRAM_UNCORRECTED := by
  simp only [mmOp_eq hw, hill, hs, hp, Bool.false_eq_true, if_false, if_true]

theorem mmOp_writes (hs : mmShort i o = false) (hp : mmPoisoned i o = false)
    (hu : (MMOp.ofRaw o.raw).undecodable i.sram i.books (i.inRun o 0) (i.inRun o 1) = false) :
    mmOp cell s ctx i o =
      let r := mmResult i o (bit (rd s 0 (mxeReg cell Reg.MXE_CTL)) 0)
      mmCount (opWrites s cell ctx o (mmWritten i o r)) cell (MMOp.ofRaw o.raw) o.queued r := by
  simp only [mmOp_eq hw, hill, hs, hp, hu, Bool.false_eq_true, if_false]

end

end

/-! ## O35 -/

theorem exec_mm {s : State} {cell op ctx : Nat} {o : Op} (h : Runs s cell op 0x20 ctx o) (hm : (s.cell cell).move = .steady) :
    exec (.mm cell op) s = .next (mmOp cell s ctx (s.cell cell).img o) := h.engineRow_eq hm (mmOp cell)

/-- Settles O35: the branches of `mmOp_eq`, and a completed MM's counters change register words and vectors only (`regsOnly_mmCount`). -/
theorem matrixOperation : Obligations.MatrixOperation := by
  intro s cell op ctx o h hm i p ra rb rc w short poisoned hw
  rw [exec_mm h hm]
  refine ⟨?illegal, ?short, ?poisoned, ?writes⟩
  case illegal => exact fun hill => congrArg _ (mmOp_illegal hw hill)
  case short => exact fun hill hs => congrArg _ (mmOp_short hw hill hs)
  case poisoned => exact fun hill hs hp => congrArg _ (mmOp_poisoned hw hill hs hp)
  case writes =>
    intro hill hs hp hu r u
    refine ⟨congrArg _ ((mmOp_writes hw hill hs hp hu).trans ?_), (regsOnly_mmCount u cell p o.queued r).exists_regs_vecs⟩
    exact congrArg (mmCount · cell p o.queued r) (h.opWrites_eq _)

end Sys2Proof.Machine
end

section
/-!
The match unit (R140-R156): what MATCH_REQUEST_BEGIN does with the request that waits, what the row of a request does while its unit runs
another and while it runs this one, and O37 from these.
-/

namespace Sys2Proof.Machine

/-! ## A request begins (R141, R152, R155) -/

/-- What MTU_LAT_WAIT_MAX becomes when the request at position `pos` begins (R155; notes/assumptions/117.md). -/
def matchLongest (s : State) (die pos : Nat) : Nat :=
  min 0xFFFF (max (rd s 0 (mtuReg die Reg.MTU_LAT_WAIT_MAX)) (tget (fun _ => 0) (s.mtu die).since pos))

/-- A match unit that has taken its waiting request `q`. -/
def takenUnit (m : MatchUnitState) (q : MatchReq) : MatchUnitState :=
  { m with running := some q, waiting := none, since := tset (fun _ => 0) m.since q.pos 0 }

/-- The state once the unit has taken `q`, its longest wait recorded unless its counters are frozen. -/
def matchTaken (s : State) (die : Nat) (q : MatchReq) : State :=
  { s.setMtu die (takenUnit (s.mtu die) q) with
    regs := if frozen s .mtu (mtuReg die 0) then s.regs
            else (wr s 0 (mtuReg die Reg.MTU_LAT_WAIT_MAX) (matchLongest s die q.pos)).regs }

theorem wr_unless_eq (s : State) (b : Bool) (i a v : Nat) :
    (if b then s else wr s i a v) = { s with regs := if b then s.regs else (wr s i a v).regs } := by
  cases b <;> rfl

theorem mtu_matchTaken (s : State) (die : Nat) (q : MatchReq) : (matchTaken s die q).mtu die = takenUnit (s.mtu die) q :=
  (mtu_setMtu s die die (takenUnit (s.mtu die) q)).trans (if_pos rfl)

section
variable {s : State} {die cell ctx : Nat} {q : MatchReq} {i : CellImg} {o : Op}

theorem matchOpOf_of_only_op (hcell : 40 * die + q.pos = cell) (hrunner : (s.cell cell).runner = some ctx)
    (hops : (s.cell cell).img.ops = [o]) (hid : o.id = q.op) (heng : engineOf o.raw = 4) :
    matchOpOf s die q = some (cell, ctx, (s.cell cell).img, o) := by
  simp [matchOpOf, hcell, hrunner, hops, hid, heng]

theorem placeOf_of_runner (hrunner : (s.cell cell).runner = some ctx) (hsaved : (s.cell cell).saved = none) :
    placeOf s cell ctx = some .cell := by
  simp [placeOf, hrunner, hsaved]

section
variable (hrun : (s.mtu die).running = none) (hwait : (s.mtu die).waiting = some q) (hop : matchOpOf s die q = some (cell, ctx, i, o))
include hrun hwait hop

/-- A request that fails its check faults its cell, and the unit's waiting entry is free (R141; notes/assumptions/101.md). -/
theorem matchBegin_refuses {e : Nat} (ha : matchAnswer i o (policyOf s ctx) = .error e) :
    matchBegin s die = opFault (s.setMtu die { s.mtu die with waiting := none }) cell o e := by
  simp [matchBegin, hrun, hwait, hop, ha, matchHeld]

/-- A request that passes its check runs under the policy that its context had when it began (R152). -/
theorem matchBegin_takes {a : MatchResult} (ha : matchAnswer i o (policyOf s ctx) = .ok a) :
    matchBegin s die = mapOp (matchTaken s die q) cell ctx o.id fun o => { o with left := policyOf s ctx } := by
  have hbegin : matchBegin s die = mapOp
      (if frozen (s.setMtu die (takenUnit (s.mtu die) q)) .mtu (mtuReg die 0) then s.setMtu die (takenUnit (s.mtu die) q)
       else wr (s.setMtu die (takenUnit (s.mtu die) q)) 0 (mtuReg die Reg.MTU_LAT_WAIT_MAX) (matchLongest s die q.pos))
      cell ctx o.id fun o => { o with left := policyOf s ctx } := by
    simp only [matchBegin, hrun, hwait, hop, ha, matchHeld, Bool.false_eq_true, if_false]
    rfl
  rw [hbegin, wr_unless_eq]
  rfl

end

end

/-! ## A request runs (R141-R154) -/

/-- The counters that a completed request adds to (R142, R155). -/
def matchCounted (s : State) (die : Nat) (r : MatchResult) : State :=
  let s := count64 s 0 (mtuReg die Reg.MTU_REQ_CNT_LO) 1
  let s := count64 s 0 (mtuReg die Reg.MTU_BUSY_CYC_LO) r.cycles
  let s := count s (mtuReg die Reg.MTU_PLACED) r.placed
  let s := count s (mtuReg die Reg.MTU_ALTERNATE) r.alternate
  let s := count s (mtuReg die Reg.MTU_DEFERRED) r.deferred
  let s := count s (mtuReg die Reg.MTU_DROPPED) r.dropped
  let s := count s (mtuReg die Reg.MTU_LOST) r.lost
  count s (mtuReg die Reg.MTU_NAN) r.nan

theorem regsOnly_matchCounted (s : State) (die : Nat) (r : MatchResult) : RegsOnly s (matchCounted s die r) := by
  unfold matchCounted
  exact (regsOnly_count64 s 0 _ _).trans ((regsOnly_count64 _ 0 _ _).trans ((regsOnly_count _ _ _).trans ((regsOnly_count _ _ _).trans
    ((regsOnly_count _ _ _).trans ((regsOnly_count _ _ _).trans ((regsOnly_count _ _ _).trans (regsOnly_count _ _ _)))))))

/-- The state with a die's match unit running nothing. -/
def matchFreed (s : State) (die : Nat) : State := s.setMtu die { s.mtu die with running := none }

/-- A cell's contents with the outputs of a request written. -/
def matchWritten (i : CellImg) (o : Op) (r : MatchResult) : CellImg :=
  r.outs.foldl (fun i d => i.storeRun (i.outRun o d.1) d.2.1 d.2.2) i

section
variable {s : State} {cell ctx : Nat} {i : CellImg} {o : Op}

theorem matchRun_waits (h : (s.mtu (cellDie cell)).running ≠ some ⟨cellPos cell, o.id⟩) : matchRun cell s ctx i o = s := if_pos h

theorem matchRun_writes {r : MatchResult} (h : (s.mtu (cellDie cell)).running = some ⟨cellPos cell, o.id⟩) (ha : matchAnswer i o o.left = .ok r) :
    matchRun cell s ctx i o =
      matchCounted (opWrites (matchFreed s (cellDie cell)) cell ctx o (matchWritten i o r)) (cellDie cell) r := by
  simp only [matchRun, h, ne_eq, not_true_eq_false, if_false, ha]
  rfl

end

section
variable {s : State} {cell op code ctx : Nat} {o : Op} {c : Instr}

/-- The row of a request that its unit does not run leaves the state as it is. -/
theorem Runs.match_waits (h : Runs s cell op code ctx o) (hc : exec c s = opRow cell op code (matchRun cell) s)
    (hm : (s.mtu (cellDie cell)).running ≠ some ⟨cellPos cell, op⟩) : exec c s = .next s := by
  rw [hc, h.opRow_eq, matchRun_waits (h.id_eq.symm ▸ hm)]

/-- Command `c` carries the request `op` out: its outputs `j` stand in the cell's contents, the unit is free, and of the rest
only register words and the vectors sent change. -/
def MatchCompletes (s : State) (cell op : Nat) (c : Instr) (j : CellImg) : Prop :=
  ∃ t, exec c s = .next t ∧ (t.cell cell).img = carriedOut j op ∧ (t.mtu (cellDie cell)).running = none ∧
    t = { s with cells := t.cells, mtus := t.mtus, regs := t.regs, host := { s.host with vecs := t.host.vecs } } ∧
    ∀ q, q ≠ cell → t.cell q = s.cell q

theorem RegsOnly.mtu_eq {s t : State} (h : RegsOnly s t) (d : Nat) : t.mtu d = s.mtu d := by
  rw [h]
  rfl

/-- A request that writes its outputs, frees its unit, and then counts. -/
theorem matchCompletes_of_writes {t : State} {j : CellImg} (hexec : exec c s = .next t)
    (hcount : RegsOnly (withImg (matchFreed s (cellDie cell)) cell (carriedOut j op)) t) : MatchCompletes s cell op c j := by
  refine ⟨t, hexec, ?img, ?unit, ?frame, fun q hq => ?cells⟩
  case img =>
    rw [hcount.cell_eq]
    simp [withImg]
  case unit =>
    rw [hcount.mtu_eq]
    simp [withImg, matchFreed]
  case frame =>
    rw [hcount]
    rfl
  case cells =>
    rw [hcount.cell_eq]
    simp [withImg, matchFreed, hq]

/-- The row of a request that its unit runs carries it out. -/
theorem Runs.match_completes {r : MatchResult} (h : Runs s cell op code ctx o) (hc : exec c s = opRow cell op code (matchRun cell) s)
    (hm : (s.mtu (cellDie cell)).running = some ⟨cellPos cell, op⟩) (ha : matchAnswer (s.cell cell).img o o.left = .ok r) :
    MatchCompletes s cell op c (matchWritten (s.cell cell).img o r) := by
  have hplace : placeOf (matchFreed s (cellDie cell)) cell ctx = some .cell := h.placeOf_eq
  have hexec : exec c s = .next _ := hc.trans (h.opRow_eq _)
  rw [matchRun_writes (h.id_eq.symm ▸ hm) ha, opWrites_of_place hplace, h.id_eq] at hexec
  exact matchCompletes_of_writes hexec (regsOnly_matchCounted _ _ _)

end

/-! ## O37 -/

/-- Settles O37: an idle unit refuses its waiting request or takes it (`matchBegin_refuses`, `matchBegin_takes`); the row of a request
waits, or carries it out, as its unit runs another or this one (`Runs.match_waits`, `Runs.match_completes`). -/
theorem matchUnitRuns : Obligations.MatchUnitRuns := by
  refine ⟨?begin, ?waits, ?completes⟩
  case begin =>
    intro s die cell op ctx o hdie hrun hwait hcell hrunner hsaved hops hid heng m
    have hop := matchOpOf_of_only_op (q := ⟨cellPos cell, op⟩) hcell hrunner hops hid heng
    have hexec : exec (.matchRequestBegin die) s = .next (matchBegin s die) := run_ok (decide_eq_true hdie) _
    refine ⟨?refuses, ?takes⟩
    case refuses =>
      intro e he
      rw [hexec, matchBegin_refuses hrun hwait hop he]
    case takes =>
      intro a ha longest waited
      have hplace : placeOf (matchTaken s die ⟨cellPos cell, op⟩) cell ctx = some .cell := placeOf_of_runner hrunner hsaved
      have hcells : (matchTaken s die ⟨cellPos cell, op⟩).cell cell = s.cell cell := rfl
      rw [hexec, matchBegin_takes hrun hwait hop ha, mapOp_of_place hplace, hcells]
      refine ⟨_, rfl, ?_, ?_, rfl⟩
      · exact mtu_matchTaken s die ⟨cellPos cell, op⟩
      · simp [withImg, hops]
  case waits =>
    intro s cell op ctx o hm
    exact ⟨fun h => h.match_waits rfl hm, fun h => h.match_waits rfl hm, fun h => h.match_waits rfl hm, fun h => h.match_waits rfl hm⟩
  case completes =>
    intro s cell op ctx o a hm i ha done
    exact ⟨fun h => h.match_completes rfl hm ha, fun h => h.match_completes rfl hm ha, fun h => h.match_completes rfl hm ha,
      fun h => h.match_completes rfl hm ha⟩

end Sys2Proof.Machine
end

section
/-!
The row of a command that issues (R48, R161): nothing else of its queue moves, the command stands issued, and the row carries out what it can
of it.
-/

namespace Sys2Proof.Machine

theorem setCtx_setCtx (s : State) (i : Nat) (c d : Ctx) : (s.setCtx i c).setCtx i d = s.setCtx i d := by
  simp only [State.setCtx, tset_tset]

/-- Two changes of one command are one, where the first leaves it its index. -/
theorem mapCmd_mapCmd (s : State) (ctx index : Nat) (f g : Cmd → Cmd) (hf : ∀ x, (f x).index = x.index) :
    mapCmd (mapCmd s ctx index f) ctx index g = mapCmd s ctx index (g ∘ f) := by
  simp only [mapCmd, ctx_setCtx, if_true, setCtx_setCtx, List.map_map]
  refine congrArg (fun l => s.setCtx ctx { s.ctx ctx with cmds := l }) (List.map_congr_left fun x _ => ?_)
  by_cases hx : x.index = index
  · simp [hx, hf]
  · simp [hx]

section
variable {s : State} {ctx op : Nat} {cmd : Cmd}

theorem Issues.queueRuns_eq (h : Issues s ctx op cmd) : queueRuns s ctx = true := by
  obtain ⟨_, _, _, _, _, hlive, hpause, hloaded, hwarm, hfatal, hstall, hdue, _⟩ := h
  simp [queueRuns, hlive, hpause, hloaded, hwarm, hfatal, hstall, hdue]

theorem Issues.retryCount_eq (h : Issues s ctx op cmd) : retryCount s ctx = s := by
  obtain ⟨_, _, _, _, _, _, _, _, _, _, _, hdue, _⟩ := h
  simp [retryCount, hdue]

theorem Issues.failHead_eq (h : Issues s ctx op cmd) : failHead s ctx = s := by
  obtain ⟨_, hnext, _, _, _, _, _, _, _, _, _, _, hcode, _⟩ := h
  simp [failHead, hnext, hcode]

/-- A command that nothing holds issues (R48). -/
theorem Issues.issueNext_eq (h : Issues s ctx op cmd) : issueNext s ctx op = issuedState s ctx cmd := by
  have hrun := h.queueRuns_eq
  obtain ⟨_, hnext, hop, hstamp, hbar, _, _, _, _, _, _, _, hcode, _, honly⟩ := h
  have hrep (f : Cmd → Cmd) : replica (mapCmd s ctx cmd.index f) (Rep.cmd ctx) = replica s (Rep.cmd ctx) := rfl
  simp only [issueNext, hnext, hop, hrun, hcode, hstamp, hbar, ne_eq, not_true_eq_false, Bool.not_true, or_self, if_false,
    Bool.false_eq_true, false_and, hrep]
  refine (mapCmd_mapCmd s ctx cmd.index _ _ (by exact fun _ => rfl)).trans ?_
  refine congrArg (fun l => s.setCtx ctx { s.ctx ctx with cmds := l }) (List.map_congr_left fun x hx => ?_)
  by_cases hi : x.index = cmd.index
  · rw [if_pos hi, if_pos hi, honly x hx hi]
    rfl
  · rw [if_neg hi, if_neg hi]

theorem cmds_issuedState : ((issuedState s ctx cmd).ctx ctx).cmds =
    (s.ctx ctx).cmds.map fun x => if x.index = cmd.index then issuedCmd s ctx cmd else x := by
  simp [issuedState]

/-- The commands of a queue that are issued and have opcode `op`, the oldest first. -/
def issuedOf (s : State) (ctx op : Nat) : List Cmd := (s.ctx ctx).cmds.filter fun x => x.stage = .issued && x.opcode = op

theorem mem_issuedOf {y : Cmd} : y ∈ issuedOf s ctx op ↔ y ∈ (s.ctx ctx).cmds ∧ y.stage = .issued ∧ y.opcode = op := by
  simp [issuedOf]

/-- The command that has issued is the only one of its opcode. -/
theorem Issues.mem_issuedOf_iff (h : Issues s ctx op cmd) {y : Cmd} :
    y ∈ issuedOf (issuedState s ctx cmd) ctx op ↔ y = issuedCmd s ctx cmd := by
  obtain ⟨_, hnext, hop, _, _, _, _, _, _, _, _, _, _, hnone, honly⟩ := h
  rw [mem_issuedOf, cmds_issuedState, List.mem_map]
  refine ⟨?_, fun hy => ⟨⟨cmd, List.mem_of_find?_eq_some hnext, hy ▸ if_pos rfl⟩, hy ▸ ⟨rfl, hop⟩⟩⟩
  rintro ⟨⟨x, hx, rfl⟩, hst, hy⟩
  by_cases hi : x.index = cmd.index
  · exact if_pos hi
  · rw [if_neg hi] at hst hy
    exact absurd hy (hnone x hx hst)

theorem runCmd_eq (s : State) (ctx op : Nat) (f : State → Cmd → Option State) :
    runCmd s ctx op f =
      let t := issueNext (failHead (retryCount s ctx) ctx) ctx op
      ((issuedOf t ctx op).findSome? (f t)).getD t := rfl

/-- The row of a command that issues carries out what it can of it. -/
theorem Issues.cmdRow_eq (h : Issues s ctx op cmd) {f : State → Cmd → Option State} {t : State}
    (hf : f (issuedState s ctx cmd) (issuedCmd s ctx cmd) = some t) : cmdRow ctx op f s = .next t := by
  have hrun : runCmd s ctx op f = t := by
    rw [runCmd_eq, h.retryCount_eq, h.failHead_eq, h.issueNext_eq]
    have hall := fun y => h.mem_issuedOf_iff (y := y)
    cases hl : issuedOf (issuedState s ctx cmd) ctx op with
    | nil => exact absurd ((hall _).mpr rfl) (by simp [hl])
    | cons y l =>
      have hy : y = issuedCmd s ctx cmd := (hall y).mp (hl ▸ List.mem_cons_self)
      simp [hl, hy, hf]
  rw [cmdRow, hrun, run_ok (by simp [okCtx, h.1])]

theorem Issues.stamped_eq (h : Issues s ctx op cmd) : cmd.stamped = false := by
  obtain ⟨_, _, _, hstamp, _⟩ := h
  exact hstamp

@[simp] theorem issuedCmd_f (off hi lo : Nat) : (issuedCmd s ctx cmd).f off hi lo = cmd.f off hi lo := rfl
@[simp] theorem issuedCmd_zeros (l : List Nat) : (issuedCmd s ctx cmd).zeros l = cmd.zeros l := rfl
@[simp] theorem issuedCmd_seq : (issuedCmd s ctx cmd).seq = cmd.seq := rfl
@[simp] theorem issuedCmd_begun : (issuedCmd s ctx cmd).begun = cmd.begun := rfl
@[simp] theorem issuedCmd_stamped : (issuedCmd s ctx cmd).stamped = cmd.stamped := rfl

end

end Sys2Proof.Machine
end

section
/-!
The stream commands (R173, R174, R179, R180, R187), and O26.
-/

namespace Sys2Proof.Machine

section
variable {s : State} {ctx : Nat} {cmd : Cmd}

@[simp] theorem stream_issuedState (i : Nat) : (issuedState s ctx cmd).stream i = s.stream i := rfl
@[simp] theorem currentHandle_issuedState (h : Nat) : currentHandle (issuedState s ctx cmd) h = currentHandle s h := rfl
@[simp] theorem ownHandle_issuedState (c h : Nat) : ownHandle (issuedState s ctx cmd) c h = ownHandle s c h := rfl
@[simp] theorem queryRecord_issuedState (c h : Nat) : queryRecord (issuedState s ctx cmd) c h = queryRecord s c h := rfl

/-- STREAM_CREATE of a well-formed descriptor, whose result has its translation, creates what `createStream` does (R179). -/
theorem streamCreate_creates {v w x : State} {h st : Nat} {bytes : List Byte} {segs : List Seg} (hi : Issues s ctx 0x08 cmd)
    (hzero : cmd.zeros [0x20, 0x24, 0x38, 0x3C] = true) (hres : cmd.f 0x30 63 0 % 8 = 0)
    (hread : cmdRead (issuedState s ctx cmd) ctx cmd.seq (cmd.f 0x28 63 0) 64 = (v, some bytes))
    (hraw : bits (leNat bytes) 9 0 = 0 ∧ dfield (leNat bytes) 0x04 31 0 = 0 ∧ dfield (leNat bytes) 0x38 63 0 = 0)
    (hsrc : endpointReserved (dfield (leNat bytes) 0 31 28) (dfield (leNat bytes) 0x08 191 0) true = false)
    (hsnk : endpointReserved (dfield (leNat bytes) 0 27 24) (dfield (leNat bytes) 0x20 191 0) false = false)
    (htile : tileAll v (cmdReq ctx cmd.seq) true (tiles64 (cmd.f 0x30 63 0) 8) = (w, some segs)) (hport : noPort w segs = false)
    (hnew : createStream w ctx (leNat bytes) = (x, h, st)) :
    exec (.streamCreate ctx) s = .next (setStage (ctxWrite x ctx segs (leBytes 8 (h + st * 2 ^ 32))) ctx cmd.index .performed) := by
  obtain ⟨h9, h4, h38⟩ := hraw
  refine hi.cmdRow_eq (f := streamCreateCmd ctx) ?_
  simp only [streamCreateCmd, issuedCmd_f, issuedCmd_zeros, issuedCmd_seq, hzero, hres, hread, h9, h4, h38, hsrc, hsnk, htile, hport, hnew,
    Bool.not_true, Bool.false_eq_true, ne_eq, not_true_eq_false, or_self, if_false]
  rfl

/-- STREAM_DESTROY of a current handle begins the end of its stream (R180). -/
theorem streamDestroy_begins (hi : Issues s ctx 0x09 cmd) (hbegun : cmd.begun = 0)
    (hzero : cmd.zeros [0x24, 0x28, 0x2C, 0x30, 0x34, 0x38, 0x3C] = true) (hown : ownHandle s ctx (cmd.f 0x20 31 0) = true)
    (hst : (s.stream (cmd.f 0x20 31 0 % 2 ^ 18)).st ≠ .destroying) :
    exec (.streamDestroy ctx) s =
      .next (finishDestroy (beginDestroy (mapCmd (issuedState s ctx cmd) ctx cmd.index fun x => { x with begun := 1 })
        (cmd.f 0x20 31 0 % 2 ^ 18) (some (ctx, cmd.index))) (cmd.f 0x20 31 0 % 2 ^ 18)) := by
  refine hi.cmdRow_eq (f := streamDestroyCmd ctx) ?_
  simp only [streamDestroyCmd, issuedCmd_f, issuedCmd_zeros, issuedCmd_begun, ownHandle_issuedState, stream_issuedState, hbegun, hzero, hown, hst,
    ne_eq, not_true_eq_false, Bool.not_true, Bool.false_eq_true, or_self, if_false]
  rfl

/-- XFER within its endpoints' ranges issues its transfer where fewer than 16 are pending (R187). -/
theorem xfer_issues (hi : Issues s ctx 0x0A cmd) (hbegun : cmd.begun = 0) (hzero : cmd.zeros [0x38, 0x3C] = true)
    (hlen : cmd.f 0x24 30 0 ≠ 0) (hmax : cmd.f 0x24 30 0 ≤ 2 ^ 30) (hsrc : cmd.f 0x28 63 0 % 64 = 0) (hdst : cmd.f 0x30 63 0 % 64 = 0)
    (hown : ownHandle s ctx (cmd.f 0x20 31 0) = true)
    (hrange : xferRangeBad (s.stream (cmd.f 0x20 31 0 % 2 ^ 18)) (cmd.f 0x28 63 0) (cmd.f 0x30 63 0) (64 * cmd.f 0x24 30 0) = false)
    (hroom : (s.stream (cmd.f 0x20 31 0 % 2 ^ 18)).xfers.length < 16) :
    exec (.xfer ctx) s =
      .next (issueXfer (mapCmd (issuedState s ctx cmd) ctx cmd.index fun x => { x with begun := 1 }) (cmd.f 0x20 31 0 % 2 ^ 18)
        { Xfer.idle with owner := cmd.index, len := 64 * cmd.f 0x24 30 0, src := cmd.f 0x28 63 0, dst := cmd.f 0x30 63 0,
                         flush := (s.stream (cmd.f 0x20 31 0 % 2 ^ 18)).flush || cmd.f 0x24 31 31 = 1, tested := true, seq := cmd.seq }) := by
  refine hi.cmdRow_eq (f := xferCmd ctx) ?_
  simp only [xferCmd, issuedCmd_f, issuedCmd_zeros, issuedCmd_begun, issuedCmd_stamped, ownHandle_issuedState, stream_issuedState, hi.stamped_eq,
    hbegun, hzero, hlen, hsrc, hdst, hown, hrange, Nat.not_lt.mpr hmax, Nat.not_le.mpr hroom,
    ne_eq, not_true_eq_false, Bool.not_true, Bool.false_eq_true, or_self, if_false]
  rfl

/-- STREAM_QUERY of a handle that is not another context's writes its record (R179). -/
theorem streamQuery_answers {v : State} (hi : Issues s ctx 0x0C cmd) (hzero : cmd.zeros [0x24, 0x30, 0x34, 0x38, 0x3C] = true)
    (hbits : bits (cmd.f 0x20 31 0) 19 18 = 0)
    (hown : currentHandle s (cmd.f 0x20 31 0) = true → (s.stream (cmd.f 0x20 31 0 % 2 ^ 18)).ctx = ctx)
    (hwrite : cmdWrite (issuedState s ctx cmd) ctx cmd.seq (cmd.f 0x28 63 0) (queryRecord s ctx (cmd.f 0x20 31 0)) = (v, true)) :
    exec (.streamQuery ctx) s = .next (setStage v ctx cmd.index .performed) := by
  refine hi.cmdRow_eq (f := streamQueryCmd ctx) ?_
  have hmine : ¬ (currentHandle s (cmd.f 0x20 31 0) = true ∧ (s.stream (cmd.f 0x20 31 0 % 2 ^ 18)).ctx ≠ ctx) := fun h => h.2 (hown h.1)
  simp only [streamQueryCmd, issuedCmd_f, issuedCmd_zeros, issuedCmd_seq, currentHandle_issuedState, stream_issuedState, queryRecord_issuedState,
    hzero, hbits, hmine, hwrite, Bool.not_true, Bool.false_eq_true, ne_eq, not_true_eq_false, or_self, if_false]
  rfl

end

/-- A freed index is free, and moves to its next generation (R174). -/
theorem stream_freeStream (s : State) (i : Nat) :
    (freeStream s i).stream i = { Stream.idle with gen := if (s.stream i).gen = 4095 then 1 else (s.stream i).gen + 1 } := by
  have h : (freeStream s i).stream i = (s.setStream i _).stream i := rfl
  rw [h, stream_setStream, if_pos rfl]

/-- Settles O26: each command's row does what its command does once it has issued (`Issues.cmdRow_eq`), and a freed index moves on
(`stream_freeStream`). -/
theorem streamCommands : Obligations.StreamCommands := by
  refine ⟨?create, ?destroy, ?xfer, ?query, ?free⟩
  case create =>
    intro s v w x ctx h st cmd bytes segs hi hzero hres hread raw h9 h4 h38
    exact streamCreate_creates hi hzero hres hread ⟨h9, h4, h38⟩
  case destroy => exact fun _ _ _ => streamDestroy_begins
  case xfer => exact fun _ _ _ => xfer_issues
  case query => exact fun _ _ _ _ => streamQuery_answers
  case free =>
    intro s i
    rw [stream_freeStream]
    exact ⟨rfl, rfl⟩

end Sys2Proof.Machine
end

section
/-!
The events of a re-shard (R198, R199) and O29; the end of a transfer that reads back (R191), and O28, which fails.
-/

namespace Sys2Proof.Machine

/-! ## Re-shards (R198, R199) -/

section
variable {s : State} {ctx dev : Nat}

/-- The one re-shard under way is its context's. -/
theorem find_only_reshard {r : Reshard} (hone : s.str.reshards = [r]) (hctx : r.ctx = ctx) :
    s.str.reshards.find? (·.ctx = ctx) = some r := by simp [hone, hctx]

/-- Without a re-shard of the context there is nothing to go on with. -/
theorem shardGo_of_none (h : ∀ r ∈ s.str.reshards, r.ctx ≠ ctx) : shardGo s ctx = s := by
  have hfind : s.str.reshards.find? (·.ctx = ctx) = none := List.find?_eq_none.mpr fun r hr => by simpa using h r hr
  simp only [shardGo, hfind]

theorem reshardReady_noted (hc : ctx < 64) (h : ∃ r ∈ s.str.reshards, r.ctx = ctx ∧ r.begun = true) :
    exec (.reshardReadyReceive ctx dev) s =
      .next (shardGo (mapShard s ctx fun r => { r with ready := r.ready ++ [dev % 2 ^ 20] }) ctx) := by
  have hany : (s.str.reshards.any fun r => r.ctx = ctx && r.begun) = true := by simpa using h
  exact (run_ok (decide_eq_true hc) _).trans (congrArg _ (if_pos hany))

theorem reshardReady_kept (hc : ctx < 64) (h : ∀ r ∈ s.str.reshards, r.ctx ≠ ctx) :
    exec (.reshardReadyReceive ctx dev) s = .next { s with str := { s.str with early := s.str.early ++ [(ctx, dev % 2 ^ 20)] } } := by
  have hany : ¬ (s.str.reshards.any fun r => r.ctx = ctx && r.begun) = true := by simpa using fun r hr hx => absurd hx (h r hr)
  exact (run_ok (decide_eq_true hc) _).trans (congrArg _ ((if_neg hany).trans (shardGo_of_none h)))

theorem reshardPiece_acked {r : Reshard} {p : Piece} {l : List Piece} (hc : ctx < 64) (hone : s.str.reshards = [r]) (hctx : r.ctx = ctx)
    (hbegun : r.begun = true) (hpieces : r.pieces = p :: l) (hdev : p.dev = dev) (hsent : p.sent = true) (hacked : p.acked = false) :
    exec (.reshardPieceReceive ctx (.ack dev)) s =
      .next (shardGo (mapShard (count64 s 0 (rseReg p.floor Reg.RSE_SENT_LO) ((p.runs.map (·.len)).foldl (· + ·) 0)) ctx fun r =>
        { r with pieces := r.pieces.zipIdx.map fun y => if y.2 = 0 then { y.1 with acked := true } else y.1 }) ctx) := by
  have hfind : (s.str.reshards.find? fun r => r.ctx = ctx && r.begun) = some r := by simp [hone, hctx, hbegun]
  have hfirst : (r.pieces.zipIdx.find? fun p => p.1.dev = dev && p.1.sent && !p.1.acked) = some (p, 0) := by
    simp [hpieces, hdev, hsent, hacked]
  refine (run_ok (decide_eq_true hc) _).trans (congrArg _ ?_)
  simp only [hfind, hfirst]

theorem reshardTimeout_ends {r : Reshard} {d : Nat} (hc : ctx < 64) (hone : s.str.reshards = [r]) (hctx : r.ctx = ctx)
    (hdead : r.deadline = some d) (hover : d ≤ s.cic.count) : exec (.reshardTimeout ctx) s = .next (endShard s r RsSt.TIMEOUT) := by
  refine (run_ok (decide_eq_true hc) _).trans (congrArg _ ?_)
  simp only [find_only_reshard hone hctx, hdead, if_pos hover]

end

/-- Settles O29: a ready message is noted or kept, an acknowledgement counts for the first piece that waits for it, and a re-shard whose
time is over ends. -/
theorem reshardEvents : Obligations.ReshardEvents := by
  refine ⟨?noted, ?kept, ?acked, ?timeout⟩
  case noted => exact fun _ _ _ => reshardReady_noted
  case kept => exact fun _ _ _ => reshardReady_kept
  case acked => exact fun _ _ _ _ _ _ => reshardPiece_acked
  case timeout => exact fun _ _ _ _ => reshardTimeout_ends

/-! ## Ends of transfers (R191) -/

/-- A transfer to the host that is done and is to be flushed; `ports` carried it. -/
def flushedXfer (ports : Nat) : Xfer := { Xfer.idle with flush := true, ports := ports }

/-- Stream 0 to host memory with two transfers of one id: port 0 carried the first, both ports the second. -/
def sameIds : State :=
  State.reset.setStream 0 { Stream.idle with snk := { Stream.idle.snk with kind := Kind.HOST }, xfers := [flushedXfer 1, flushedXfer 3] }

/-- TRANSFER_END counts the read-backs of the first transfer, and sets that number in each transfer of its id. -/
theorem readbacks_sameIds : ((transferEnd sameIds 0).stream 0).xfers.map (·.readbacks) = [1, 1] := by decide +kernel

/-- Refutes O28: the statement gives each transfer of the id a read-back for each of its own ports, where `transferEnd` gives all of them
as many as the first has; in `sameIds`, whose two transfers share an id, the second would have 2, and has 1. No hypothesis of the
statement says that ids differ, as `issueXfer` makes them. -/
theorem not_transfersEnd : ¬ Obligations.TransfersEnd := by
  intro h
  obtain ⟨_, hflush, _⟩ := h
  obtain ⟨u, hu, hstream, _⟩ :=
    hflush sameIds 0 (flushedXfer 1) [flushedXfer 3] (by decide) (by decide +kernel) rfl rfl rfl (by decide +kernel)
  have hexec : exec (.transferEnd 0) sameIds = .next (transferEnd sameIds 0) := rfl
  obtain rfl : transferEnd sameIds 0 = u := Host.Outcome.next.inj (hexec.symm.trans hu)
  have hown : ((sameIds.stream 0).mapXfer (flushedXfer 1).id fun t => { t with flush := false, readbacks := (portsOf t.ports).length }).xfers.map
      (·.readbacks) = [1, 2] := by decide +kernel
  have hboth := readbacks_sameIds
  rw [hstream, hown] at hboth
  exact absurd hboth (by decide)

end Sys2Proof.Machine
end

section
/-!
What lies below the stream engines leaves them as they are (R173-R201): memory and its coherence, translation, the mirror's copies, the
cells and their faults change no stream, packet or re-shard. One lemma for each operation, in the order of the model's files.
-/

namespace Sys2Proof.Machine

/-! ## States chosen and folded -/

@[simp] theorem str_ite (c : Prop) [Decidable c] (s t : State) : (if c then s else t).str = if c then s.str else t.str :=
  apply_ite State.str c s t

/-- What each step of a fold keeps, the fold keeps. -/
theorem str_foldl_of {α β : Type} (g : β → State) (f : β → α → β) (h : ∀ b x, (g (f b x)).str = (g b).str) (l : List α) (b : β) :
    (g (l.foldl f b)).str = (g b).str := by
  induction l generalizing b with
  | nil => rfl
  | cons x t ih => exact (ih (f b x)).trans (h b x)

@[simp] theorem str_foldl {α : Type} (f : State → α → State) (h : ∀ s x, (f s x).str = s.str) (l : List α) (s : State) :
    (l.foldl f s).str = s.str := str_foldl_of id f h l s

theorem RegsOnly.str_eq {s t : State} (h : RegsOnly s t) : t.str = s.str := by rw [h]

theorem CellsOnly.str_eq {s t : State} (h : CellsOnly s t) : t.str = s.str := by rw [h]

/-! ## Registers, vectors and counters -/

@[simp] theorem raiseCtxVector_str (s : State) (ctx v : Nat) : (raiseCtxVector s ctx v).str = s.str := (rfl)
@[simp] theorem raiseInt_str (s : State) (base i : Nat) : (raiseInt s base i).str = s.str := (regsOnly_raiseInt s base i).str_eq
@[simp] theorem countFld_str (s : State) (i a hi lo n : Nat) : (countFld s i a hi lo n).str = s.str := (regsOnly_countFld s i a hi lo n).str_eq
@[simp] theorem count_str (s : State) (a n : Nat) : (count s a n).str = s.str := (regsOnly_count s a n).str_eq
@[simp] theorem count64_str (s : State) (i a n : Nat) : (count64 s i a n).str = s.str := (regsOnly_count64 s i a n).str_eq
@[simp] theorem toHost_str (s : State) (p a : Nat) (data : List Byte) (relaxed : Bool) : (toHost s p a data relaxed).str = s.str := by
  simp [toHost]

/-! ## Error records short of a fatal one (R484, R485) -/

@[simp] theorem dropPocket_str (s : State) (line : Nat) : (dropPocket s line).str = s.str := (rfl)
@[simp] theorem dropCopies_str (s : State) (line : Nat) : (dropCopies s line).str = s.str := (rfl)
@[simp] theorem loseReservations_str (s : State) (a : Nat) : (loseReservations s a).str = s.str := (rfl)

@[simp] theorem ringStore_str (s : State) (slot : Nat) (data : List Byte) : (ringStore s slot data).str = s.str := by
  simp only [ringStore]
  split <;> simp

@[simp] theorem ringWrite_str (s : State) (r : ErrRec) : (ringWrite s r).str = s.str := by simp [ringWrite]
@[simp] theorem holdRecord_str (s : State) (r : ErrRec) : (holdRecord s r).str = s.str := (rfl)
@[simp] theorem noteRecord_str (s : State) (e : ErrEvent) (r : ErrRec) : (noteRecord s e r).str = s.str := (rfl)
@[simp] theorem deliverCorrected_str (s : State) : (deliverCorrected s).str = s.str := by simp [deliverCorrected]
@[simp] theorem deliverDeferred_str (s : State) : (deliverDeferred s).str = s.str := by simp [deliverDeferred]
@[simp] theorem deliverContained_str (s : State) (e : ErrEvent) (r : ErrRec) : (deliverContained s e r).str = s.str := by
  simp [deliverContained]

/-- Only a fatal record stops the stream engines (R488). -/
theorem deliver_str {s : State} {e : ErrEvent} (h : e.sev < 3) (n : Nat) : (deliver s e n).str = s.str := by
  have hsev : e.sev = 0 ∨ e.sev = 1 ∨ e.sev = 2 := by omega
  rcases hsev with h | h | h <;> simp [deliver, h]

theorem deliverWindow_str (s : State) (w : CoalWin) : (deliverWindow s w).str = s.str := by
  simp [deliverWindow, deliver_str]

theorem openCoalWin_str {s : State} {e : ErrEvent} (h : e.sev < 3) : (openCoalWin s e).str = s.str := deliver_str h 1

@[simp] theorem raiseError_str {s : State} {e : ErrEvent} (h : e.sev < 3) : (raiseError s e).str = s.str := by
  simp only [raiseError]
  split
  · exact deliver_str h 1
  · split
    · exact openCoalWin_str h
    · split
      · rfl
      · exact (openCoalWin_str h).trans (deliverWindow_str _ _)

/-! ## Memory, the floor cache and the pocket (R207-R209, R226-R233) -/

@[simp] theorem hbmWriteWord_str (s : State) (w a : Nat) (data : List Byte) : (hbmWriteWord s w a data).str = s.str := by
  simp only [hbmWriteWord]
  split <;> simp

@[simp] theorem hbmWrite_str (s : State) (a : Nat) (data : List Byte) : (hbmWrite s a data).str = s.str := by simp [hbmWrite]
@[simp] theorem hbmMasked_str (s : State) (line mask : Nat) (data : List Byte) : (hbmMasked s line mask data).str = s.str := by
  simp [hbmMasked]
@[simp] theorem poisonWord_str (s : State) (a : Nat) : (poisonWord s a).str = s.str := by simp [poisonWord]
@[simp] theorem setFlc_str (s : State) (k : Nat) (b : Option FlcBlock) : (setFlc s k b).str = s.str := (rfl)

@[simp] theorem flcFill_str (s : State) (line : Nat) : (flcFill s line).str = s.str := by
  simp only [flcFill]
  (repeat' split) <;> simp

@[simp] theorem prefetchLine_str (s : State) (part : Option Nat) (line : Nat) : (prefetchLine s part line).str = s.str := by
  simp [prefetchLine]
@[simp] theorem noKeyRead_str (s : State) (line : Nat) : (noKeyRead s line).str = s.str := by simp [noKeyRead]
@[simp] theorem memRead_str (s : State) (line : Nat) (alloc next : Bool) (part : Option Nat) : (memRead s line alloc next part).str = s.str := by
  simp [memRead]

/-! ## Lines, messages and mirror copies (R238, R239, R345, R379) -/

@[simp] theorem setLine_str (s : State) (agent line : Nat) (l : AgentLine) : (setLine s agent line l).str = s.str := (rfl)
@[simp] theorem setDir_str (s : State) (line : Nat) (e : DirEntry) : (setDir s line e).str = s.str := (rfl)
@[simp] theorem snoopHost_str (s : State) (line : Nat) : (snoopHost s line).str = s.str := by simp [snoopHost]
@[simp] theorem loseClusterResv_str (s : State) (agent line : Nat) : (loseClusterResv s agent line).str = s.str := by
  simp [loseClusterResv]
@[simp] theorem enqueue_str (s : State) (l : Nat) (m : LinkMsg) : (enqueue s l m).str = s.str := (rfl)
@[simp] theorem mirSend_str (s : State) (l kind lane units offset : Nat) (data : List Byte) (poison extra : List Nat) :
    (mirSend s l kind lane units offset data poison extra).str = s.str := by simp [mirSend]
@[simp] theorem putCopy_str (s : State) (c : MirCopy) : (putCopy s c).str = s.str := by simp [putCopy]
@[simp] theorem sendCopy_str (s : State) (g : Nat) : (sendCopy s g).str = s.str := by simp [sendCopy, noteCopy]
@[simp] theorem mirrorCopySend_str (s : State) (a n : Nat) : (mirrorCopySend s a n).str = s.str := by simp [mirrorCopySend]

@[simp] theorem writeThrough_str (s : State) (line mask : Nat) (data : List Byte) (poison : List Nat) :
    (writeThrough s line mask data poison).str = s.str := by
  simp only [writeThrough]
  (repeat' split) <;> simp

/-! ## Transactions at the home (R240-R249, R252) -/

@[simp] theorem setTxn_str (s : State) (line : Nat) (t : Option Txn) : (setTxn s line t).str = s.str := (rfl)

@[simp] theorem takeSnoop_str (s : State) (line agent : Nat) (k : Snp) : (takeSnoop s line agent k).str = s.str := by
  simp only [takeSnoop]
  split <;> simp

@[simp] theorem takeAnswer_str (s : State) (line agent : Nat) : (takeAnswer s line agent).str = s.str := by
  simp only [takeAnswer]
  (repeat' split) <;> simp

@[simp] theorem sendOffer_str (s : State) (target line : Nat) : (sendOffer s target line).str = s.str := by simp [sendOffer]

@[simp] theorem grantTxn_str (s : State) (line : Nat) (t : Txn) : (grantTxn s line t).str = s.str := by
  simp only [grantTxn]
  (repeat' split) <;> simp

@[simp] theorem readTxn_str (s : State) (line : Nat) (t : Txn) : (readTxn s line t).str = s.str := by
  simp only [readTxn]
  split <;> simp

@[simp] theorem writeTxn_str (s : State) (line : Nat) (t : Txn) : (writeTxn s line t).str = s.str := by
  simp only [writeTxn]
  split <;> simp

@[simp] theorem endTxn_str (s : State) (line : Nat) (t : Txn) : (endTxn s line t).str = s.str := by
  simp only [endTxn]
  (repeat' split) <;> simp

@[simp] theorem failTxn_str (s : State) (line : Nat) (t : Txn) : (failTxn s line t).str = s.str := by simp [failTxn]

@[simp] theorem askHost_str (s : State) (line : Nat) (t : Txn) : (askHost s line t).str = s.str := by
  simp only [askHost]
  split <;> simp

@[simp] theorem finishTxn_str (s : State) (line : Nat) (t : Txn) : (finishTxn s line t).str = s.str := by simp [finishTxn]
@[simp] theorem openTxn_str (s : State) (r : HomeReq) : (openTxn s r).str = s.str := by simp [openTxn]
@[simp] theorem takeWb_str (s : State) (r : HomeReq) : (takeWb s r).str = s.str := by simp [takeWb]
@[simp] theorem waitReq_str (s : State) (r : HomeReq) : (waitReq s r).str = s.str := (rfl)

@[simp] theorem evictEntry_str (s : State) (line : Nat) : (evictEntry s line).str = s.str := by
  simp only [evictEntry]
  (repeat' split) <;> simp

@[simp] theorem homeTake_str (s : State) (r : HomeReq) : (homeTake s r).str = s.str := by simp [homeTake]
@[simp] theorem placeOffer_str (s : State) (agent line : Nat) : (placeOffer s agent line).str = s.str := by simp [placeOffer]

@[simp] theorem homeStep_str (s : State) : (homeStep s).str = s.str := by
  simp only [homeStep]
  rw [str_foldl _ (by simp), str_foldl _ (by simp)]
  refine str_foldl _ (fun s l => ?_) _ s
  split <;> simp

@[simp] theorem homeSteps_str (n : Nat) (s : State) : (homeSteps n s).str = s.str := by
  induction n generalizing s with
  | zero => rfl
  | succ n ih => simp [homeSteps, ih]

@[simp] theorem homeRun_str (s : State) : (homeRun s).str = s.str := by simp [homeRun]

@[simp] theorem answerAll_str (s : State) : (answerAll s).str = s.str := by
  simp only [answerAll, homeRun_str]
  refine str_foldl _ (fun s l => ?_) _ s
  split <;> simp

@[simp] theorem settle_str (s : State) (lines : List Nat) : (settle s lines).str = s.str := by simp [settle]

/-! ## Writes in one step (R242-R244) -/

@[simp] theorem invalidateLine_str (s : State) (line : Nat) : (invalidateLine s line).str = s.str := by
  simp only [invalidateLine]
  split <;> simp

@[simp] theorem devWriteNow_str (s : State) (a : Nat) (data : List Byte) : (devWriteNow s a data).str = s.str := by simp [devWriteNow]
@[simp] theorem devWrite_str (s : State) (by_ : Writer) (a : Nat) (data : List Byte) : (devWrite s by_ a data).str = s.str := by
  simp [devWrite]

/-! ## Translation (R277-R286) -/

@[simp] theorem keepXlt_str (s : State) (unit : Nat) (t : TlbEntry) : (keepXlt s unit t).str = s.str := (rfl)
@[simp] theorem useXlt_str (s : State) (unit : Nat) (lookup : Bool) (t : TlbEntry) : (useXlt s unit lookup t).str = s.str := by
  simp [useXlt, setTlb]

@[simp] theorem useHost_str (s : State) (unit ctx : Nat) (write lookup : Bool) (pages : List (Nat × Nat)) :
    (useHost s unit ctx write lookup pages).str = s.str := by
  refine str_foldl _ (fun s p => ?_) _ s
  cases heldHost s unit ctx p.1 write <;> simp

@[simp] theorem usePages_str (s : State) (unit ctx : Nat) (write : Bool) (pages : List (Nat × Nat)) :
    (usePages s unit ctx write pages).str = s.str := by
  refine str_foldl _ (fun s p => ?_) _ s
  dsimp only
  split <;> simp

@[simp] theorem beginWalk_str (s : State) (req : Requester) (va base bytes : Nat) (write prefetch : Bool) :
    (beginWalk s req va base bytes write prefetch).str = s.str := (rfl)

@[simp] theorem sendAts_str (s : State) (w : AtsWait) : (sendAts s w).str = s.str := by
  simp only [sendAts]
  split <;> simp [setAts]

@[simp] theorem askXlt_str (s : State) (req : Requester) (addr : Nat) (write : Bool) : (askXlt s req addr write).str = s.str := by
  simp only [askXlt]
  split <;> simp [setAts]

@[simp] theorem tile_str (s : State) (req : Requester) (va n : Nat) (write : Bool) : (tile s req va n write).1.str = s.str := by
  simp only [tile]
  (repeat' split) <;> simp

@[simp] theorem tileAll_str (s : State) (req : Requester) (write : Bool) (l : List (Nat × Nat)) : (tileAll s req write l).1.str = s.str := by
  induction l generalizing s with
  | nil => rfl
  | cons p l ih =>
    have h := tile_str s req p.1 p.2 write
    simp only [tileAll]
    grind

@[simp] theorem segWrite_str (s : State) (ctx kind : Nat) (l : List Seg) (data : List Byte) : (segWrite s ctx kind l data).str = s.str := by
  induction l generalizing s data with
  | nil => rfl
  | cons g l ih =>
    simp only [segWrite, ih]
    split
    · simp
    · split <;> simp

@[simp] theorem noteCopies_str (s : State) (ctx first : Nat) : (noteCopies s ctx first).str = s.str := by simp [noteCopies]
@[simp] theorem ctxWrite_str (s : State) (ctx : Nat) (segs : List Seg) (data : List Byte) : (ctxWrite s ctx segs data).str = s.str := by
  simp [ctxWrite]

@[simp] theorem poisonSegs_str (s : State) (poison : List Nat) (k : Nat) (l : List Seg) : (poisonSegs s poison k l).str = s.str := by
  induction l generalizing s k with
  | nil => rfl
  | cons g l ih => simp [poisonSegs, ih]

@[simp] theorem vaWrite_str (s : State) (req : Requester) (va : Nat) (data : List Byte) (poison : List Nat) :
    (vaWrite s req va data poison).1.str = s.str := by grind [vaWrite, tile_str, poisonSegs_str, segWrite_str]

/-! ## Commands, cells and their counters (R50, R53, R54, R64) -/

@[simp] theorem consumedWrite_str (s : State) (ctx seq va count : Nat) : (consumedWrite s ctx seq va count).str = s.str := by
  grind [consumedWrite, tileAll_str, ctxWrite_str, setCtx_str]

@[simp] theorem haltQueue_str (s : State) (ctx index code : Nat) : (haltQueue s ctx index code).str = s.str := by simp [haltQueue]
@[simp] theorem setStage_str (s : State) (ctx index : Nat) (st : CmdStage) : (setStage s ctx index st).str = s.str := (rfl)
@[simp] theorem setImg_str (s : State) (cell ctx : Nat) (i : CellImg) : (setImg s cell ctx i).str = s.str := (cellsOnly_setImg s cell ctx i).str_eq

@[simp] theorem settleCmd_str (s : State) (ctx index : Nat) : (settleCmd s ctx index).str = s.str := by
  simp only [settleCmd]
  split <;> simp

@[simp] theorem noteHalt_str (s : State) (ctx cell : Nat) (by_ : Option (Nat × Nat)) (faulted : Bool) :
    (noteHalt s ctx cell by_ faulted).str = s.str := by simp [noteHalt]

@[simp] theorem programHalted_str (s : State) (p ctx : Nat) : (programHalted s p ctx).str = s.str := by simp [programHalted]

@[simp] theorem haltIfDone_str (s : State) (cell ctx : Nat) : (haltIfDone s cell ctx).str = s.str := by
  simp only [haltIfDone]
  split <;> simp

@[simp] theorem cellFaultOf_str (s : State) (cell ctx code track desc : Nat) : (cellFaultOf s cell ctx code track desc).str = s.str := by
  simp only [cellFaultOf]
  split <;> simp

@[simp] theorem bumpCounter_str (s : State) (cell ctx k n : Nat) : (bumpCounter s cell ctx k n).str = s.str := by
  simp only [bumpCounter, markCtrs]
  split <;> simp

@[simp] theorem opPart_str (s : State) (cell ctx op : Nat) : (opPart s cell ctx op).str = s.str := (cellsOnly_mapOp s cell ctx op _).str_eq

end Sys2Proof.Machine
end

section
/-!
Packets (R182-R185, R193, R194): what an engine sends, what a packet's arrival, acknowledgement and refusal do, and O27.
-/

namespace Sys2Proof.Machine

/-! ## Sending (R185) -/

/-- A packet of a transfer between windows of memory, of `n` bytes, put on the network: `src` and `snk` are its ranges as translated, in the
state `s` that their translation leaves. -/
def memoryPacket (s : State) (i ctx n : Nat) (t : Xfer) (src snk : List Seg) : State :=
  let r := readSegs s ctx src
  launch (r.1.setStream i ((r.1.stream i).mapXfer t.id fun t => { t with sent := t.sent + n })) i (some t.id) (t.dst + t.sent) (some snk)
    r.2 (segPoisonWords s 0 src) (decide (t.sent + n = t.len)) 0 none

section
variable {s v u : State} {i n : Nat} {t : Xfer} {src snk : List Seg}

theorem sendRange_memory (hsrc : (s.stream i).src.kind = Kind.MEMORY) (hsnk : (s.stream i).snk.kind = Kind.MEMORY)
    (htile : tile s (xferReq s i t) ((s.stream i).src.base + t.src + t.sent) n false = (v, some src))
    (hsink : sinkTile v (xferReq s i t) i (t.dst + t.sent) n = (u, some snk)) :
    sendRange s i t n = (memoryPacket u i (s.stream i).ctx n t src snk, true) := by
  have hhost : ¬ (s.stream i).src.kind = Kind.HOST := by rw [hsrc]; decide
  have haddr : addressable (s.stream i) = true := by
    rw [addressable, hsnk]
    rfl
  simp only [sendRange, if_neg hhost, htile, hsink, haddr, if_true]
  rfl

/-- A sink in memory grants its credits as it accepts (R182). -/
theorem needsCredits_memory {x : Stream} (h : x.snk.kind = Kind.MEMORY) : needsCredits x = false := by
  rw [needsCredits, h]
  rfl

/-- A sink in memory holds no packet for a cell that is being spilled (R71). -/
theorem holdFull_memory {x : Stream} (h : x.snk.kind = Kind.MEMORY) : holdFull s x n = false := by
  rw [holdFull, h]
  rfl

/-- A transfer without a stamp to a window of memory, which needs no credits, is served as far as its ranges allow; what follows is looked
ahead for (R285). -/
theorem sendXfer_memory (hload : dieLoaded s (2 + (s.stream i).home) = true) (hsnk : (s.stream i).snk.kind = Kind.MEMORY)
    (hstamp : t.stamp = none) (hleft : t.sent < t.len) :
    sendXfer s i t = (lookAhead (sendRange s i t (min 4096 (t.len - t.sent))).1 i, (sendRange s i t (min 4096 (t.len - t.sent))).2) := by
  have hn : min 4096 (t.len - t.sent) ≠ 0 := by omega
  simp only [sendXfer, packetBytes, hstamp, hload, hn, holdFull_memory hsnk, needsCredits_memory hsnk, Option.map_none, Option.getD_none,
    Bool.not_true, Bool.false_eq_true, false_and, or_self, if_false]

theorem sendOne_xfer {l : List Xfer} (hlive : (s.stream i).st = .live) (hsrc : (s.stream i).src.kind = Kind.MEMORY)
    (hsnk : (s.stream i).snk.kind = Kind.MEMORY) (hx : (s.stream i).xfers = t :: l) : sendOne s i = sendXfer s i t := by
  have hremote : ¬ (s.stream i).snk.kind = Kind.REMOTE := by rw [hsnk]; decide
  have hwindow : ¬ ((s.stream i).src.kind = Kind.CELL ∨ (s.stream i).src.kind = Kind.CORE) := by rw [hsrc]; decide
  have hgo : ¬ ((s.stream i).st ≠ .live ∨ ((s.stream i).snk.kind = Kind.REMOTE ∧ s.lnk.partState ≠ 0)) :=
    fun h => h.elim (fun hst => hst hlive) (fun hr => hremote hr.1)
  simp only [sendOne, if_neg hgo, if_neg hwindow, hx]

end

/-- The floor's only stream that is live is the whole of its rotation (R185). -/
theorem streamPacketSend_only {s w : State} {i floor : Nat} (hf : floor < 4) (hwarm : s.boot.warmBusy = false) (hfatal : s.boot.fatal = false)
    (hoff : s.offline (2 + floor) = false) (hkeys : tkeys s.str.streams = [i]) (hlive : (s.stream i).st = .live)
    (hhome : (s.stream i).home = floor) (hsend : sendOne s i = (w, true)) :
    exec (.streamPacketSend floor) s = .next { w with str := { w.str with lastServed := w.str.lastServed.set floor i } } := by
  have hmine : (tkeys s.str.streams).filter (fun i => (s.stream i).st = .live && (s.stream i).home == floor) = [i] := by
    simp [hkeys, hlive, hhome]
  have hturn (last : Nat) : [i].filter (last < ·) ++ [i].filter (· ≤ last) = [i] := by
    by_cases h : last < i
    · simp [h]
    · simp [h, Nat.not_lt.mp h]
  have hgo : ¬ (s.boot.warmBusy = true ∨ s.boot.fatal = true ∨ s.offline (2 + floor) = true) := by simp [hwarm, hfatal, hoff]
  refine (run_ok (decide_eq_true hf) _).trans (congrArg _ ((if_neg hgo).trans ?_))
  rw [hmine, hturn, sendFirst, hsend]

/-! ## Arrival (R184, R193) -/

section
variable {s v : State} {p : Packet} {l : List Packet}

theorem find_packet (hp : s.str.packets = p :: l) : s.str.packets.find? (·.id = p.id) = some p := by simp [hp]

/-- The first packet of its stream, on its way, is placed at its local sink (R184). -/
theorem packetReceive_placed (hp : s.str.packets = p :: l) (hfate : p.fate = 0) (hkind : (s.stream p.index).snk.kind ≠ Kind.REMOTE)
    (hplace : placeData s p.index p.xfer p.dst p.segs p.data p.poison = (v, .done)) :
    exec (.packetReceive (.here p.id)) s = .next (setCopies (setFate v p.id 1) p.id (copiesFrom v s.mir.nextCopy)) := by
  have hfirst : (s.str.packets.find? fun q => q.index = p.index && q.onWay).map (·.id) = some p.id := by
    simp [hp, Packet.onWay, hfate]
  refine congrArg Host.Outcome.next ?_
  simp [receiveHere, find_packet hp, hfate, hfirst, hkind, hplace]

/-- A message that names a free index is stale: its floor's engine counts it and answers with a NACK (R193). -/
theorem packetReceive_stale {dev sender handle dst : Nat} {data : List Byte} {poison : List Nat} {first last : Bool} (hdev : dev < 2 ^ 20)
    (hcur : currentHandle s handle = false) (hfree : (s.stream (handle % 2 ^ 18)).st = .free) :
    exec (.packetReceive (.remote dev sender handle dst data poison first last)) s =
      .next (sendMsg (countStale s (handle % 2 ^ 18 % 4) handle dev) 3 7 (s.stream (handle % 2 ^ 18)).home dev
        (s.stream (handle % 2 ^ 18)).order sender 0 [] []).1 := by
  refine congrArg Host.Outcome.next ?_
  rw [Nat.mod_eq_of_lt hdev, receiveRemote]
  simp only [hcur, hfree, Bool.false_eq_true, false_and, if_false, if_true]

/-! ## Acknowledgement and refusal (R182, R183, R194) -/

theorem packetAck_acknowledges (hp : s.str.packets = p :: l) (hfate : p.fate = 1) (hcopies : copiesOpen s p.copies = false) :
    exec (.packetAckReceive p.id) s = .next (finishDestroy (ackPacket s p) p.index) := by
  refine congrArg Host.Outcome.next ?_
  simp [find_packet hp, hfate, hcopies]

theorem staleNack_kills (hp : s.str.packets = p :: l) (hfate : p.fate = 2) (hst : (s.stream p.index).st ≠ .destroying)
    (hcred : needsCredits (s.stream p.index) = false) :
    exec (.staleNackReceive p.id) s =
      .next (finishDestroy (killHands p.ends (count { s with str := { s.str with packets := s.str.packets.filter (·.id != p.id) } }
        (steReg (s.stream p.index).home Reg.STE_NACK_RX) 1) p.index) p.index) := by
  refine congrArg Host.Outcome.next ?_
  simp only [find_packet hp, hfate, hcred, if_neg hst, true_or, if_true, Bool.false_eq_true, if_false]

end

/-! What is off the network stays off it: the hand-overs that an acknowledgement returns change no packet. -/

@[simp] theorem setStream_packets (s : State) (i : Nat) (x : Stream) : (s.setStream i x).str.packets = s.str.packets := rfl

theorem packets_ite (c : Prop) [Decidable c] (x y : StreamSys) : (if c then x else y).packets = if c then x.packets else y.packets :=
  apply_ite StreamSys.packets c x y

@[simp] theorem writeCounts_packets (s : State) (i : Nat) : (writeCounts s i).str.packets = s.str.packets := by
  grind [writeCounts, vaWrite_str, setStream_packets]

@[simp] theorem returnHand_packets (s : State) (i : Nat) (h : Hand) : (returnHand s i h).str.packets = s.str.packets := by
  simp only [returnHand]
  (repeat' split) <;> simp

@[simp] theorem returnHands_packets (s : State) (i : Nat) (free : Bool) (l : List Hand) :
    (returnHands s i free l).str.packets = s.str.packets := by
  induction l generalizing s free with
  | nil => rfl
  | cons h l ih => simp [returnHands, packets_ite, ih]

/-- An acknowledgement takes its packet off the network, and no other. -/
theorem ackPacket_packets (s : State) (p : Packet) : (ackPacket s p).str.packets = s.str.packets.filter (·.id != p.id) := by
  simp only [ackPacket]
  split <;> simp

/-! ## O27 -/

/-- Settles O27: an engine with one live stream between windows of memory sends its next packet (`streamPacketSend_only`,
`sendRange_memory`); a packet that arrives is placed, or is stale; an acknowledgement and a refusal end its flight. -/
theorem packetsAreSentPlacedAndAcknowledged : Obligations.PacketsAreSentPlacedAndAcknowledged := by
  refine ⟨?sent, ?placed, ?stale, ?acked, ?refused⟩
  case sent =>
    intro s v u i floor t l segs snk hf hwarm hfatal hoff hload hkeys hlive hhome hsrc hsnk hx hstamp hleft n htile hsink r sent w
    refine streamPacketSend_only hf hwarm hfatal hoff hkeys hlive hhome ?_
    rw [sendOne_xfer hlive hsrc hsnk hx, sendXfer_memory (hhome ▸ hload) hsnk hstamp hleft, sendRange_memory hsrc hsnk htile hsink]
    simp only [memoryPacket, w, sent, r, n]
  case placed => exact fun _ _ _ _ => packetReceive_placed
  case stale => exact fun _ _ _ _ _ _ _ _ _ => packetReceive_stale
  case acked =>
    intro s p l hp hfate hcopies
    refine ⟨packetAck_acknowledges hp hfate hcopies, fun q hq => ?_⟩
    rw [ackPacket_packets, List.mem_filter] at hq
    simpa using hq.2
  case refused => exact fun _ _ _ => staleNack_kills

end Sys2Proof.Machine
end
